-- ==== Sys2Proof/Word.lean ====
section
/-! DEFINITION. The word types of the FW-12: bytes, the 32-bit registers of a lane, the 64-bit scalar
registers, addresses and lane masks. -/
namespace Sys2Proof

/-- A byte of memory. -/
abbrev Byte := BitVec 8
/-- A lane's vector register (R122). -/
abbrev W32 := BitVec 32
/-- A scalar register, an address or an instruction word (R4, R51). -/
abbrev W64 := BitVec 64
/-- A lane mask; bit i is lane i (R4, R20). -/
abbrev Mask := BitVec 64
/-- The number of a vector register (R61). -/
abbrev VReg := BitVec 8
/-- The number of a scalar register (R61). -/
abbrev SReg := BitVec 6
/-- The number of a mask register (R61). -/
abbrev MReg := BitVec 4

end Sys2Proof
end

