-- ==== Sys2Proof/Syntax.lean ====
section
/-! DEFINITION. The syntax: one constructor of `Instr` for each row of spec/opcode_table.json. Rows 0 to 202
are instruction words; the rest are the table's events, whose operands say what the outside agent did or which
of the choices the spec leaves open was taken. -/
namespace Sys2Proof

/-- The integer table of TY (R63). -/
inductive IntTy
  | i8 | i16 | i32 | i64 | n8 | n16 | n32 | n64 | b8 | b16 | b32 | b64 | b128
  deriving DecidableEq, Repr

/-- The floating table of TY (R63). -/
inductive FpTy
  | f16 | bf16 | f32 | f64 | e4m3 | e5m2 | e2m3 | e3m2 | e2m1 | e8m0
  deriving DecidableEq, Repr

/-- TYA and TYB of MX: the floating table, and code 10 for INT8 or INT32 (R63, R237). -/
inductive MatTy
  | fp (t : FpTy) | int
  deriving DecidableEq, Repr

/-- The source type of `vfcvt` (R141). -/
inductive CvtSrc
  | fp (t : FpTy) | int (t : IntTy)
  deriving DecidableEq, Repr

/-- The rounding modes (R62, R89). -/
inductive RoundMode
  | rne | rtz | rup | rdn | rna
  deriving DecidableEq, Repr

/-- SCOPE of MEM and TY of the fences (R64, R227). -/
inductive Scope
  | weak | grp | team | die | pkg | sys
  deriving DecidableEq, Repr

/-- ORD of MEM (R64). -/
inductive MemOrd
  | plain | acq | rel | acqrel
  deriving DecidableEq, Repr

/-- SIZE of MEM (R64). -/
inductive MemSize
  | b8 | b16 | b32 | b64 | b128
  deriving DecidableEq, Repr

/-- CND of `scmp` and CC of `vcmp` (R101, R133). -/
inductive Cnd
  | eq | ne | lt | le | gt | ge
  deriving DecidableEq, Repr

/-- CND of `vfcmp` (R140). -/
inductive FCnd
  | eq | ne | lt | le | gt | ge | un | ord
  deriving DecidableEq, Repr

/-- CC of `br`, with the register the condition reads (R106). -/
inductive BrCond
  | always | z (sa : SReg) | nz (sa : SReg) | lt (sa : SReg) | ge (sa : SReg)
  | any (ma : MReg) | all (ma : MReg) | none (ma : MReg)
  deriving DecidableEq, Repr

/-- AOP of `atom` and `satom` (R220). -/
inductive AtomOp
  | exch | add | and | or | xor | smin | smax | umin | umax
  deriving DecidableEq, Repr

/-- The operation of `vscan` and `vred` (R152). -/
inductive ScanOp
  | add | min | max | and | or | xor
  deriving DecidableEq, Repr

/-- LA, HOLDB, HOLDA, PRED and PNEG of a word (R56). -/
structure Head where
  la   : BitVec 4
  hb   : Bool
  ha   : Bool
  pred : MReg
  neg  : Bool
  deriving DecidableEq, Repr

/-- The body of a MEM-format word (R61, R64). -/
structure MemArg where
  data  : BitVec 8
  base  : SReg
  index : BitVec 8
  size  : MemSize
  scope : Scope
  ord   : MemOrd
  ch    : BitVec 2
  hdv   : Bool
  hd    : BitVec 4
  off   : BitVec 8
  deriving DecidableEq, Repr

/-- The errors in the unit that an access reads (R180 to R183): none; `n` in its worst codeword, bits of a G32 or G64 unit and
symbols of a wider one, with the side bits of the other valid word that a decoder past its detection settles on, if it does; or a
tag or poison copy that disagrees with its original. -/
inductive Ecc
  | clean | errors (n : Nat) (word : Option W64) | copies
  deriving DecidableEq, Repr

/-- Errors in one unit of those that an event reads. -/
structure UnitEcc where
  ecc  : Ecc := .clean
  unit : Nat := 0
  deriving DecidableEq, Repr

/-- The choices that the spec leaves to the machine when an outstanding access is performed: whether a cached copy
serves it and whether a copy is kept (R169, R173, R175, R214), how a PKG atomic runs (R178), the errors of the unit, and of
a b128 access whether the upper half goes first and whether both are performed (R192). -/
structure MemChoice where
  useL1      : Bool
  fillL1     : Bool
  useRemote  : Bool
  fillRemote : Bool
  lease      : Bool
  ecc        : Ecc
  high       : Bool
  both       : Bool := true
  deriving DecidableEq, Repr

/-- What an atomic transaction does at its home (R220, R221, R325): an operation, or a comparison with a value. -/
inductive LinkRmw
  | atom (op : AtomOp) | cas (cmp : List Byte)
  deriving DecidableEq, Repr

/-- A flit that a hop of a circuit fails to carry (R326). -/
structure LinkFlit where
  circuit : Nat
  flit    : Nat
  deriving DecidableEq, Repr

/-- A transaction between dies or modules (R325): a read, a write, or an atomic; `via` the optical circuit by which one of another module
arrives. -/
structure LinkReq where
  write : Bool
  addr  : Nat
  data  : List Byte
  len   : Nat
  rmw   : Option LinkRmw := none
  via   : Option Nat := none
  deriving DecidableEq, Repr

/-- A transaction of a host that carries a translated address or not (R333, R337). -/
structure HostReq where
  req  : LinkReq
  xlat : Bool := false
  deriving DecidableEq, Repr

/-- What answers a transaction (R325): its data, whether the response is poisoned, and whether its CRC matches. -/
structure Reply where
  data  : List Byte
  bad   : Bool := false
  crcOk : Bool := true
  deriving DecidableEq, Repr

/-- What a host agent does with a line of its memory (R176): it reads, takes the line for itself, or stores to it. -/
inductive Snoop
  | read | invalidate | write (data : List Byte)
  deriving DecidableEq, Repr

/-- The cores that a pre-emption clears, and the context whose teams it stops if it names one (R311, R312). -/
structure Cleared where
  cores : List Nat
  ctx   : Option Nat := none
  deriving DecidableEq, Repr

/-- The cores that a saved team comes back on, and those of the teams that come back with it (R29, R316). -/
structure Seats where
  cores : List Nat
  rest  : List (Nat × Nat × List Nat) := []
  deriving DecidableEq, Repr

/-- The result of a Pavane scan (R319). -/
inductive ScanResult
  | pass | failLane (lane : Nat) | failOther
  deriving DecidableEq, Repr

/-- A block whose world secure firmware sets (R358). -/
inductive Block
  | core (die core : Nat) | copyEngine (die engine : Nat) | qthread (die thread : Nat) | guestPort (socket : Nat)
  deriving DecidableEq, Repr

/-- What the boot image that a die has read presents (R360): the hash that it claims, the key that signed it with its signature, and its
security version; beside it the results of the ROM's own tests (log entry 75). -/
structure BootImage where
  hash      : List Byte
  key       : List Byte
  signature : List Byte
  version   : Nat
  selfTest  : Bool
  linkTrain : Bool
  stage     : Nat
  deriving DecidableEq, Repr

/-- A fuse that the owner blows (R360). -/
inductive Fuse
  | ownerOnly | ownerKey (slot : Nat) (keyHash : List Byte) | revoke (slot : Nat) | rollback (version : Nat)
  deriving DecidableEq, Repr

/-- What a supervisor core does (R198), and what the die kernel that runs on it sets or appends to (R293, R298, R330, R345). -/
inductive SupOp
  | read (addr len : Nat) | write (addr : Nat) (data : List Byte) | fence
  | setPtbase (pasid : Nat) (v : W64) | setHroot (v : W64) | setPoolbase (v : W64) | setWalker (h : Option W64) | setReplBase (v : W64)
  | record (event unit auxa auxb : Nat) | readFr (seq count : Nat) | send (words : List W64)
  deriving DecidableEq, Repr

/-- Every operation and event of the opcode table. -/
inductive Instr
  -- control and system registers (R106 to R117)
  | br (cc : BrCond) (disp : W32)
  | brm (inv : Bool) (ma : MReg) (disp : W32)
  | jmpi (sa : SReg)
  | call (link : SReg) (disp : W32)
  | calli (link sa : SReg)
  | ret (sa : SReg)
  | exit
  | spawn (sd se sb : SReg) (nm1 : BitVec 4) (argc : BitVec 3)
  | yield
  | nop
  | trap (imm : BitVec 33)
  | brk (imm : BitVec 33)
  | mfs (sd : SReg) (reg : BitVec 12)
  | mts (reg : BitVec 12) (sa : SReg)
  -- scalar (R101 to R105)
  | sadd (ty : IntTy) (sd sa sb : SReg) (sat : Bool)
  | ssub (ty : IntTy) (sd sa sb : SReg) (sat : Bool)
  | smul (ty : IntTy) (sd sa sb : SReg) (sat : Bool)
  | smulh (ty : IntTy) (sd sa sb : SReg)
  | sdiv (la : BitVec 4) (ty : IntTy) (sd sa sb : SReg)
  | srem (la : BitVec 4) (ty : IntTy) (sd sa sb : SReg)
  | sand (ty : IntTy) (sd sa sb : SReg)
  | sor (ty : IntTy) (sd sa sb : SReg)
  | sxor (ty : IntTy) (sd sa sb : SReg)
  | sandn (ty : IntTy) (sd sa sb : SReg)
  | sshl (ty : IntTy) (sd sa sb : SReg)
  | sshr (ty : IntTy) (sd sa sb : SReg)
  | ssra (ty : IntTy) (sd sa sb : SReg)
  | srot (ty : IntTy) (sd sa sb : SReg)
  | smin (ty : IntTy) (sd sa sb : SReg)
  | smax (ty : IntTy) (sd sa sb : SReg)
  | sclz (ty : IntTy) (sd sa : SReg)
  | spopc (ty : IntTy) (sd sa : SReg)
  | sbfe (ty : IntTy) (sd sa : SReg) (pos lenm1 : BitVec 6)
  | sbfi (ty : IntTy) (sd sa sb : SReg) (pos lenm1 : BitVec 6)
  | ssel (sd sa sb sc : SReg)
  | scmp (ty : IntTy) (cnd : Cnd) (sd sa sb : SReg)
  | smov (sd sa : SReg)
  | sli (sd : SReg) (imm : W32)
  | sliHi (sd : SReg) (imm : W32)
  | saddImm (sd sa : SReg) (imm : BitVec 33)
  | smulImm (sd sa : SReg) (imm : BitVec 33)
  | sandImm (sd sa : SReg) (imm : BitVec 33)
  | sorImm (sd sa : SReg) (imm : BitVec 33)
  | sxorImm (sd sa : SReg) (imm : BitVec 33)
  | sshlImm (sd sa : SReg) (imm : BitVec 33)
  | sshrImm (sd sa : SReg) (imm : BitVec 33)
  | ssraImm (sd sa : SReg) (imm : BitVec 33)
  -- vector integer (R126 to R132)
  | vadd (h : Head) (ty : IntTy) (vd va vb : VReg) (sat : Bool)
  | vsub (h : Head) (ty : IntTy) (vd va vb : VReg) (sat : Bool)
  | vmul (h : Head) (ty : IntTy) (vd va vb : VReg) (sat : Bool)
  | vmulh (h : Head) (ty : IntTy) (vd va vb : VReg)
  | vmad (h : Head) (ty : IntTy) (vd va vb vc : VReg) (sat : Bool)
  | vand (h : Head) (ty : IntTy) (vd va vb : VReg)
  | vor (h : Head) (ty : IntTy) (vd va vb : VReg)
  | vxor (h : Head) (ty : IntTy) (vd va vb : VReg)
  | vandn (h : Head) (ty : IntTy) (vd va vb : VReg)
  | vnot (h : Head) (ty : IntTy) (vd va : VReg)
  | vshl (h : Head) (ty : IntTy) (vd va vb : VReg)
  | vshr (h : Head) (ty : IntTy) (vd va vb : VReg)
  | vsra (h : Head) (ty : IntTy) (vd va vb : VReg)
  | vmin (h : Head) (ty : IntTy) (vd va vb : VReg)
  | vmax (h : Head) (ty : IntTy) (vd va vb : VReg)
  | vabs (h : Head) (ty : IntTy) (vd va : VReg) (sat : Bool)
  | vneg (h : Head) (ty : IntTy) (vd va : VReg) (sat : Bool)
  | vclz (h : Head) (ty : IntTy) (vd va : VReg)
  | vpopc (h : Head) (ty : IntTy) (vd va : VReg)
  | vbrev (h : Head) (ty : IntTy) (vd va : VReg)
  | vbfe (h : Head) (ty : IntTy) (vd va vc : VReg)
  | vbfi (h : Head) (vd va vb vc : VReg)
  | vaddc (h : Head) (vd va vb : VReg) (k : MReg)
  | vsubb (h : Head) (vd va vb : VReg) (k : MReg)
  | vclmul (h : Head) (vd va vb vc : VReg) (hi xacc : Bool)
  | vmov (h : Head) (ty : IntTy) (vd va : VReg)
  | vli (h : Head) (vd : VReg) (imm : W32)
  | vsel (h : Head) (ty : IntTy) (vd va vb : VReg) (k : MReg)
  | vbcast (h : Head) (ty : IntTy) (vd : VReg) (ss : SReg)
  | vlane (h : Head) (vd : VReg)
  | vaddImm (h : Head) (ty : IntTy) (vd va : VReg) (imm : BitVec 25)
  | vsubImm (h : Head) (ty : IntTy) (vd va : VReg) (imm : BitVec 25)
  | vmulImm (h : Head) (ty : IntTy) (vd va : VReg) (imm : BitVec 25)
  | vandImm (h : Head) (ty : IntTy) (vd va : VReg) (imm : BitVec 25)
  | vorImm (h : Head) (ty : IntTy) (vd va : VReg) (imm : BitVec 25)
  | vxorImm (h : Head) (ty : IntTy) (vd va : VReg) (imm : BitVec 25)
  | vshlImm (h : Head) (ty : IntTy) (vd va : VReg) (imm : BitVec 25)
  | vshrImm (h : Head) (ty : IntTy) (vd va : VReg) (imm : BitVec 25)
  | vsraImm (h : Head) (ty : IntTy) (vd va : VReg) (imm : BitVec 25)
  | vminImm (h : Head) (ty : IntTy) (vd va : VReg) (imm : BitVec 25)
  | vmaxImm (h : Head) (ty : IntTy) (vd va : VReg) (imm : BitVec 25)
  -- vector floating point (R135 to R145)
  | vfadd (h : Head) (ty : FpTy) (vd va vb : VReg) (rm : RoundMode)
  | vfsub (h : Head) (ty : FpTy) (vd va vb : VReg) (rm : RoundMode)
  | vfmul (h : Head) (ty : FpTy) (vd va vb : VReg) (rm : RoundMode)
  | vffma (h : Head) (ty : FpTy) (vd va vb vc : VReg) (rm : RoundMode)
  | vfmin (h : Head) (ty : FpTy) (vd va vb : VReg)
  | vfmax (h : Head) (ty : FpTy) (vd va vb : VReg)
  | vfabs (h : Head) (ty : FpTy) (vd va : VReg)
  | vfneg (h : Head) (ty : FpTy) (vd va : VReg)
  | vfsgn (h : Head) (ty : FpTy) (vd va vb : VReg)
  | vfrcp (h : Head) (vd va : VReg)
  | vfrsq (h : Head) (vd va : VReg)
  | vfsqrt (h : Head) (ty : FpTy) (vd va : VReg) (rm : RoundMode)
  | vfexp2 (h : Head) (vd va : VReg)
  | vflog2 (h : Head) (vd va : VReg)
  | vfsin (h : Head) (vd va : VReg)
  | vfcos (h : Head) (vd va : VReg)
  | vffract (h : Head) (ty : FpTy) (vd va : VReg) (rm : RoundMode)
  | vfround (h : Head) (ty : FpTy) (vd va : VReg) (rm : RoundMode)
  | vfclass (h : Head) (ty : FpTy) (vd va : VReg)
  | vfcmp (h : Head) (ty : FpTy) (cnd : FCnd) (md : MReg) (va vb : VReg)
  | vfcvt (h : Head) (dst : FpTy) (src : CvtSrc) (vd va : VReg) (rm : RoundMode) (ovf : Bool)
  | vicvt (h : Head) (dst : IntTy) (src : FpTy) (vd va : VReg) (rm : RoundMode)
  | vfscale (h : Head) (ty : FpTy) (vd va vb : VReg) (rm : RoundMode)
  | vpack (h : Head) (ty : FpTy) (vd va : VReg) (rm : RoundMode) (ovf : Bool)
  | vunpack (h : Head) (ty : FpTy) (vd va : VReg)
  | vpackDense (h : Head) (ty : FpTy) (vd va : VReg)
  | vunpackDense (h : Head) (ty : FpTy) (vd va : VReg)
  | vdot (h : Head) (ta tb : FpTy) (vd va vb vc : VReg) (mx : Bool)
  -- masks (R133, R134)
  | vcmp (h : Head) (ty : IntTy) (cnd : Cnd) (md : MReg) (va vb : VReg)
  | mand (h : Head) (md ma mb : MReg)
  | mor (h : Head) (md ma mb : MReg)
  | mxor (h : Head) (md ma mb : MReg)
  | mandn (h : Head) (md ma mb : MReg)
  | mnot (h : Head) (md ma : MReg)
  | mmov (h : Head) (md ma : MReg)
  | mpopc (h : Head) (sd : SReg) (ma : MReg)
  | mffs (h : Head) (sd : SReg) (ma : MReg)
  | mfls (h : Head) (sd : SReg) (ma : MReg)
  | mfroms (h : Head) (md : MReg) (ss : SReg)
  | mtos (h : Head) (sd : SReg) (ma : MReg)
  -- collectives (R146 to R154); the Bool is the hold bit of the vector source
  | voteAny (md mm mb : MReg)
  | voteAll (md mm mb : MReg)
  | voteBallot (md mm mb : MReg)
  | voteUni (hold : Bool) (md mm : MReg) (va : VReg)
  | shflIdx (hold : Bool) (vd vs : VReg) (mm : MReg)
  | shflUp (hold : Bool) (vd vs : VReg) (mm : MReg) (k : BitVec 6)
  | shflDown (hold : Bool) (vd vs : VReg) (mm : MReg) (k : BitVec 6)
  | shflXor (hold : Bool) (vd vs : VReg) (mm : MReg) (k : BitVec 6)
  | vscan (hold : Bool) (op : ScanOp) (ty : IntTy) (vd vs : VReg) (mm : MReg) (excl : Bool)
  | vred (hold : Bool) (op : ScanOp) (ty : IntTy) (vd vs : VReg) (mm : MReg)
  | vappend (hold : Bool) (vd vs : VReg) (mm : MReg) (sb : SReg)
  | vreadl (hold : Bool) (sd : SReg) (vs : VReg) (mm : MReg) (lane : BitVec 6)
  | vwritel (vd : VReg) (ss : SReg) (mm : MReg) (lane : BitVec 6)
  -- memory, atomics, bulk and cache (R211 to R226)
  | ld (h : Head) (m : MemArg)
  | ldx (h : Head) (m : MemArg)
  | st (h : Head) (m : MemArg)
  | stx (h : Head) (m : MemArg)
  | lds (la : BitVec 4) (m : MemArg)
  | sts (m : MemArg)
  | ldm (m : MemArg)
  | bcp (m : MemArg)
  | pf (h : Head) (m : MemArg)
  | atom (h : Head) (op : AtomOp) (m : MemArg)
  | cas (h : Head) (m : MemArg)
  | satom (la : BitVec 4) (op : AtomOp) (m : MemArg)
  | wchg (m : MemArg)
  | cwb (m : MemArg)
  | cinv (m : MemArg)
  -- order, timelines, barriers (R227 to R230)
  | fence (scope : Scope) (pred succ : BitVec 7)
  | fenceSc (scope : Scope)
  | tsig (scope : Scope) (sa sb : SReg)
  | twait (scope : Scope) (sd sa sb : SReg)
  | tread (la : BitVec 4) (sd sa : SReg)
  | bar (b : BitVec 3) (roles : BitVec 4)
  | barr (b : BitVec 3) (roles : BitVec 4)
  | barw (b : BitVec 3) (roles : BitVec 4)
  -- matrix (R236 to R248)
  | mzero (zd : BitVec 5) (strm : BitVec 2)
  | mld (zd : BitVec 5) (sa : SReg) (strm : BitVec 2) (ty : MatTy)
  | mma (zd : BitVec 5) (sa sb sk : SReg) (strm : BitVec 2) (ta tb : MatTy) (mx : Bool)
  | mloop (zd : BitVec 5) (sa sb sk : SReg) (strm : BitVec 2) (ta tb : MatTy) (mx : Bool)
  | mst (zd : BitVec 5) (sa sb sk : SReg) (strm : BitVec 2) (ty : MatTy) (rm : RoundMode) (ovf scale sig : Bool)
  | mresume (strm : BitVec 2) (discard : Bool)
  -- stage rings (R250 to R254)
  | rinit (k : BitVec 3) (stagesm1 : BitVec 4) (sa sb : SReg)
  | racq (sd : SReg) (k : BitVec 3) (sa : SReg) (cons : Bool)
  | rrel (k : BitVec 3) (sa : SReg)
  | rstat (sd : SReg) (k : BitVec 3) (sa : SReg)
  -- queue processor and copy engine (R274 to R282)
  | qpop (sd sb : SReg)
  | qack (sa sb : SReg) (cause : BitVec 8) (irq : Bool)
  | launch (sd sa sb : SReg)
  | irqHost (sa : SReg)
  | irqKern (sa : SReg)
  | qsleep (sd : SReg)
  | cpy (sd sa sb : SReg)
  | cpyProg (sd sa sb : SReg)
  | cpy2d (sd sa sb : SReg)
  | cpyg (sd sa sb : SReg)
  | cpys (sd sa sb : SReg)
  | cfill (sd sa sb : SReg)
  | reform (sa : SReg) (gran : BitVec 3) (frame : Bool)
  -- handler mode (R283 to R291)
  | tret
  | tlbw (sa : SReg) (size : BitVec 3)
  | tlbinv (sa : SReg) (mode : BitVec 2) (die : Bool)
  | lprinv (sa : SReg) (mode : BitVec 2)
  | ovld (sa sb : SReg) (frame : BitVec 5)
  | pgrab (sd : SReg) (gran size : BitVec 3)
  | ats (la : BitVec 4) (sd sa : SReg) (w : Bool)
  | pri (sa : SReg) (w : Bool)
  | dmsg (sd sa : SReg)
  | hlt (sa : SReg)
  -- retired and unassigned encodings (R67, R72)
  | vdp4E4m3 (h : Head) (vd va vb : VReg)
  | vfdivF32Fast (h : Head) (vd va vb : VReg)
  | barAll (b : BitVec 3)
  | ldcst (h : Head) (m : MemArg)
  | txfetch (body : BitVec 56)
  | mmaT8 (body : BitVec 56)
  | unassignedOpcode (word : W64)
  -- completions and wakes
  | leaseExpire (line : Nat)
  | memoryAccessComplete (op : Nat) (lanes : Mask) (c : MemChoice)
  | impreciseFault (gid : Nat)
  | bulkCopyLand (op : Nat) (lines : List Nat) (ecc : UnitEcc)
  | twaitWake (die t : Nat)
  | waitgeComplete (die qid : Nat)
  | wchgWake (gid pid : Nat)
  | wchgTimeout (gid pid : Nat)
  | barrierPhaseComplete (team b : Nat)
  | racqGrant (team k j : Nat)
  | rrelComplete (gid pid : Nat)
  | spinRotation (gid : Nat)
  | spillExchange (gid : Nat)
  | trapEntry (gid pid : Nat)
  | walkerRequest (die core : Nat)
  | matrixStreamStop (die core strm : Nat)
  | matrixFault (gid pid : Nat)
  | matrixOpComplete (die core strm : Nat) (ecc : Ecc)
  | copyOpComplete (die k : Nat) (ecc : Ecc)
  | copyFaultStop (die k : Nat)
  -- queues and device registers
  | kick (die qid : Nat) (v : W64)
  | suspack (die qid : Nat) (v : W64)
  | mbpop (die : Nat)
  | minimalClear
  | deviceRegisterWrite (die off : Nat) (wide : Bool) (v : W64)
  | qsleepWake (die t : Nat)
  | queueCreate (die qid pasid : Nat) (desc : List W64)
  | queueBind (die t qid cap ccx : Nat) (header : W64)
  | queueRestart (die qid ridx : Nat)
  | copyContextResume (die k : Nat)
  | copyContextAbort (die k : Nat)
  | guestPacket (die qid seq : Nat)
  | tear (die qid seq : Nat)
  | tearDrainTimeout (pasid : Nat)
  | quarantineEnd (pasid : Nat)
  -- teams
  | teamAdmit (launch : Nat) (places : List (Nat × List Nat))
  | admissionWaitExpire (launch : Nat)
  | teamRetire (team : Nat)
  | preemptRequest (die : Nat) (cores : Cleared)
  | preemptSave (team : Nat)
  | teamResume (team die : Nat) (cores : Seats)
  -- translation and the host
  | priResponse (id : Nat) (ok : Bool)
  | atsCompletion (id : Nat) (status : Nat) (leaf : W64)
  | atsTimeout (id : Nat)
  | atsInvalidationRequest (pasid : Nat) (va len : W64)
  | hostCxlAccess (fn : Nat) (pasid : Option Nat) (req : HostReq)
  | functionLevelReset (fn : Nat)
  -- Quadrille: the die acts on the next message of its receive ring
  | map (die : Nat)
  | prepare (die : Nat)
  | commit (die : Nat)
  | ack (die : Nat)
  | alloc (die : Nat)
  | dieDown (die : Nat)
  | heartbeat (die : Nat)
  | heartbeatSend (die : Nat)
  | heartbeatTimeout (die silent : Nat)
  | dieFatalError (die : Nat)
  | conn (die : Nat)
  | route (die : Nat)
  | dieKernelMessage (die : Nat)
  -- links
  | linkTransaction (src dst tag : Nat) (req : LinkReq) (crcOk : Bool)
  | transactionAck (tag : Nat) (data : Reply)
  | flitReplay (die : Nat) (f : LinkFlit)
  | rerouteReadTimeout (die circuit : Nat)
  -- guests
  | guestLinkUp (socket vendor engines atc duty : Nat)
  | guestAccess (socket pasid : Nat) (va : W64) (translated : Bool) (req : LinkReq)
  | gdone (socket seq : Nat)
  | guestFaultReport (socket : Nat) (rec : List W64)
  | guestAtcTimeout (socket : Nat)
  | guestQuiesceTimeout (socket : Nat)
  -- secure world and Pavane
  | worldChange (b : Block) (secure : Bool)
  | pavaneDrainStart (die : Nat)
  | pavaneDrainTimeout (die : Nat)
  | pavaneSkip (die : Nat)
  | pavaneScanStart (die : Nat)
  | pavaneScanResult (die : Nat) (r : ScanResult)
  | coreReturn (die core : Nat)
  -- power, reset, boot and management
  | gateStep (die : Nat)
  | thermalGate (die : Nat)
  | thermalTrip (die temp : Nat)
  | coldReset
  | warmReset
  | bootRomStart (die : Nat) (img : BootImage)
  | bootRequestTimeout (die : Nat)
  | bootReadyTimeout (die : Nat)
  | dieKernelReady (die : Nat)
  | mctpControl (msg : List Byte)
  | pldmRequest (kind die : Nat)
  | spdmRequest (msg : List Byte)
  | getLimit
  | setLimit (watts : Nat)
  | readFr (die seq count : Nat)
  | readBootwhy
  | clearMinimal
  | readImage (die image offset : Nat) (bytes : List Byte)
  | getStartRecord (rec : W64)
  | putStartRecord
  | contextCreate (pasid fn mode : Nat) (htb : W64)
  | supervisorCoreAccess (die core : Nat) (op : SupOp)
  | queueUnbind (die t : Nat)
  | guestAtcAck (socket id : Nat)
  | guestQuiesceReport (socket : Nat) (saved : Bool)
  | guestAtsRequest (socket pasid : Nat) (va : W64) (w : Bool)
  | guestContextBind (socket pasid : Nat)
  | guestFenceLift (socket : Nat)
  | hostSnoop (line : Nat) (act : Snoop)
  | virtualFunctionAssign (v port : Nat)
  | fuseBlow (f : Fuse)
  deriving DecidableEq, Repr

end Sys2Proof
end

