-- ==== Sys2Proof/WellFormed.lean ====
section
/-! DEFINITION. Which instructions are well formed: the static ILLEGAL checks of R68 step 1 that do not depend on
who issues the instruction (types, field values, holds, lookahead, predicates, register runs, m0 as a destination). -/
namespace Sys2Proof

/-- Why a word is no instruction: every one of these is ILLEGAL at issue (R62, R67, R68). -/
inductive Reject
  | header | reservedOpcode | reservedField | reservedValue
  | laNotAdmitted | holdNotAdmitted | predNotAdmitted | typeNotAdmitted | maskZero
  | misalignedRun | runPastEnd | fieldRange | memField | scopeNotAdmitted | ovfNotAdmitted
  deriving DecidableEq, Repr

/-- One check: the reason when it fails. -/
def need (ok : Bool) (r : Reject) : Option Reject := if ok then none else some r

namespace IntTy
/-- The width n of the type (R84). -/
def width : IntTy → Nat
  | i8 | n8 | b8 => 8
  | i16 | n16 | b16 => 16
  | i32 | n32 | b32 => 32
  | i64 | n64 | b64 => 64
  | b128 => 128
/-- .i types: two's complement. -/
def isI : IntTy → Bool
  | i8 | i16 | i32 | i64 => true
  | _ => false
/-- .n types: unsigned. -/
def isN : IntTy → Bool
  | n8 | n16 | n32 | n64 => true
  | _ => false
/-- .b types: bits. -/
def isB (t : IntTy) : Bool := !t.isI && !t.isN
/-- The I and N sets of R126: at most 32 bits. -/
def vecIN (t : IntTy) : Bool := (t.isI || t.isN) && decide (t.width ≤ 32)
/-- The B set of R126. -/
def vecB (t : IntTy) : Bool := t.isB && decide (t.width ≤ 32)
/-- The .i and .n types of R101. -/
def scaIN (t : IntTy) : Bool := t.isI || t.isN
/-- .b8 to .b64. -/
def scaB (t : IntTy) : Bool := t.isB && decide (t.width ≤ 64)
end IntTy

namespace FpTy
/-- The F4 set of R135. -/
def isF4 : FpTy → Bool
  | f16 | bf16 | f32 | f64 => true
  | _ => false
/-- The 8-bit formats with elements of an MX block (R98). -/
def isFp8 : FpTy → Bool
  | e4m3 | e5m2 => true
  | _ => false
/-- The 6-bit formats. -/
def isFp6 : FpTy → Bool
  | e2m3 | e3m2 => true
  | _ => false
end FpTy

/-- A register pair starts at an even register (R123). -/
def pairAt (v : VReg) : Option Reject := need (v.toNat % 2 == 0) .misalignedRun
/-- A run of `k` registers, k a power of two, starts at a multiple of k (R123). -/
def runAt (k : Nat) (v : VReg) : Option Reject := need (v.toNat % k == 0) .misalignedRun
/-- A run of `k` scalar registers does not pass s63 (R61, R211). -/
def sRun (k : Nat) (s : SReg) : Option Reject := need (decide (s.toNat + k ≤ 64)) .runPastEnd
/-- m0 is no destination (R124). -/
def notM0 (m : MReg) : Option Reject := need (m != 0) .maskZero

/-- LA, holds and the predicate: which of LA, HOLDA and HOLDB the instruction admits (R57, R58, R60, R125). -/
def headOk (la a b : Bool) (h : Head) : Option Reject :=
  need (la || h.la == 0) .laNotAdmitted <|> need (a || !h.ha) .holdNotAdmitted <|>
  need (b || !h.hb) .holdNotAdmitted <|> need (h.pred != 0 || !h.neg) .predNotAdmitted

/-- A floating operand field: .f64 is a pair (R123). -/
def fpReg (ty : FpTy) (v : VReg) : Option Reject := if ty = .f64 then pairAt v else none
/-- An integer operand field: 64 bits are a pair (R123). -/
def intReg (ty : IntTy) (v : VReg) : Option Reject := if ty.width = 64 then pairAt v else none

/-- OVF exists where the destination is E4M3 or E5M2 (R92). -/
def ovfOk (ty : FpTy) (ovf : Bool) : Option Reject := need (!ovf || ty.isFp8) .ovfNotAdmitted

/-- Elements of a packed register (R142). -/
def FpTy.perReg : FpTy → Nat
  | .f16 | .bf16 => 2
  | .e4m3 | .e5m2 | .e2m3 | .e3m2 => 4
  | .e2m1 => 8
  | _ => 1

/-- The format pairs of `vdot`, `mma` and `mloop` (R144, R237). -/
def dotPair (a b : FpTy) : Bool :=
  (a.isFp8 && b.isFp8) || (a.isFp6 && b.isFp6) || (a == .e2m1 && b == .e2m1) ||
  (a == .bf16 && b == .bf16) || (a == .f16 && b == .f16)

/-- MX is admitted with the 8-bit, 6-bit and 4-bit pairs (R98). -/
def mxOk (a : FpTy) : Bool := a.isFp8 || a.isFp6 || a == .e2m1

/-- The pairs of `mma` and `mloop`, INT8 included (R237). -/
def matPair (mx : Bool) : MatTy → MatTy → Bool
  | .fp a, .fp b => dotPair a b && (!mx || mxOk a)
  | .int, .int => !mx
  | _, _ => false

/-- The types of `vscan` and `vred` (R152). -/
def scanTy : ScanOp → IntTy → Bool
  | .add, t | .min, t | .max, t => t == .i32 || t == .n32
  | .and, t | .or, t | .xor, t => t == .b32

/-- SIZE in bytes (R64). -/
def MemSize.bytes : MemSize → Nat
  | .b8 => 1 | .b16 => 2 | .b32 => 4 | .b64 => 8 | .b128 => 16

/-- A row of R211's table: what DATA, INDEX, SIZE, SCOPE, ORD and OFF8 may be. -/
structure MemRow where
  scalar : Option Nat   -- DATA names this many scalar registers; none: a vector register
  unused : Bool         -- DATA must be 0
  index  : Option Bool  -- some true: a register; some false: 0xFF; none: any
  sizes  : List MemSize
  weak   : Bool         -- SCOPE must be weak
  named : Bool         -- SCOPE must not be weak
  ords   : List MemOrd
  off    : Bool         -- OFF8 is an offset

/-- Whether a MEM body fits its row (R64, R211). -/
def MemRow.check (r : MemRow) (m : MemArg) : Option Reject :=
  need (match r.scalar with
    | some k => decide (m.data.toNat < 64) && decide (m.data.toNat + k ≤ 64)
    | none => true) .runPastEnd <|>
  need (!r.unused || m.data == 0) .memField <|>
  need (match r.index with
    | some true => m.index != 0xFF
    | some false => m.index == 0xFF
    | none => true) .memField <|>
  need (r.sizes.contains m.size) .memField <|>
  need (!r.weak || m.scope == .weak) .scopeNotAdmitted <|>
  need (!r.named || m.scope != .weak) .scopeNotAdmitted <|>
  need (r.ords.contains m.ord) .memField <|>
  need (m.ord == .plain || m.scope != .weak) .memField <|>
  need (m.hdv || m.hd == 0) .memField <|>
  need (r.off || m.off == 0) .memField

/-- All five sizes. -/
def allSizes : List MemSize := [.b8, .b16, .b32, .b64, .b128]

/-- The rows of `ld` and `ldx` (`x`). -/
def rowLd (x : Bool) : MemRow :=
  { scalar := none, unused := false, index := if x then some true else none, sizes := allSizes,
    weak := false, named := false, ords := [.plain, .acq], off := true }
/-- The rows of `st` and `stx`. -/
def rowSt (x : Bool) : MemRow := { rowLd x with ords := [.plain, .rel] }
/-- The row of `lds`; `sts` has release in place of acquire. -/
def rowLds (st : Bool) : MemRow :=
  { scalar := some 1, unused := false, index := some false, sizes := [.b8, .b16, .b32, .b64],
    weak := false, named := false, ords := if st then [.plain, .rel] else [.plain, .acq], off := true }
/-- The rows of `ldm` (three registers) and `bcp` (two). -/
def rowBulk (k : Nat) : MemRow :=
  { scalar := some k, unused := false, index := some false, sizes := [.b8], weak := true, named := false,
    ords := [.plain], off := false }
/-- The row of `pf`. -/
def rowPf : MemRow :=
  { scalar := none, unused := true, index := none, sizes := allSizes, weak := true, named := false,
    ords := [.plain], off := true }
/-- The rows of `atom` and `cas`; `off` for `cas`. -/
def rowAtom (off : Bool) : MemRow :=
  { scalar := none, unused := false, index := none, sizes := [.b32, .b64], weak := false, named := false,
    ords := [.plain, .acq, .rel, .acqrel], off := off }
/-- The row of `satom`. -/
def rowSatom : MemRow := { rowAtom false with scalar := some 1, index := some false }
/-- The row of `wchg`. -/
def rowWchg : MemRow :=
  { scalar := some 2, unused := false, index := some false, sizes := [.b32, .b64], weak := false, named := false,
    ords := [.plain, .acq], off := true }
/-- The row of `cwb` and `cinv` on a group. -/
def rowCache : MemRow :=
  { scalar := none, unused := true, index := none, sizes := [.b8], weak := false, named := true,
    ords := [.plain], off := true }

/-- Alignment of vector data (R123, R213). -/
def memRun (m : MemArg) : Option Reject :=
  match m.size with
  | .b64 => runAt 2 m.data
  | .b128 => runAt 4 m.data
  | _ => none

/-- The DATA of `cas` (R64, R221). -/
def casRun (m : MemArg) : Option Reject :=
  match m.size with
  | .b64 => runAt 4 m.data
  | _ => need (m.data != 255) .runPastEnd

/-- A fence or timeline scope is not weak (R227, R228). -/
def notWeak (s : Scope) : Option Reject := need (s != .weak) .scopeNotAdmitted

/-- A three-operand vector integer instruction. -/
def vInt (ok : Bool) (h : Head) (hb : Bool) : Option Reject :=
  headOk false true hb h <|> need ok .typeNotAdmitted

/-- A floating instruction of the F4 types on the registers named. -/
def vFp (la hb : Bool) (ty : FpTy) (h : Head) (rs : List VReg) : Option Reject :=
  headOk la true hb h <|> need ty.isF4 .typeNotAdmitted <|> need (rs.all (fun r => (fpReg ty r).isNone)) .misalignedRun

/-- The opcodes that R66 lists as unassigned or reserved. -/
def unassignedOpc (o : Nat) : Bool :=
  o == 0x0F || (0x4E ≤ o && o ≤ 0x4F) || (0x5B ≤ o && o ≤ 0x5F) || (0x7A ≤ o && o ≤ 0x7F) || (0x9C ≤ o && o ≤ 0xAF) ||
  (0xB8 ≤ o && o ≤ 0xBF) || (0xCA ≤ o && o ≤ 0xCF) || (0xDB ≤ o && o ≤ 0xDF) || (0xEC ≤ o && o ≤ 0xEF) || 0xF6 ≤ o

/-- The static checks of R68 step 1 for every instruction; `none` when it is well formed. -/
def ill : Instr → Option Reject
  | .br _ _ => none
  | .brm _ ma _ => notM0 ma
  | .jmpi _ | .call _ _ | .calli _ _ | .ret _ | .exit => none
  | .spawn _ _ sb _ argc =>
    need (decide (argc.toNat ≤ 4)) .fieldRange <|> need (argc != 0 || sb == 0) .reservedField <|>
    need (decide (sb.toNat + argc.toNat ≤ 64)) .runPastEnd
  | .yield | .nop | .trap _ | .brk _ | .mfs _ _ | .mts _ _ => none
  | .sadd ty _ _ _ _ | .ssub ty _ _ _ _ | .smul ty _ _ _ _ => need ty.scaIN .typeNotAdmitted
  | .smulh ty _ _ _ | .smin ty _ _ _ | .smax ty _ _ _ | .scmp ty _ _ _ _ => need ty.scaIN .typeNotAdmitted
  | .sdiv _ ty _ _ _ | .srem _ ty _ _ _ => need ty.scaIN .typeNotAdmitted
  | .sand ty _ _ _ | .sor ty _ _ _ | .sxor ty _ _ _ | .sandn ty _ _ _ => need ty.scaB .typeNotAdmitted
  | .sshl ty _ _ _ | .sshr ty _ _ _ | .ssra ty _ _ _ | .srot ty _ _ _ => need ty.scaB .typeNotAdmitted
  | .sclz ty _ _ | .spopc ty _ _ => need ty.scaB .typeNotAdmitted
  | .sbfe ty _ _ pos l =>
    need ty.scaIN .typeNotAdmitted <|> need (decide (pos.toNat + l.toNat + 1 ≤ ty.width)) .fieldRange
  | .sbfi ty _ _ _ pos l =>
    need ty.scaB .typeNotAdmitted <|> need (decide (pos.toNat + l.toNat + 1 ≤ ty.width)) .fieldRange
  | .ssel _ _ _ _ | .smov _ _ | .sli _ _ | .sliHi _ _ => none
  | .saddImm _ _ _ | .smulImm _ _ _ | .sandImm _ _ _ | .sorImm _ _ _ | .sxorImm _ _ _ => none
  | .sshlImm _ _ _ | .sshrImm _ _ _ | .ssraImm _ _ _ => none
  | .vadd h ty _ _ _ _ | .vsub h ty _ _ _ _ | .vmul h ty _ _ _ _ => vInt ty.vecIN h true
  | .vmulh h ty _ _ _ | .vmin h ty _ _ _ | .vmax h ty _ _ _ => vInt ty.vecIN h true
  | .vmad h ty _ _ _ _ _ => vInt ty.vecIN h true
  | .vand h ty _ _ _ | .vor h ty _ _ _ | .vxor h ty _ _ _ | .vandn h ty _ _ _ => vInt ty.vecB h true
  | .vshl h ty _ _ _ | .vshr h ty _ _ _ | .vsra h ty _ _ _ => vInt ty.vecB h true
  | .vnot h ty _ _ | .vclz h ty _ _ | .vpopc h ty _ _ | .vbrev h ty _ _ => vInt ty.vecB h false
  | .vabs h ty _ _ _ | .vneg h ty _ _ _ => vInt (ty.isI && ty.vecIN) h false
  | .vbfe h ty _ _ _ => vInt (ty == .i32 || ty == .n32) h false
  | .vbfi h _ _ _ _ => vInt true h true
  | .vaddc h _ _ _ k | .vsubb h _ _ _ k => vInt true h true <|> notM0 k
  | .vclmul h _ _ _ vc _ x => vInt true h true <|> need (x || vc == 0) .reservedField
  | .vmov h ty vd va => vInt (ty == .b32 || ty == .b64) h false <|> intReg ty vd <|> intReg ty va
  | .vli h _ _ => headOk false false false h
  | .vsel h ty vd va vb _ =>
    vInt (ty == .b32 || ty == .b64) h true <|> intReg ty vd <|> intReg ty va <|> intReg ty vb
  | .vbcast h ty vd _ =>
    headOk false false false h <|> need (ty == .b32 || ty == .b64) .typeNotAdmitted <|> intReg ty vd
  | .vlane h _ => headOk false false false h
  | .vaddImm h ty _ _ _ | .vsubImm h ty _ _ _ | .vmulImm h ty _ _ _ => vInt ty.vecIN h false
  | .vminImm h ty _ _ _ | .vmaxImm h ty _ _ _ => vInt ty.vecIN h false
  | .vandImm h ty _ _ _ | .vorImm h ty _ _ _ | .vxorImm h ty _ _ _ => vInt ty.vecB h false
  | .vshlImm h ty _ _ _ | .vshrImm h ty _ _ _ | .vsraImm h ty _ _ _ => vInt ty.vecB h false
  | .vfadd h ty vd va vb _ | .vfsub h ty vd va vb _ | .vfmul h ty vd va vb _ => vFp false true ty h [vd, va, vb]
  | .vffma h ty vd va vb vc _ => vFp false true ty h [vd, va, vb, vc]
  | .vfmin h ty vd va vb | .vfmax h ty vd va vb | .vfsgn h ty vd va vb => vFp false true ty h [vd, va, vb]
  | .vfabs h ty vd va | .vfneg h ty vd va => vFp false false ty h [vd, va]
  | .vfrcp h _ _ | .vfrsq h _ _ | .vfexp2 h _ _ | .vflog2 h _ _ | .vfsin h _ _ | .vfcos h _ _ =>
    headOk true true false h
  | .vfsqrt h ty vd va _ => vFp true false ty h [vd, va]
  | .vffract h ty vd va _ | .vfround h ty vd va _ => vFp false false ty h [vd, va]
  | .vfclass h ty _ va => headOk false true false h <|> fpReg ty va
  | .vfcmp h ty _ md va vb => vFp false true ty h [va, vb] <|> notM0 md
  | .vfcvt h dst src vd va _ ovf =>
    headOk false true false h <|> fpReg dst vd <|>
    (match src with
     | .fp t => fpReg t va
     | .int t => need t.scaIN .typeNotAdmitted <|> intReg t va) <|> ovfOk dst ovf
  | .vicvt h dst src vd va _ =>
    headOk false true false h <|> need dst.scaIN .typeNotAdmitted <|> intReg dst vd <|> fpReg src va
  | .vfscale h ty vd va _ _ => vFp false true ty h [vd, va]
  | .vpack h ty _ va _ ovf =>
    headOk false true false h <|> need (decide (1 < ty.perReg)) .typeNotAdmitted <|> runAt ty.perReg va <|>
    ovfOk ty ovf
  | .vunpack h ty vd _ =>
    headOk false true false h <|> need (decide (1 < ty.perReg)) .typeNotAdmitted <|> runAt ty.perReg vd
  | .vpackDense h ty vd va | .vunpackDense h ty vd va =>
    headOk false true false h <|> need ty.isFp6 .typeNotAdmitted <|> runAt 4 vd <|> runAt 4 va
  | .vdot h ta tb _ va vb vc mx =>
    headOk true true true h <|> need (dotPair ta tb && (!mx || mxOk ta)) .typeNotAdmitted <|>
    runAt 4 va <|> runAt 4 vb <|> need (mx || vc == 0) .reservedField
  | .vcmp h ty _ md _ _ => vInt ty.vecIN h true <|> notM0 md
  | .mand h md _ _ | .mor h md _ _ | .mxor h md _ _ | .mandn h md _ _ => headOk false false false h <|> notM0 md
  | .mnot h md _ | .mmov h md _ | .mfroms h md _ => headOk false false false h <|> notM0 md
  | .mpopc h _ _ | .mffs h _ _ | .mfls h _ _ | .mtos h _ _ => headOk false false false h
  | .voteAny md _ _ | .voteAll md _ _ | .voteBallot md _ _ | .voteUni _ md _ _ => notM0 md
  | .shflIdx _ _ _ _ | .shflUp _ _ _ _ _ | .shflDown _ _ _ _ _ | .shflXor _ _ _ _ _ => none
  | .vscan _ op ty _ _ _ _ | .vred _ op ty _ _ _ => need (scanTy op ty) .typeNotAdmitted
  | .vappend _ _ _ _ _ | .vreadl _ _ _ _ _ | .vwritel _ _ _ _ => none
  | .ld h m | .ldcst h m => headOk true false false h <|> (rowLd false).check m <|> memRun m
  | .ldx h m => headOk true false false h <|> (rowLd true).check m <|> memRun m
  | .st h m => headOk false false false h <|> (rowSt false).check m <|> memRun m
  | .stx h m => headOk false false false h <|> (rowSt true).check m <|> memRun m
  | .lds _ m => (rowLds false).check m
  | .sts m => (rowLds true).check m
  | .ldm m => (rowBulk 3).check m
  | .bcp m => (rowBulk 2).check m
  | .pf h m => headOk false false false h <|> rowPf.check m
  | .atom h _ m => headOk true false false h <|> (rowAtom false).check m <|> memRun m
  | .cas h m => headOk true false false h <|> (rowAtom true).check m <|> casRun m
  | .satom _ _ m => rowSatom.check m
  | .wchg m => rowWchg.check m
  | .cwb m | .cinv m => rowCache.check m
  | .fence s _ _ | .fenceSc s | .tsig s _ _ | .twait s _ _ _ => notWeak s
  | .tread _ _ _ | .bar _ _ | .barr _ _ | .barw _ _ => none
  | .mzero _ _ => none
  | .mld _ sa _ ty =>
    sRun 3 sa <|> need (ty == .int || ty == .fp .f32 || ty == .fp .bf16 || ty == .fp .f16) .typeNotAdmitted
  | .mma _ sa sb sk _ ta tb mx =>
    sRun 3 sa <|> sRun 3 sb <|> need (matPair mx ta tb) .typeNotAdmitted <|>
    (if mx then sRun 3 sk else need (sk == 0) .reservedField)
  | .mloop _ sa sb sk _ ta tb mx =>
    sRun 3 sa <|> sRun 3 sb <|> need (matPair mx ta tb) .typeNotAdmitted <|> (if mx then sRun 3 sk else none)
  | .mst _ sa sb sk _ ty _ ovf scale sig =>
    sRun 3 sa <|> (if sig then sRun 3 sb else need (sb == 0) .reservedField) <|>
    need (scale || sk == 0) .reservedField <|>
    (match ty with
     | .int => need (!ovf && !scale) .ovfNotAdmitted
     | .fp t => need (t == .f32 || t == .bf16 || t == .f16 || t.isFp8) .typeNotAdmitted <|> ovfOk t ovf)
  | .mresume _ _ | .rinit _ _ _ _ | .racq _ _ _ _ | .rrel _ _ | .rstat _ _ _ => none
  | .qpop sd sb =>
    sRun 16 sd <|> need (decide (sb.toNat < sd.toNat ∨ sd.toNat + 16 ≤ sb.toNat)) .fieldRange
  | .qack _ sb cause _ =>
    sRun 2 sb <|> need (cause == 0 || cause == 0x31 || cause == 0x33 || cause == 0x34) .reservedValue
  | .launch _ sa _ => sRun 16 sa
  | .irqHost _ | .irqKern _ | .qsleep _ => none
  | .cpy _ sa _ | .cfill _ sa _ => sRun 5 sa
  | .cpyProg _ sa _ => sRun 4 sa
  | .cpy2d _ sa _ => sRun 8 sa
  | .cpyg _ sa _ | .cpys _ sa _ => sRun 7 sa
  | .reform sa gran _ => sRun 4 sa <|> need (decide (gran.toNat ≤ 4)) .reservedValue
  | .tret => none
  | .tlbw sa size => sRun 3 sa <|> need (decide (size.toNat ≤ 5)) .reservedValue
  | .tlbinv sa mode _ | .lprinv sa mode => sRun 2 sa <|> need (mode != 3) .reservedValue
  | .ovld _ _ frame => need (frame != 0) .reservedValue
  | .pgrab _ gran size => need (decide (gran.toNat ≤ 4) && decide (size.toNat ≤ 4)) .reservedValue
  | .ats _ sd sa _ => sRun 2 sd <|> sRun 2 sa
  | .pri sa _ => sRun 3 sa
  | .dmsg _ sa => sRun 8 sa
  | .hlt _ => none
  | .vdp4E4m3 h _ _ _ | .vfdivF32Fast h _ _ _ => headOk true true true h
  | .barAll _ => none
  | .txfetch _ | .mmaT8 _ => none
  | .unassignedOpcode w => need (unassignedOpc (w.extractLsb' 56 8).toNat) .reservedOpcode
  | .memoryAccessComplete _ _ _ | .impreciseFault _ | .bulkCopyLand _ _ _ | .twaitWake _ _ | .waitgeComplete _ _ => none
  | .wchgWake _ _ | .wchgTimeout _ _ | .barrierPhaseComplete _ _ | .racqGrant _ _ _ | .rrelComplete _ _ => none
  | .spinRotation _ | .spillExchange _ | .trapEntry _ _ | .walkerRequest _ _ | .matrixStreamStop _ _ _ => none
  | .matrixFault _ _ | .matrixOpComplete _ _ _ _ | .copyOpComplete _ _ _ | .copyFaultStop _ _ => none
  | .kick _ _ _ | .suspack _ _ _ | .mbpop _ | .minimalClear | .deviceRegisterWrite _ _ _ _ | .qsleepWake _ _ => none
  | .queueCreate _ _ _ _ | .queueBind _ _ _ _ _ _ | .queueRestart _ _ _ | .copyContextResume _ _ => none
  | .copyContextAbort _ _ | .guestPacket _ _ _ | .tear _ _ _ | .tearDrainTimeout _ | .quarantineEnd _ => none
  | .teamAdmit _ _ | .admissionWaitExpire _ | .teamRetire _ | .preemptRequest _ _ | .preemptSave _ => none
  | .teamResume _ _ _ | .leaseExpire _ | .priResponse _ _ | .atsCompletion _ _ _ | .atsTimeout _ => none
  | .atsInvalidationRequest _ _ _ | .hostCxlAccess _ _ _ | .functionLevelReset _ => none
  | .map _ | .prepare _ | .commit _ | .ack _ | .alloc _ | .dieDown _ | .heartbeat _ | .heartbeatSend _ => none
  | .heartbeatTimeout _ _ | .dieFatalError _ | .conn _ | .route _ | .dieKernelMessage _ => none
  | .linkTransaction _ _ _ _ _ | .transactionAck _ _ | .flitReplay _ _ | .rerouteReadTimeout _ _ => none
  | .guestLinkUp _ _ _ _ _ | .guestAccess _ _ _ _ _ | .gdone _ _ | .guestFaultReport _ _ => none
  | .guestAtcTimeout _ | .guestQuiesceTimeout _ | .worldChange _ _ | .pavaneDrainStart _ => none
  | .pavaneDrainTimeout _ | .pavaneSkip _ | .pavaneScanStart _ | .pavaneScanResult _ _ | .coreReturn _ _ => none
  | .gateStep _ | .thermalGate _ | .thermalTrip _ _ | .coldReset | .warmReset | .bootRomStart _ _ => none
  | .bootRequestTimeout _ | .bootReadyTimeout _ | .dieKernelReady _ | .mctpControl _ | .pldmRequest _ _ => none
  | .spdmRequest _ | .getLimit | .setLimit _ | .readFr _ _ _ | .readBootwhy | .clearMinimal => none
  | .readImage _ _ _ _ | .getStartRecord _ | .putStartRecord | .contextCreate _ _ _ _ => none
  | .supervisorCoreAccess _ _ _ | .queueUnbind _ _ | .guestAtcAck _ _ | .guestQuiesceReport _ _ => none
  | .guestAtsRequest _ _ _ _ | .guestContextBind _ _ | .guestFenceLift _ | .hostSnoop _ _ => none
  | .virtualFunctionAssign _ _ | .fuseBlow _ => none

/-- An instruction whose every field has a value that the spec admits. -/
abbrev WellFormed (i : Instr) : Prop := ill i = none

end Sys2Proof
end

