-- ==== Sys2Proof/Config.lean ====
section
/-! DEFINITION. What the module's construction fixes (R9 to R16) and the values that the spec leaves open, as constants
with no body: nothing can be proved of them but what holds of every value (log entry 5). -/
namespace Sys2Proof.Config

/-- Dies of a module (R10). -/
abbrev dies : Nat := 12
/-- Cores of a die (R12). -/
abbrev cores : Nat := 64
/-- Q threads and copy contexts of a die (R14). -/
abbrev units : Nat := 64
/-- Bytes of a core's Core Store (R13). -/
abbrev coreStore : Nat := 4608 * 1024
/-- Bytes of vector registers that a core holds at most (R27). -/
abbrev vectorStore : Nat := 3072 * 1024
/-- The handler-frame area of a core (R27). -/
abbrev handlerArea : Nat := 256 * 1024
/-- Depth of the host interrupt mailbox (R342). -/
abbrev mailboxDepth : Nat := 64
/-- Depth of a die's Quadrille ring (R346). -/
abbrev quadDepth : Nat := 4096
/-- CCLK cycles in a microsecond (R15). -/
abbrev usCycles : Nat := 700
/-- MSI-X entries of a function: IRQVEC and FAULTVEC stand below it (R338; log entry 8). -/
abbrev msixTable : Nat := 2048
/-- The base of the local address window (R163). -/
abbrev windowBase : Nat := 0xFFFFFF0000000000

/-- The functions whose FP32 results the spec only bounds (R138). -/
inductive Approx
  | rcp | rsq | exp2 | log2 | sin | cos
  deriving DecidableEq, Repr

/-- The FP32 pattern an approximate function delivers for an input pattern; it is used only where it meets the
bound of R138 (log entry 5). -/
opaque approx : Approx → W32 → W32

/-- Which of a halted team's outstanding operations are performed: drawn by a counter (R309; log entry 5). -/
opaque haltPerforms : Nat → Bool

/-- Whether the private region that a team's groups need cannot be allocated: by its bytes, drawn by a counter (R28; log entry 40). -/
opaque pinFails : Nat → Nat → Bool

/-- What a byte that an uncorrectable read returned holds, drawn by a counter (R183, R326; log entry 5). -/
opaque poisonByte : Nat → Byte

/-- Whether another module refuses an access to an address of its own at a time: a lost die, an empty socket (R166, R167; log
entry 9). -/
opaque farRefuses : Nat → Nat → Bool

/-- What a read gives where the spec gives a program's access no value: drawn by a counter (R28, R315; log entry 5). -/
opaque freeByte : Nat → Byte

/-- The attestation key that a start derives from the identity key and the measurements (R361; log entry 76). -/
opaque deriveKey : List Byte → List (List Byte) → List Byte

/-- The answer to an SPDM request (R361; log entry 76): of the attestation key, the certificate chain, the measurements and the
message, with a nonce drawn by a counter. -/
opaque spdm : List Byte → List Byte → List (List Byte) → List Byte → Nat → List Byte

/-- The value of MSI-X vectors, tags and identifiers that only the outside sees (R325, R361; log entry 5). -/
opaque attest : Nat → List Byte

end Sys2Proof.Config
end

