-- ==== Sys2Proof/Decode.lean ====
section
/-! DEFINITION. The decoder and the encoder of instruction words: the header (R53), the common fields (R56), the body
formats (R61), the type tables (R63) and the opcode map (R66). -/
namespace Sys2Proof

/-- Field `[lo+len-1:lo]` of a word. -/
def field (w : W64) (lo len : Nat) : BitVec len := w.extractLsb' lo len

/-- A flag as a one-bit field. -/
def bit (b : Bool) : BitVec 1 := if b then 1 else 0

/-- The parts of a word that every format shares: OPC, LA, HOLDB, HOLDA, PRED, PNEG and the body (R56). -/
structure Word where
  opc  : BitVec 8
  la   : BitVec 4
  hb   : BitVec 1
  ha   : BitVec 1
  pred : BitVec 4
  neg  : BitVec 1
  body : BitVec 45

/-- Splitting a word as R56 does. -/
def Word.of (w : W64) : Word :=
  { opc := field w 56 8, la := field w 52 4, hb := field w 51 1, ha := field w 50 1, pred := field w 46 4,
    neg := field w 45 1, body := field w 0 45 }

/-- The word with these parts (R56). -/
def Word.bits (f : Word) : W64 :=
  BitVec.ofNat 64 (f.opc.toNat * 2 ^ 56 + f.la.toNat * 2 ^ 52 + f.hb.toNat * 2 ^ 51 + f.ha.toNat * 2 ^ 50 +
    f.pred.toNat * 2 ^ 46 + f.neg.toNat * 2 ^ 45 + f.body.toNat)

/-- A block header (R53). -/
structure Header where
  len     : BitVec 10
  live    : BitVec 8
  entry   : Bool
  handler : Bool
  loop    : Bool
  spin    : Bool
  reconv  : BitVec 20
  pf      : BitVec 14
  deriving DecidableEq, Repr

/-- The header in a word whose OPC is 0x00 (R53); no header otherwise. -/
def headerOf (w : W64) : Option Header :=
  if field w 56 8 = 0 then
    some { len := field w 46 10, live := field w 38 8, entry := field w 37 1 = 1, handler := field w 36 1 = 1,
           loop := field w 35 1 = 1, spin := field w 34 1 = 1, reconv := field w 14 20, pf := field w 0 14 }
  else none

/-- The word of a header (R53). -/
def Header.bits (h : Header) : W64 :=
  BitVec.ofNat 64 (h.len.toNat * 2 ^ 46 + h.live.toNat * 2 ^ 38 + h.entry.toNat * 2 ^ 37 + h.handler.toNat * 2 ^ 36 +
    h.loop.toNat * 2 ^ 35 + h.spin.toNat * 2 ^ 34 + h.reconv.toNat * 2 ^ 14 + h.pf.toNat)

/-- LA, holds and predicate as an instruction carries them. -/
def Word.head (f : Word) : Head :=
  { la := f.la, hb := f.hb = 1, ha := f.ha = 1, pred := f.pred, neg := f.neg = 1 }

/-- The VR format (R61). -/
structure FVR where
  vd : BitVec 8
  va : BitVec 8
  vb : BitVec 8
  vc : BitVec 8
  ty : BitVec 4
  fn : BitVec 9

/-- The fields of a VR body (R61). -/
def FVR.of (b : BitVec 45) : FVR :=
  { vd := b.extractLsb' 37 8, va := b.extractLsb' 29 8, vb := b.extractLsb' 21 8, vc := b.extractLsb' 13 8,
    ty := b.extractLsb' 9 4, fn := b.extractLsb' 0 9 }

/-- The VR body of the fields (R61). -/
def FVR.bits (f : FVR) : BitVec 45 :=
  BitVec.ofNat 45 (f.vd.toNat * 2 ^ 37 + f.va.toNat * 2 ^ 29 + f.vb.toNat * 2 ^ 21 + f.vc.toNat * 2 ^ 13 + f.ty.toNat * 2 ^ 9 + f.fn.toNat)

/-- The VI format (R61). -/
structure FVI where
  vd  : BitVec 8
  va  : BitVec 8
  ty  : BitVec 4
  imm : BitVec 25

/-- The fields of a VI body (R61). -/
def FVI.of (b : BitVec 45) : FVI :=
  { vd := b.extractLsb' 37 8, va := b.extractLsb' 29 8, ty := b.extractLsb' 25 4, imm := b.extractLsb' 0 25 }

/-- The VI body of the fields (R61). -/
def FVI.bits (f : FVI) : BitVec 45 :=
  BitVec.ofNat 45 (f.vd.toNat * 2 ^ 37 + f.va.toNat * 2 ^ 29 + f.ty.toNat * 2 ^ 25 + f.imm.toNat)

/-- The VL format (R61). -/
structure FVL where
  vd  : BitVec 8
  ty  : BitVec 4
  rsv : BitVec 1
  imm : BitVec 32

/-- The fields of a VL body (R61). -/
def FVL.of (b : BitVec 45) : FVL :=
  { vd := b.extractLsb' 37 8, ty := b.extractLsb' 33 4, rsv := b.extractLsb' 32 1, imm := b.extractLsb' 0 32 }

/-- The VL body of the fields (R61). -/
def FVL.bits (f : FVL) : BitVec 45 :=
  BitVec.ofNat 45 (f.vd.toNat * 2 ^ 37 + f.ty.toNat * 2 ^ 33 + f.rsv.toNat * 2 ^ 32 + f.imm.toNat)

/-- The SR format (R61). -/
structure FSR where
  sd : BitVec 6
  sa : BitVec 6
  sb : BitVec 6
  sc : BitVec 6
  ty : BitVec 4
  fn : BitVec 17

/-- The fields of a SR body (R61). -/
def FSR.of (b : BitVec 45) : FSR :=
  { sd := b.extractLsb' 39 6, sa := b.extractLsb' 33 6, sb := b.extractLsb' 27 6, sc := b.extractLsb' 21 6,
    ty := b.extractLsb' 17 4, fn := b.extractLsb' 0 17 }

/-- The SR body of the fields (R61). -/
def FSR.bits (f : FSR) : BitVec 45 :=
  BitVec.ofNat 45 (f.sd.toNat * 2 ^ 39 + f.sa.toNat * 2 ^ 33 + f.sb.toNat * 2 ^ 27 + f.sc.toNat * 2 ^ 21 + f.ty.toNat * 2 ^ 17 + f.fn.toNat)

/-- The SI format (R61). -/
structure FSI where
  sd  : BitVec 6
  sa  : BitVec 6
  imm : BitVec 33

/-- The fields of a SI body (R61). -/
def FSI.of (b : BitVec 45) : FSI :=
  { sd := b.extractLsb' 39 6, sa := b.extractLsb' 33 6, imm := b.extractLsb' 0 33 }

/-- The SI body of the fields (R61). -/
def FSI.bits (f : FSI) : BitVec 45 :=
  BitVec.ofNat 45 (f.sd.toNat * 2 ^ 39 + f.sa.toNat * 2 ^ 33 + f.imm.toNat)

/-- The SL format (R61). -/
structure FSL where
  sd  : BitVec 6
  hi  : BitVec 1
  rsv : BitVec 6
  imm : BitVec 32

/-- The fields of a SL body (R61). -/
def FSL.of (b : BitVec 45) : FSL :=
  { sd := b.extractLsb' 39 6, hi := b.extractLsb' 38 1, rsv := b.extractLsb' 32 6, imm := b.extractLsb' 0 32 }

/-- The SL body of the fields (R61). -/
def FSL.bits (f : FSL) : BitVec 45 :=
  BitVec.ofNat 45 (f.sd.toNat * 2 ^ 39 + f.hi.toNat * 2 ^ 38 + f.rsv.toNat * 2 ^ 32 + f.imm.toNat)

/-- The MR format (R61). -/
structure FMR where
  md : BitVec 4
  ma : BitVec 4
  mb : BitVec 4
  va : BitVec 8
  vb : BitVec 8
  ty : BitVec 4
  cc : BitVec 4
  fn : BitVec 9

/-- The fields of a MR body (R61). -/
def FMR.of (b : BitVec 45) : FMR :=
  { md := b.extractLsb' 41 4, ma := b.extractLsb' 37 4, mb := b.extractLsb' 33 4, va := b.extractLsb' 25 8,
    vb := b.extractLsb' 17 8, ty := b.extractLsb' 13 4, cc := b.extractLsb' 9 4, fn := b.extractLsb' 0 9 }

/-- The MR body of the fields (R61). -/
def FMR.bits (f : FMR) : BitVec 45 :=
  BitVec.ofNat 45 (f.md.toNat * 2 ^ 41 + f.ma.toNat * 2 ^ 37 + f.mb.toNat * 2 ^ 33 + f.va.toNat * 2 ^ 25 + f.vb.toNat * 2 ^ 17 + f.ty.toNat * 2 ^ 13 + f.cc.toNat * 2 ^ 9 + f.fn.toNat)

/-- The MEM format (R61). -/
structure FME where
  data  : BitVec 8
  base  : BitVec 6
  index : BitVec 8
  size  : BitVec 3
  scope : BitVec 3
  ord   : BitVec 2
  ch    : BitVec 2
  hdv   : BitVec 1
  hd    : BitVec 4
  off   : BitVec 8

/-- The fields of a MEM body (R61). -/
def FME.of (b : BitVec 45) : FME :=
  { data := b.extractLsb' 37 8, base := b.extractLsb' 31 6, index := b.extractLsb' 23 8, size := b.extractLsb' 20 3,
    scope := b.extractLsb' 17 3, ord := b.extractLsb' 15 2, ch := b.extractLsb' 13 2, hdv := b.extractLsb' 12 1,
    hd := b.extractLsb' 8 4, off := b.extractLsb' 0 8 }

/-- The MEM body of the fields (R61). -/
def FME.bits (f : FME) : BitVec 45 :=
  BitVec.ofNat 45 (f.data.toNat * 2 ^ 37 + f.base.toNat * 2 ^ 31 + f.index.toNat * 2 ^ 23 + f.size.toNat * 2 ^ 20 + f.scope.toNat * 2 ^ 17 + f.ord.toNat * 2 ^ 15 + f.ch.toNat * 2 ^ 13 + f.hdv.toNat * 2 ^ 12 + f.hd.toNat * 2 ^ 8 + f.off.toNat)

/-- The BR format (R61). -/
structure FBR where
  sa   : BitVec 6
  ma   : BitVec 4
  cc   : BitVec 3
  disp : BitVec 32

/-- The fields of a BR body (R61). -/
def FBR.of (b : BitVec 45) : FBR :=
  { sa := b.extractLsb' 39 6, ma := b.extractLsb' 35 4, cc := b.extractLsb' 32 3, disp := b.extractLsb' 0 32 }

/-- The BR body of the fields (R61). -/
def FBR.bits (f : FBR) : BitVec 45 :=
  BitVec.ofNat 45 (f.sa.toNat * 2 ^ 39 + f.ma.toNat * 2 ^ 35 + f.cc.toNat * 2 ^ 32 + f.disp.toNat)

/-- The MX format (R61). -/
structure FMX where
  zd   : BitVec 5
  sa   : BitVec 6
  sb   : BitVec 6
  sk   : BitVec 6
  strm : BitVec 2
  tya  : BitVec 4
  tyb  : BitVec 4
  mode : BitVec 4
  fn   : BitVec 8

/-- The fields of a MX body (R61). -/
def FMX.of (b : BitVec 45) : FMX :=
  { zd := b.extractLsb' 40 5, sa := b.extractLsb' 34 6, sb := b.extractLsb' 28 6, sk := b.extractLsb' 22 6,
    strm := b.extractLsb' 20 2, tya := b.extractLsb' 16 4, tyb := b.extractLsb' 12 4, mode := b.extractLsb' 8 4,
    fn := b.extractLsb' 0 8 }

/-- The MX body of the fields (R61). -/
def FMX.bits (f : FMX) : BitVec 45 :=
  BitVec.ofNat 45 (f.zd.toNat * 2 ^ 40 + f.sa.toNat * 2 ^ 34 + f.sb.toNat * 2 ^ 28 + f.sk.toNat * 2 ^ 22 + f.strm.toNat * 2 ^ 20 + f.tya.toNat * 2 ^ 16 + f.tyb.toNat * 2 ^ 12 + f.mode.toNat * 2 ^ 8 + f.fn.toNat)

/-- The SYS format (R61). -/
structure FSY where
  sd  : BitVec 6
  sa  : BitVec 6
  reg : BitVec 12
  fn  : BitVec 21

/-- The fields of a SYS body (R61). -/
def FSY.of (b : BitVec 45) : FSY :=
  { sd := b.extractLsb' 39 6, sa := b.extractLsb' 33 6, reg := b.extractLsb' 21 12, fn := b.extractLsb' 0 21 }

/-- The SYS body of the fields (R61). -/
def FSY.bits (f : FSY) : BitVec 45 :=
  BitVec.ofNat 45 (f.sd.toNat * 2 ^ 39 + f.sa.toNat * 2 ^ 33 + f.reg.toNat * 2 ^ 21 + f.fn.toNat)

/-- The Q format (R61). -/
structure FQF where
  sd  : BitVec 6
  sa  : BitVec 6
  sb  : BitVec 6
  sc  : BitVec 6
  imm : BitVec 21

/-- The fields of a Q body (R61). -/
def FQF.of (b : BitVec 45) : FQF :=
  { sd := b.extractLsb' 39 6, sa := b.extractLsb' 33 6, sb := b.extractLsb' 27 6, sc := b.extractLsb' 21 6,
    imm := b.extractLsb' 0 21 }

/-- The Q body of the fields (R61). -/
def FQF.bits (f : FQF) : BitVec 45 :=
  BitVec.ofNat 45 (f.sd.toNat * 2 ^ 39 + f.sa.toNat * 2 ^ 33 + f.sb.toNat * 2 ^ 27 + f.sc.toNat * 2 ^ 21 + f.imm.toNat)

/-- The integer table of TY (R63). -/
def intTy? (c : BitVec 4) : Option IntTy :=
  match c.toNat with
  | 0 => some .i8
  | 1 => some .i16
  | 2 => some .i32
  | 3 => some .i64
  | 4 => some .n8
  | 5 => some .n16
  | 6 => some .n32
  | 7 => some .n64
  | 8 => some .b8
  | 9 => some .b16
  | 10 => some .b32
  | 11 => some .b64
  | 12 => some .b128
  | _ => none

/-- The code of the integer table of TY (R63). -/
def IntTy.code : IntTy → BitVec 4
  | .i8 => 0
  | .i16 => 1
  | .i32 => 2
  | .i64 => 3
  | .n8 => 4
  | .n16 => 5
  | .n32 => 6
  | .n64 => 7
  | .b8 => 8
  | .b16 => 9
  | .b32 => 10
  | .b64 => 11
  | .b128 => 12

/-- The floating table of TY (R63). -/
def fpTy? (c : BitVec 4) : Option FpTy :=
  match c.toNat with
  | 0 => some .f16
  | 1 => some .bf16
  | 2 => some .f32
  | 3 => some .f64
  | 4 => some .e4m3
  | 5 => some .e5m2
  | 6 => some .e2m3
  | 7 => some .e3m2
  | 8 => some .e2m1
  | 9 => some .e8m0
  | _ => none

/-- The code of the floating table of TY (R63). -/
def FpTy.code : FpTy → BitVec 4
  | .f16 => 0
  | .bf16 => 1
  | .f32 => 2
  | .f64 => 3
  | .e4m3 => 4
  | .e5m2 => 5
  | .e2m3 => 6
  | .e3m2 => 7
  | .e2m1 => 8
  | .e8m0 => 9

/-- RM (R62). -/
def roundMode? (c : BitVec 3) : Option RoundMode :=
  match c.toNat with
  | 0 => some .rne
  | 1 => some .rtz
  | 2 => some .rup
  | 3 => some .rdn
  | 4 => some .rna
  | _ => none

/-- The code of rM (R62). -/
def RoundMode.code : RoundMode → BitVec 3
  | .rne => 0
  | .rtz => 1
  | .rup => 2
  | .rdn => 3
  | .rna => 4

/-- SCOPE (R64). -/
def scope? (c : BitVec 3) : Option Scope :=
  match c.toNat with
  | 0 => some .weak
  | 1 => some .grp
  | 2 => some .team
  | 3 => some .die
  | 4 => some .pkg
  | 5 => some .sys
  | _ => none

/-- The code of sCOPE (R64). -/
def Scope.code : Scope → BitVec 3
  | .weak => 0
  | .grp => 1
  | .team => 2
  | .die => 3
  | .pkg => 4
  | .sys => 5

/-- ORD (R64). -/
def memOrd? (c : BitVec 2) : Option MemOrd :=
  match c.toNat with
  | 0 => some .plain
  | 1 => some .acq
  | 2 => some .rel
  | 3 => some .acqrel
  | _ => none

/-- The code of oRD (R64). -/
def MemOrd.code : MemOrd → BitVec 2
  | .plain => 0
  | .acq => 1
  | .rel => 2
  | .acqrel => 3

/-- SIZE (R64). -/
def memSize? (c : BitVec 3) : Option MemSize :=
  match c.toNat with
  | 0 => some .b8
  | 1 => some .b16
  | 2 => some .b32
  | 3 => some .b64
  | 4 => some .b128
  | _ => none

/-- The code of sIZE (R64). -/
def MemSize.code : MemSize → BitVec 3
  | .b8 => 0
  | .b16 => 1
  | .b32 => 2
  | .b64 => 3
  | .b128 => 4

/-- CND and CC of the comparisons (R101, R133). -/
def cnd? (c : BitVec 3) : Option Cnd :=
  match c.toNat with
  | 0 => some .eq
  | 1 => some .ne
  | 2 => some .lt
  | 3 => some .le
  | 4 => some .gt
  | 5 => some .ge
  | _ => none

/-- The code of cND and CC of the comparisons (R101, R133). -/
def Cnd.code : Cnd → BitVec 3
  | .eq => 0
  | .ne => 1
  | .lt => 2
  | .le => 3
  | .gt => 4
  | .ge => 5

/-- CND of `vfcmp` (R140). -/
def fcnd? (c : BitVec 3) : Option FCnd :=
  match c.toNat with
  | 0 => some .eq
  | 1 => some .ne
  | 2 => some .lt
  | 3 => some .le
  | 4 => some .gt
  | 5 => some .ge
  | 6 => some .un
  | 7 => some .ord
  | _ => none

/-- The code of cND of `vfcmp` (R140). -/
def FCnd.code : FCnd → BitVec 3
  | .eq => 0
  | .ne => 1
  | .lt => 2
  | .le => 3
  | .gt => 4
  | .ge => 5
  | .un => 6
  | .ord => 7

/-- AOP (R220). -/
def atomOp? (c : BitVec 8) : Option AtomOp :=
  match c.toNat with
  | 0 => some .exch
  | 1 => some .add
  | 2 => some .and
  | 3 => some .or
  | 4 => some .xor
  | 5 => some .smin
  | 6 => some .smax
  | 7 => some .umin
  | 8 => some .umax
  | _ => none

/-- The code of aOP (R220). -/
def AtomOp.code : AtomOp → BitVec 8
  | .exch => 0
  | .add => 1
  | .and => 2
  | .or => 3
  | .xor => 4
  | .smin => 5
  | .smax => 6
  | .umin => 7
  | .umax => 8

/-- The operation of `vscan` and `vred` (R152). -/
def scanOp? (c : BitVec 3) : Option ScanOp :=
  match c.toNat with
  | 0 => some .add
  | 1 => some .min
  | 2 => some .max
  | 3 => some .and
  | 4 => some .or
  | 5 => some .xor
  | _ => none

/-- The code of the operation of `vscan` and `vred` (R152). -/
def ScanOp.code : ScanOp → BitVec 3
  | .add => 0
  | .min => 1
  | .max => 2
  | .and => 3
  | .or => 4
  | .xor => 5

/-- TYA and TYB of MX: code 10 selects INT8 or INT32 (R63, R237). -/
def matTy? (c : BitVec 4) : Option MatTy :=
  if c = 10 then some .int else (fpTy? c).map .fp

/-- The code of a matrix type. -/
def MatTy.code : MatTy → BitVec 4
  | .fp t => t.code
  | .int => 10

/-- A field that must hold a value of a table (R62, R63). -/
def want {α : Type} (o : Option α) (k : α → Except Reject Instr) : Except Reject Instr :=
  match o with
  | some a => k a
  | none => .error .reservedValue

/-- Fields that must be zero (R61, R62). -/
def zero (b : Bool) (k : Except Reject Instr) : Except Reject Instr := if b then k else .error .reservedField

/-- A word that carries neither holds nor a predicate, nor LA (R57, R58, R60). -/
def plain (f : Word) (k : Except Reject Instr) : Except Reject Instr :=
  if f.la ≠ 0 then .error .laNotAdmitted
  else if f.hb ≠ 0 ∨ f.ha ≠ 0 then .error .holdNotAdmitted
  else if f.pred ≠ 0 ∨ f.neg ≠ 0 then .error .predNotAdmitted
  else k

/-- A long-latency word that carries neither holds nor a predicate. -/
def laOnly (f : Word) (k : BitVec 4 → Except Reject Instr) : Except Reject Instr :=
  if f.hb ≠ 0 ∨ f.ha ≠ 0 then .error .holdNotAdmitted
  else if f.pred ≠ 0 ∨ f.neg ≠ 0 then .error .predNotAdmitted
  else k f.la

/-- A word with no LA and no predicate, with at most one of the holds: `a` picks HOLDA, else HOLDB (R60, R146). -/
def holdOnly (a : Bool) (f : Word) (k : Bool → Except Reject Instr) : Except Reject Instr :=
  if f.la ≠ 0 then .error .laNotAdmitted
  else if f.pred ≠ 0 ∨ f.neg ≠ 0 then .error .predNotAdmitted
  else if a then (if f.hb ≠ 0 then .error .holdNotAdmitted else k (f.ha = 1))
  else (if f.ha ≠ 0 then .error .holdNotAdmitted else k (f.hb = 1))

/-- The parts of a word with no LA, hold or predicate. -/
def plainWord (opc : BitVec 8) (body : BitVec 45) : W64 :=
  Word.bits { opc := opc, la := 0, hb := 0, ha := 0, pred := 0, neg := 0, body := body }

/-- The word of an instruction with a `Head`. -/
def headWord (opc : BitVec 8) (h : Head) (body : BitVec 45) : W64 :=
  Word.bits { opc := opc, la := h.la, hb := bit h.hb, ha := bit h.ha, pred := h.pred, neg := bit h.neg, body := body }

/-- The word of a long-latency instruction without a predicate. -/
def laWord (opc : BitVec 8) (la : BitVec 4) (body : BitVec 45) : W64 :=
  Word.bits { opc := opc, la := la, hb := 0, ha := 0, pred := 0, neg := 0, body := body }

/-- The word of a collective: one hold and no predicate. -/
def holdWord (opc : BitVec 8) (a : Bool) (h : Bool) (body : BitVec 45) : W64 :=
  Word.bits { opc := opc, la := 0, hb := bit (!a && h), ha := bit (a && h), pred := 0, neg := 0, body := body }

/-- The low six bits of a vector field that names a scalar register (R62). -/
def asSReg (v : BitVec 8) (k : SReg → Except Reject Instr) : Except Reject Instr :=
  zero (v.extractLsb' 6 2 == 0) (k (v.setWidth 6))

/-! The shapes of the encodings: for each, how a word is read and how it is written. -/

/-- SR with SAT in FN[0] (R101). -/
def rdSss (mk : IntTy → SReg → SReg → SReg → Bool → Instr) (w : Word) : Except Reject Instr :=
  let f := FSR.of w.body
  plain w <| want (intTy? f.ty) fun ty =>
  zero (f.sc == 0 && decide (f.fn.toNat < 2)) <| .ok (mk ty f.sd f.sa f.sb (f.fn = 1))

/-- The word of that shape. -/
def wrSss (opc : BitVec 8) (ty : IntTy) (sd sa sb : SReg) (sat : Bool) : W64 :=
  plainWord opc (FSR.bits { sd, sa, sb, sc := 0, ty := ty.code, fn := if sat then 1 else 0 })

/-- SR with two sources (R101). -/
def rdSs (mk : IntTy → SReg → SReg → SReg → Instr) (w : Word) : Except Reject Instr :=
  let f := FSR.of w.body
  plain w <| want (intTy? f.ty) fun ty =>
  zero (f.sc == 0 && f.fn == 0) <| .ok (mk ty f.sd f.sa f.sb)

/-- The word of that shape. -/
def wrSs (opc : BitVec 8) (ty : IntTy) (sd sa sb : SReg) : W64 :=
  plainWord opc (FSR.bits { sd, sa, sb, sc := 0, ty := ty.code, fn := 0 })

/-- SR, long-latency, with two sources (R101). -/
def rdSl (mk : BitVec 4 → IntTy → SReg → SReg → SReg → Instr) (w : Word) : Except Reject Instr :=
  let f := FSR.of w.body
  laOnly w fun la => want (intTy? f.ty) fun ty =>
  zero (f.sc == 0 && f.fn == 0) <| .ok (mk la ty f.sd f.sa f.sb)

/-- The word of that shape. -/
def wrSl (opc : BitVec 8) (la : BitVec 4) (ty : IntTy) (sd sa sb : SReg) : W64 :=
  laWord opc la (FSR.bits { sd, sa, sb, sc := 0, ty := ty.code, fn := 0 })

/-- SR with one source (R101). -/
def rdS1 (mk : IntTy → SReg → SReg → Instr) (w : Word) : Except Reject Instr :=
  let f := FSR.of w.body
  plain w <| want (intTy? f.ty) fun ty =>
  zero (f.sb == 0 && f.sc == 0 && f.fn == 0) <| .ok (mk ty f.sd f.sa)

/-- The word of that shape. -/
def wrS1 (opc : BitVec 8) (ty : IntTy) (sd sa : SReg) : W64 :=
  plainWord opc (FSR.bits { sd, sa, sb := 0, sc := 0, ty := ty.code, fn := 0 })

/-- SR with POS and LENM1 (R103). -/
def rdSbf (mk : IntTy → SReg → SReg → SReg → BitVec 6 → BitVec 6 → Except Reject Instr) (w : Word) : Except Reject Instr :=
  let f := FSR.of w.body
  plain w <| want (intTy? f.ty) fun ty =>
  zero (f.sc == 0 && f.fn.extractLsb' 12 5 == 0) <| mk ty f.sd f.sa f.sb (f.fn.setWidth 6) (f.fn.extractLsb' 6 6)

/-- The word of that shape. -/
def wrSbf (opc : BitVec 8) (ty : IntTy) (sd sa sb : SReg) (pos l : BitVec 6) : W64 :=
  plainWord opc (FSR.bits { sd, sa, sb, sc := 0, ty := ty.code, fn := BitVec.ofNat 17 (l.toNat * 2 ^ 6 + pos.toNat) })

/-- SI (R104). -/
def rdSi (mk : SReg → SReg → BitVec 33 → Instr) (w : Word) : Except Reject Instr :=
  let f := FSI.of w.body
  plain w <| .ok (mk f.sd f.sa f.imm)

/-- The word of that shape. -/
def wrSi (opc : BitVec 8) (sd sa : SReg) (imm : BitVec 33) : W64 :=
  plainWord opc (FSI.bits { sd, sa, imm })

/-- SR with TY and SC zero, used by control, barrier, ring and system instructions. -/
def rdSr (mk : SReg → SReg → SReg → BitVec 17 → Except Reject Instr) (w : Word) : Except Reject Instr :=
  let f := FSR.of w.body
  plain w <| zero (f.sc == 0 && f.ty == 0) <| mk f.sd f.sa f.sb f.fn

/-- The word of that shape. -/
def wrSr (opc : BitVec 8) (sd sa sb : SReg) (fn : BitVec 17) : W64 :=
  plainWord opc (FSR.bits { sd, sa, sb, sc := 0, ty := 0, fn })

/-- SR whose TY carries a scope (R227, R228). -/
def rdStl (mk : Scope → SReg → SReg → SReg → Instr) (w : Word) : Except Reject Instr :=
  let f := FSR.of w.body
  plain w <| want (scope? (f.ty.setWidth 3)) fun s =>
  zero (f.ty.extractLsb' 3 1 == 0 && f.sc == 0 && f.fn == 0) <| .ok (mk s f.sd f.sa f.sb)

/-- The word of that shape. -/
def wrStl (opc : BitVec 8) (s : Scope) (sd sa sb : SReg) : W64 :=
  plainWord opc (FSR.bits { sd, sa, sb, sc := 0, ty := s.code.setWidth 4, fn := 0 })

/-- VR with SAT in FN[0] (R126). -/
def rdVs (mk : Head → IntTy → VReg → VReg → VReg → Bool → Instr) (w : Word) : Except Reject Instr :=
  let f := FVR.of w.body
  want (intTy? f.ty) fun ty =>
  zero (f.vc == 0 && decide (f.fn.toNat < 2)) <| .ok (mk w.head ty f.vd f.va f.vb (f.fn = 1))

/-- The word of that shape. -/
def wrVs (opc : BitVec 8) (h : Head) (ty : IntTy) (vd va vb : VReg) (sat : Bool) : W64 :=
  headWord opc h (FVR.bits { vd, va, vb, vc := 0, ty := ty.code, fn := if sat then 1 else 0 })

/-- VR with three sources and SAT (R126). -/
def rdV4 (mk : Head → IntTy → VReg → VReg → VReg → VReg → Bool → Instr) (w : Word) : Except Reject Instr :=
  let f := FVR.of w.body
  want (intTy? f.ty) fun ty =>
  zero (decide (f.fn.toNat < 2)) <| .ok (mk w.head ty f.vd f.va f.vb f.vc (f.fn = 1))

/-- The word of that shape. -/
def wrV4 (opc : BitVec 8) (h : Head) (ty : IntTy) (vd va vb vc : VReg) (sat : Bool) : W64 :=
  headWord opc h (FVR.bits { vd, va, vb, vc, ty := ty.code, fn := if sat then 1 else 0 })

/-- VR under the integer table, the remaining fields given to the instruction (R126). -/
def rdVec (mk : Head → IntTy → VReg → VReg → VReg → VReg → BitVec 9 → Except Reject Instr) (w : Word) : Except Reject Instr :=
  let f := FVR.of w.body
  want (intTy? f.ty) fun ty => mk w.head ty f.vd f.va f.vb f.vc f.fn

/-- The word of that shape. -/
def wrVec (opc : BitVec 8) (h : Head) (ty : IntTy) (vd va vb vc : VReg) (fn : BitVec 9) : W64 :=
  headWord opc h (FVR.bits { vd, va, vb, vc, ty := ty.code, fn })

/-- VR under the floating table, the remaining fields given to the instruction (R135). -/
def rdF (mk : Head → FpTy → VReg → VReg → VReg → VReg → BitVec 9 → Except Reject Instr) (w : Word) : Except Reject Instr :=
  let f := FVR.of w.body
  want (fpTy? f.ty) fun ty => mk w.head ty f.vd f.va f.vb f.vc f.fn

/-- The word of that shape. -/
def wrF (opc : BitVec 8) (h : Head) (ty : FpTy) (vd va vb vc : VReg) (fn : BitVec 9) : W64 :=
  headWord opc h (FVR.bits { vd, va, vb, vc, ty := ty.code, fn })

/-- VI (R131). -/
def rdVi (mk : Head → IntTy → VReg → VReg → BitVec 25 → Instr) (w : Word) : Except Reject Instr :=
  let f := FVI.of w.body
  want (intTy? f.ty) fun ty => .ok (mk w.head ty f.vd f.va f.imm)

/-- The word of that shape. -/
def wrVi (opc : BitVec 8) (h : Head) (ty : IntTy) (vd va : VReg) (imm : BitVec 25) : W64 :=
  headWord opc h (FVI.bits { vd, va, ty := ty.code, imm })

/-- MR of the mask instructions (R134). -/
def rdMm (mk : Head → MReg → MReg → MReg → BitVec 8 → BitVec 9 → Except Reject Instr) (w : Word) : Except Reject Instr :=
  let f := FMR.of w.body
  zero (f.vb == 0 && f.ty == 0 && f.cc == 0) <| mk w.head f.md f.ma f.mb f.va f.fn

/-- The word of that shape. -/
def wrMm (opc : BitVec 8) (h : Head) (md ma mb : MReg) (va : BitVec 8) (fn : BitVec 9) : W64 :=
  headWord opc h (FMR.bits { md, ma, mb, va, vb := 0, ty := 0, cc := 0, fn })

/-- MR of the collectives (R150). -/
def rdCo (mk : MReg → MReg → MReg → BitVec 8 → BitVec 8 → BitVec 4 → BitVec 9 → Except Reject Instr) (w : Word) : Except Reject Instr :=
  let f := FMR.of w.body
  zero (f.cc == 0) <| mk f.md f.ma f.mb f.va f.vb f.ty f.fn

/-- The word of that shape. -/
def wrCo (opc : BitVec 8) (a h : Bool) (md ma mb : MReg) (va vb : BitVec 8) (ty : BitVec 4) (fn : BitVec 9) : W64 :=
  holdWord opc a h (FMR.bits { md, ma, mb, va, vb, ty, cc := 0, fn })

/-- A MEM body as the instruction carries it (R64). -/
def memArg? (b : BitVec 45) : Except Reject MemArg :=
  let f := FME.of b
  match memSize? f.size, scope? f.scope, memOrd? f.ord with
  | some size, some scope, some ord =>
    .ok { data := f.data, base := f.base, index := f.index, size, scope, ord, ch := f.ch, hdv := f.hdv = 1, hd := f.hd,
          off := f.off }
  | _, _, _ => .error .reservedValue

/-- The MEM body of an instruction. -/
def MemArg.bits (m : MemArg) : BitVec 45 :=
  FME.bits { data := m.data, base := m.base, index := m.index, size := m.size.code, scope := m.scope.code,
             ord := m.ord.code, ch := m.ch, hdv := bit m.hdv, hd := m.hd, off := m.off }

/-- A MEM instruction. -/
def rdMem (mk : MemArg → Except Reject Instr) (w : Word) : Except Reject Instr :=
  match memArg? w.body with
  | .ok m => mk m
  | .error r => .error r

/-- A MEM instruction whose OFF8 is an AOP (R220); the offset it carries is then 0. -/
def rdAop (mk : AtomOp → MemArg → Except Reject Instr) (w : Word) : Except Reject Instr :=
  rdMem (fun m => want (atomOp? m.off) fun op => mk op { m with off := 0 }) w

/-- RM alone in FN (R62, R135). -/
def rmOnly (fn : BitVec 9) (k : RoundMode → Except Reject Instr) : Except Reject Instr :=
  zero (fn.extractLsb' 3 6 == 0) <| want (roundMode? (fn.setWidth 3)) k

/-- The condition of `br` (R106). -/
def brCond (f : FBR) (k : BrCond → Except Reject Instr) : Except Reject Instr :=
  match f.cc.toNat with
  | 0 => zero (f.sa == 0 && f.ma == 0) <| k .always
  | 1 => zero (f.ma == 0) <| k (.z f.sa)
  | 2 => zero (f.ma == 0) <| k (.nz f.sa)
  | 3 => zero (f.ma == 0) <| k (.lt f.sa)
  | 4 => zero (f.ma == 0) <| k (.ge f.sa)
  | 5 => zero (f.sa == 0) <| k (.any f.ma)
  | 6 => zero (f.sa == 0) <| k (.all f.ma)
  | _ => zero (f.sa == 0) <| k (.none f.ma)

/-- The BR fields of a condition. -/
def BrCond.body (c : BrCond) (disp : W32) : BitVec 45 :=
  match c with
  | .always => FBR.bits { sa := 0, ma := 0, cc := 0, disp }
  | .z sa => FBR.bits { sa, ma := 0, cc := 1, disp }
  | .nz sa => FBR.bits { sa, ma := 0, cc := 2, disp }
  | .lt sa => FBR.bits { sa, ma := 0, cc := 3, disp }
  | .ge sa => FBR.bits { sa, ma := 0, cc := 4, disp }
  | .any ma => FBR.bits { sa := 0, ma, cc := 5, disp }
  | .all ma => FBR.bits { sa := 0, ma, cc := 6, disp }
  | .none ma => FBR.bits { sa := 0, ma, cc := 7, disp }

/-- OPC 0x01 to 0x0F: control and system registers (R106 to R115). -/
def parseControl (o : Nat) (w : Word) : Except Reject Instr :=
  let f := FBR.of w.body
  let q := FQF.of w.body
  let y := FSY.of w.body
  let i := FSI.of w.body
  match o with
  | 0x01 => plain w <| brCond f fun c => .ok (.br c f.disp)
  | 0x02 => plain w <| zero (f.sa == 0 && decide (f.cc.toNat < 2)) <| .ok (.brm (f.cc = 1) f.ma f.disp)
  | 0x03 => rdSr (fun sd sa sb fn => zero (sd == 0 && sb == 0 && fn == 0) <| .ok (.jmpi sa)) w
  | 0x04 => plain w <| zero (f.ma == 0 && f.cc == 0) <| .ok (.call f.sa f.disp)
  | 0x05 => rdSr (fun sd sa sb fn => zero (sb == 0 && fn == 0) <| .ok (.calli sd sa)) w
  | 0x06 => rdSr (fun sd sa sb fn => zero (sd == 0 && sb == 0 && fn == 0) <| .ok (.ret sa)) w
  | 0x07 => rdSr (fun sd sa sb fn => zero (sd == 0 && sa == 0 && sb == 0 && fn == 0) <| .ok .exit) w
  | 0x08 => plain w <| zero (q.sc == 0 && q.imm.extractLsb' 7 14 == 0) <|
      .ok (.spawn q.sd q.sa q.sb (q.imm.setWidth 4) (q.imm.extractLsb' 4 3))
  | 0x09 => rdSr (fun sd sa sb fn => zero (sd == 0 && sa == 0 && sb == 0 && fn == 0) <| .ok .yield) w
  | 0x0A => rdSr (fun sd sa sb fn => zero (sd == 0 && sa == 0 && sb == 0 && fn == 0) <| .ok .nop) w
  | 0x0B => plain w <| zero (i.sd == 0 && i.sa == 0) <| .ok (.trap i.imm)
  | 0x0C => plain w <| zero (i.sd == 0 && i.sa == 0) <| .ok (.brk i.imm)
  | 0x0D => plain w <| zero (y.sa == 0 && y.fn == 0) <| .ok (.mfs y.sd y.reg)
  | 0x0E => plain w <| zero (y.sd == 0 && y.fn == 0) <| .ok (.mts y.reg y.sa)
  | _ => .error .reservedOpcode

/-- OPC 0x10 to 0x2F: the scalar instructions (R101 to R105). -/
def parseScalar (o : Nat) (w : Word) : Except Reject Instr :=
  let f := FSR.of w.body
  let l := FSL.of w.body
  match o with
  | 0x10 => rdSss .sadd w
  | 0x11 => rdSss .ssub w
  | 0x12 => rdSss .smul w
  | 0x13 => rdSs .smulh w
  | 0x14 => rdSl .sdiv w
  | 0x15 => rdSl .srem w
  | 0x16 => rdSs .sand w
  | 0x17 => rdSs .sor w
  | 0x18 => rdSs .sxor w
  | 0x19 => rdSs .sandn w
  | 0x1A => rdSs .sshl w
  | 0x1B => rdSs .sshr w
  | 0x1C => rdSs .ssra w
  | 0x1D => rdSs .srot w
  | 0x1E => rdSs .smin w
  | 0x1F => rdSs .smax w
  | 0x20 => rdS1 .sclz w
  | 0x21 => rdS1 .spopc w
  | 0x22 => rdSbf (fun ty sd sa sb pos l => zero (sb == 0) <| .ok (.sbfe ty sd sa pos l)) w
  | 0x23 => rdSbf (fun ty sd sa sb pos l => .ok (.sbfi ty sd sa sb pos l)) w
  | 0x24 => plain w <| zero (f.ty == 11 && f.fn == 0) <| .ok (.ssel f.sd f.sa f.sb f.sc)
  | 0x25 => plain w <| want (intTy? f.ty) fun ty => want (cnd? (f.fn.setWidth 3)) fun c =>
      zero (f.sc == 0 && f.fn.extractLsb' 3 14 == 0) <| .ok (.scmp ty c f.sd f.sa f.sb)
  | 0x26 => plain w <| zero (f.ty == 11 && f.sb == 0 && f.sc == 0 && f.fn == 0) <| .ok (.smov f.sd f.sa)
  | 0x27 => plain w <| zero (l.rsv == 0) <| .ok (if l.hi = 1 then .sliHi l.sd l.imm else .sli l.sd l.imm)
  | 0x28 => rdSi .saddImm w
  | 0x29 => rdSi .smulImm w
  | 0x2A => rdSi .sandImm w
  | 0x2B => rdSi .sorImm w
  | 0x2C => rdSi .sxorImm w
  | 0x2D => rdSi .sshlImm w
  | 0x2E => rdSi .sshrImm w
  | 0x2F => rdSi .ssraImm w
  | _ => .error .reservedOpcode

/-- OPC 0x30 to 0x5F: vector integer, moves and immediate forms (R126 to R132). -/
def parseVector (o : Nat) (w : Word) : Except Reject Instr :=
  let l := FVL.of w.body
  let two := fun (mk : Head → IntTy → VReg → VReg → VReg → Instr) =>
    rdVec (fun h ty vd va vb vc fn => zero (vc == 0 && fn == 0) <| .ok (mk h ty vd va vb)) w
  let one := fun (mk : Head → IntTy → VReg → VReg → Instr) =>
    rdVec (fun h ty vd va vb vc fn => zero (vb == 0 && vc == 0 && fn == 0) <| .ok (mk h ty vd va)) w
  let sat1 := fun (mk : Head → IntTy → VReg → VReg → Bool → Instr) =>
    rdVec (fun h ty vd va vb vc fn => zero (vb == 0 && vc == 0 && decide (fn.toNat < 2)) <|
      .ok (mk h ty vd va (fn = 1))) w
  match o with
  | 0x30 => rdVs .vadd w
  | 0x31 => rdVs .vsub w
  | 0x32 => rdVs .vmul w
  | 0x33 => two .vmulh
  | 0x34 => rdV4 .vmad w
  | 0x35 => two .vand
  | 0x36 => two .vor
  | 0x37 => two .vxor
  | 0x38 => two .vandn
  | 0x39 => one .vnot
  | 0x3A => two .vshl
  | 0x3B => two .vshr
  | 0x3C => two .vsra
  | 0x3D => two .vmin
  | 0x3E => two .vmax
  | 0x3F => sat1 .vabs
  | 0x40 => sat1 .vneg
  | 0x41 => one .vclz
  | 0x42 => one .vpopc
  | 0x43 => one .vbrev
  | 0x44 => rdVec (fun h ty vd va vb vc fn => zero (vb == 0 && fn == 0) <| .ok (.vbfe h ty vd va vc)) w
  | 0x45 => rdVec (fun h ty vd va vb vc fn => zero (ty == .b32 && fn == 0) <| .ok (.vbfi h vd va vb vc)) w
  | 0x46 => rdVec (fun h ty vd va vb vc fn => zero (ty == .n32 && vc == 0 && fn.extractLsb' 4 5 == 0) <|
      .ok (.vaddc h vd va vb (fn.setWidth 4))) w
  | 0x47 => rdVec (fun h ty vd va vb vc fn => zero (ty == .n32 && vc == 0 && fn.extractLsb' 4 5 == 0) <|
      .ok (.vsubb h vd va vb (fn.setWidth 4))) w
  | 0x48 => rdVec (fun h ty vd va vb vc fn => zero (ty == .b32 && decide (fn.toNat < 4)) <|
      .ok (.vclmul h vd va vb vc (fn.extractLsb' 0 1 = 1) (fn.extractLsb' 1 1 = 1))) w
  | 0x49 => one .vmov
  | 0x4A => zero (l.ty == 10 && l.rsv == 0) <| .ok (.vli w.head l.vd l.imm)
  | 0x4B => rdVec (fun h ty vd va vb vc fn => zero (vc == 0 && fn.extractLsb' 4 5 == 0) <|
      .ok (.vsel h ty vd va vb (fn.setWidth 4))) w
  | 0x4C => rdVec (fun h ty vd va vb vc fn => zero (vb == 0 && vc == 0 && fn == 0) <|
      asSReg va fun s => .ok (.vbcast h ty vd s)) w
  | 0x4D => rdVec (fun h ty vd va vb vc fn => zero (ty == .n32 && va == 0 && vb == 0 && vc == 0 && fn == 0) <|
      .ok (.vlane h vd)) w
  | 0x50 => rdVi .vaddImm w
  | 0x51 => rdVi .vsubImm w
  | 0x52 => rdVi .vmulImm w
  | 0x53 => rdVi .vandImm w
  | 0x54 => rdVi .vorImm w
  | 0x55 => rdVi .vxorImm w
  | 0x56 => rdVi .vshlImm w
  | 0x57 => rdVi .vshrImm w
  | 0x58 => rdVi .vsraImm w
  | 0x59 => rdVi .vminImm w
  | 0x5A => rdVi .vmaxImm w
  | _ => .error .reservedOpcode

/-- OPC 0x60 to 0x7F: vector floating point (R135 to R145). -/
def parseFloat (o : Nat) (w : Word) : Except Reject Instr :=
  let two := fun (mk : Head → FpTy → VReg → VReg → VReg → RoundMode → Instr) =>
    rdF (fun h ty vd va vb vc fn => zero (vc == 0) <| rmOnly fn fun rm => .ok (mk h ty vd va vb rm)) w
  let one := fun (mk : Head → FpTy → VReg → VReg → RoundMode → Instr) =>
    rdF (fun h ty vd va vb vc fn => zero (vb == 0 && vc == 0) <| rmOnly fn fun rm => .ok (mk h ty vd va rm)) w
  let sel := fun (mk : Head → FpTy → VReg → VReg → VReg → Instr) =>
    rdF (fun h ty vd va vb vc fn => zero (vc == 0 && fn == 0) <| .ok (mk h ty vd va vb)) w
  let sgn := fun (mk : Head → FpTy → VReg → VReg → Instr) =>
    rdF (fun h ty vd va vb vc fn => zero (vb == 0 && vc == 0 && fn == 0) <| .ok (mk h ty vd va)) w
  let app := fun (mk : Head → VReg → VReg → Instr) =>
    rdF (fun h ty vd va vb vc fn => zero (ty == .f32 && vb == 0 && vc == 0 && fn == 0) <| .ok (mk h vd va)) w
  match o with
  | 0x60 => two .vfadd
  | 0x61 => two .vfsub
  | 0x62 => two .vfmul
  | 0x63 => rdF (fun h ty vd va vb vc fn => rmOnly fn fun rm => .ok (.vffma h ty vd va vb vc rm)) w
  | 0x64 => sel .vfmin
  | 0x65 => sel .vfmax
  | 0x66 => sgn .vfabs
  | 0x67 => sgn .vfneg
  | 0x68 => sel .vfsgn
  | 0x69 => app .vfrcp
  | 0x6A => app .vfrsq
  | 0x6B => one .vfsqrt
  | 0x6C => app .vfexp2
  | 0x6D => app .vflog2
  | 0x6E => app .vfsin
  | 0x6F => app .vfcos
  | 0x70 => one .vffract
  | 0x71 => one .vfround
  | 0x72 => sgn .vfclass
  | 0x73 => rdF (fun h ty vd va vb vc fn => zero (vc == 0 && fn.extractLsb' 3 6 == 0 && vd.extractLsb' 4 4 == 0) <|
      want (fcnd? (fn.setWidth 3)) fun c => .ok (.vfcmp h ty c (vd.setWidth 4) va vb)) w
  | 0x74 => rdF (fun h ty vd va vb vc fn => zero (vb == 0 && vc == 0) <|
      want (roundMode? (fn.setWidth 3)) fun rm =>
      if fn.extractLsb' 8 1 = 1 then
        want (intTy? (fn.extractLsb' 4 4)) fun t => .ok (.vfcvt h ty (.int t) vd va rm (fn.extractLsb' 3 1 = 1))
      else want (fpTy? (fn.extractLsb' 4 4)) fun t => .ok (.vfcvt h ty (.fp t) vd va rm (fn.extractLsb' 3 1 = 1))) w
  | 0x75 => rdVec (fun h ty vd va vb vc fn =>
      zero (vb == 0 && vc == 0 && fn.extractLsb' 3 1 == 0 && fn.extractLsb' 8 1 == 0) <|
      want (roundMode? (fn.setWidth 3)) fun rm => want (fpTy? (fn.extractLsb' 4 4)) fun t =>
      .ok (.vicvt h ty t vd va rm)) w
  | 0x76 => two .vfscale
  | 0x77 => rdF (fun h ty vd va vb vc fn => zero (vb == 0 && vc == 0) <|
      if fn = 0x10 then .ok (.vpackDense h ty vd va)
      else zero (fn.extractLsb' 4 5 == 0) <| want (roundMode? (fn.setWidth 3)) fun rm =>
        .ok (.vpack h ty vd va rm (fn.extractLsb' 3 1 = 1))) w
  | 0x78 => rdF (fun h ty vd va vb vc fn => zero (vb == 0 && vc == 0) <|
      if fn = 0x10 then .ok (.vunpackDense h ty vd va)
      else zero (fn == 0) <| .ok (.vunpack h ty vd va)) w
  | 0x79 => rdF (fun h ty vd va vb vc fn => zero (fn.setWidth 3 == 0#3 && fn.extractLsb' 8 1 == 0) <|
      want (fpTy? (fn.extractLsb' 4 4)) fun t => .ok (.vdot h ty t vd va vb vc (fn.extractLsb' 3 1 = 1))) w
  | _ => .error .reservedOpcode

/-- OPC 0x80 to 0x8F: masks and collectives (R133, R134, R146 to R154). -/
def parseMask (o : Nat) (w : Word) : Except Reject Instr :=
  let f := FMR.of w.body
  match o with
  | 0x80 => want (intTy? f.ty) fun ty => zero (f.ma == 0 && f.mb == 0 && f.fn == 0 && f.cc.extractLsb' 3 1 == 0) <|
      want (cnd? (f.cc.setWidth 3)) fun c => .ok (.vcmp w.head ty c f.md f.va f.vb)
  | 0x81 => rdMm (fun h md ma mb va fn => zero (va == 0) <|
      match fn.toNat with
      | 0 => .ok (.mand h md ma mb)
      | 1 => .ok (.mor h md ma mb)
      | 2 => .ok (.mxor h md ma mb)
      | 3 => .ok (.mandn h md ma mb)
      | _ => .error .reservedField) w
  | 0x82 => rdMm (fun h md ma mb va fn => zero (mb == 0 && va == 0 && fn == 0) <| .ok (.mnot h md ma)) w
  | 0x83 => rdMm (fun h md ma mb va fn => zero (mb == 0 && va == 0 && fn == 0) <| .ok (.mmov h md ma)) w
  | 0x84 => rdMm (fun h md ma mb va fn => zero (md == 0 && mb == 0 && fn == 0) <|
      asSReg va fun s => .ok (.mpopc h s ma)) w
  | 0x85 => rdMm (fun h md ma mb va fn => zero (md == 0 && mb == 0 && fn == 0) <|
      asSReg va fun s => .ok (.mffs h s ma)) w
  | 0x86 => rdMm (fun h md ma mb va fn => zero (md == 0 && mb == 0 && fn == 0) <|
      asSReg va fun s => .ok (.mfls h s ma)) w
  | 0x87 => rdMm (fun h md ma mb va fn => zero (ma == 0 && mb == 0 && fn == 0) <|
      asSReg va fun s => .ok (.mfroms h md s)) w
  | 0x88 => rdMm (fun h md ma mb va fn => zero (md == 0 && mb == 0 && fn == 0) <|
      asSReg va fun s => .ok (.mtos h s ma)) w
  | 0x89 =>
    if f.fn = 3 then holdOnly true w fun hold =>
      rdCo (fun md ma mb va vb ty _ => zero (mb == 0 && vb == 0 && ty == 10) <| .ok (.voteUni hold md ma va)) w
    else plain w <| rdCo (fun md ma mb va vb ty fn => zero (va == 0 && vb == 0 && ty == 0) <|
      match fn.toNat with
      | 0 => .ok (.voteAny md ma mb)
      | 1 => .ok (.voteAll md ma mb)
      | 2 => .ok (.voteBallot md ma mb)
      | _ => .error .reservedField) w
  | 0x8A => holdOnly false w fun hold => rdCo (fun md ma mb va vb ty fn =>
      zero (md == 0 && mb == 0 && ty == 10 && fn.extractLsb' 8 1 == 0) <|
      match (fn.extractLsb' 0 2).toNat with
      | 0 => zero (fn == 0) <| .ok (.shflIdx hold va vb ma)
      | 1 => .ok (.shflUp hold va vb ma (fn.extractLsb' 2 6))
      | 2 => .ok (.shflDown hold va vb ma (fn.extractLsb' 2 6))
      | _ => .ok (.shflXor hold va vb ma (fn.extractLsb' 2 6))) w
  | 0x8B => holdOnly false w fun hold => rdCo (fun md ma mb va vb ty fn =>
      zero (md == 0 && mb == 0 && fn.extractLsb' 4 5 == 0) <| want (intTy? ty) fun t =>
      want (scanOp? (fn.setWidth 3)) fun op => .ok (.vscan hold op t va vb ma (fn.extractLsb' 3 1 = 1))) w
  | 0x8C => holdOnly false w fun hold => rdCo (fun md ma mb va vb ty fn =>
      zero (md == 0 && mb == 0 && fn.extractLsb' 3 6 == 0) <| want (intTy? ty) fun t =>
      want (scanOp? (fn.setWidth 3)) fun op => .ok (.vred hold op t va vb ma)) w
  | 0x8D => holdOnly false w fun hold => rdCo (fun md ma mb va vb ty fn =>
      zero (md == 0 && mb == 0 && ty == 6 && fn.extractLsb' 6 3 == 0) <|
      .ok (.vappend hold va vb ma (fn.setWidth 6))) w
  | 0x8E => holdOnly false w fun hold => rdCo (fun md ma mb va vb ty fn =>
      zero (md == 0 && mb == 0 && ty == 10 && fn.extractLsb' 6 3 == 0) <|
      asSReg va fun s => .ok (.vreadl hold s vb ma (fn.setWidth 6))) w
  | 0x8F => plain w <| rdCo (fun md ma mb va vb ty fn =>
      zero (md == 0 && mb == 0 && ty == 10 && fn.extractLsb' 6 3 == 0) <|
      asSReg vb fun s => .ok (.vwritel va s ma (fn.setWidth 6))) w
  | _ => .error .reservedOpcode

/-- OPC 0x90 to 0xBF: memory, order, timelines and barriers (R211 to R230). -/
def parseMem (o : Nat) (w : Word) : Except Reject Instr :=
  let f := FSR.of w.body
  let bars := fun (mk : BitVec 3 → BitVec 4 → Instr) => rdSr (fun sd sa sb fn =>
    zero (sd == 0 && sa == 0 && sb == 0 && fn.extractLsb' 7 10 == 0) <| .ok (mk (fn.extractLsb' 4 3) (fn.setWidth 4))) w
  match o with
  | 0x90 => rdMem (fun m => .ok (.ld w.head m)) w
  | 0x91 => rdMem (fun m => .ok (.ldx w.head m)) w
  | 0x92 => rdMem (fun m => .ok (.st w.head m)) w
  | 0x93 => rdMem (fun m => .ok (.stx w.head m)) w
  | 0x94 => laOnly w fun la => rdMem (fun m => .ok (.lds la m)) w
  | 0x95 => plain w <| rdMem (fun m => .ok (.sts m)) w
  | 0x96 => plain w <| rdMem (fun m => .ok (.ldm m)) w
  | 0x97 => plain w <| rdMem (fun m => .ok (.bcp m)) w
  | 0x98 => rdMem (fun m => .ok (.pf w.head m)) w
  | 0x99 => rdAop (fun op m => .ok (.atom w.head op m)) w
  | 0x9A => rdMem (fun m => .ok (.cas w.head m)) w
  | 0x9B => laOnly w fun la => rdAop (fun op m => .ok (.satom la op m)) w
  | 0xB0 => plain w <| zero (f.sd == 0 && f.sa == 0 && f.sb == 0 && f.sc == 0 && f.ty.extractLsb' 3 1 == 0 &&
        f.fn.extractLsb' 15 2 == 0) <| want (scope? (f.ty.setWidth 3)) fun s =>
      if f.fn.extractLsb' 0 1 = 1 then zero (f.fn == 1) <| .ok (.fenceSc s)
      else .ok (.fence s (f.fn.extractLsb' 1 7) (f.fn.extractLsb' 8 7))
  | 0xB1 => plain w <| rdMem (fun m => .ok (.wchg m)) w
  | 0xB2 => rdStl (fun s _ sa sb => .tsig s sa sb) w |> zero (f.sd == 0)
  | 0xB3 => rdStl (fun s sd sa sb => .twait s sd sa sb) w
  | 0xB4 => laOnly w fun la => zero (f.sb == 0 && f.sc == 0 && f.ty == 0 && f.fn == 0) <| .ok (.tread la f.sd f.sa)
  | 0xB5 => bars .bar
  | 0xB6 => bars .barr
  | 0xB7 => bars .barw
  | _ => .error .reservedOpcode

/-- OPC 0xC0 to 0xCF: matrix and stage rings (R236, R250). -/
def parseMatrix (o : Nat) (w : Word) : Except Reject Instr :=
  let f := FMX.of w.body
  match o with
  | 0xC0 =>
    plain w <| zero (f.sa == 0 && f.sb == 0 && f.sk == 0 && f.tya == 0 && f.tyb == 0 && f.mode == 0 && f.fn == 0) <|
      .ok (.mzero f.zd f.strm)
  | 0xC1 => plain w <| zero (f.sb == 0 && f.sk == 0 && f.tyb == 0 && f.mode == 0 && f.fn == 0) <|
      want (matTy? f.tya) fun ty => .ok (.mld f.zd f.sa f.strm ty)
  | 0xC2 => plain w <| zero (decide (f.mode.toNat < 2) && f.fn == 0) <| want (matTy? f.tya) fun ta =>
      want (matTy? f.tyb) fun tb => .ok (.mma f.zd f.sa f.sb f.sk f.strm ta tb (f.mode = 1))
  | 0xC3 => plain w <| zero (decide (f.mode.toNat < 2) && f.fn == 0) <| want (matTy? f.tya) fun ta =>
      want (matTy? f.tyb) fun tb => .ok (.mloop f.zd f.sa f.sb f.sk f.strm ta tb (f.mode = 1))
  | 0xC4 => plain w <| zero (f.tyb == 0 && f.mode == 0 && f.fn.extractLsb' 6 2 == 0) <| want (matTy? f.tya) fun ty =>
      want (roundMode? (f.fn.setWidth 3)) fun rm =>
      .ok (.mst f.zd f.sa f.sb f.sk f.strm ty rm (f.fn.extractLsb' 3 1 = 1) (f.fn.extractLsb' 4 1 = 1)
        (f.fn.extractLsb' 5 1 = 1))
  | 0xC5 => plain w <| zero (f.zd == 0 && f.sa == 0 && f.sb == 0 && f.sk == 0 && f.tya == 0 && f.tyb == 0 &&
        decide (f.mode.toNat < 2) && f.fn == 0) <| .ok (.mresume f.strm (f.mode = 1))
  | 0xC6 => rdSr (fun sd sa sb fn => zero (sd == 0 && fn.extractLsb' 3 1 == 0 && fn.extractLsb' 8 9 == 0) <|
      .ok (.rinit (fn.setWidth 3) (fn.extractLsb' 4 4) sa sb)) w
  | 0xC7 => rdSr (fun sd sa sb fn => zero (sb == 0 && fn.extractLsb' 4 13 == 0) <|
      .ok (.racq sd (fn.setWidth 3) sa (fn.extractLsb' 3 1 = 1))) w
  | 0xC8 => rdSr (fun sd sa sb fn => zero (sd == 0 && sb == 0 && fn.extractLsb' 3 14 == 0) <|
      .ok (.rrel (fn.setWidth 3) sa)) w
  | 0xC9 => rdSr (fun sd sa sb fn => zero (sb == 0 && fn.extractLsb' 3 14 == 0) <|
      .ok (.rstat sd (fn.setWidth 3) sa)) w
  | _ => .error .reservedOpcode

/-- OPC 0xD0 to 0xDF: queue processor and copy engine (R274 to R282). -/
def parseQueue (o : Nat) (w : Word) : Except Reject Instr :=
  let f := FQF.of w.body
  let copy := fun (mk : SReg → SReg → SReg → Instr) => plain w <| zero (f.sc == 0 && f.imm == 0) <| .ok (mk f.sd f.sa f.sb)
  match o with
  | 0xD0 => plain w <| zero (f.sa == 0 && f.sc == 0 && f.imm == 0) <| .ok (.qpop f.sd f.sb)
  | 0xD1 => plain w <| zero (f.sd == 0 && f.sc == 0 && f.imm.extractLsb' 9 12 == 0) <|
      .ok (.qack f.sa f.sb (f.imm.setWidth 8) (f.imm.extractLsb' 8 1 = 1))
  | 0xD2 => plain w <| zero (f.sc == 0 && f.imm == 0) <| .ok (.launch f.sd f.sa f.sb)
  | 0xD3 => plain w <| zero (f.sd == 0 && f.sb == 0 && f.sc == 0 && decide (f.imm.toNat < 2)) <|
      .ok (if f.imm = 1 then .irqKern f.sa else .irqHost f.sa)
  | 0xD4 => plain w <| zero (f.sa == 0 && f.sb == 0 && f.sc == 0 && f.imm == 0) <| .ok (.qsleep f.sd)
  | 0xD5 => plain w <| zero (f.sc == 0 && decide (f.imm.toNat < 2)) <|
      .ok (if f.imm = 1 then .cpyProg f.sd f.sa f.sb else .cpy f.sd f.sa f.sb)
  | 0xD6 => copy .cpy2d
  | 0xD7 => copy .cpyg
  | 0xD8 => copy .cpys
  | 0xD9 => copy .cfill
  | 0xDA => plain w <| zero (f.sd == 0 && f.sb == 0 && f.sc == 0 && f.imm.extractLsb' 4 17 == 0) <|
      .ok (.reform f.sa (f.imm.setWidth 3) (f.imm.extractLsb' 3 1 = 1))
  | _ => .error .reservedOpcode

/-- OPC 0xE0 to 0xEB: handler mode and cache maintenance (R226, R283 to R291). -/
def parseSystem (o : Nat) (w : Word) : Except Reject Instr :=
  let y := FSY.of w.body
  let f := FSR.of w.body
  match o with
  | 0xE0 => plain w <| zero (w.body == 0) <| .ok .tret
  | 0xE1 =>
    plain w <| zero (y.sd == 0 && y.reg == 0 && y.fn.extractLsb' 3 18 == 0) <| .ok (.tlbw y.sa (y.fn.setWidth 3))
  | 0xE2 => rdSr (fun sd sa sb fn => zero (sd == 0 && sb == 0 && fn.extractLsb' 3 14 == 0) <|
      .ok (.tlbinv sa (fn.setWidth 2) (fn.extractLsb' 2 1 = 1))) w
  | 0xE3 => rdSr (fun sd sa sb fn => zero (sd == 0 && sb == 0 && fn.extractLsb' 2 15 == 0) <|
      .ok (.lprinv sa (fn.setWidth 2))) w
  | 0xE4 => rdSr (fun sd sa sb fn => zero (sd == 0 && fn.extractLsb' 5 12 == 0) <| .ok (.ovld sa sb (fn.setWidth 5))) w
  | 0xE5 => rdSr (fun sd sa sb fn => zero (sa == 0 && sb == 0 && fn.extractLsb' 6 11 == 0) <|
      .ok (.pgrab sd (fn.setWidth 3) (fn.extractLsb' 3 3))) w
  | 0xE6 => laOnly w fun la => zero (f.sb == 0 && f.sc == 0 && f.ty == 0 && decide (f.fn.toNat < 2)) <|
      .ok (.ats la f.sd f.sa (f.fn = 1))
  | 0xE7 => rdSr (fun sd sa sb fn => zero (sd == 0 && sb == 0 && decide (fn.toNat < 2)) <| .ok (.pri sa (fn = 1))) w
  | 0xE8 => rdSr (fun sd sa sb fn => zero (sb == 0 && fn == 0) <| .ok (.dmsg sd sa)) w
  | 0xE9 => rdSr (fun sd sa sb fn => zero (sd == 0 && sb == 0 && fn == 0) <| .ok (.hlt sa)) w
  | 0xEA => plain w <| rdMem (fun m => .ok (.cwb m)) w
  | 0xEB => plain w <| rdMem (fun m => .ok (.cinv m)) w
  | _ => .error .reservedOpcode

/-- OPC 0xF0 to 0xF5: the retirement ladder (R72). -/
def parseRetired (o : Nat) (w : Word) (raw : W64) : Except Reject Instr :=
  let f := FVR.of w.body
  match o with
  | 0xF0 => zero (f.vc == 0 && f.ty == 0 && f.fn == 0) <| .ok (.vdp4E4m3 w.head f.vd f.va f.vb)
  | 0xF1 => zero (f.vc == 0 && f.ty == 0 && f.fn == 0) <| .ok (.vfdivF32Fast w.head f.vd f.va f.vb)
  | 0xF2 => rdSr (fun sd sa sb fn => zero (sd == 0 && sa == 0 && sb == 0 && fn.extractLsb' 7 10 == 0 &&
      fn.setWidth 4 == 0#4) <| .ok (.barAll (fn.extractLsb' 4 3))) w
  | 0xF3 => rdMem (fun m => .ok (.ldcst w.head m)) w
  | 0xF4 => .ok (.txfetch (raw.setWidth 56))
  | 0xF5 => .ok (.mmaT8 (raw.setWidth 56))
  | _ => .error .reservedOpcode

/-- Reading a word's fields (R61 to R66), before the checks of `ill`. -/
def parse (raw : W64) : Except Reject Instr :=
  let w := Word.of raw
  let o := w.opc.toNat
  if o = 0 then .error .header
  else if unassignedOpc o then .ok (.unassignedOpcode raw)
  else match o / 16 with
  | 0x0 => parseControl o w
  | 0x1 | 0x2 => parseScalar o w
  | 0x3 | 0x4 | 0x5 => parseVector o w
  | 0x6 | 0x7 => parseFloat o w
  | 0x8 => parseMask o w
  | 0x9 | 0xB => parseMem o w
  | 0xC => parseMatrix o w
  | 0xD => parseQueue o w
  | 0xE => parseSystem o w
  | _ => parseRetired o w raw

/-- The instruction of a word, or the reason why the word is ILLEGAL (R62, R68 step 1). -/
def decode (raw : W64) : Except Reject Instr :=
  match parse raw with
  | .error r => .error r
  | .ok i =>
    match ill i with
    | some r => .error r
    | none => .ok i

/-- The word of an instruction (R56, R61, R66); none for the events of the opcode table, which are no words. -/
def encode (i : Instr) : Option W64 :=
  match i with
  | .br c disp => some (plainWord 0x01 (c.body disp))
  | .brm inv ma disp => some (plainWord 0x02 (FBR.bits { sa := 0, ma, cc := if inv then 1 else 0, disp }))
  | .jmpi sa => some (wrSr 0x03 0 sa 0 0)
  | .call link disp => some (plainWord 0x04 (FBR.bits { sa := link, ma := 0, cc := 0, disp }))
  | .calli link sa => some (wrSr 0x05 link sa 0 0)
  | .ret sa => some (wrSr 0x06 0 sa 0 0)
  | .exit => some (wrSr 0x07 0 0 0 0)
  | .spawn sd se sb n argc =>
    some (plainWord 0x08 (FQF.bits { sd, sa := se, sb, sc := 0, imm := BitVec.ofNat 21 (argc.toNat * 2 ^ 4 + n.toNat) }))
  | .yield => some (wrSr 0x09 0 0 0 0)
  | .nop => some (wrSr 0x0A 0 0 0 0)
  | .trap imm => some (plainWord 0x0B (FSI.bits { sd := 0, sa := 0, imm }))
  | .brk imm => some (plainWord 0x0C (FSI.bits { sd := 0, sa := 0, imm }))
  | .mfs sd reg => some (plainWord 0x0D (FSY.bits { sd, sa := 0, reg, fn := 0 }))
  | .mts reg sa => some (plainWord 0x0E (FSY.bits { sd := 0, sa, reg, fn := 0 }))
  | .sadd ty sd sa sb sat => some (wrSss 0x10 ty sd sa sb sat)
  | .ssub ty sd sa sb sat => some (wrSss 0x11 ty sd sa sb sat)
  | .smul ty sd sa sb sat => some (wrSss 0x12 ty sd sa sb sat)
  | .smulh ty sd sa sb => some (wrSs 0x13 ty sd sa sb)
  | .sand ty sd sa sb => some (wrSs 0x16 ty sd sa sb)
  | .sor ty sd sa sb => some (wrSs 0x17 ty sd sa sb)
  | .sxor ty sd sa sb => some (wrSs 0x18 ty sd sa sb)
  | .sandn ty sd sa sb => some (wrSs 0x19 ty sd sa sb)
  | .sshl ty sd sa sb => some (wrSs 0x1a ty sd sa sb)
  | .sshr ty sd sa sb => some (wrSs 0x1b ty sd sa sb)
  | .ssra ty sd sa sb => some (wrSs 0x1c ty sd sa sb)
  | .srot ty sd sa sb => some (wrSs 0x1d ty sd sa sb)
  | .smin ty sd sa sb => some (wrSs 0x1e ty sd sa sb)
  | .smax ty sd sa sb => some (wrSs 0x1f ty sd sa sb)
  | .sdiv la ty sd sa sb => some (wrSl 0x14 la ty sd sa sb)
  | .srem la ty sd sa sb => some (wrSl 0x15 la ty sd sa sb)
  | .sclz ty sd sa => some (wrS1 0x20 ty sd sa)
  | .spopc ty sd sa => some (wrS1 0x21 ty sd sa)
  | .sbfe ty sd sa pos l => some (wrSbf 0x22 ty sd sa 0 pos l)
  | .sbfi ty sd sa sb pos l => some (wrSbf 0x23 ty sd sa sb pos l)
  | .ssel sd sa sb sc => some (plainWord 0x24 (FSR.bits { sd, sa, sb, sc, ty := 11, fn := 0 }))
  | .scmp ty c sd sa sb =>
    some (plainWord 0x25 (FSR.bits { sd, sa, sb, sc := 0, ty := ty.code, fn := c.code.setWidth 17 }))
  | .smov sd sa => some (plainWord 0x26 (FSR.bits { sd, sa, sb := 0, sc := 0, ty := 11, fn := 0 }))
  | .sli sd imm => some (plainWord 0x27 (FSL.bits { sd, hi := 0, rsv := 0, imm }))
  | .sliHi sd imm => some (plainWord 0x27 (FSL.bits { sd, hi := 1, rsv := 0, imm }))
  | .saddImm sd sa imm => some (wrSi 0x28 sd sa imm)
  | .smulImm sd sa imm => some (wrSi 0x29 sd sa imm)
  | .sandImm sd sa imm => some (wrSi 0x2a sd sa imm)
  | .sorImm sd sa imm => some (wrSi 0x2b sd sa imm)
  | .sxorImm sd sa imm => some (wrSi 0x2c sd sa imm)
  | .sshlImm sd sa imm => some (wrSi 0x2d sd sa imm)
  | .sshrImm sd sa imm => some (wrSi 0x2e sd sa imm)
  | .ssraImm sd sa imm => some (wrSi 0x2f sd sa imm)
  | .vadd h ty vd va vb sat => some (wrVs 0x30 h ty vd va vb sat)
  | .vsub h ty vd va vb sat => some (wrVs 0x31 h ty vd va vb sat)
  | .vmul h ty vd va vb sat => some (wrVs 0x32 h ty vd va vb sat)
  | .vmulh h ty vd va vb => some (wrVec 0x33 h ty vd va vb 0 0)
  | .vmad h ty vd va vb vc sat => some (wrV4 0x34 h ty vd va vb vc sat)
  | .vand h ty vd va vb => some (wrVec 0x35 h ty vd va vb 0 0)
  | .vor h ty vd va vb => some (wrVec 0x36 h ty vd va vb 0 0)
  | .vxor h ty vd va vb => some (wrVec 0x37 h ty vd va vb 0 0)
  | .vandn h ty vd va vb => some (wrVec 0x38 h ty vd va vb 0 0)
  | .vnot h ty vd va => some (wrVec 0x39 h ty vd va 0 0 0)
  | .vshl h ty vd va vb => some (wrVec 0x3a h ty vd va vb 0 0)
  | .vshr h ty vd va vb => some (wrVec 0x3b h ty vd va vb 0 0)
  | .vsra h ty vd va vb => some (wrVec 0x3c h ty vd va vb 0 0)
  | .vmin h ty vd va vb => some (wrVec 0x3d h ty vd va vb 0 0)
  | .vmax h ty vd va vb => some (wrVec 0x3e h ty vd va vb 0 0)
  | .vabs h ty vd va sat => some (wrVec 0x3f h ty vd va 0 0 (if sat then 1 else 0))
  | .vneg h ty vd va sat => some (wrVec 0x40 h ty vd va 0 0 (if sat then 1 else 0))
  | .vclz h ty vd va => some (wrVec 0x41 h ty vd va 0 0 0)
  | .vpopc h ty vd va => some (wrVec 0x42 h ty vd va 0 0 0)
  | .vbrev h ty vd va => some (wrVec 0x43 h ty vd va 0 0 0)
  | .vbfe h ty vd va vc => some (wrVec 0x44 h ty vd va 0 vc 0)
  | .vbfi h vd va vb vc => some (wrVec 0x45 h .b32 vd va vb vc 0)
  | .vaddc h vd va vb k => some (wrVec 0x46 h .n32 vd va vb 0 (k.setWidth 9))
  | .vsubb h vd va vb k => some (wrVec 0x47 h .n32 vd va vb 0 (k.setWidth 9))
  | .vclmul h vd va vb vc hi x => some (wrVec 0x48 h .b32 vd va vb vc (BitVec.ofNat 9 (hi.toNat + 2 * x.toNat)))
  | .vmov h ty vd va => some (wrVec 0x49 h ty vd va 0 0 0)
  | .vli h vd imm => some (headWord 0x4A h (FVL.bits { vd, ty := 10, rsv := 0, imm }))
  | .vsel h ty vd va vb k => some (wrVec 0x4B h ty vd va vb 0 (k.setWidth 9))
  | .vbcast h ty vd s => some (wrVec 0x4C h ty vd (s.setWidth 8) 0 0 0)
  | .vlane h vd => some (wrVec 0x4D h .n32 vd 0 0 0 0)
  | .vaddImm h ty vd va imm => some (wrVi 0x50 h ty vd va imm)
  | .vsubImm h ty vd va imm => some (wrVi 0x51 h ty vd va imm)
  | .vmulImm h ty vd va imm => some (wrVi 0x52 h ty vd va imm)
  | .vandImm h ty vd va imm => some (wrVi 0x53 h ty vd va imm)
  | .vorImm h ty vd va imm => some (wrVi 0x54 h ty vd va imm)
  | .vxorImm h ty vd va imm => some (wrVi 0x55 h ty vd va imm)
  | .vshlImm h ty vd va imm => some (wrVi 0x56 h ty vd va imm)
  | .vshrImm h ty vd va imm => some (wrVi 0x57 h ty vd va imm)
  | .vsraImm h ty vd va imm => some (wrVi 0x58 h ty vd va imm)
  | .vminImm h ty vd va imm => some (wrVi 0x59 h ty vd va imm)
  | .vmaxImm h ty vd va imm => some (wrVi 0x5a h ty vd va imm)
  | .vfadd h ty vd va vb rm => some (wrF 0x60 h ty vd va vb 0 (rm.code.setWidth 9))
  | .vfsub h ty vd va vb rm => some (wrF 0x61 h ty vd va vb 0 (rm.code.setWidth 9))
  | .vfmul h ty vd va vb rm => some (wrF 0x62 h ty vd va vb 0 (rm.code.setWidth 9))
  | .vfscale h ty vd va vb rm => some (wrF 0x76 h ty vd va vb 0 (rm.code.setWidth 9))
  | .vffma h ty vd va vb vc rm => some (wrF 0x63 h ty vd va vb vc (rm.code.setWidth 9))
  | .vfmin h ty vd va vb => some (wrF 0x64 h ty vd va vb 0 0)
  | .vfmax h ty vd va vb => some (wrF 0x65 h ty vd va vb 0 0)
  | .vfsgn h ty vd va vb => some (wrF 0x68 h ty vd va vb 0 0)
  | .vfabs h ty vd va => some (wrF 0x66 h ty vd va 0 0 0)
  | .vfneg h ty vd va => some (wrF 0x67 h ty vd va 0 0 0)
  | .vfclass h ty vd va => some (wrF 0x72 h ty vd va 0 0 0)
  | .vfrcp h vd va => some (wrF 0x69 h .f32 vd va 0 0 0)
  | .vfrsq h vd va => some (wrF 0x6a h .f32 vd va 0 0 0)
  | .vfexp2 h vd va => some (wrF 0x6c h .f32 vd va 0 0 0)
  | .vflog2 h vd va => some (wrF 0x6d h .f32 vd va 0 0 0)
  | .vfsin h vd va => some (wrF 0x6e h .f32 vd va 0 0 0)
  | .vfcos h vd va => some (wrF 0x6f h .f32 vd va 0 0 0)
  | .vfsqrt h ty vd va rm => some (wrF 0x6b h ty vd va 0 0 (rm.code.setWidth 9))
  | .vffract h ty vd va rm => some (wrF 0x70 h ty vd va 0 0 (rm.code.setWidth 9))
  | .vfround h ty vd va rm => some (wrF 0x71 h ty vd va 0 0 (rm.code.setWidth 9))
  | .vfcmp h ty c md va vb => some (wrF 0x73 h ty (md.setWidth 8) va vb 0 (c.code.setWidth 9))
  | .vfcvt h dst (.fp t) vd va rm ovf =>
    some (wrF 0x74 h dst vd va 0 0 (BitVec.ofNat 9 (rm.code.toNat + 2 ^ 3 * ovf.toNat + 2 ^ 4 * t.code.toNat)))
  | .vfcvt h dst (.int t) vd va rm ovf =>
    some (wrF 0x74 h dst vd va 0 0 (BitVec.ofNat 9 (rm.code.toNat + 2 ^ 3 * ovf.toNat + 2 ^ 4 * t.code.toNat + 2 ^ 8)))
  | .vicvt h dst t vd va rm => some (wrVec 0x75 h dst vd va 0 0 (BitVec.ofNat 9 (rm.code.toNat + 2 ^ 4 * t.code.toNat)))
  | .vpack h ty vd va rm ovf => some (wrF 0x77 h ty vd va 0 0 (BitVec.ofNat 9 (rm.code.toNat + 2 ^ 3 * ovf.toNat)))
  | .vunpack h ty vd va => some (wrF 0x78 h ty vd va 0 0 0)
  | .vpackDense h ty vd va => some (wrF 0x77 h ty vd va 0 0 0x10)
  | .vunpackDense h ty vd va => some (wrF 0x78 h ty vd va 0 0 0x10)
  | .vdot h ta tb vd va vb vc mx =>
    some (wrF 0x79 h ta vd va vb vc (BitVec.ofNat 9 (2 ^ 3 * mx.toNat + 2 ^ 4 * tb.code.toNat)))
  | .vcmp h ty c md va vb =>
    some (headWord 0x80 h (FMR.bits { md, ma := 0, mb := 0, va, vb, ty := ty.code, cc := c.code.setWidth 4, fn := 0 }))
  | .mand h md ma mb => some (wrMm 0x81 h md ma mb 0 0)
  | .mor h md ma mb => some (wrMm 0x81 h md ma mb 0 1)
  | .mxor h md ma mb => some (wrMm 0x81 h md ma mb 0 2)
  | .mandn h md ma mb => some (wrMm 0x81 h md ma mb 0 3)
  | .mnot h md ma => some (wrMm 0x82 h md ma 0 0 0)
  | .mmov h md ma => some (wrMm 0x83 h md ma 0 0 0)
  | .mpopc h s ma => some (wrMm 0x84 h 0 ma 0 (s.setWidth 8) 0)
  | .mffs h s ma => some (wrMm 0x85 h 0 ma 0 (s.setWidth 8) 0)
  | .mfls h s ma => some (wrMm 0x86 h 0 ma 0 (s.setWidth 8) 0)
  | .mtos h s ma => some (wrMm 0x88 h 0 ma 0 (s.setWidth 8) 0)
  | .mfroms h md s => some (wrMm 0x87 h md 0 0 (s.setWidth 8) 0)
  | .voteAny md mm mb => some (wrCo 0x89 false false md mm mb 0 0 0 0)
  | .voteAll md mm mb => some (wrCo 0x89 false false md mm mb 0 0 0 1)
  | .voteBallot md mm mb => some (wrCo 0x89 false false md mm mb 0 0 0 2)
  | .voteUni hold md mm va => some (wrCo 0x89 true hold md mm 0 va 0 10 3)
  | .shflIdx hold vd vs mm => some (wrCo 0x8A false hold 0 mm 0 vd vs 10 0)
  | .shflUp hold vd vs mm k => some (wrCo 0x8A false hold 0 mm 0 vd vs 10 (BitVec.ofNat 9 (1 + 2 ^ 2 * k.toNat)))
  | .shflDown hold vd vs mm k => some (wrCo 0x8A false hold 0 mm 0 vd vs 10 (BitVec.ofNat 9 (2 + 2 ^ 2 * k.toNat)))
  | .shflXor hold vd vs mm k => some (wrCo 0x8A false hold 0 mm 0 vd vs 10 (BitVec.ofNat 9 (3 + 2 ^ 2 * k.toNat)))
  | .vscan hold op ty vd vs mm excl =>
    some (wrCo 0x8B false hold 0 mm 0 vd vs ty.code (BitVec.ofNat 9 (op.code.toNat + 2 ^ 3 * excl.toNat)))
  | .vred hold op ty vd vs mm => some (wrCo 0x8C false hold 0 mm 0 vd vs ty.code (op.code.setWidth 9))
  | .vappend hold vd vs mm sb => some (wrCo 0x8D false hold 0 mm 0 vd vs 6 (sb.setWidth 9))
  | .vreadl hold sd vs mm lane => some (wrCo 0x8E false hold 0 mm 0 (sd.setWidth 8) vs 10 (lane.setWidth 9))
  | .vwritel vd ss mm lane => some (wrCo 0x8F false false 0 mm 0 vd (ss.setWidth 8) 10 (lane.setWidth 9))
  | .ld h m => some (headWord 0x90 h m.bits)
  | .ldx h m => some (headWord 0x91 h m.bits)
  | .st h m => some (headWord 0x92 h m.bits)
  | .stx h m => some (headWord 0x93 h m.bits)
  | .pf h m => some (headWord 0x98 h m.bits)
  | .cas h m => some (headWord 0x9a h m.bits)
  | .ldcst h m => some (headWord 0xf3 h m.bits)
  | .lds la m => some (laWord 0x94 la m.bits)
  | .sts m => some (plainWord 0x95 m.bits)
  | .ldm m => some (plainWord 0x96 m.bits)
  | .bcp m => some (plainWord 0x97 m.bits)
  | .wchg m => some (plainWord 0xb1 m.bits)
  | .cwb m => some (plainWord 0xea m.bits)
  | .cinv m => some (plainWord 0xeb m.bits)
  | .atom h op m => some (headWord 0x99 h { m with off := op.code }.bits)
  | .satom la op m => some (laWord 0x9B la { m with off := op.code }.bits)
  | .fence s pr su =>
    some (plainWord 0xB0 (FSR.bits { sd := 0, sa := 0, sb := 0, sc := 0, ty := s.code.setWidth 4, fn := BitVec.ofNat 17 (2 * pr.toNat + 2 ^ 8 * su.toNat) }))
  | .fenceSc s =>
    some (plainWord 0xB0 (FSR.bits { sd := 0, sa := 0, sb := 0, sc := 0, ty := s.code.setWidth 4, fn := 1 }))
  | .tsig s sa sb => some (wrStl 0xB2 s 0 sa sb)
  | .twait s sd sa sb => some (wrStl 0xB3 s sd sa sb)
  | .tread la sd sa => some (laWord 0xB4 la (FSR.bits { sd, sa, sb := 0, sc := 0, ty := 0, fn := 0 }))
  | .bar b roles => some (wrSr 0xb5 0 0 0 (BitVec.ofNat 17 (roles.toNat + 2 ^ 4 * b.toNat)))
  | .barr b roles => some (wrSr 0xb6 0 0 0 (BitVec.ofNat 17 (roles.toNat + 2 ^ 4 * b.toNat)))
  | .barw b roles => some (wrSr 0xb7 0 0 0 (BitVec.ofNat 17 (roles.toNat + 2 ^ 4 * b.toNat)))
  | .mzero zd strm =>
    some (plainWord 0xc0 (FMX.bits { zd := zd, sa := 0, sb := 0, sk := 0, strm, tya := 0, tyb := 0, mode := 0, fn := 0 }))
  | .mld zd sa strm ty =>
    some (plainWord 0xc1 (FMX.bits { zd := zd, sa := sa, sb := 0, sk := 0, strm, tya := ty.code, tyb := 0, mode := 0, fn := 0 }))
  | .mma zd sa sb sk strm ta tb mx =>
    some (plainWord 0xc2 (FMX.bits { zd := zd, sa := sa, sb := sb, sk := sk, strm, tya := ta.code, tyb := tb.code, mode := if mx then 1 else 0, fn := 0 }))
  | .mloop zd sa sb sk strm ta tb mx =>
    some (plainWord 0xc3 (FMX.bits { zd := zd, sa := sa, sb := sb, sk := sk, strm, tya := ta.code, tyb := tb.code, mode := if mx then 1 else 0, fn := 0 }))
  | .mst zd sa sb sk strm ty rm ovf scale sig =>
    some (plainWord 0xc4 (FMX.bits { zd := zd, sa := sa, sb := sb, sk := sk, strm, tya := ty.code, tyb := 0, mode := 0, fn := BitVec.ofNat 8 (rm.code.toNat + 2 ^ 3 * ovf.toNat + 2 ^ 4 * scale.toNat + 2 ^ 5 * sig.toNat) }))
  | .mresume strm d =>
    some (plainWord 0xc5 (FMX.bits { zd := 0, sa := 0, sb := 0, sk := 0, strm, tya := 0, tyb := 0, mode := if d then 1 else 0, fn := 0 }))
  | .rinit k st sa sb => some (wrSr 0xC6 0 sa sb (BitVec.ofNat 17 (k.toNat + 2 ^ 4 * st.toNat)))
  | .racq sd k sa c => some (wrSr 0xC7 sd sa 0 (BitVec.ofNat 17 (k.toNat + 2 ^ 3 * c.toNat)))
  | .rrel k sa => some (wrSr 0xC8 0 sa 0 (k.setWidth 17))
  | .rstat sd k sa => some (wrSr 0xC9 sd sa 0 (k.setWidth 17))
  | .qpop sd sb => some (plainWord 0xd0 (FQF.bits { sd := sd, sa := 0, sb := sb, sc := 0, imm := 0 }))
  | .qack sa sb c irq =>
    some (plainWord 0xd1 (FQF.bits { sd := 0, sa := sa, sb := sb, sc := 0, imm := BitVec.ofNat 21 (c.toNat + 2 ^ 8 * irq.toNat) }))
  | .launch sd sa sb => some (plainWord 0xd2 (FQF.bits { sd := sd, sa := sa, sb := sb, sc := 0, imm := 0 }))
  | .irqHost sa => some (plainWord 0xd3 (FQF.bits { sd := 0, sa := sa, sb := 0, sc := 0, imm := 0 }))
  | .irqKern sa => some (plainWord 0xd3 (FQF.bits { sd := 0, sa := sa, sb := 0, sc := 0, imm := 1 }))
  | .qsleep sd => some (plainWord 0xd4 (FQF.bits { sd := sd, sa := 0, sb := 0, sc := 0, imm := 0 }))
  | .cpy sd sa sb => some (plainWord 0xd5 (FQF.bits { sd := sd, sa := sa, sb := sb, sc := 0, imm := 0 }))
  | .cpyProg sd sa sb => some (plainWord 0xd5 (FQF.bits { sd := sd, sa := sa, sb := sb, sc := 0, imm := 1 }))
  | .cpy2d sd sa sb => some (plainWord 0xd6 (FQF.bits { sd := sd, sa := sa, sb := sb, sc := 0, imm := 0 }))
  | .cpyg sd sa sb => some (plainWord 0xd7 (FQF.bits { sd := sd, sa := sa, sb := sb, sc := 0, imm := 0 }))
  | .cpys sd sa sb => some (plainWord 0xd8 (FQF.bits { sd := sd, sa := sa, sb := sb, sc := 0, imm := 0 }))
  | .cfill sd sa sb => some (plainWord 0xd9 (FQF.bits { sd := sd, sa := sa, sb := sb, sc := 0, imm := 0 }))
  | .reform sa g fr =>
    some (plainWord 0xda (FQF.bits { sd := 0, sa := sa, sb := 0, sc := 0, imm := BitVec.ofNat 21 (g.toNat + 2 ^ 3 * fr.toNat) }))
  | .tret => some (plainWord 0xE0 0)
  | .tlbw sa size => some (plainWord 0xE1 (FSY.bits { sd := 0, sa, reg := 0, fn := size.setWidth 21 }))
  | .tlbinv sa mode die => some (wrSr 0xE2 0 sa 0 (BitVec.ofNat 17 (mode.toNat + 2 ^ 2 * die.toNat)))
  | .lprinv sa mode => some (wrSr 0xE3 0 sa 0 (mode.setWidth 17))
  | .ovld sa sb fr => some (wrSr 0xE4 0 sa sb (fr.setWidth 17))
  | .pgrab sd g sz => some (wrSr 0xE5 sd 0 0 (BitVec.ofNat 17 (g.toNat + 2 ^ 3 * sz.toNat)))
  | .ats la sd sa wr =>
    some (laWord 0xE6 la (FSR.bits { sd, sa, sb := 0, sc := 0, ty := 0, fn := if wr then 1 else 0 }))
  | .pri sa wr => some (wrSr 0xE7 0 sa 0 (if wr then 1 else 0))
  | .dmsg sd sa => some (wrSr 0xE8 sd sa 0 0)
  | .hlt sa => some (wrSr 0xE9 0 sa 0 0)
  | .vdp4E4m3 h vd va vb => some (headWord 0xf0 h (FVR.bits { vd, va, vb, vc := 0, ty := 0, fn := 0 }))
  | .vfdivF32Fast h vd va vb => some (headWord 0xf1 h (FVR.bits { vd, va, vb, vc := 0, ty := 0, fn := 0 }))
  | .barAll b => some (wrSr 0xF2 0 0 0 (BitVec.ofNat 17 (2 ^ 4 * b.toNat)))
  | .txfetch b => some (BitVec.ofNat 64 (0xF4 * 2 ^ 56 + b.toNat))
  | .mmaT8 b => some (BitVec.ofNat 64 (0xF5 * 2 ^ 56 + b.toNat))
  | .unassignedOpcode w => some w
  | _ => none

/-- The bytes of a word as memory holds them, lowest address first (R4, R51). -/
def wordBytes (w : W64) : List Byte := (List.range 8).map fun k => w.extractLsb' (8 * k) 8

/-- The word that eight bytes spell, the first the least significant (R4, R51). -/
def bytesWord (b : List Byte) : W64 := BitVec.ofNat 64 (b.foldr (fun x n => x.toNat + 256 * n) 0)

/-- Decoding the eight bytes at a code address, with the bytes that follow. -/
def decodeBytes (b : List Byte) : Except Reject (Instr × List Byte) :=
  match decode (bytesWord (b.take 8)) with
  | .ok i => .ok (i, b.drop 8)
  | .error r => .error r

/-- What the decoder reads from a row's bits, the word laid out in its byte order. -/
def decodeTableWord (nbits w : Nat) : Option Instr :=
  match decodeBytes (wordBytes (BitVec.ofNat 64 (w % 2 ^ nbits))) with
  | .ok (i, _) => some i
  | .error _ => none

end Sys2Proof
end

