-- ==== Sys2Proof/Machine/Float.lean ====
section
/-! DEFINITION. Number formats and arithmetic: reading and rounding the floating formats (R83 to R93), the exact
operations on their values, the dot-product step (R97, R98) and the bounds of the approximate functions (R138). -/
namespace Sys2Proof.Machine

/-- A floating value: a NaN, an infinity, or ±m·2^e (R88, R91). -/
inductive FVal
  | nan (sig : Bool)
  | inf (neg : Bool)
  | fin (neg : Bool) (m : Nat) (e : Int)
  deriving DecidableEq, Repr

/-- The flags of R94, in FPFL's bit order: IV, DZ, OF, UF, NX. -/
abbrev Flags := BitVec 5
/-- IV (R94). -/
abbrev fIV : Flags := 0b00001
/-- DZ (R94). -/
abbrev fDZ : Flags := 0b00010
/-- OF (R94). -/
abbrev fOF : Flags := 0b00100
/-- UF (R94). -/
abbrev fUF : Flags := 0b01000
/-- NX (R94). -/
abbrev fNX : Flags := 0b10000

/-- The layout of a format (R88): width, exponent bits, fraction bits, bias, and the E and F of its largest finite value. -/
structure FmtShape where
  w    : Nat
  eb   : Nat
  mb   : Nat
  bias : Nat
  maxE : Nat
  maxF : Nat

/-- R88's table. -/
def fmtShape : FpTy → FmtShape
  | .f64 => ⟨64, 11, 52, 1023, 2046, 2 ^ 52 - 1⟩
  | .f32 => ⟨32, 8, 23, 127, 254, 2 ^ 23 - 1⟩
  | .bf16 => ⟨16, 8, 7, 127, 254, 127⟩
  | .f16 => ⟨16, 5, 10, 15, 30, 1023⟩
  | .e4m3 => ⟨8, 4, 3, 7, 15, 6⟩
  | .e5m2 => ⟨8, 5, 2, 15, 30, 3⟩
  | .e2m3 => ⟨6, 2, 3, 1, 3, 7⟩
  | .e3m2 => ⟨6, 3, 2, 3, 7, 3⟩
  | .e2m1 => ⟨4, 2, 1, 1, 3, 1⟩
  | .e8m0 => ⟨8, 8, 0, 127, 254, 0⟩

/-- Formats with infinities (R91). -/
def hasInf : FpTy → Bool
  | .f64 | .f32 | .bf16 | .f16 | .e5m2 => true
  | _ => false

/-- The canonical NaN (R91). -/
def cnan : FpTy → Option Nat
  | .f64 => some 0x7FF8000000000000
  | .f32 => some 0x7FC00000
  | .bf16 => some 0x7FC0
  | .f16 => some 0x7E00
  | .e4m3 => some 0x7F
  | .e5m2 => some 0x7E
  | .e8m0 => some 0xFF
  | _ => none

/-- The value of a pattern (R88, R91). -/
def readFp (t : FpTy) (x : Nat) : FVal :=
  let f := fmtShape t
  if t = .e8m0 then (if x % 256 = 255 then .nan false else .fin false 1 ((x % 256 : Nat) - 127))
  else
    let s := x / 2 ^ (f.w - 1) % 2 = 1
    let E := x / 2 ^ f.mb % 2 ^ f.eb
    let F := x % 2 ^ f.mb
    if hasInf t && E == 2 ^ f.eb - 1 then
      (if F = 0 then .inf s else .nan (t.isF4 && decide (F < 2 ^ (f.mb - 1))))
    else if t = .e4m3 ∧ x % 128 = 127 then .nan false
    else if E = 0 then .fin s F (1 - (f.bias : Int) - f.mb)
    else .fin s (2 ^ f.mb + F) ((E : Int) - f.bias - f.mb)

/-- `rint` of m / 2^sh with a sign, as a magnitude, and whether it is inexact (R89). -/
def rintMag (neg : Bool) (m sh : Nat) (rm : RoundMode) : Nat × Bool :=
  if m = 0 then (0, false)
  else if sh > m.log2 + 1 then
    (match rm with
     | .rup => if neg then 0 else 1
     | .rdn => if neg then 1 else 0
     | _ => 0, true)
  else
    let q := m / 2 ^ sh
    let r := m % 2 ^ sh
    if r = 0 then (q, false)
    else
      let up := match rm with
        | .rne => decide (2 * r > 2 ^ sh) || (decide (2 * r = 2 ^ sh) && q % 2 == 1)
        | .rtz => false
        | .rup => !neg
        | .rdn => neg
        | .rna => decide (2 * r ≥ 2 ^ sh)
      (if up then q + 1 else q, true)

/-- A sign bit in a pattern. -/
def signBit (t : FpTy) (neg : Bool) : Nat := if neg then 2 ^ ((fmtShape t).w - 1) else 0

/-- The largest finite value, with a sign. -/
def maxFinite (t : FpTy) (neg : Bool) : Nat :=
  let f := fmtShape t
  signBit t neg + f.maxE * 2 ^ f.mb + f.maxF

/-- An infinity's pattern (formats that have one). -/
def infBits (t : FpTy) (neg : Bool) : Nat :=
  let f := fmtShape t
  signBit t neg + (2 ^ f.eb - 1) * 2 ^ f.mb

/-- `overflow` of R90. -/
def overflowTo (neg : Bool) (t : FpTy) (rm : RoundMode) (ovf : Bool) : Nat × Flags :=
  let r := match t with
    | .e4m3 => if ovf then 0x7F else maxFinite t neg
    | .e2m3 | .e3m2 | .e2m1 => maxFinite t neg
    | _ =>
      if t = .e5m2 ∧ ovf then maxFinite t neg
      else match rm with
        | .rne | .rna => infBits t neg
        | .rtz => maxFinite t neg
        | .rup => if neg then maxFinite t neg else infBits t neg
        | .rdn => if neg then infBits t neg else maxFinite t neg
  (r, fOF ||| fNX)

/-- Rounding to E8M0 (R92). -/
def rndE8 : FVal → Nat × Flags
  | .fin false m e =>
    if m = 0 then (0xFF, fIV)
    else
      let k := (m.log2 : Int) + e
      let k' := if 2 * m ≥ 3 * 2 ^ m.log2 then k + 1 else k
      let nx := if m = 2 ^ m.log2 then (0 : Flags) else fNX
      if k' > 127 then (0xFE, fOF ||| fNX)
      else if k' < -127 then (0x00, fUF ||| fNX)
      else ((k' + 127).toNat, nx)
  | _ => (0xFF, fIV)

/-- `rnd(x, F, rm, ovf)` (R90); E8M0 under R92. -/
def rnd (x : FVal) (t : FpTy) (rm : RoundMode) (ovf : Bool) : Nat × Flags :=
  if t = .e8m0 then rndE8 x
  else
    let f := fmtShape t
    match x with
    | .nan _ => match cnan t with
      | some c => (c, 0)
      | none => (0, fIV)
    | .inf neg => if hasInf t then (infBits t neg, 0) else overflowTo neg t rm ovf
    | .fin neg m e =>
      if m = 0 then (signBit t neg, 0)
      else
        let lg := (m.log2 : Int) + e
        let emin := 1 - (f.bias : Int)
        let q := max lg emin - f.mb
        let (y, nx) := if e ≥ q then (m * 2 ^ (e - q).toNat, false) else rintMag neg m (q - e).toNat rm
        let top := (f.maxE : Int) - f.bias - f.mb
        if q > top || decide (y > (2 ^ f.mb + f.maxF) * 2 ^ (top - q).toNat) then overflowTo neg t rm ovf
        else
          let fl := if nx then (if lg < emin then fNX ||| fUF else fNX) else 0
          let bits :=
            if y < 2 ^ f.mb then y
            else if y = 2 ^ (f.mb + 1) then (q + 1 + f.mb + f.bias).toNat * 2 ^ f.mb
            else (q + f.mb + f.bias).toNat * 2 ^ f.mb + (y - 2 ^ f.mb)
          (signBit t neg + bits, fl)

/-- A signalling NaN sets IV (R91). -/
def sigFlag : FVal → Flags
  | .nan true => fIV
  | _ => 0

/-- Whether a value is a NaN. -/
def FVal.isNan : FVal → Bool
  | .nan _ => true
  | _ => false

/-- The sign of a value that is no NaN. -/
def FVal.neg : FVal → Bool
  | .nan _ => false
  | .inf n | .fin n _ _ => n

/-- The signed integer of a finite value on the grid 2^g, g at or below its exponent. -/
def onGrid (neg : Bool) (m : Nat) (e g : Int) : Int :=
  let v : Int := m * 2 ^ (e - g).toNat
  if neg then -v else v

/-- An exact sum of finite values; a zero that is no sum of like zeros takes the sign RDN gives (R136). -/
def finAdd (rm : RoundMode) (n1 : Bool) (m1 : Nat) (e1 : Int) (n2 : Bool) (m2 : Nat) (e2 : Int) : FVal :=
  if m1 = 0 ∧ m2 = 0 then .fin (if n1 = n2 then n1 else rm == .rdn) 0 0
  else if m1 = 0 then .fin n2 m2 e2
  else if m2 = 0 then .fin n1 m1 e1
  else
    let g := min e1 e2
    let s := onGrid n1 m1 e1 g + onGrid n2 m2 e2 g
    if s = 0 then .fin (rm == .rdn) 0 0 else .fin (decide (s < 0)) s.natAbs g

/-- An exact sum, with the flags of its special cases (R91, R136). -/
def fvAdd (rm : RoundMode) (a b : FVal) : FVal × Flags :=
  match a, b with
  | .nan s, .nan s' => (.nan false, if s || s' then fIV else 0)
  | .nan s, _ => (.nan false, if s then fIV else 0)
  | _, .nan s => (.nan false, if s then fIV else 0)
  | .inf n, .inf n' => if n = n' then (.inf n, 0) else (.nan false, fIV)
  | .inf n, _ => (.inf n, 0)
  | _, .inf n => (.inf n, 0)
  | .fin n1 m1 e1, .fin n2 m2 e2 => (finAdd rm n1 m1 e1 n2 m2 e2, 0)

/-- The value with its sign inverted. -/
def fvNeg : FVal → FVal
  | .nan s => .nan s
  | .inf n => .inf (!n)
  | .fin n m e => .fin (!n) m e

/-- An exact product, with the flags of its special cases (R91, R136). -/
def fvMul (a b : FVal) : FVal × Flags :=
  match a, b with
  | .nan s, .nan s' => (.nan false, if s || s' then fIV else 0)
  | .nan s, _ => (.nan false, if s then fIV else 0)
  | _, .nan s => (.nan false, if s then fIV else 0)
  | .inf n, .inf n' => (.inf (n != n'), 0)
  | .inf n, .fin n' m _ => if m = 0 then (.nan false, fIV) else (.inf (n != n'), 0)
  | .fin n m _, .inf n' => if m = 0 then (.nan false, fIV) else (.inf (n != n'), 0)
  | .fin n1 m1 e1, .fin n2 m2 e2 => (.fin (n1 != n2) (m1 * m2) (e1 + e2), 0)

/-- Rounding an exact result, its flags joined with those met on the way. -/
def rndWith (r : FVal × Flags) (t : FpTy) (rm : RoundMode) (ovf : Bool) : Nat × Flags :=
  let (x, fl) := rnd r.1 t rm ovf
  (x, fl ||| r.2)

/-- `vfadd` (R135). -/
def fpAdd (t : FpTy) (rm : RoundMode) (a b : Nat) : Nat × Flags :=
  rndWith (fvAdd rm (readFp t a) (readFp t b)) t rm false
/-- `vfsub` (R135). -/
def fpSub (t : FpTy) (rm : RoundMode) (a b : Nat) : Nat × Flags :=
  rndWith (fvAdd rm (readFp t a) (fvNeg (readFp t b))) t rm false
/-- `vfmul` (R135). -/
def fpMul (t : FpTy) (rm : RoundMode) (a b : Nat) : Nat × Flags :=
  rndWith (fvMul (readFp t a) (readFp t b)) t rm false
/-- `vffma`, rounded once (R135, R136). -/
def fpFma (t : FpTy) (rm : RoundMode) (a b c : Nat) : Nat × Flags :=
  let p := fvMul (readFp t a) (readFp t b)
  let s := fvAdd rm p.1 (readFp t c)
  rndWith (s.1, p.2 ||| s.2) t rm false

/-- Exact order of values that are no NaN; -0 equals +0. -/
def fvCmp (a b : FVal) : Ordering :=
  match a, b with
  | .inf n, .inf n' => if n = n' then .eq else if n then .lt else .gt
  | .inf n, _ => if n then .lt else .gt
  | _, .inf n => if n then .gt else .lt
  | .fin n1 m1 e1, .fin n2 m2 e2 =>
    let g := min e1 e2
    compare (onGrid n1 m1 e1 g) (onGrid n2 m2 e2 g)
  | _, _ => .eq

/-- `vfmin` and `vfmax` (R137): -0 lies below +0, and one NaN gives the other operand. -/
def fpMinMax (mx : Bool) (t : FpTy) (a b : Nat) : Nat × Flags :=
  let x := readFp t a
  let y := readFp t b
  let fl := sigFlag x ||| sigFlag y
  let w := (fmtShape t).w
  if x.isNan && y.isNan then ((cnan t).getD 0, fl)
  else if x.isNan then (b % 2 ^ w, fl)
  else if y.isNan then (a % 2 ^ w, fl)
  else
    let aLess := match fvCmp x y with
      | .lt => true
      | .gt => false
      | .eq => x.neg
    (if aLess != mx then a % 2 ^ w else b % 2 ^ w, fl)

/-- `vfabs`, `vfneg` and `vfsgn` (R137): the magnitude of `a` with the sign `s`; a NaN gives the canonical NaN. -/
def fpSetSign (t : FpTy) (a : Nat) (s : Bool) (fl : Flags) : Nat × Flags :=
  let x := readFp t a
  if x.isNan then ((cnan t).getD 0, fl ||| sigFlag x)
  else (a % 2 ^ ((fmtShape t).w - 1) + signBit t s, fl)

/-- The sign bit of a pattern. -/
def signOf (t : FpTy) (a : Nat) : Bool := a / 2 ^ ((fmtShape t).w - 1) % 2 == 1

/-- Whether `vfcmp`'s condition holds, and its flags (R140). -/
def fpCmp (t : FpTy) (c : FCnd) (a b : Nat) : Bool × Flags :=
  let x := readFp t a
  let y := readFp t b
  let un := x.isNan || y.isNan
  let o := fvCmp x y
  let fl := match c with
    | .lt | .le | .gt | .ge => if un then fIV else 0
    | _ => sigFlag x ||| sigFlag y
  (match c with
   | .eq => !un && o == .eq
   | .ne => un || o != .eq
   | .lt => !un && o == .lt
   | .le => !un && o != .gt
   | .gt => !un && o == .gt
   | .ge => !un && o != .lt
   | .un => un
   | .ord => !un, fl)

/-- The bit of `vfclass` (R139). -/
def fpClass (t : FpTy) (a : Nat) : Nat :=
  let f := fmtShape t
  match readFp t a with
  | .nan s => if s then 8 else 9
  | .inf n => if n then 0 else 7
  | .fin n m _ =>
    if t = .e8m0 then 6
    else if m = 0 then (if n then 3 else 4)
    else if m < 2 ^ f.mb then (if n then 2 else 5)
    else (if n then 1 else 6)

/-- The bits of a square root, by fuel. -/
def isqrtGo (n : Nat) : Nat → Nat → Nat
  | 0, r => r
  | k + 1, r => if (r + 2 ^ k) * (r + 2 ^ k) ≤ n then isqrtGo n k (r + 2 ^ k) else isqrtGo n k r

/-- The integer square root. -/
def isqrt (n : Nat) : Nat := isqrtGo n (n.log2 / 2 + 1) 0

/-- A value whose last bit is sticky: it rounds as the exact square root of m·2^e does. -/
def sqrtVal (m : Nat) (e : Int) : FVal :=
  let sh : Nat := 140 + (e % 2).toNat
  let n := m * 2 ^ sh
  let r := isqrt n
  .fin false (2 * r + (if r * r = n then 0 else 1)) ((e - sh) / 2 - 1)

/-- `vfsqrt` (R135, R136). -/
def fpSqrt (t : FpTy) (rm : RoundMode) (a : Nat) : Nat × Flags :=
  match readFp t a with
  | .nan s => ((cnan t).getD 0, if s then fIV else 0)
  | .inf false => (infBits t false, 0)
  | .inf true => ((cnan t).getD 0, fIV)
  | .fin n m e =>
    if m = 0 then (signBit t n, 0)
    else if n then ((cnan t).getD 0, fIV)
    else rnd (sqrtVal m e) t rm false

/-- `rint` of a value: the integer it names (R89), with whether it is inexact. -/
def rintInt (n : Bool) (m : Nat) (e : Int) (rm : RoundMode) : Int × Bool :=
  if e ≥ 0 then (onGrid n m e 0, false)
  else
    let (q, nx) := rintMag n m (-e).toNat rm
    (if n then -(q : Int) else q, nx)

/-- `vfround` (R139). -/
def fpRound (t : FpTy) (rm : RoundMode) (a : Nat) : Nat × Flags :=
  match readFp t a with
  | .nan s => ((cnan t).getD 0, if s then fIV else 0)
  | .inf n => (infBits t n, 0)
  | .fin n m e =>
    if e ≥ 0 then (a % 2 ^ (fmtShape t).w, 0)
    else ((rnd (.fin n (rintMag n m (-e).toNat rm).1 0) t .rtz false).1, 0)

/-- `vffract` (R139). -/
def fpFract (t : FpTy) (rm : RoundMode) (a : Nat) : Nat × Flags :=
  let f := fmtShape t
  match readFp t a with
  | .nan _ | .inf _ => ((cnan t).getD 0, fIV)
  | .fin n m e =>
    let k := (-e).toNat
    let r := m % 2 ^ k
    if e ≥ 0 ∨ r = 0 then (0, 0)
    else
      let (x, fl) := rnd (.fin false (if n then 2 ^ k - r else r) e) t rm false
      if x = f.bias * 2 ^ f.mb then (f.bias * 2 ^ f.mb - 1, fl ||| fNX) else (x, fl)

/-- `vfscale` (R135, R136). -/
def fpScale (t : FpTy) (rm : RoundMode) (a : Nat) (k : Int) : Nat × Flags :=
  match readFp t a with
  | .nan s => ((cnan t).getD 0, if s then fIV else 0)
  | .inf n => (infBits t n, 0)
  | .fin n m e => rnd (.fin n m (if m = 0 then e else e + k)) t rm false

/-- The exact value of an integer. -/
def intVal (i : Int) : FVal := .fin (decide (i < 0)) i.natAbs 0

/-- MIN of an integer type (R84). -/
def tyMin (t : IntTy) : Int := if t.isI then -(2 ^ (t.width - 1) : Nat) else 0
/-- MAX of an integer type (R84). -/
def tyMax (t : IntTy) : Int := if t.isI then (2 ^ (t.width - 1) : Nat) - 1 else (2 ^ t.width : Nat) - 1

/-- `cvti` (R93). -/
def cvti (x : FVal) (t : IntTy) (rm : RoundMode) : Int × Flags :=
  match x with
  | .nan _ => (0, fIV)
  | .inf n => (if n then tyMin t else tyMax t, fIV)
  | .fin n m e =>
    if e > 80 ∧ m ≠ 0 then (if n then tyMin t else tyMax t, fIV)
    else
      let (y, nx) := rintInt n m e rm
      if y > tyMax t then (tyMax t, fIV)
      else if y < tyMin t then (tyMin t, fIV)
      else (y, if nx then fNX else 0)

/-- Floating to floating conversion, a signalling source setting IV (R91, R93). -/
def fpCvt (x : FVal) (t : FpTy) (rm : RoundMode) (ovf : Bool) : Nat × Flags :=
  rndWith (x, sigFlag x) t rm ovf

/-! ### The approximate functions (R138) -/

/-- What a delivered FP32 result of a finite input, whose exact value is finite and nonzero, sets (R138). -/
def approxFlags (x : Nat) (exactZero : Bool) : Flags :=
  if x % 2 ^ 31 = 0x7F800000 then fOF ||| fNX
  else if x % 2 ^ 31 < 2 ^ 23 ∧ !exactZero then fUF ||| fNX
  else 0

/-- One of the two FP32 values that bracket a positive value with a sticky last bit; the choice is a free value. -/
def bracket (f : Config.Approx) (a : Nat) (neg : Bool) (m : Nat) (e : Int) : Nat × Flags :=
  let lo := (rnd (.fin neg m e) .f32 .rtz false).1
  let hi := (rnd (.fin neg m e) .f32 (if neg then .rdn else .rup) false).1
  let r := if lo = hi then lo else if (Config.approx f (BitVec.ofNat 32 a)).toNat = lo then lo else hi
  (r, approxFlags r false)

/-- A free FP32 result within `err` of the value c·2^g, or the value itself rounded. -/
def nearTo (f : Config.Approx) (a : Nat) (c : Int) (g : Int) (err : Int) (egrid : Int) : Nat :=
  let ch := (Config.approx f (BitVec.ofNat 32 a)).toNat
  let near := match readFp .f32 ch with
    | .fin n m e =>
      let q := min (min e g) egrid
      decide ((onGrid n m e q - c * 2 ^ (g - q).toNat).natAbs < (err * 2 ^ (egrid - q).toNat).toNat)
    | _ => false
  if near then ch else (rnd (.fin (decide (c < 0)) c.natAbs g) .f32 .rne false).1

/-- `vfrcp` (R138). -/
def fpRcp (a : Nat) : Nat × Flags :=
  match readFp .f32 a with
  | .nan s => (0x7FC00000, if s then fIV else 0)
  | .inf n => (signBit .f32 n, 0)
  | .fin n m e =>
    if m = 0 then (infBits .f32 n, fDZ)
    else
      let q := 2 ^ 80 / m
      bracket .rcp a n (2 * q + (if q * m = 2 ^ 80 then 0 else 1)) (-e - 81)

/-- `vfrsq` (R138). -/
def fpRsq (a : Nat) : Nat × Flags :=
  match readFp .f32 a with
  | .nan s => (0x7FC00000, if s then fIV else 0)
  | .inf n => if n then (0x7FC00000, fIV) else (0, 0)
  | .fin n m e =>
    if m = 0 then (infBits .f32 n, fDZ)
    else if n then (0x7FC00000, fIV)
    else
      let m' := if e % 2 = 0 then m else 2 * m
      let e' := if e % 2 = 0 then e else e - 1
      let q := isqrt (2 ^ 160 / m')
      bracket .rsq a false (2 * q + (if q * q * m' = 2 ^ 160 then 0 else 1)) (-(e' / 2) - 81)

/-- 2^(2^-i) for i = 1, 2, …, in units of 2^-100. -/
def rootsOfTwo : Nat → Nat → List Nat
  | 0, _ => []
  | k + 1, x => let r := isqrt (x * 2 ^ 100); r :: rootsOfTwo k r

/-- The product of the roots that the bits of a fraction (in units of 2^-n) select. -/
def exp2Frac (bits : Nat) : Nat → List Nat → Nat → Nat
  | _, [], acc => acc
  | 0, _, acc => acc
  | n + 1, r :: rs, acc => exp2Frac bits n rs (if bits / 2 ^ n % 2 = 1 then acc * r / 2 ^ 100 else acc)

/-- `vfexp2` (R138): within 2 units in the last place; the value at -256 and below, and at every integer, is the correctly rounded one,
the model's choice among those (log entry 5). -/
def fpExp2 (a : Nat) : Nat × Flags :=
  match readFp .f32 a with
  | .nan s => (0x7FC00000, if s then fIV else 0)
  | .inf n => if n then (0, 0) else (infBits .f32 false, 0)
  | .fin n m e =>
    let big := (m.log2 : Int) + e ≥ 8 ∧ m ≠ 0
    if big then (if n then (0, fUF ||| fNX) else (infBits .f32 false, fOF ||| fNX))
    else
      let x : Int := if e ≥ -60 then onGrid n m e (-60)
        else if n then -(((m + 2 ^ (-60 - e).toNat - 1) / 2 ^ (-60 - e).toNat : Nat) : Int) else (m / 2 ^ (-60 - e).toNat : Nat)
      let k := x / 2 ^ 60
      let fr := (x % 2 ^ 60).toNat
      if fr = 0 ∧ (m = 0 ∨ e ≥ -60) then
        let r := (rnd (.fin false 1 k) .f32 .rne false).1
        (r, approxFlags r false)
      else
        let v := exp2Frac fr 60 (rootsOfTwo 60 (2 * 2 ^ 100)) (2 ^ 100)
        let u := max k (-126) - 23
        let r := nearTo .exp2 a v (k - 100) (2 ^ 20 * 2 - 1) (u - 20)
        (r, approxFlags r false)

/-- The bits of log2 of a number in [1, 2), in units of 2^-120, by repeated squaring. -/
def log2Bits : Nat → Nat → Nat → Nat
  | 0, _, acc => acc
  | k + 1, x, acc =>
    let y := x * x / 2 ^ 120
    if y ≥ 2 ^ 121 then log2Bits k (y / 2) (2 * acc + 1) else log2Bits k y (2 * acc)

/-- `vflog2` (R138): within 2 units in the last place of the exact value outside [0.5, 2], within 2^-22 inside. -/
def fpLog2 (a : Nat) : Nat × Flags :=
  match readFp .f32 a with
  | .nan s => (0x7FC00000, if s then fIV else 0)
  | .inf n => if n then (0x7FC00000, fIV) else (infBits .f32 false, 0)
  | .fin n m e =>
    if m = 0 then (infBits .f32 true, fDZ)
    else if n then (0x7FC00000, fIV)
    else
      let k := (m.log2 : Int) + e
      if m = 2 ^ m.log2 then ((rnd (intVal k) .f32 .rne false).1, 0)
      else
        let v : Int := k * 2 ^ 48 + (log2Bits 48 (m * 2 ^ (120 - m.log2)) 0 : Nat)
        let inside := -1 ≤ k ∧ k ≤ 0
        let g : Int := if inside then -22 else (v.natAbs.log2 : Int) - 70
        let r := nearTo .log2 a v (-48) (2 ^ 20 - 1) (g - 20)
        (r, approxFlags r false)

/-- π in units of 2^-100. -/
def piFixed : Nat := 3982441812995697363688351113952

/-- The Taylor terms of sine and cosine from a term on, in units of 2^-80. -/
def taylor (x2 : Int) : Nat → Nat → Int → Int
  | 0, _, _ => 0
  | n + 1, k, t => t + taylor x2 n (k + 2) (-(t * x2 / 2 ^ 80) / ((k + 1) * (k + 2) : Nat))

/-- `vfsin` and `vfcos` (R138): the cosine of ±0 is exactly 1 with no flag, the model's choice within the bound (log entry 5). -/
def fpTrig (cos : Bool) (a : Nat) : Nat × Flags :=
  let f := if cos then Config.Approx.cos else .sin
  match readFp .f32 a with
  | .nan s => (0x7FC00000, if s then fIV else 0)
  | .inf _ => (0x7FC00000, fIV)
  | .fin n m e =>
    if m = 0 then (if cos then (0x3F800000, 0) else (signBit .f32 n, 0))
    else if (m.log2 : Int) + e ≥ 15 ∧ ¬ (m = 2 ^ m.log2 ∧ (m.log2 : Int) + e = 15) then
      let ch := (Config.approx f (BitVec.ofNat 32 a)).toNat
      let r := if ch % 2 ^ 31 ≤ 0x3F800000 then ch else 0
      (r, approxFlags r false)
    else
      let x : Int := if e ≥ -100 then onGrid n m e (-100) else 0
      let two := 2 * (piFixed : Int)
      let y := (x + piFixed) % two - piFixed
      let y := y / 2 ^ 20
      let v := if cos then taylor (y * y / 2 ^ 80) 24 0 (2 ^ 80) else taylor (y * y / 2 ^ 80) 24 1 y
      let r := nearTo f a v (-80) (2 ^ 20 - 1) (-42)
      (r, approxFlags r false)

/-! ### The dot-product step (R97, R98) -/

/-- The largest exponent of the nonzero products. -/
def maxExp : List FVal → Option Int
  | [] => none
  | .fin _ m e :: l =>
    if m = 0 then maxExp l
    else match maxExp l with
      | some k => some (max k ((m.log2 : Int) + e))
      | none => some ((m.log2 : Int) + e)
  | _ :: l => maxExp l

/-- `trunc0(p / 2^g)` of a finite value. -/
def truncGrid (g : Int) : FVal → Int
  | .fin n m e =>
    let q : Nat := if e ≥ g then m * 2 ^ (e - g).toNat else m / 2 ^ (g - e).toNat
    if n then -(q : Int) else q
  | _ => 0

/-- `dotstep` (R97): accumulator pattern, terms, window, scale exponent. -/
def dotstep (c : Nat) (a b : List FVal) (N : Nat) (k : Int) : Nat × Flags :=
  let cv := readFp .f32 c
  if cv.isNan || a.any FVal.isNan || b.any FVal.isNan then
    (0x7FC00000, (a ++ b).foldl (fun f x => f ||| sigFlag x) (sigFlag cv))
  else
    let ps := (a.zip b).map fun p => fvMul p.1 p.2
    if ps.any (fun p => p.1.isNan) then (0x7FC00000, fIV)
    else
      let vs := ps.map fun p => p.1
      let infs := vs.filter fun v => match v with | .inf _ => true | _ => false
      if infs ≠ [] then
        let t := infs.foldl (fun s v => fvAdd .rne s.1 v) (cv, (0 : Flags))
        if t.1.isNan then (0x7FC00000, fIV) else rnd t.1 .f32 .rne false
      else match maxExp vs with
        | none => (c, 0)
        | some E =>
          let g := E - ((N : Int) - 4)
          let S := vs.foldl (fun s v => s + truncGrid g v) (0 : Int)
          if S = 0 then (c, 0)
          else rndWith (fvAdd .rne cv (.fin (decide (S < 0)) S.natAbs (g + k))) .f32 .rne false

/-- The window N of a format (R97). -/
def dotWindow : FpTy → Nat
  | .e2m1 => 20
  | .bf16 | .f16 => 40
  | _ => 25

end Sys2Proof.Machine
end

