-- ==== Sys2Proof/Machine/Flags.lean ====
section
/-! DEFINITION. Conditions and flags: the comparisons of R101 and R133, and the flags that floating instructions gather into
FPFL (R94, R95). -/
namespace Sys2Proof.Machine

/-- Whether a condition holds for two integers (R101, R133). -/
def cndHolds : Cnd → Int → Int → Bool
  | .eq, a, b => a == b
  | .ne, a, b => a != b
  | .lt, a, b => decide (a < b)
  | .le, a, b => decide (a ≤ b)
  | .gt, a, b => decide (b < a)
  | .ge, a, b => decide (b ≤ a)

/-- The flags as FPFL and MSTAT hold them (R94, R246). -/
def flagWord (f : Flags) : W64 := f.setWidth 64

/-- The flags of every active lane, ORed (R95). -/
def gatherFlags (l : List Flags) : Flags := l.foldl (fun a b => a ||| b) 0

/-- The bits of FPFL that exist (R94). -/
def fpflMask : W64 := 0x1F#64

end Sys2Proof.Machine
end

