-- ==== Sys2Proof/Machine/Store.lean ====
section
/-! DEFINITION. Sparse stores in one canonical form: keys strictly rising, no entry that holds what an unlisted key reads
as. Memories, register files and tables are all held so. -/
namespace Sys2Proof.Machine

/-- A sparse map from keys to values. -/
abbrev SMap (α : Type) := List (Nat × α)

/-- Reading a key; `d` is what an unlisted key reads as. -/
def sget {α : Type} (d : α) : SMap α → Nat → α
  | [], _ => d
  | (a, v) :: m, k => if a = k then v else sget d m k

/-- Listing a key in its place, with its value. -/
def sput {α : Type} : SMap α → Nat → α → SMap α
  | [], k, v => [(k, v)]
  | (a, w) :: m, k, v =>
    if a = k then (k, v) :: m
    else if k < a then (k, v) :: (a, w) :: m
    else (a, w) :: sput m k v

/-- Writing a key; writing `d` removes the entry. -/
def sset {α : Type} [DecidableEq α] (d : α) (m : SMap α) (k : Nat) (v : α) : SMap α :=
  if v = d then m.filter fun e => e.1 != k else sput m k v

/-- Every key of the list is above `k`. -/
def sabove {α : Type} (k : Nat) : SMap α → Bool
  | [] => true
  | (a, _) :: _ => k < a

/-- The canonical form: keys strictly rising and no default value listed. -/
def swf {α : Type} [DecidableEq α] (d : α) : SMap α → Bool
  | [] => true
  | (a, v) :: m => sabove a m && decide (v ≠ d) && swf d m

/-- The canonical form of a memory: addresses strictly rising, and no byte listed that an unlisted address reads as. -/
def Memory.wf (m : SMap Byte) : Bool := swf 0 m

/-- Reading `n` consecutive keys. -/
def sgetN {α : Type} (d : α) (m : SMap α) (k : Nat) : Nat → List α
  | 0 => []
  | n + 1 => sget d m k :: sgetN d m (k + 1) n

/-- Writing consecutive keys. -/
def ssetN {α : Type} [DecidableEq α] (d : α) : SMap α → Nat → List α → SMap α
  | m, _, [] => m
  | m, k, v :: vs => ssetN d (sset d m k v) (k + 1) vs

/-- Removing every key of a range. -/
def sclear {α : Type} (lo len : Nat) (m : SMap α) : SMap α := m.filter fun e => !(lo ≤ e.1 && e.1 < lo + len)

/-- The first record of a list that a predicate picks. -/
def pick {α : Type} (l : List α) (p : α → Bool) : Option α := l.find? p

/-- Changing the records that a predicate picks. -/
def modWhere {α : Type} (l : List α) (p : α → Bool) (f : α → α) : List α := l.map fun a => if p a then f a else a

end Sys2Proof.Machine
end

