-- ==== Sys2Proof/Machine/State.lean ====
section
/-! DEFINITION. The state of the module: every register, memory, queue and table that the spec names, as plain data, and
the state after a cold reset. -/
namespace Sys2Proof.Machine

/-- Who issues an instruction: a path of a group (by its slot), a Q thread or a copy context (R66, R191). -/
inductive Issuer
  | grp (gid slot : Nat) | qthr (die t : Nat) | copyc (die k : Nat)
  deriving DecidableEq, Repr

/-- The group of an issuer. -/
def Issuer.gid? : Issuer → Option Nat
  | .grp g _ => some g
  | _ => none

/-- The trap causes (R303). -/
inductive Cause
  | illegal | priv | laHazard | role | divergedMatrix | collectiveExited | collectiveDeadlock | misalign | scopeClass
  | ringState | badTarget | granule | pageFault | firstTouch | prot | overlayMiss | retired | trap | matrixFault | brk
  | poison | homeLost | secure | doubleFault
  deriving DecidableEq, Repr

/-- A cause with the address and the value it carries (R70, R303); `lanes` when not the whole path raised it; `sec` when the
secure log gets the details (R159, R358). -/
structure Trap where
  cause : Cause
  va    : W64 := 0
  aux   : W64 := 0
  lanes : Option Mask := none
  sec   : Bool := false
  deriving DecidableEq, Repr

/-- A recoverable trap on its way to a handler (R305, R306), or a cause of an imprecise fault (R216). -/
structure Pend where
  trap   : Trap
  pc     : W64
  resume : W64
  gid    : Nat
  pid    : Nat
  deriving DecidableEq, Repr

/-- Where an access lands once its address is resolved (R163 to R167); `far` is an address of another module, with the die whose access
it is (R353). -/
inductive Place
  | fab (a mt ccl gran : Nat) (repl : Bool) | host (port a ccl : Nat) | scratch (team core off : Nat)
  | reg (gid reg lane : Nat) | ringCtl (team ring stage : Nat) | vaultWin (a : Nat) | far (die a mt ccl : Nat)
  deriving DecidableEq, Repr

/-- One lane's access of an outstanding operation: where, the data it stores or combines, what a `cas` compares with. -/
structure Acc where
  lane  : Nat
  va    : W64
  place : Place
  data  : List Byte
  cmp   : List Byte
  deriving DecidableEq, Repr

/-- Where a completed operation writes what it read. -/
inductive Dest
  | nowhere | vec (reg : Nat) | scal (sd : Nat)
  deriving DecidableEq, Repr

/-- The kinds of outstanding operation (R217). `alu` is a long-latency instruction that reads no memory (R58): its
register writes (register × 64 + lane), scalar writes and flags wait for its completion. -/
inductive OpKind
  | ld | st | atom (op : AtomOp) | cas | cwb | cinv
  | alu (wv : List (Nat × W32)) (ws : List (Nat × W64)) (flags : W64)
  deriving DecidableEq, Repr

/-- An outstanding operation of an agent. `anc` names the paths whose earlier operations are po-before it (R195);
`begun` once part of it is performed (R309), `since` when it issued (R196), `counted` when it takes an entry of the memory
counter (R217); `leased` holds the lines that must return first, each with the
address that the atomic named and whether its page is replicated (R178), `done` what a store has written (R215). -/
structure MemOp where
  id    : Nat
  who   : Issuer
  pid   : Nat
  anc   : List Nat
  pc    : W64
  kind  : OpKind
  size  : Nat
  scope : Scope
  ord   : MemOrd
  ch    : BitVec 2
  dest  : Dest
  todo  : List Acc
  begun : Bool
  since : Nat
  counted : Bool
  leased : List (Nat × W64 × Bool)
  done   : List (Place × Nat) := []
  deriving DecidableEq, Repr

/-- A page of a bulk source, or a page of a matrix or copy operand: bytes `off` to `off+len-1` of the range are at `place`. -/
structure Span where
  off   : Nat
  len   : Nat
  place : Place
  deriving DecidableEq, Repr

/-- An outstanding `bcp` or `ldm` (R223, R224): its source address and pages, its
destinations as (team, core, offset); `buf` is the one read of `ldm`, `half` the sectors, as (team, core, number), of which a chunk has
written a half with clean data (R215). -/
structure BulkOp where
  id    : Nat
  gid   : Nat
  pid   : Nat
  anc   : List Nat
  pc    : W64
  multi : Bool
  sva   : W64
  src   : List Span
  count : Nat
  dests : List (Nat × Nat × Nat)
  todo  : List Nat
  buf   : Option (List (Byte × Bool))
  ch    : BitVec 2 := 0
  half  : List (Nat × Nat × Nat) := []
  deriving DecidableEq, Repr

/-- A lookahead window (R58): the operation, whether it is a floating one (R96), the instructions left in it and its pending
registers. -/
structure Window where
  op   : Nat
  fp   : Bool
  left : Nat
  vds  : List Nat
  sds  : List Nat
  deriving DecidableEq, Repr

/-- Why a path does not issue (R34, R263). `racq` and `rrel` wait without parking. -/
inductive Wait
  | run
  | arrived
  | collective (members : Mask) (seq : Nat)
  | barrier (b : Nat)
  | wchg (place : Place) (size : Nat) (expect : W64) (sd : Nat) (since : Nat) (acq : Bool) (scope : Scope) (ch : BitVec 2)
  | twait (die t : Nat) (v : W64) (sd : Nat) (scope : Scope)
  | line (op : Nat)
  | absent (place : Place)
  | pri (id : Nat)
  | racq (team k j sd : Nat) (cons : Bool) (gidx : Nat)
  | rrel (team k j : Nat)
  | trapping
  | dmsg (sd : Nat) (words : List W64)
  | ats (id : Nat)
  deriving DecidableEq, Repr

/-- A path of an executor: a group's path (R30), or the one path of a Q thread or a copy program. `code` holds the words
of the block a group's path is executing, which it completes whatever is staged over them (R286); `lastAt` when it last issued
and `parkAt` when its present wait began (R34, R264); `cut` when a pre-emption has interrupted the `wchg` that it issues (R229); `denied`
holds the pages to which the walker has refused its instruction a translation (R162, R294), `full` that its request found no room (R293);
`began` that the fence or barrier it stands at has begun to wait (R247); `call` the link of the system-level `calli` that led it to the
header it stands at (R268). -/
structure Path where
  pid     : Nat
  pc      : W64
  hdr     : W64
  blk     : Option Header
  code    : List W64
  left    : Nat
  atHdr   : Bool
  src     : W64
  start   : Bool
  sys     : Bool
  mask    : Mask
  reconv  : Option W64
  parent  : Nat
  side    : Bool
  view    : SMap W64
  spois   : W64
  wait    : Wait
  wins    : List Window
  anc     : List Nat
  yielded : Bool
  spinAt  : Nat
  slotAt  : Nat
  age     : Nat
  lastAt  : Nat
  parkAt  : Nat
  pend    : Option Pend
  cut     : Bool := false
  denied  : List (Nat × Trap) := []
  full    : Bool := false
  began   : Bool := false
  call    : Option W64 := none
  deriving DecidableEq, Repr

/-- A stack entry that is not live (R30): a spilled path, or a join that waits for its two children. -/
inductive Entry
  | path (p : Path)
  | join (id : Nat) (hdr : W64) (mask maskA : Mask) (reconv : Option W64) (parent : Nat) (side : Bool) (anc : List Nat)
  deriving DecidableEq, Repr

/-- The paths of one level of a group: the live slots A and B and the stack, its top first (R30). -/
structure Stack where
  a    : Option Path
  b    : Option Path
  rest : List Entry
  deriving DecidableEq, Repr

/-- The trap registers (R117). -/
structure TrapRegs where
  trapc    : W64 := 0
  trappc   : W64 := 0
  trapmask : W64 := 0
  trapva   : W64 := 0
  trapaux  : W64 := 0
  deriving DecidableEq, Repr

/-- A handler frame (R305, R306): its number, what it saved, its registers v248 to v255 and the lanes that entered. -/
structure Frame where
  num    : Nat
  saved  : Stack
  old    : TrapRegs
  pid    : Nat
  cause  : Nat
  pc     : W64
  resume : W64
  entry  : W64
  lanes  : Mask
  v      : SMap W32
  vpois  : SMap Mask
  deriving DecidableEq, Repr

/-- The roles (R22). -/
inductive Role
  | general | feed | matrix | vector
  deriving DecidableEq, Repr

/-- A resident group, or a walker group, which has no role and no team (R20 to R25, R117, R293): `entry` is its group-table
entry, `ehdr` its entry header. -/
structure Group where
  gid     : Nat
  team    : Nat
  role    : Option Role
  width   : Nat
  gidx    : Nat
  gser    : W64
  die     : Nat
  core    : Nat
  tcore   : Nat
  entry   : Nat
  ehdr    : W64
  column  : Nat
  sector  : Nat
  rank    : Nat
  spawned : Option Nat
  vbud    : Nat
  sbud    : Nat
  exited  : Mask
  stack   : Stack
  frames  : List Frame
  vregs   : SMap W32
  vpois   : SMap Mask
  masks   : SMap Mask
  gstat   : W64
  fpfl    : W64
  barst   : W64
  mstat   : W64
  mrp     : SMap W64
  htb     : W64
  regs    : TrapRegs
  late    : List Pend
  mfault  : List (Nat × W64 × W64)
  issued  : Nat
  deriving DecidableEq, Repr

/-- A stage of a ring (R187, R188): 0 EMPTY, 1 FILLING, 2 FULL, 3 DRAINING; `absent` holds its absent lines. -/
structure Stage where
  st     : Nat
  phase  : Bool
  absent : List Nat
  deriving DecidableEq, Repr

/-- A stage ring (R187, R251): the team core its scratchpad is on, base offset, stage bytes. -/
structure Ring where
  k      : Nat
  core   : Nat
  base   : Nat
  size   : Nat
  stages : List Stage
  deriving DecidableEq, Repr

/-- The open phase of a team barrier (R230): the roles of its first arrival, and by group the lanes recorded and the roles
they name. -/
structure Bar where
  roles   : Option (BitVec 4)
  lanes   : SMap Mask
  want    : SMap (BitVec 4)
  arrived : List Nat
  phase   : Bool
  aborted : Bool
  deriving DecidableEq, Repr

/-- What a team is doing: resident, being stopped for a save or to be dropped, saved from a die (R26, R312, R315). -/
inductive TeamSt
  | resident | stopping | dropping | saved (die : Nat)
  deriving DecidableEq, Repr

/-- A matrix operation (R239, R240): the operand words read at issue. -/
inductive MatKind
  | mzero | mld (ty : MatTy) | mma (ta tb : MatTy) (mx : Bool) | mloop (ta tb : MatTy) (mx : Bool)
  | mst (ty : MatTy) (rm : RoundMode) (ovf scale sig : Bool)
  deriving DecidableEq, Repr

/-- A queued matrix operation with its progress (step, row, element) (R233, R242, R244): `sys` when issued in handler mode,
`bseg` the B segments and B scales of the step, `aseg` what the row read (an A segment and its scale, or the bytes of a row),
`flags` the row's flags, `await` the address and SRC of an operand whose translation is awaited, `halt` the address and the cause
that stopped it (R247), `since` the identifier when the reads that it makes now began (R326), `signalled` once the write of its signal is
on its way (R240). -/
structure MatOp where
  num  : Nat
  gid  : Nat
  pid  : Nat
  team : Nat
  pc   : W64
  kind : MatKind
  zd   : Nat
  a    : List W64
  b    : List W64
  k    : List W64
  step : Nat
  row  : Nat
  col  : Nat
  sys  : Bool
  bseg : Option (List (List Byte) × List Byte)
  aseg : Option (List Byte × Nat)
  flags : BitVec 5
  await : Option (W64 × Nat)
  stopped : Bool
  halt : Option (W64 × W64)
  since : Nat := 0
  signalled : Bool := false
  deriving DecidableEq, Repr

/-- A resident or saved team (R25 to R27): `pinned` the bytes of private memory that its groups hold (R27, R28),
`since` when it was saved (R261). -/
structure Team where
  tid     : Nat
  launch  : Nat
  x       : W32
  y       : W32
  z       : W32
  die     : Nat
  cores   : List Nat
  groups  : Nat
  pool    : Nat
  scratch : Nat
  smem    : SMap Byte
  spois   : SMap Bool
  rings   : List Ring
  bars    : SMap Bar
  killed  : List Nat
  st      : TeamSt
  faulted : Bool
  image   : List Group
  mat     : List (Nat × List (List MatOp))
  tiles   : List (Nat × SMap W32)
  tpois   : List (Nat × List Nat)
  pinned  : Nat := 0
  since   : Nat := 0
  deriving DecidableEq, Repr

/-- A LAUNCH packet's fields (R46). -/
structure Packet46 where
  flags   : Nat
  dies    : Nat
  width   : Nat
  cores   : Nat
  tlva    : W64
  tlval   : W64
  desc    : W64
  arg     : W64
  gx      : Nat
  gy      : Nat
  gz      : Nat
  counts  : List Nat
  scratch : Nat
  vbud    : List Nat
  sbud    : List Nat
  pool    : Nat
  prio    : Nat
  deriving DecidableEq, Repr

/-- A kernel descriptor's fields (R48). -/
structure Desc where
  entries : List W64
  prest   : Bool
  ranks   : Nat
  isa     : Nat
  feat0   : W64
  feat1   : W64
  htb     : W64
  vmax    : List Nat
  smax    : List Nat
  ok      : Bool
  deriving DecidableEq, Repr

/-- A grid handed to the work distributors (R261, R276): `redo` the indices of its dropped teams, each with the time from which it has
waited (R313); `lostOn` the lost dies that held a team of it (R329); `sent` once the write of its timeline is on its way (R276). -/
structure Launch where
  lid     : Nat
  die     : Nat
  qid     : Nat
  seq     : Nat
  pasid   : Nat
  pk      : Packet46
  ds      : Desc
  prio    : Nat
  next    : Nat
  redo    : List (Nat × Nat)
  ended   : Nat
  faulted : Bool
  since   : Nat
  held    : Bool
  reported : Bool
  lostOn  : List Nat := []
  sent    : Bool := false
  deriving DecidableEq, Repr

/-- A consumed packet of a queue (R258, R275, R320): `data` holds the words from its type fields on; `never` when it can no
longer complete; `started` once its work is under way (R258); `barred` when a SUSPACK has taken its timeline and interrupt from it (R322);
`suspect` while it needs one (R322); `sent` once the write of its timeline is on its way (R258). -/
structure Packet where
  seq     : Nat
  typ     : Nat
  flags   : Nat
  tlva    : W64
  tlval   : W64
  closed  : Bool
  done    : Bool
  acked   : Option (W64 × W64 × Bool)
  status  : W64
  ran     : List (Nat × Nat)
  vouched : Bool
  waitTl  : Option (W64 × W64)
  guest   : Option Nat
  data    : List W64
  never   : Bool
  started : Bool := true
  barred  : Bool := false
  suspect : Bool := false
  sent    : Bool := false
  deriving DecidableEq, Repr

/-- A Stait queue (R255 to R260, R338); `waited` while a WAITGE has completed and no later packet has started since (R274). -/
structure Queue where
  die     : Nat
  qid     : Nat
  pasid   : Nat
  ring    : W64
  size    : Nat
  prio    : Nat
  ridxva  : W64
  fqva    : W64
  doneva  : W64
  vouchva : W64
  irqvec  : Nat
  faultvec : Nat
  irqvalva : W64
  w       : Nat
  r       : Nat
  halted  : Bool
  kicked  : Bool
  bound   : Option Nat
  cap     : Nat
  packets : List Packet
  done    : Nat
  vouched : Nat
  suspects : List (Nat × Nat)
  waited  : Bool := false
  deriving DecidableEq, Repr

/-- A Q thread (R268 to R272, R278). -/
structure QThread where
  die    : Nat
  t      : Nat
  bound  : Option Nat
  cap    : Nat
  pasid  : Nat
  ccx    : Nat
  sleepm : BitVec 4
  path   : Option Path
  ret    : Option W64
  qprog  : Option Nat
  popped : Option Nat
  events : W64
  asleep : Option Nat
  deriving DecidableEq, Repr

/-- The copy operations (R279, R282). -/
inductive CopyKind
  | cpy | prog | cpy2d | cpyg | cpys | cfill | reform (gran : Nat) (frame : Bool)
  deriving DecidableEq, Repr

/-- A copy operation: its operand block, whom it is attributed to, the Q thread that issued it (R200), and the first byte not
yet written (R280, R281).
`buf` holds the source of the row or element in progress once it has been read, `idx` its index; `sys` when system code issued it
(R268), `since` the identifier when the reads that it makes now began (R326), `signalled` once the write of its timeline is on its way
(R280). -/
structure CopyOp where
  num  : Nat
  kind : CopyKind
  args : List W64
  qid  : Nat
  seq  : Nat
  owner : Option Nat := none
  sys  : Bool := false
  since : Nat := 0
  signalled : Bool := false
  pos  : Nat
  idx  : Option Nat := none
  buf  : Option (List (Byte × Bool))
  stop : Option Trap
  deriving DecidableEq, Repr

/-- A copy context (R270, R273, R279). -/
structure CopyCtx where
  die   : Nat
  k     : Nat
  pasid : Nat
  ops   : List CopyOp
  count : Nat
  prog  : Option Path
  inner : Option CopyOp
  ret   : Option W64
  deadOp : Option Nat
  deriving DecidableEq, Repr

/-- A cached translation (R292): PASID, handler root, page base and size in bytes, leaf, and the shoot-downs that
marked it (R299). -/
structure Tlb where
  pasid : Nat
  hroot : Bool
  base  : Nat
  bytes : Nat
  leaf  : W64
  marks : List Nat
  deriving DecidableEq, Repr

/-- A request of a core's miss queue (R293); `whole` when no other lane of the access has still to be translated or meets a cause of
its own (R162). -/
structure Miss where
  gid   : Nat
  pid   : Nat
  pasid : Nat
  va    : W64
  write : Bool
  fetch : Bool
  hroot : Bool
  mat   : Bool
  lanes : Mask
  whole : Bool := true
  deriving DecidableEq, Repr

/-- The tag of an instruction frame (R301). -/
structure FrameTag where
  pasid : Nat
  base  : Nat
  ovl   : Nat
  deriving DecidableEq, Repr

/-- Service states of a core (R317, R319). -/
inductive CoreSt
  | inService | draining | scanning | out
  deriving DecidableEq, Repr

/-- A core (R13); `idle` holds the registers of its walker group between two requests, none before the first (R293). -/
structure Core where
  die    : Nat
  core   : Nat
  st     : CoreSt
  fold   : Option Nat
  scan   : Nat
  pass   : Nat
  passes : Nat
  bind   : Option Nat
  tiles  : SMap W32
  tpois  : List Nat
  count  : SMap Nat
  strm   : SMap (List MatOp)
  tlb    : List Tlb
  lpr    : List (Nat × Nat × Tlb)
  missQ  : List Miss
  tags   : SMap (Option FrameTag)
  imem   : SMap W64
  walk   : Option Miss
  idle   : Option Group := none
  deriving DecidableEq, Repr

/-- A record of a die's flight recorder (R331). -/
structure FlightRec where
  seq   : Nat
  mcyc  : Nat
  event : Nat
  src   : Nat
  unit  : Nat
  auxa  : Nat
  auxb  : Nat
  deriving DecidableEq, Repr

/-- The phases of a Pavane visit (R317, R318). -/
inductive PavPhase
  | idle | drain | asked | scan
  deriving DecidableEq, Repr

/-- The boot progress of a die (R360, R362). -/
inductive BootSt
  | rom | firmware | kernel | ready | failed
  deriving DecidableEq, Repr

/-- A request of a boot ROM to the management controller (R359). -/
inductive BootReq
  | readImage (image offset : Nat) | getRecord | putRecord
  deriving DecidableEq, Repr

/-- A die (R14) with the tables that its die kernel keeps: `lost` when it no longer works, `down` the dies whose DIE_DOWN it has
acted on (R327), `failed` its pseudo-channels marked failed, as controller × 64 + channel × 2 + pseudo-channel (R179, R180), `turns` the
copy context that each copy engine served last (R260), `owed` the shoot-downs that its die kernel is to start, with the PASID of an ATS Invalidation
Request that asks for one (R294, R328), `allocs` the requests for a frame that it has not served, as PASID and address, and `given` the
pages whose frames it has announced and not yet mapped, as PASID and base (R295), `unsent` what it has to tell Quadrille (R346), `want` the requests of its boot ROM in order,
the first sent `asks` times, `image` the bytes received of the image, which is `whole` at its end (R359, R360). -/
structure Die where
  die     : Nat
  lost    : Bool
  down    : List Nat
  failed  : List Nat
  turns   : SMap Nat
  owed    : List (Nat × W64 × W64 × Option Nat)
  unsent  : List (List W64) := []
  allocs  : List (Nat × W64) := []
  given   : List (Nat × Nat) := []
  ptbase  : SMap W64
  hroot   : W64
  poolbase : W64
  walker  : Option W64
  replBase : W64
  cache   : List Tlb
  mailbox : List (W64 × Nat × Nat)
  mbsrc   : W64
  regions : SMap (W64 × W64)
  conn    : SMap W64
  routes  : SMap W64
  flight  : List FlightRec
  fseq    : Nat
  gate    : Nat
  cyc     : Nat
  pavCore : Nat
  pavPhase : PavPhase
  pavAt   : Nat
  beats   : SMap Nat
  qpos    : Nat
  held    : List (Nat × Nat × Nat × W64 × W64)
  secLog  : List (Nat × W64)
  boot    : BootSt
  asks    : Nat
  bootAt  : Nat
  want    : List BootReq := []
  image   : List Byte := []
  whole   : Bool := false
  tables  : Nat
  deriving DecidableEq, Repr

/-- The pre-emption modes of a context (R312). -/
inductive PreMode
  | none | discard | save
  deriving DecidableEq, Repr

/-- A context (R49, R73, R121, R304, R312, R334). -/
structure Context where
  pasid : Nat
  fn    : Nat
  mode  : PreMode
  feat0 : W64
  feat1 : W64
  htb   : W64
  retcnt : W64
  retlast : W64
  deriving DecidableEq, Repr

/-- A copy of a 128-byte line: an untracked NC copy in a core's L1 (R173), or a remote DC line of a die with its
dirty bytes and whether its page is replicated (R175, R328). `valid` holds its valid 32-byte sectors (R169, R184), `bad` the
poisoned ones (R183). -/
structure Line where
  die   : Nat
  core  : Nat
  addr  : Nat
  data  : List Byte
  valid : List Nat
  bad   : List Nat
  dirty : List Nat
  repl  : Bool
  deriving DecidableEq, Repr

/-- A PKG lease of a 64-byte line (R178): the requester, when it was granted, the value before it, and whether the line is
mirrored (R328). -/
structure Lease where
  line  : Nat
  die   : Nat
  since : Nat
  old   : List Byte
  repl  : Bool
  deriving DecidableEq, Repr

/-- A shoot-down in progress (R299): phase 2 PREPARE, 3 COMMIT; the die that runs it, the dies that have acted on the phase,
and the dies and guests whose acknowledgements have arrived. -/
structure Shoot where
  id    : Nat
  pasid : Nat
  va    : W64
  len   : W64
  phase : Nat
  sender : Nat
  done  : List Nat
  acks  : List Nat
  gacks : List Nat
  since : Nat
  fromAts : Option Nat
  deriving DecidableEq, Repr

/-- What an ATS Translation Request serves: `ats` (R288), the vendor walker of a core (R294), or the access of a Q or C
program or copy, which waits (R281). -/
inductive AtsFor
  | instr (op sd : Nat) | walker (core : Nat) | access
  deriving DecidableEq, Repr

/-- Whether the vendor walker waits for the answer. -/
def AtsFor.isWalker : AtsFor → Bool
  | .walker _ => true
  | _ => false

/-- An ATS Translation Request on its way (R288, R335): the executor that waits and its die. -/
structure AtsReq where
  id    : Nat
  fn    : Nat
  pasid : Nat
  va    : W64
  write : Bool
  die   : Nat
  who   : Issuer
  pid   : Nat
  use   : AtsFor
  since : Nat
  deriving DecidableEq, Repr

/-- A PRI Page Request on its way (R289, R335). -/
structure PriReq where
  id    : Nat
  fn    : Nat
  pasid : Nat
  va    : W64
  gid   : Nat
  pid   : Nat
  deriving DecidableEq, Repr

/-- A guest socket (R354 to R357): `quiesce` the contexts that it is asked to give up, each with the time (R344). -/
structure Guest where
  socket  : Nat
  up      : Bool
  held    : Bool
  vendor  : Nat
  engines : Nat
  atc     : Nat
  fenced  : Bool
  bound   : List Nat
  packets : List (Nat × Nat × Nat)
  waits   : List (Nat × Nat)
  quiesce : List (Nat × Nat)
  retrained : Bool
  deriving DecidableEq, Repr

/-- Whose transaction it is, of work that is no path's operation: a copy context, a matrix stream, a bulk copy of a group, the
completion of a packet or a grid, or an access of the device itself for which nothing waits. -/
inductive TxWork
  | copy (die k : Nat) | matrix (die core strm : Nat) | bulk (gid : Nat) | packet (die qid seq : Nat) | grid (lid : Nat) | device
  deriving DecidableEq, Repr

/-- A transaction that its source keeps until it is acknowledged (R325), with the access that waits for it: its operation,
lane and address; or with the work that waits, and the range whose translation it used (R299). `die` is the die whose agent sent it,
`circuit` the circuit that carried it, none while no circuit leads there. -/
structure LinkTx where
  src : Nat
  dst : Nat
  tag : Nat
  req : LinkReq
  circuit : Option Nat
  acc : Option (Nat × Nat × W64)
  die : Nat := 0
  work : Option TxWork := none
  pasid : Nat := 0
  va : W64 := 0
  vlen : Nat := 0
  deriving DecidableEq, Repr

/-- A teardown (R344): the queue and packet of the TEAR, its step and when it began. -/
structure Tear where
  pasid : Nat
  die   : Nat
  qid   : Nat
  seq   : Nat
  step  : Nat
  since : Nat
  shoot : Nat
  deriving DecidableEq, Repr

/-- What the module sends outside: the model's own record of it. -/
inductive Out
  | msix (fn vec : Nat) | atsRequest (id fn pasid : Nat) (va : W64) (w : Bool) | priRequest (id fn pasid : Nat) (va : W64) (w : Bool)
  | invalidationCompletion (pasid : Nat) | backInvalidate (port line : Nat) | supervisorInterrupt (die : Nat) | poolInterrupt (die cls : Nat) (empty : Bool)
  | guest (socket : Nat) (words : List W64) | mctp (bytes : List Byte) | thermalTrip
  | offModule (mod circuit tag : Nat) (req : LinkReq) | snoopData (frame : Nat) | readData (bytes : List Byte) (bad : Bool)
  | linkAck (tag : Nat) (data : List Byte) (bad : Bool) | linkAgain (tag : Nat) | linkRefuse (tag aux : Nat) | atsAnswer (socket : Nat) (leaf status : W64)
  | bootRequest (die : Nat) (r : BootReq) (rec : W64)
  deriving DecidableEq, Repr

/-- A store of the die in which an uncorrectable error appears (R324): a register, a scratchpad sector, a tile, a sector of a vault or
of L2 at its home, or a remote or L1 line; a unit of HBM that a read finds uncorrectable (R180, R183); or a corrected error of a unit, as
SRC, UNIT and address (R331, R332). -/
inductive Upset
  | vector (gid reg lane : Nat) | scalar (gid pid reg : Nat) | scratch (team core off : Nat) | tile (die core zd : Nat) | sector (addr : Nat)
  | remoteLine (die addr : Nat) | l1Line (die core addr : Nat) | hbm (addr : Nat) | corrected (die src unit addr : Nat)
  deriving DecidableEq, Repr

/-- One item of the schedule: time passes, an executor issues, the second path of a co-issued pair issues (R307), an issue column
chooses, an event happens, a die acts on its
next Quadrille message, or the machine drops a cached copy, loads a frame, runs part of a matrix or copy operation, meets an error, marks a
pseudo-channel failed, sends a kept transaction again, takes back a step of gating, its die kernels send what full rings held
up, a boot ROM sends its next request, or a guest sends a message that its socket's protocol does not admit (R17, R169, R180, R242,
R281, R292, R301, R324, R325, R346, R355, R359; log entry 2). -/
inductive Sched
  | tick (n : Nat) | issue (e : Issuer) | second (e : Issuer) | cycle (die core col : Nat) | event (i : Instr)
  | message (die : Nat) | evictL1 (die core addr : Nat) | writeBack (die addr : Nat) | evictTlb (die core : Nat)
  | frameLoad (die core frame : Nat) (gid : Nat) (h : W64) | matRows (die core strm n : Nat) | copyPart (die k n : Nat)
  | upset (u : Upset) | failChannel (die pch : Nat) | resend (tag : Nat) | ungate (die : Nat) | retry | bootAsk (die : Nat)
  | badGuestMessage (socket : Nat)
  deriving DecidableEq, Repr

/-- The fuses of R360, and the identity key with its certificate chain (R361). -/
structure Fuses where
  vendor    : List Byte := []
  identity  : List Byte := []
  chain     : List Byte := []
  ownerOnly : Bool
  owners    : SMap (List Byte)
  revoked   : List Nat
  version   : Nat
  deriving DecidableEq, Repr

/-- The whole module; `die0Only` in minimal mode (R362). -/
structure State where
  mem      : List Host.Cell
  hostMem  : List Host.Cell
  guestMem : List Host.Cell
  pois     : SMap Bool
  l2bad    : List Nat := []
  fmt      : SMap Nat
  tl       : SMap W64
  tldisc   : SMap Bool
  modid    : W64
  contexts : List Context
  queues   : List Queue
  launches : List Launch
  teams    : List Team
  groups   : List Group
  ops      : List MemOp
  bulks    : List BulkOp
  l1       : List Line
  remote   : List Line
  leases   : List Lease
  dies     : List Die
  cores    : List Core
  qthreads : List QThread
  copies   : List CopyCtx
  waiters  : List (Nat × Nat × Nat × Nat × Nat × Nat)
  quad     : List (Nat × List W64)
  shoots   : List Shoot
  ats      : List AtsReq
  pris     : List PriReq
  guests   : List Guest
  links    : List LinkTx
  linkDone : List (Nat × Nat × List Byte × Bool)
  circuits : SMap Nat
  late     : SMap W64
  vfPort   : SMap Nat
  tears    : List Tear
  quarantine : List (Nat × Nat)
  secure   : List Block
  hostCache : List Nat
  hostHeld : List (Nat × Nat)
  bootwhy  : W64
  die0Only : Bool := false
  startRec : W64
  limit    : Nat
  fuses    : Fuses
  measured : List (List Byte)
  attKey   : List Byte := []
  stopped  : Bool
  now      : Nat
  agenda   : List Sched
  cur      : Option Issuer
  freshId  : Nat
  freeCtr  : Nat
  outbox   : List Out
  deriving DecidableEq, Repr

/-- Why a step stops. -/
inductive Fault
  /-- Raised by the meaning of an instruction word when no executor is issuing it; `step` always names one, so only a
  call of `exec` outside a step can meet it. Safe. -/
  | noIssuer
  deriving DecidableEq, Repr

/-- Why an instruction has no meaning here. -/
inductive Refusal
  /-- Raised by an arm of `exec` whose instruction has no meaning yet. Safe. -/
  | notModelled (mnemonic : String)
  deriving DecidableEq, Repr

/-- The pairs of dies in ascending order, one circuit for each (R351). -/
def diePairs : List (Nat × Nat) :=
  (List.range Config.dies).flatMap fun a => ((List.range Config.dies).filter fun b => decide (a < b)).map fun b => (a, b)

/-- A connection-table entry (R350); the waveguide and wavelengths at boot are the model's choice (log entry 6). -/
def connWord (opt : Bool) (src dst wg : Nat) : W64 :=
  BitVec.ofNat 64 (2 ^ 63 + opt.toNat * 2 ^ 62 + src * 2 ^ 58 + dst * 2 ^ 52 + 0xF * 2 ^ 48 + wg * 2 ^ 40 + 3)

/-- The 130 entries of the connection table at cold reset (R351): entry n uses waveguide n (log entry 6). -/
def bootConn : SMap W64 :=
  ((diePairs.map fun (p : Nat × Nat) => (false, p.1, p.2)) ++
    ((List.range 64).map fun p => (true, p % 12, p))).zipIdx.map
      fun (e : (Bool × Nat × Nat) × Nat) => (e.2, connWord e.1.1 e.1.2.1 e.1.2.2 e.2)

/-- A die at cold reset (R182, R330, R336, R359, R362): its boot ROM asks for the first stage, die 0's for the start record before. -/
def Die.reset (d : Nat) : Die :=
  { die := d, lost := false, down := [], failed := [], turns := [], owed := [], ptbase := [], hroot := 0, poolbase := 0, walker := none, replBase := 0, cache := [],
    mailbox := [], mbsrc := 0, regions := [], conn := bootConn, routes := [], flight := [], fseq := 0,
    gate := 0, cyc := 0, pavCore := 0, pavPhase := .idle, pavAt := 0, beats := [], qpos := 0, held := [], secLog := [],
    boot := .rom, asks := 0, bootAt := 0, tables := 0, want := (if d = 0 then [.getRecord] else []) ++ [.readImage 1 0] }

/-- A core at reset (R232, R292, R301). -/
def Core.reset (d c : Nat) : Core :=
  { die := d, core := c, st := .inService, fold := none, scan := 0, pass := 0, passes := 0, bind := none, tiles := [],
    tpois := [], count := [], strm := [], tlb := [], lpr := [], missQ := [], tags := [], imem := [], walk := none }

/-- A Q thread at reset (R272). -/
def QThread.reset (d t : Nat) : QThread :=
  { die := d, t, bound := none, cap := 0, pasid := 0, ccx := 0, sleepm := 0b0011, path := none, ret := none, qprog := none,
    popped := none, events := 0, asleep := none }

/-- A copy context at reset (R273). -/
def CopyCtx.reset (d k : Nat) : CopyCtx :=
  { die := d, k, pasid := 0, ops := [], count := 0, prog := none, inner := none, ret := none, deadOp := none }

/-- An empty socket (R354). -/
def Guest.reset (n : Nat) : Guest :=
  { socket := n, up := false, held := false, vendor := 0, engines := 0, atc := 0, fenced := false, bound := [], packets := [],
    waits := [], quiesce := [], retrained := false }

/-- One unit of each die and number. -/
def perUnit {α : Type} (n : Nat) (f : Nat → Nat → α) : List α :=
  (List.range Config.dies).flatMap fun d => (List.range n).map fun k => f d k

/-- The module right after a cold reset (R182, R186, R330, R351, R360, R362); registers without a reset value in the
spec are zero (log entry 3), and the model's own fields stand at their start (log entries 2 and 5). -/
def State.reset : State :=
  { mem := [], hostMem := [], guestMem := [], pois := [], fmt := [], tl := [], tldisc := [], modid := 0, contexts := [],
    queues := [], launches := [], teams := [], groups := [], ops := [], bulks := [], l1 := [], remote := [], leases := [],
    dies := (List.range Config.dies).map Die.reset, cores := perUnit Config.cores Core.reset,
    qthreads := perUnit Config.units QThread.reset, copies := perUnit Config.units CopyCtx.reset, waiters := [], quad := [], shoots := [], ats := [], pris := [], guests := [Guest.reset 0, Guest.reset 1], links := [],
    linkDone := [], circuits := [], late := [], vfPort := [], tears := [], quarantine := [], secure := [],
    hostCache := [], hostHeld := [], bootwhy := 0, startRec := 0, limit := 8200,
    fuses := { ownerOnly := false, owners := [], revoked := [], version := 0 }, measured := [], stopped := false, now := 0,
    agenda := [], cur := none, freshId := 1024, freeCtr := 0, outbox := [] }

end Sys2Proof.Machine
end

