-- ==== Sys2Proof/Machine/Access.lean ====
section
/-! DEFINITION. Reading and writing the parts of the state: records by their names, paths, registers, masks and words in
byte order. -/
namespace Sys2Proof.Machine

/-- A fresh identifier (serials, paths, operations). -/
def fresh (s : State) : Nat × State := (s.freshId, { s with freshId := s.freshId + 1 })

/-- The next free value's index, and the state that has drawn it (log entry 5). -/
def draw (s : State) : Nat × State := (s.freeCtr, { s with freeCtr := s.freeCtr + 1 })

/-- Sending something outside the module. -/
def emit (s : State) (o : Out) : State := { s with outbox := s.outbox ++ [o] }

/-- Little-endian bytes of a number (R4). -/
def toBytes : Nat → Nat → List Byte
  | 0, _ => []
  | n + 1, v => BitVec.ofNat 8 v :: toBytes n (v / 256)

/-- The number that bytes spell, the first the least significant (R4). -/
def ofBytes : List Byte → Nat
  | [] => 0
  | b :: l => b.toNat + 256 * ofBytes l

/-- The lanes of a mask, in ascending order. -/
def lanesOf (m : Mask) : List Nat := (List.range 64).filter fun i => m.getLsbD i

/-- The mask of the lanes in a list. -/
def maskOf (l : List Nat) : Mask := l.foldl (fun m i => m ||| BitVec.ofNat 64 (2 ^ i)) 0

/-- The lanes of a group of width `w` (R20). -/
def fullMask (w : Nat) : Mask := BitVec.ofNat 64 (2 ^ w - 1)

/-- Setting or clearing bit `i` of a mask. -/
def putBit (m : Mask) (i : Nat) (b : Bool) : Mask :=
  if b then m ||| BitVec.ofNat 64 (2 ^ i) else m &&& ~~~ BitVec.ofNat 64 (2 ^ i)

/-- The population count. -/
def popcount (m : W64) : Nat := (lanesOf m).length

/-! ### Records -/

/-- A group by its identifier. -/
def grp? (s : State) (gid : Nat) : Option Group := s.groups.find? fun g => g.gid == gid
/-- Changing a group. -/
def modGrp (s : State) (gid : Nat) (f : Group → Group) : State :=
  { s with groups := modWhere s.groups (fun g => g.gid == gid) f }
/-- A team by its identifier. -/
def team? (s : State) (t : Nat) : Option Team := s.teams.find? fun x => x.tid == t
/-- Changing a team. -/
def modTeam (s : State) (t : Nat) (f : Team → Team) : State :=
  { s with teams := modWhere s.teams (fun x => x.tid == t) f }
/-- A launch by its identifier. -/
def launch? (s : State) (l : Nat) : Option Launch := s.launches.find? fun x => x.lid == l
/-- Changing a launch. -/
def modLaunch (s : State) (l : Nat) (f : Launch → Launch) : State :=
  { s with launches := modWhere s.launches (fun x => x.lid == l) f }
/-- A die. -/
def die? (s : State) (d : Nat) : Option Die := s.dies.find? fun x => x.die == d
/-- Changing a die. -/
def modDie (s : State) (d : Nat) (f : Die → Die) : State := { s with dies := modWhere s.dies (fun x => x.die == d) f }
/-- Whether a die is in service. -/
def dieUp (s : State) (d : Nat) : Bool := match die? s d with
  | some x => !x.lost
  | none => false
/-- Clocked CCLK cycles of a die: gated ones do not count (R5, R15). -/
def clk (s : State) (d : Nat) : Nat := match die? s d with
  | some x => x.cyc / 16
  | none => 0
/-- The clocked cycles of an issuer's die. -/
def clkOf (s : State) (e : Issuer) : Nat := match e with
  | .grp gid _ => match grp? s gid with
    | some g => clk s g.die
    | none => 0
  | .qthr d _ | .copyc d _ => clk s d
/-- A core of a die. -/
def core? (s : State) (d c : Nat) : Option Core := s.cores.find? fun x => x.die == d && x.core == c
/-- Changing a core. -/
def modCore (s : State) (d c : Nat) (f : Core → Core) : State :=
  { s with cores := modWhere s.cores (fun x => x.die == d && x.core == c) f }
/-- A context by its PASID. -/
def ctx? (s : State) (p : Nat) : Option Context := s.contexts.find? fun x => x.pasid == p
/-- Changing a context. -/
def modCtx (s : State) (p : Nat) (f : Context → Context) : State :=
  { s with contexts := modWhere s.contexts (fun x => x.pasid == p) f }
/-- A queue of a die. -/
def queue? (s : State) (d q : Nat) : Option Queue := s.queues.find? fun x => x.die == d && x.qid == q
/-- Changing a queue. -/
def modQueue (s : State) (d q : Nat) (f : Queue → Queue) : State :=
  { s with queues := modWhere s.queues (fun x => x.die == d && x.qid == q) f }
/-- A Q thread. -/
def qt? (s : State) (d t : Nat) : Option QThread := s.qthreads.find? fun x => x.die == d && x.t == t
/-- Changing a Q thread. -/
def modQt (s : State) (d t : Nat) (f : QThread → QThread) : State :=
  { s with qthreads := modWhere s.qthreads (fun x => x.die == d && x.t == t) f }
/-- A copy context. -/
def cc? (s : State) (d k : Nat) : Option CopyCtx := s.copies.find? fun x => x.die == d && x.k == k
/-- Changing a copy context. -/
def modCc (s : State) (d k : Nat) (f : CopyCtx → CopyCtx) : State :=
  { s with copies := modWhere s.copies (fun x => x.die == d && x.k == k) f }
/-- A guest socket. -/
def guest? (s : State) (n : Nat) : Option Guest := s.guests.find? fun x => x.socket == n
/-- Changing a guest socket. -/
def modGuest (s : State) (n : Nat) (f : Guest → Guest) : State :=
  { s with guests := modWhere s.guests (fun x => x.socket == n) f }

/-! ### Paths -/

/-- Changing the entries of a stack that are paths with the identifier `pid`. -/
def Stack.modPid (k : Stack) (pid : Nat) (f : Path → Path) : Stack :=
  let g := fun (p : Path) => if p.pid = pid then f p else p
  { a := k.a.map g, b := k.b.map g,
    rest := k.rest.map fun e => match e with
      | .path p => .path (g p)
      | e => e }

/-- Every path of a stack, live ones first. -/
def Stack.paths (k : Stack) : List Path :=
  k.a.toList ++ k.b.toList ++ k.rest.filterMap fun e => match e with
    | .path p => some p
    | _ => none

/-- Changing a path of a group wherever it stands, saved levels included. -/
def Group.modPid (g : Group) (pid : Nat) (f : Path → Path) : Group :=
  { g with stack := g.stack.modPid pid f, frames := g.frames.map fun fr => { fr with saved := fr.saved.modPid pid f } }

/-- Every path of a group, saved levels included. -/
def Group.allPaths (g : Group) : List Path := g.stack.paths ++ g.frames.flatMap fun f => f.saved.paths

/-- A path of a group by its identifier. -/
def Group.path? (g : Group) (pid : Nat) : Option Path := g.allPaths.find? fun p => p.pid == pid

/-- The walker group of a core has no role (R24, R293). -/
def Group.isWalker (g : Group) : Bool := g.role.isNone

/-- The path an issuer names. -/
def pathOf (s : State) : Issuer → Option Path
  | .grp gid slot => match grp? s gid with
    | some g => if slot = 0 then g.stack.a else g.stack.b
    | none => none
  | .qthr d t => match qt? s d t with
    | some q => q.path
    | none => none
  | .copyc d k => match cc? s d k with
    | some c => c.prog
    | none => none

/-- Changing the path with an identifier, found through its issuer. -/
def modPath (s : State) (e : Issuer) (pid : Nat) (f : Path → Path) : State :=
  match e with
  | .grp gid _ => modGrp s gid fun g => g.modPid pid f
  | .qthr d t => modQt s d t fun q => { q with path := q.path.map fun p => if p.pid = pid then f p else p }
  | .copyc d k => modCc s d k fun c => { c with prog := c.prog.map fun p => if p.pid = pid then f p else p }

/-! ### Registers -/

/-- Whether a number names a register of the handler frame (R305). -/
def frameReg (g : Group) (r : Nat) : Bool := g.frames ≠ [] && decide (248 ≤ r)

/-- A lane of a vector register; v248 to v255 are the frame's in handler mode (R122, R305). -/
def rdV (g : Group) (r lane : Nat) : W32 :=
  match g.frames with
  | f :: _ => if 248 ≤ r then sget 0 f.v (r * 64 + lane) else sget 0 g.vregs (r * 64 + lane)
  | [] => sget 0 g.vregs (r * 64 + lane)

/-- Writing a lane of a vector register, with its poison mark (R122, R215, R305). -/
def wrVP (g : Group) (r lane : Nat) (x : W32) (bad : Bool) : Group :=
  let mark := fun (m : SMap Mask) => sset 0 m r (putBit (sget 0 m r) lane bad)
  match g.frames with
  | f :: fs =>
    if 248 ≤ r then
      { g with frames := { f with v := sset 0 f.v (r * 64 + lane) x, vpois := mark f.vpois } :: fs }
    else { g with vregs := sset 0 g.vregs (r * 64 + lane) x, vpois := mark g.vpois }
  | [] => { g with vregs := sset 0 g.vregs (r * 64 + lane) x, vpois := mark g.vpois }

/-- Writing a lane of a vector register clears its mark (R215). -/
def wrV (g : Group) (r lane : Nat) (x : W32) : Group := wrVP g r lane x false

/-- The poison marks of a vector register (R215). -/
def vMarks (g : Group) (r : Nat) : Mask :=
  match g.frames with
  | f :: _ => if 248 ≤ r then sget 0 f.vpois r else sget 0 g.vpois r
  | [] => sget 0 g.vpois r

/-- A scalar register of a path's view (R40). -/
def rdS (p : Path) (r : SReg) : W64 := sget 0 p.view r.toNat

/-- The scalar register `k` above `r`, of an operand run. -/
def rdSk (p : Path) (r : SReg) (k : Nat) : W64 := sget 0 p.view (r.toNat + k)

/-- Writing a scalar register of a view clears its mark (R40, R215). -/
def wrS (p : Path) (r : Nat) (x : W64) : Path :=
  { p with view := sset 0 p.view r x, spois := putBit p.spois r false }

/-- Writing a scalar register with its poison mark (R215). -/
def wrSP (p : Path) (r : Nat) (x : W64) (bad : Bool) : Path :=
  { p with view := sset 0 p.view r x, spois := putBit p.spois r bad }

/-- A mask register; m0 is the path's mask, and bits at and above W read as zero (R57, R124). -/
def rdM (g : Group) (p : Path) (m : MReg) : Mask :=
  (if m = 0 then p.mask else sget 0 g.masks m.toNat) &&& fullMask g.width

/-- Writing the bits of a mask register that the lanes in `on` own (R124). -/
def wrM (g : Group) (m : Nat) (on v : Mask) : Group :=
  { g with masks := sset 0 g.masks m ((sget 0 g.masks m &&& ~~~ on) ||| (v &&& on)) }

/-- The active lanes (R57). -/
def activeOf (g : Group) (p : Path) (h : Head) : Mask :=
  let a := p.mask &&& fullMask g.width
  if h.pred = 0 then a
  else
    let m := rdM g p h.pred
    a &&& (if h.neg then ~~~ m else m)

/-- A register pair of a lane. -/
def rdV2 (g : Group) (r lane : Nat) : W64 := (rdV g (r + 1) lane) ++ (rdV g r lane)

/-- Writing a register pair of a lane. -/
def wrV2 (g : Group) (r lane : Nat) (x : W64) : Group :=
  wrV (wrV g r lane (x.extractLsb' 0 32)) (r + 1) lane (x.extractLsb' 32 32)

end Sys2Proof.Machine
end

