-- ==== Sys2Proof/Machine/Memory.lean ====
section
/-! DEFINITION. The stores behind an address: the fabric map (R166), poison and granules (R180 to R183), scratchpads and
ring control (R168, R187 to R190), timelines (R186), host and guest memory, and the cached copies of R173 to R175. -/
namespace Sys2Proof.Machine

/-- The flight recorder of a die takes a record (R330, R331); MCLK is twice CCLK (R15). -/
def logFlight (s : State) (die event src unit auxa auxb : Nat) : State :=
  modDie s die fun (d : Die) =>
    let r : FlightRec := { seq := d.fseq, mcyc := 2 * s.now, event, src, unit, auxa, auxb }
    { d with flight := (d.flight ++ [r]).drop (d.flight.length + 1 - 8192), fseq := d.fseq + 1 }

/-- The die whose host port serves a function: port 0 on die 0, port 1 on die 11 (R10, R337). -/
def fnDie (s : State) (f : Nat) : Option Nat :=
  if f = 0 then some 0
  else if f = 1 then some 11
  else match sget 0 s.vfPort (f - 2) with
    | 1 => some 0
    | 2 => some 11
    | _ => none

/-- A byte with its poison mark. -/
abbrev PByte := Byte × Bool

/-- What a range of the die-local map holds (R166). -/
inductive Region
  | hbm | vault | tline | dev | hole
  deriving DecidableEq, Repr

/-- DIE of a fabric address (R166). -/
def fabDie (a : Nat) : Nat := a / 2 ^ 39 % 16
/-- MODID of a fabric address (R166). -/
def fabMod (a : Nat) : Nat := a / 2 ^ 43 % 2 ^ 13
/-- The die-local offset (R166). -/
def fabOff (a : Nat) : Nat := a % 2 ^ 39

/-- The die-local map (R166). -/
def regionOf (off : Nat) : Region :=
  if off < 0x2000000000 then .hbm
  else if 0x4000000000 ≤ off ∧ off < 0x4040000000 then
    (if off % 0x1000000 < 12 * 1024 * 1024 then .vault else .hole)
  else if 0x5000000000 ≤ off ∧ off < 0x5000008000 then .tline
  else if 0x6000000000 ≤ off then .dev
  else .hole

/-- The fabric address of an offset of a die. -/
def fabAddr (die off : Nat) : Nat := die * 2 ^ 39 + off

/-- The address of timeline t (R186). -/
def tlAddr (die t : Nat) : Nat := fabAddr die (0x5000000000 + 8 * t)

/-- The granule of a frame's format record (R182): G512 unless `reform` changed it. -/
def granOf (s : State) (a : Nat) : Nat := sget 4 s.fmt (a / 4096)

/-- Bytes of the unit that carries poison at an address: the granule in HBM, 32 bytes elsewhere (R183). -/
def unitBytes (s : State) (a : Nat) : Nat := if regionOf (fabOff a) = .hbm then 32 * 2 ^ granOf s a else 32

/-! ### HBM (R179 to R181) -/

/-- The channel group of an HBM address (R179). -/
def hbmGroup (a : Nat) : Nat := Nat.xor (a / 512 % 8) (a / 4096 % 8)

/-- The HBM controller of an address (R179). -/
def hbmUnit (a : Nat) : Nat := hbmGroup a / 4

/-- The stack of the module that holds an address (R179). -/
def hbmStack (a : Nat) : Nat := 2 * fabDie a + hbmUnit a

/-- The channel of the stack that holds the byte at an address (R179). -/
def hbmChannel (a : Nat) : Nat := 8 * (hbmGroup a % 4) + a % 512 / 64

/-- The pseudo-channel of its channel that holds the byte at an address (R179). -/
def hbmPseudo (a : Nat) : Nat := a % 512 / 32 % 2

/-- A die's number of the pseudo-channel of an address: controller, channel, pseudo-channel. -/
def hbmPch (a : Nat) : Nat := hbmUnit a * 64 + hbmChannel a * 2 + hbmPseudo a

/-- Whether a unit of HBM lies on a pseudo-channel marked failed (R180). -/
def unitFailed (s : State) (a : Nat) : Bool :=
  match die? s (fabDie a) with
  | some d => !d.failed.isEmpty &&
      (let u := unitBytes s a
       (List.range (u / 32)).any fun k => d.failed.contains (hbmPch (a / u * u + 32 * k)))
  | none => false

/-- Whether the failed pseudo-channels of a unit alone make it uncorrectable: G512 makes up for one, the other granules for none
(R180). -/
def unitLost (s : State) (a : Nat) : Bool :=
  match die? s (fabDie a) with
  | some d => !d.failed.isEmpty &&
      (let u := unitBytes s a
       let n := ((List.range (u / 32)).filter fun k => d.failed.contains (hbmPch (a / u * u + 32 * k))).length
       decide ((if granOf s a < 4 then 0 else 1) < n))
  | none => false

/-- How many errors of a codeword the code of a unit corrects, and how many it detects (R180). -/
def eccReach (s : State) (a : Nat) : Nat × Nat :=
  if granOf s a < 2 then (1, 2) else if unitFailed s a then (2, 4) else (7, 8)

/-- The side bits of a G32 or G64 unit with the check bits given, or the tag symbol of a wider unit (R181). -/
def sideWord (g check : Nat) (poison : Bool) : Nat :=
  if g < 2 then check % 2 ^ (10 + g) + 2 ^ (10 + g) * (17 * (g + 8 * poison.toNat)) else g + 8 * poison.toNat

/-- The tag and the poison that side bits or a tag symbol hold; none when a copy disagrees with its original (R181). -/
def sideRead (g w : Nat) : Option (Nat × Bool) :=
  let lo := if g < 2 then 10 + g else 0
  let half := fun k => w / 2 ^ (lo + 4 * k) % 16
  if g < 2 ∧ half 0 ≠ half 1 then none else some (half 0 % 8, decide (half 0 / 8 = 1))

/-- What the decoder makes of a unit: another valid word has a tag and a poison of its own (R180 to R182). -/
inductive Decoded
  | clean | corrected | uncorrectable | other (tag : Nat) (poison : Bool)
  deriving DecidableEq, Repr

/-- Decoding a unit with its errors (R180, R181). -/
def decodeUnit (s : State) (a : Nat) (e : Ecc) : Decoded :=
  let g := granOf s a
  if unitLost s a then .uncorrectable
  else match e with
    | .clean => .clean
    | .copies => if g < 2 then .uncorrectable else .clean
    | .errors n word =>
      if n = 0 then .clean
      else if n ≤ (eccReach s a).1 then .corrected
      else if n ≤ (eccReach s a).2 then .uncorrectable
      else match word.bind fun w => sideRead g w.toNat with
        | some (t, p) => .other t p
        | none => .uncorrectable

/-- Setting or clearing the poison of whole units that a range touches (R183). -/
def markUnits (u : Nat) (b : Bool) (m : SMap Bool) (a : Nat) : SMap Bool :=
  let base := a / u * u
  (List.range (u / 32)).foldl (fun m k => sset false m (base / 32 + k) b) m

/-- Poison after a write (R183): a poisoned byte poisons its unit, a unit wholly overwritten with clean data is clear. -/
def poisonAfter (s : State) (a : Nat) (bs : List PByte) : SMap Bool :=
  let u := unitBytes s a
  let units := ((List.range bs.length).map fun k => (a + k) / u).dedup
  units.foldl (fun m n =>
    let inside := (bs.zipIdx.filter fun e => (a + e.2) / u == n)
    if inside.any fun e => e.1.2 then markUnits u true m (n * u)
    else if inside.length = u then markUnits u false m (n * u) else m) s.pois

/-- Sectors that an error in their home L2 line has poisoned, and that a write covers wholly with clean data: in L2 the unit is the
sector (R183, R324). -/
def cleanSectors (s : State) (a : Nat) (bs : List PByte) : List Nat :=
  if bs.any fun b => b.2 then [] else s.l2bad.filter fun k => decide (a ≤ k * 32) && decide (k * 32 + 32 ≤ a + bs.length)

/-- The marks of sectors go. -/
def unmark (l : List Nat) (m : SMap Bool) : SMap Bool := l.foldl (fun m k => sset false m k false) m

/-- What outstanding stores have written so far counts no more where poison has come since: the unit stays poisoned (R183, R215). -/
def taint (s : State) (hit : Place × Nat → Bool) : State :=
  if s.ops.any fun o => o.done.any hit then { s with ops := s.ops.map fun o => { o with done := o.done.filter fun e => !hit e } } else s

/-- Poison has come to a range of HBM or a vault. -/
def taintFab (s : State) (a n : Nat) : State :=
  let u := unitBytes s a
  taint s fun e => match e.1 with
    | .fab x _ _ _ _ | .vaultWin x => decide (a / u * u < x + e.2) && decide (x < (a + n + u - 1) / u * u)
    | _ => false

/-- Writing bytes of HBM or a vault with their poison (R171, R183). -/
def writeFab (s : State) (a : Nat) (bs : List PByte) : State :=
  let s := if bs.any fun b => b.2 then taintFab s a bs.length else s
  { s with mem := ssetN 0 s.mem a (bs.map fun b => b.1), pois := unmark (cleanSectors s a bs) (poisonAfter s a bs),
           l2bad := s.l2bad.filter fun k => !(cleanSectors s a bs).contains k }

/-- A poisoned sector of a home L2 line is written back: the granule unit that it lies in is poisoned (R183). -/
def writeBackHome (s : State) (a : Nat) : State :=
  let back := s.l2bad.filter fun k => k / 4 == a / 128
  { s with pois := back.foldl (fun m k => markUnits (unitBytes s (k * 32)) true m (k * 32)) s.pois,
           l2bad := s.l2bad.filter fun k => k / 4 != a / 128 }

/-- Reading bytes of HBM or a vault with their poison. -/
def readFab (s : State) (a n : Nat) : List PByte :=
  (List.range n).map fun k => (sget 0 s.mem (a + k), sget false s.pois ((a + k) / 32))

/-- Key of a timeline. -/
def tlKey (die t : Nat) : Nat := die * 4096 + t

/-- The value of a timeline (R186). -/
def tlGet (s : State) (die t : Nat) : W64 := sget 0 s.tl (tlKey die t)

/-- Writing a timeline: a lower value is discarded and noted (R186). -/
def tlWrite (s : State) (die t : Nat) (v : W64) : State :=
  if (tlGet s die t).toNat ≤ v.toNat then { s with tl := sset 0 s.tl (tlKey die t) v }
  else { s with tldisc := sset false s.tldisc (tlKey die t) true }

/-- The timeline that a die-local offset names. -/
def tlOf (off : Nat) : Nat := (off - 0x5000000000) / 8

/-! ### Scratchpads and rings -/

/-- Key of a scratchpad byte. -/
def scrKey (core off : Nat) : Nat := core * 2 ^ 24 + off

/-- The bytes of a scratchpad with their sector marks (R168, R215). -/
def readScratch (s : State) (team core off n : Nat) : List PByte :=
  match team? s team with
  | some t => (List.range n).map fun k =>
      (sget 0 t.smem (scrKey core (off + k)), sget false t.spois (scrKey core (off + k) / 32))
  | none => (List.range n).map fun _ => (0, false)

/-- Sector marks of a scratchpad after a write (R215). -/
def scrPoison (m : SMap Bool) (key : Nat) (bs : List PByte) : SMap Bool :=
  let secs := ((List.range bs.length).map fun k => (key + k) / 32).dedup
  secs.foldl (fun m n =>
    let inside := bs.zipIdx.filter fun e => (key + e.2) / 32 == n
    if inside.any fun e => e.1.2 then sset false m n true
    else if inside.length = 32 then sset false m n false else m) m

/-- Poison has come to a range of a scratchpad: neither a store nor a bulk copy has written a sector of it clean so far (R215). -/
def taintScratch (s : State) (team core off n : Nat) : State :=
  let near := fun (k : Nat) => decide (off / 32 ≤ k) && decide (k * 32 < off + n)
  let s := taint s fun e => match e.1 with
    | .scratch t c o => t == team && c == core && ((List.range e.2).any fun j => near ((o + j) / 32))
    | _ => false
  { s with bulks := s.bulks.map fun b => { b with half := b.half.filter fun h => !(h.1 == team && h.2.1 == core && near h.2.2) } }

/-- Writing scratchpad bytes (R168, R215). -/
def writeScratch (s : State) (team core off : Nat) (bs : List PByte) : State :=
  let s := if bs.any fun b => b.2 then taintScratch s team core off bs.length else s
  modTeam s team fun t =>
    { t with smem := ssetN 0 t.smem (scrKey core off) (bs.map fun b => b.1),
             spois := scrPoison t.spois (scrKey core off) bs }

/-- The stage of a ring that holds a scratchpad byte: ring number, stage index, line within the stage (R187). -/
def ringAt (t : Team) (core off : Nat) : Option (Nat × Nat × Nat) :=
  match t.rings.find? fun r => r.core == core && r.base ≤ off && off < r.base + r.size * r.stages.length with
  | some r => if r.size = 0 then none else some (r.k, (off - r.base) / r.size, (off - r.base) % r.size / 256)
  | none => none

/-- A stage of a team's ring. -/
def stage? (t : Team) (k j : Nat) : Option Stage :=
  match t.rings.find? fun r => r.k == k with
  | some r => r.stages[j]?
  | none => none

/-- Changing a stage. -/
def modStage (t : Team) (k j : Nat) (f : Stage → Stage) : Team :=
  { t with rings := modWhere t.rings (fun r => r.k == k) fun r =>
      { r with stages := r.stages.zipIdx.map fun e => if e.2 = j then f e.1 else e.1 } }

/-- The stage word (R190). -/
def stageWord (st : Stage) : W64 :=
  BitVec.ofNat 64 (st.absent.length * 2 ^ 16 + (if st.absent = [] then 0 else 8) + st.phase.toNat * 4 + st.st)

/-- Whether a read (or write) of a scratchpad byte is permitted by its stage (R188). -/
def stagePermits (t : Team) (core off : Nat) (write : Bool) : Bool :=
  match ringAt t core off with
  | none => true
  | some (k, j, _) => match stage? t k j with
    | some st => st.st == 1 || (st.st == 3 && !write)
    | none => true

/-- Whether a scratchpad byte stands in an absent line (R189). -/
def lineAbsent (t : Team) (core off : Nat) : Bool :=
  match ringAt t core off with
  | none => false
  | some (k, j, l) => match stage? t k j with
    | some st => st.absent.contains l
    | none => false

/-! ### Registers seen through the aperture -/

/-- Reading a register through the aperture (R164). -/
def readReg (s : State) (gid reg lane : Nat) : List PByte :=
  match grp? s gid with
  | some g => (toBytes 4 (sget 0 g.vregs (reg * 64 + lane)).toNat).map fun b => (b, (sget 0 g.vpois reg).getLsbD lane)
  | none => (toBytes 4 0).map fun b => (b, false)

/-- Writing a register through the aperture (R164). -/
def writeReg (s : State) (gid reg lane : Nat) (bs : List PByte) : State :=
  modGrp s gid fun g =>
    { g with vregs := sset 0 g.vregs (reg * 64 + lane) (BitVec.ofNat 32 (ofBytes (bs.map fun b => b.1))),
             vpois := sset 0 g.vpois reg (putBit (sget 0 g.vpois reg) lane (bs.any fun b => b.2)) }

/-! ### Homes -/

/-- A value the spec leaves open, one byte each (log entry 5). -/
def freeBytes (s : State) (f : Nat → Byte) (bad : Bool) (n : Nat) : List PByte × State :=
  let (c, s) := draw s
  ((List.range n).map fun k => (f (c * 65536 + k), bad), s)

/-- Whether a socket's guest is cut off (R357). -/
def guestCut (s : State) (die : Nat) : Bool :=
  match guest? s (die - 12) with
  | some g => g.fenced
  | none => true

/-- An uncorrectable unit: its bytes are free values, it is poisoned, and the flight recorder has it (R183, R332). -/
def spoilUnit (s : State) (a : Nat) : State :=
  let u := unitBytes s a
  let (bs, s) := freeBytes s Config.poisonByte true u
  logFlight (writeFab s (a / u * u) bs) (fabDie a) 0x11 3 (hbmUnit a) 0 a

/-- Before a read: units of the range whose failed pseudo-channels no code makes up for are uncorrectable (R180). -/
def spoilFailed (s : State) (a n : Nat) : State :=
  if (die? s (fabDie a)).all fun d => d.failed.isEmpty then s
  else (((List.range ((n + 31) / 32 + 1)).map fun k => (a / 32 + k) * 32).filter fun b =>
      decide (b < a + n) && regionOf (fabOff b) == .hbm).foldl (fun s b =>
    if unitLost s b && !sget false s.pois (b / 32) then spoilUnit s b else s) s

/-- Key of a byte of the memory behind a host port (R334). -/
def hostKey (port a : Nat) : Nat := port * 2 ^ 56 + a

/-- A leaf with REPL mirrors its frame on die d xor 1 (R328): the mirror of an HBM address. -/
def mirrorOf (a : Nat) : Nat := fabAddr (Nat.xor (fabDie a) 1) (fabOff a)

/-- Whether a die's optical ports are trained: it is in service, and the module is not in minimal mode (R10, R362). -/
def opticalUp (s : State) (die : Nat) : Bool := dieUp s die && !s.die0Only

/-! ### Circuits (R350) -/

/-- The fields of a connection-table entry (R350). -/
def connV (e : W64) : Bool := e.getLsbD 63
/-- OPT (R350). -/
def connOpt (e : W64) : Bool := e.getLsbD 62
/-- SRC (R350). -/
def connSrc (e : W64) : Nat := (e.extractLsb' 58 4).toNat
/-- DST (R350). -/
def connDst (e : W64) : Nat := (e.extractLsb' 52 6).toNat
/-- RELAY (R350). -/
def connRelay (e : W64) : Nat := (e.extractLsb' 48 4).toNat
/-- Wavelengths that an entry uses. -/
def connWaves (e : W64) : Nat := popcount (e &&& 0xFFFFFFFF#64)

/-- The valid entries of a table. -/
def connLive (t : SMap W64) : List W64 := (t.map fun e => e.2).filter connV

/-- Whether an entry ends on a die. -/
def endsOn (d : Nat) (e : W64) : Bool := connSrc e == d || (!connOpt e && connDst e == d)

/-- Whether an entry is one of a pair of dies. -/
def joins (a b : Nat) (e : W64) : Bool :=
  !connOpt e && ((connSrc e == a && connDst e == b) || (connSrc e == b && connDst e == a))

/-- Whether a pair of dies has a circuit. -/
def hasCircuit (t : SMap W64) (a b : Nat) : Bool := (connLive t).any (joins a b)

/-- Whether the traffic of a pair of dies runs over the circuit of two others: the pair has none, and a relay's leg is that one (R326,
R350). -/
def relayedOver (t : SMap W64) (a b x y : Nat) : Bool :=
  !hasCircuit t a b && t.any fun e => joins a b e.2 &&
    let r := connRelay e.2
    (r == x && (y == a || y == b)) || (r == y && (x == a || x == b))

/-- The circuits of a die's connection table that lead to a trained optical port of a route mask (R10, R353). -/
def farPorts (s : State) (die a : Nat) : List Nat :=
  match die? s die with
  | none => []
  | some d =>
    let mask := sget 0 d.routes (fabMod a)
    d.conn.filterMap fun e =>
      if connV e.2 && connOpt e.2 && opticalUp s (connSrc e.2) && mask.getLsbD (connDst e.2) then some e.1 else none

/-- The circuit that carries an access to another module: traffic is spread over the ports by address (R353; log entry 9). -/
def farCircuit (s : State) (die a : Nat) : Option Nat :=
  let l := farPorts s die a
  l[a / 512 % l.length]?

/-- A transaction of a die's agent to another module, kept until it is acknowledged (R325, R353); one that no circuit carries any
more leaves when it is sent again (R326). -/
def sendTx (s : State) (die : Nat) (req : LinkReq) (acc : Option (Nat × Nat × W64)) : State :=
  let (tag, s) := fresh s
  let circuit := farCircuit s die req.addr
  let s := { s with links := s.links ++ [{ src := s.modid.toNat, dst := fabMod req.addr, tag, req, circuit, acc, die }] }
  match circuit with
  | some c => emit s (.offModule (fabMod req.addr) c tag req)
  | none => s

/-- A write to another module leaves as a transaction (R325). -/
def sendFar (s : State) (die a : Nat) (data : List Byte) : State :=
  sendTx s die { write := true, addr := a, data, len := data.length } none

/-- The transactions that have left since an identifier belong to a work, with the range whose translation they used (R299, R325). -/
def ownTx (before : Nat) (w : TxWork) (pasid : Nat) (va : W64) (n : Nat) (s : State) : State :=
  if s.links.any fun t => decide (before ≤ t.tag) then
    { s with links := s.links.map fun t => if before ≤ t.tag then { t with work := some w, pasid, va, vlen := n } else t }
  else s

/-- Whether a write of a work to another module is not acknowledged yet, and so not performed (R206, R325). -/
def farOut (s : State) (w : TxWork) : Bool := s.links.any fun t => t.req.write && t.work == some w

/-- Reading a place at its home; device registers are not read here. A read of another module by an agent that does not wait sends its
transaction and gives free values (log entry 9), one of a fenced guest completes with poison (R357), and so does one of a die that no longer answers
(R326, R327). -/
def readHome (s : State) (p : Place) (n : Nat) : List PByte × State :=
  match p with
  | .fab a _ _ _ _ =>
    if 12 ≤ fabDie a then
      (if guestCut s (fabDie a) then freeBytes s Config.poisonByte true n
       else ((sgetN 0 s.guestMem a n).map fun b => (b, false), s))
    else if !dieUp s (fabDie a) then freeBytes s Config.poisonByte true n
    else match regionOf (fabOff a) with
      | .tline => ((toBytes n ((tlGet s (fabDie a) (tlOf (fabOff a))).toNat / 2 ^ (8 * (fabOff a % 8)))).map fun b => (b, false), s)
      | _ =>
        let s := spoilFailed s a n
        (readFab s a n, s)
  | .host port a _ => ((sgetN 0 s.hostMem (hostKey port a) n).map fun b => (b, false), s)
  | .scratch t c o => (readScratch s t c o n, s)
  | .reg g r l => (readReg s g r l, s)
  | .ringCtl t k j => match team? s t with
    | some x => match stage? x k j with
      | some st => ((toBytes n (stageWord st).toNat).map fun b => (b, false), s)
      | none => ((toBytes n 0).map fun b => (b, false), s)
    | none => ((toBytes n 0).map fun b => (b, false), s)
  | .vaultWin a => (readFab s a n, s)
  | .far die a _ _ => freeBytes (sendTx s die { write := false, addr := a, data := [], len := n } none) Config.freeByte false n

/-- The key of a count: replays of a flit by a die, mismatches on a circuit, when a circuit was torn down, or which flit a die replays. -/
def linkKey (kind die circuit : Nat) : Nat := (kind * 16 + die) * 256 + circuit

/-- HBM lines of a range that a host caches go back before they are written, if the class is SC (R333). -/
def backInvalidate (s : State) (a n : Nat) : State :=
  (s.hostHeld.filter fun l => decide (l.2 * 64 < a + n) && decide (a < l.2 * 64 + 64)).foldl (fun s l =>
    emit { s with hostHeld := s.hostHeld.filter fun x => x != l } (.backInvalidate l.1 l.2)) s

/-- Writing a place at its home; device registers are not written here, and a die that no longer answers takes nothing: its mirror alone
does (R327, R328). -/
def writeHome (s : State) (p : Place) (bs : List PByte) : State :=
  match p with
  | .fab a _ ccl _ repl =>
    if 12 ≤ fabDie a then
      (if guestCut s (fabDie a) then s else { s with guestMem := ssetN 0 s.guestMem a (bs.map fun b => b.1) })
    else if !dieUp s (fabDie a) then
      (if repl && dieUp s (fabDie (mirrorOf a)) then writeFab s (mirrorOf a) bs else s)
    else match regionOf (fabOff a) with
      | .tline => tlWrite s (fabDie a) (tlOf (fabOff a)) (BitVec.ofNat 64 (ofBytes (bs.map fun b => b.1)))
      | _ =>
        let s := writeFab (if ccl = 2 then backInvalidate s a bs.length else s) a bs
        if repl && dieUp s (fabDie (mirrorOf a)) then writeFab s (mirrorOf a) bs else s
  | .host port a _ => { s with hostMem := ssetN 0 s.hostMem (hostKey port a) (bs.map fun b => b.1) }
  | .scratch t c o => writeScratch s t c o bs
  | .reg g r l => writeReg s g r l bs
  | .ringCtl _ _ _ => s
  | .vaultWin a => writeFab s a bs
  | .far die a _ _ => sendFar s die a (bs.map fun b => b.1)

/-- Lines on lease that a range touches return to their home, since a request has reached it (R178; log entry 59). -/
def returnLines (s : State) (a n : Nat) : State :=
  let back := fun (l : Nat) => decide (l < a + n) && decide (a < l + 64)
  if s.leases.any fun l => back l.line then
    { s with leases := s.leases.filter fun l => !back l.line,
             ops := s.ops.map fun o => { o with leased := o.leased.filter fun l => !back l.1 } }
  else s

/-- The fabric address of a place that a home die holds. -/
def placeAddr : Place → Nat
  | .fab a _ _ _ _ => a
  | .vaultWin a => a
  | _ => 0

/-- Returning the lines of a place that a device's own access is about to reach (R178). -/
def returnPlace (s : State) (p : Place) (n : Nat) : State :=
  match p with
  | .fab a _ _ _ _ | .vaultWin a => returnLines s a n
  | _ => s

/-! ### Cached copies (R169, R173 to R175, R184, R208) -/

/-- The 128-byte line of an address. -/
def lineOf (a : Nat) : Nat := a / 128 * 128

/-- The home slice of a die-local HBM address (R170). -/
def l2Slice (off : Nat) : Nat := Nat.xor (off / 512 % 64) (off / 32768 % 64)

/-- Lines of a core's L1 (R13), and of a slice of L2 (R170). -/
def l1Lines : Nat := 12288
/-- Lines of an L2 slice (R170). -/
def l2Lines : Nat := 32768

/-- Whether a copy holds the byte at an address. -/
def Line.has (l : Line) (a : Nat) : Bool := l.addr == lineOf a && l.valid.contains (a % 128 / 32)

/-- A byte of a copy, with its sector's poison (R183). -/
def Line.byte (l : Line) (a : Nat) : PByte := ((l.data[a % 128]?).getD 0, l.bad.contains (a % 128 / 32))

/-- A line of which no sector is held yet. -/
def Line.empty (die core a : Nat) (repl : Bool) : Line :=
  { die, core, addr := lineOf a, data := List.replicate 128 0, valid := [], bad := [], dirty := [], repl }

/-- A sector comes into a line from its home, with its poison; one that the line holds stays. -/
def Line.fill (s : State) (a : Nat) (l : Line) : Line :=
  let k := a % 128 / 32
  if l.valid.contains k then l
  else
    let bs := readFab s (l.addr + 32 * k) 32
    { l with data := l.data.take (32 * k) ++ bs.map (fun b => b.1) ++ l.data.drop (32 * k + 32), valid := k :: l.valid,
             bad := if bs.any fun b => b.2 then k :: l.bad else l.bad }

/-- The sectors that a write leaves poisoned: one that takes a poisoned byte is, one wholly written with clean data is not (R183). -/
def Line.badAfter (l : Line) (a : Nat) (bs : List PByte) : List Nat :=
  (List.range 4).filter fun k =>
    let inside := bs.zipIdx.filter fun e => a + e.2 ≥ l.addr + 32 * k && decide (a + e.2 < l.addr + 32 * k + 32)
    if inside.any fun e => e.1.2 then true else if inside.length = 32 then false else l.bad.contains k

/-- Writing the bytes of a range that lie in the sectors a line holds, dirty if asked. -/
def Line.write (l : Line) (a : Nat) (bs : List PByte) (dirty : Bool) : Line :=
  let inB := fun k => decide (a ≤ l.addr + k) && decide (l.addr + k < a + bs.length) && l.valid.contains (k / 32)
  { l with
    data := l.data.zipIdx.map fun e => if inB e.2 then ((bs[l.addr + e.2 - a]?).map fun b => b.1).getD e.1 else e.1,
    bad := (l.badAfter a bs).filter fun k => l.valid.contains k,
    dirty := if dirty then (l.dirty ++ (List.range 128).filter inB).dedup else l.dirty.filter fun k => !inB k }

/-- Whether a place's leaf has REPL (R328). -/
def placeRepl : Place → Bool
  | .fab _ _ _ _ r => r
  | _ => false

/-- The sectors from an address on come into a list of lines, a new line first. -/
def fillSectors (s : State) (die core : Nat) (repl : Bool) (a : Nat) : Nat → List Line → List Line
  | 0, ls => ls
  | n + 1, ls =>
    let b := a + 32 * n
    let mine := fun (l : Line) => l.die == die && l.core == core && l.addr == lineOf b
    fillSectors s die core repl a n
      (if ls.any mine then modWhere ls mine (Line.fill s b) else Line.fill s b (Line.empty die core b repl) :: ls)

/-- The dirty bytes of a line as runs, each with its offset. -/
def Line.dirtyRuns (l : Line) : List (Nat × List PByte) :=
  (List.range 128).foldl (fun acc k =>
    if !l.dirty.contains k then acc
    else
      let x := l.byte (l.addr + k)
      match acc with
      | (b, bs) :: rest => if b + bs.length = k then (b, bs ++ [x]) :: rest else (k, [x]) :: acc
      | [] => [(k, [x])]) []

/-- Writing a dirty remote line back to its home, with its poison (R175, R183). -/
def writeBackLine (s : State) (l : Line) : State :=
  l.dirtyRuns.foldl (fun s r => writeHome (returnLines s (l.addr + r.1) r.2.length) (.fab (l.addr + r.1) 0 1 0 l.repl) r.2) s

/-- The remote line of a die that holds the byte at an address. -/
def remote? (s : State) (die a : Nat) : Option Line := s.remote.find? fun l => l.die == die && l.has a

/-- Whether a line is a die's remote line of an address. -/
def Line.isAt (l : Line) (die a : Nat) : Bool := l.die == die && l.addr == lineOf a

/-- Writing back and dropping a die's remote line. -/
def flushRemote (s : State) (die a : Nat) : State :=
  match s.remote.find? fun l => l.isAt die a with
  | some l =>
    let s := writeBackLine s l
    { s with remote := s.remote.filter fun x => !x.isAt die a }
  | none => s

/-- A slice holds 4 MiB: the oldest of its remote lines beyond that are written back and dropped (R170; log entry 60). -/
def trimL2 (s : State) (die a : Nat) : State :=
  ((s.remote.filter fun l => l.die == die && l2Slice (fabOff l.addr) == l2Slice (fabOff a)).drop l2Lines).foldl
    (fun s l => flushRemote s die l.addr) s

/-- An L2 miss of a die fetches the granule unit of an address (R184). -/
def fillL2 (s : State) (die a : Nat) (p : Place) : State :=
  let u := unitBytes s a
  let s := spoilFailed s (a / u * u) u
  trimL2 { s with remote := fillSectors s die 0 (placeRepl p) (a / u * u) (u / 32) s.remote } die a

/-- The lines of a core's L1 beyond 1536 KiB are dropped, the oldest first (R13; log entry 60). -/
def trimL1 (s : State) (die core : Nat) : State :=
  match (s.l1.filter fun l => l.die == die && l.core == core).drop l1Lines with
  | [] => s
  | old => { s with l1 := s.l1.filter fun l => !old.contains l }

/-- A sector comes into a core's L1 (R169). -/
def fillL1 (s : State) (die core a : Nat) (p : Place) : State :=
  let s := spoilFailed s a 1
  trimL1 { s with l1 := fillSectors s die core (placeRepl p) (a / 32 * 32) 1 s.l1 } die core

/-- A core's copy of a line is dropped from its L1 (R169). -/
def dropL1 (s : State) (die core a : Nat) : State :=
  { s with l1 := s.l1.filter fun l => !(l.die == die && l.core == core && l.addr == lineOf a) }

/-- A PKG release: every dirty remote line of the die goes home (R175, R208). -/
def releasePkg (s : State) (die : Nat) : State :=
  let s := (s.remote.filter fun l => l.die == die).foldl writeBackLine s
  { s with remote := s.remote.map fun l => if l.die = die then { l with dirty := [] } else l }

/-- A PKG acquire: the die's remote lines are discarded, dirty ones after their write-back (R175, R193, R208). -/
def acquirePkg (s : State) (die : Nat) : State :=
  let s := releasePkg s die
  { s with remote := s.remote.filter fun l => l.die != die }

/-- A GRP, TEAM or DIE acquire: the NC lines of the core's L1 are invalidated (R173). -/
def acquireNear (s : State) (die core : Nat) : State :=
  { s with l1 := s.l1.filter fun l => !(l.die == die && l.core == core) }

/-- What an acquire does to the copies its agent may read (R173, R175, R208). -/
def acquireAt (s : State) (die core : Nat) (sc : Scope) : State :=
  match sc with
  | .weak => s
  | .grp | .team | .die => acquireNear s die core
  | .pkg | .sys => acquireNear (acquirePkg s die) die core

/-- What a release does to the writes its agent has made (R175, R208). -/
def releaseAt (s : State) (die : Nat) (sc : Scope) : State :=
  match sc with
  | .pkg | .sys => releasePkg s die
  | _ => s

/-- Whether a scope stays within the die. -/
def nearScope : Scope → Bool
  | .weak | .grp | .team | .die => true
  | _ => false

/-- Whether a place may be held as a remote line by a die (R175): DC memory in another die's HBM. -/
def remotable (die : Nat) : Place → Bool
  | .fab a mt ccl _ _ => mt == 0 && ccl == 1 && fabDie a != die && fabDie a < 12 && regionOf (fabOff a) == .hbm
  | _ => false

/-- Whether a place may be held untracked in a core's L1 (R172, R173): NC memory in HBM. -/
def l1able : Place → Bool
  | .fab a mt ccl _ _ => mt == 0 && ccl == 0 && fabDie a < 12 && regionOf (fabOff a) == .hbm
  | _ => false

/-- Whether a place is SC host memory, which the device may cache (R176). -/
def hostLine? : Place → Option Nat
  | .host port a 2 => some (hostKey port a / 64)
  | _ => none

/-- A read of an SC host line may leave a copy on the device; the copy holds what the host holds (R176). -/
def hostFill (s : State) (p : Place) (c : MemChoice) : State :=
  match hostLine? p with
  | some l => if c.fillRemote then { s with hostCache := (l :: s.hostCache).dedup } else s
  | none => s

/-- The bytes of a range, those that a copy holds from the copy. -/
def overlay (ls : List Line) (a : Nat) (home : List PByte) : List PByte :=
  home.zipIdx.map fun e => match ls.find? fun l => l.has (a + e.2) with
    | some l => l.byte (a + e.2)
    | none => e.1

/-- Whether copies hold every byte of a range. -/
def coversAll (ls : List Line) (a n : Nat) : Bool := (List.range n).all fun k => ls.any fun l => l.has (a + k)

/-- A read that copies serve as far as they go, the home the rest. -/
def readThrough (s : State) (ls : List Line) (p : Place) (n : Nat) : List PByte × State :=
  let a := placeAddr p
  if coversAll ls a n then (overlay ls a (List.replicate n (0, false)), s)
  else
    let (bs, s) := readHome s p n
    (overlay ls a bs, s)

/-- A read by an agent of a die and core (R169, R173, R175, R214). -/
def readVia (s : State) (die core : Nat) (p : Place) (n : Nat) (sc : Scope) (ch : BitVec 2) (c : MemChoice) :
    List PByte × State :=
  let a := placeAddr p
  if remotable die p then
    if nearScope sc then
      let held := s.remote.filter fun l => l.die == die
      if coversAll held a n then readThrough s held p n
      else if c.fillRemote then
        let s := fillL2 s die a p
        readThrough s (s.remote.filter fun l => l.die == die) p n
      else readThrough s held p n
    else readHome (flushRemote s die a) p n
  else if l1able p then
    let held := s.l1.filter fun l => l.die == die && l.core == core
    if sc != .die && ch != 3 && c.useL1 && coversAll held a n then readThrough s held p n
    else
      let s := if sc = .die || ch = 3 || (List.range n).any (fun k => held.any fun l => l.has (a + k)) then
          { s with l1 := s.l1.filter fun l => !(l.die == die && l.core == core && l.addr == lineOf a) }
        else s
      readHome (if c.fillL1 && ch != 3 && sc != .die then fillL1 s die core a p else s) p n
  else readHome (hostFill s p c) p n

/-- The pieces of a write, sector by sector, that no copy holds. -/
def unheld (ls : List Line) (a : Nat) (bs : List PByte) : List (Nat × List PByte) :=
  (List.range ((a + bs.length + 31) / 32 - a / 32)).filterMap fun k =>
    let lo := max a ((a / 32 + k) * 32)
    let hi := min (a + bs.length) ((a / 32 + k) * 32 + 32)
    if ls.any fun l => l.has lo then none else some (lo - a, (bs.drop (lo - a)).take (hi - lo))

/-- A write into a die's remote lines where they hold the bytes, and at the home elsewhere. -/
def writeThrough (s : State) (die : Nat) (p : Place) (bs : List PByte) : State :=
  let a := placeAddr p
  let held := s.remote.filter fun l => l.die == die
  if !(List.range bs.length).any fun k => held.any fun l => l.has (a + k) then writeHome s p bs
  else
    let rest := unheld held a bs
    let s := { s with remote := modWhere s.remote (fun l => l.die == die) fun l =>
      if l.addr < a + bs.length ∧ a < l.addr + 128 then l.write a bs true else l }
    rest.foldl (fun s r => writeHome s (match p with
      | .fab a mt ccl g re => .fab (a + r.1) mt ccl g re
      | p => p) r.2) s

/-- A write by an agent of a die and core (R169, R173, R175, R214); the core's own copy is written through. -/
def writeVia (s : State) (die core : Nat) (p : Place) (bs : List PByte) (sc : Scope) (ch : BitVec 2) (c : MemChoice) : State :=
  let a := placeAddr p
  if remotable die p then
    if nearScope sc then writeThrough (if c.fillRemote then fillL2 s die a p else s) die p bs
    else writeHome (flushRemote s die a) p bs
  else
    let mine := fun (l : Line) => l.die == die && l.core == core && l.addr == lineOf a
    let s := if l1able p then
        (if ch = 3 then { s with l1 := s.l1.filter fun l => !mine l }
         else { s with l1 := modWhere s.l1 mine fun l => l.write a bs false })
      else s
    writeHome s p bs

/-! ### The poison of a whole unit (R183, R215) -/

/-- The bytes at a home that a write touches: where, and how many. -/
def homeRange (p : Place) (n : Nat) : Option (Nat × Nat) :=
  match p with
  | .fab a mt _ _ _ => if mt = 0 ∧ fabDie a < 12 then some (a, n) else none
  | .vaultWin a => some (a, n)
  | _ => none

/-- Whether ranges together cover every byte of a unit. -/
def covered (l : List (Nat × Nat)) (base u : Nat) : Bool :=
  (List.range u).all fun k => l.any fun r => decide (r.1 ≤ base + k) && decide (base + k < r.1 + r.2)

/-- The mark of a unit goes, at its home and its mirror, or in the remote line that took the write. -/
def clearUnit (s : State) (die : Nat) (p : Place) : State :=
  let a := placeAddr p
  if remotable die p && (remote? s die a).isSome then
    { s with remote := modWhere s.remote (fun l => l.isAt die a) fun l => { l with bad := l.bad.filter fun k => k != a % 128 / 32 } }
  else
    let u := unitBytes s a
    let s := { s with pois := markUnits u false s.pois a }
    if placeRepl p && dieUp s (fabDie (mirrorOf a)) then { s with pois := markUnits u false s.pois (mirrorOf a) } else s

/-- The unit that carries the poison of a place: a sector where a remote line holds it (R183). -/
def placeUnit (s : State) (die : Nat) (p : Place) : Nat :=
  if remotable die p && (remote? s die (placeAddr p)).isSome then 32 else unitBytes s (placeAddr p)

/-- Sectors in their home L2 lines that the accesses of one clean write cover together are clear (R183, R324). -/
def clearSectors (s : State) (die : Nat) (ws : List (Place × Nat)) : State :=
  let homes := ws.filterMap fun w => if remotable die w.1 && (remote? s die (placeAddr w.1)).isSome then none else homeRange w.1 w.2
  let clear := s.l2bad.filter fun k => covered homes (k * 32) 32
  { s with pois := unmark clear s.pois, l2bad := s.l2bad.filter fun k => !clear.contains k }

/-- Units that one clean write, made of the accesses `ws`, covers wholly are clear (R183, R215): those that its last accesses `new`
touch. -/
def clearWhole (s : State) (die : Nat) (ws new : List (Place × Nat)) : State :=
  let homes := ws.filterMap fun w => homeRange w.1 w.2
  let s := if new.isEmpty then s else clearSectors s die ws
  let s := new.foldl (fun s w => match homeRange w.1 w.2 with
    | some (a, _) =>
      let u := placeUnit s die w.1
      if covered homes (a / u * u) u then clearUnit s die w.1 else s
    | none => s) s
  new.foldl (fun s w => match w.1 with
    | .scratch t c o =>
      let mine := ws.filterMap fun x => match x.1 with
        | .scratch t' c' o' => if t' = t ∧ c' = c then some (o', x.2) else none
        | _ => none
      if covered mine (o / 32 * 32) 32 then
        modTeam s t fun x => { x with spois := sset false x.spois (scrKey c o / 32) false }
      else s
    | _ => s) s

end Sys2Proof.Machine
end

