-- ==== Sys2Proof/Machine/Translate.lean ====
section
/-! DEFINITION. Translation: the page-table walk (R156 to R160), the translation caches (R292), and the checks of an access
in the order of R162. -/
namespace Sys2Proof.Machine

/-- What an access is, for the checks of R159 to R182: `die` is its agent's, `late` marks a store or atomic of a program, which
finds a lost home only there (R216). -/
structure AccKind where
  die    : Nat
  user   : Bool
  write  : Bool
  late   : Bool
  fetch  : Bool
  atomic : Bool
  secure : Bool
  fn     : Nat
  size   : Nat
  scope  : Scope
  ord    : MemOrd
  tline  : Bool
  watch  : Bool
  gran   : Bool

/-- What a walk finds. -/
inductive WalkRes
  | leaf (entry : Nat) (e : W64) (base bytes : Nat)
  | absent (level entry : Nat) (e : W64)
  | malformed

/-- Why an access has no place or is not made: a trap, an entry that delegates to the host IOMMU (R160), or a home that no longer
answers while the agent's die has not acted on its loss (R327): the access waits. -/
inductive XFail
  | trap (t : Trap)
  | ats
  | silent

/-- A page-table entry of a replica. -/
def pte (s : State) (a : Nat) : W64 := BitVec.ofNat 64 (ofBytes (sgetN 0 s.mem (a % 2 ^ 43) 8))

/-- PFN of an entry, as an address. -/
def pfnAddr (e : W64) : Nat := (e.extractLsb' 12 44).toNat * 4096

/-- Bytes of a page by level, CONTIG apart (R158). -/
def levelBytes (lvl : Nat) : Nat := 2 ^ (12 + 9 * lvl)

/-- An entry without PFN, A and D: what the entries of a CONTIG run share (R158). -/
def runFields (e : W64) : W64 := e &&& 0xFF00000000000F3F#64

/-- Whether a CONTIG run is well formed (R158). -/
def runOk (s : State) (table idx lvl : Nat) : Bool :=
  let i0 := idx / 16 * 16
  let e0 := pte s (table + 8 * i0)
  decide (pfnAddr e0 % (16 * levelBytes lvl) = 0) &&
  (List.range 16).all fun k =>
    let e := pte s (table + 8 * (i0 + k))
    runFields e == runFields e0 && pfnAddr e == pfnAddr e0 + k * levelBytes lvl

/-- Whether a leaf's own fields are admitted at its level (R158). -/
def leafOk (e : W64) (lvl : Nat) : Bool :=
  decide (lvl < 4) && (decide (lvl < 2) || !e.getLsbD 62) && decide ((e.extractLsb' 56 3).toNat ≤ 4) &&
  e.extractLsb' 8 2 != 3#2 && e.extractLsb' 10 2 == 0#2 && decide (pfnAddr e % levelBytes lvl = 0)

/-- The walk from a table, over the levels left (R156 to R158). -/
def walkFrom (s : State) (va : Nat) : List Nat → Nat → WalkRes
  | [], _ => .malformed
  | lvl :: lower, table =>
    let idx := va / levelBytes lvl % 512
    let ea := table + 8 * idx
    let e := pte s ea
    if !e.getLsbD 0 then .absent lvl ea e
    else if e.getLsbD 1 then
      if !leafOk e lvl then .malformed
      else if e.getLsbD 62 then
        (if runOk s table idx lvl then
          .leaf ea (e &&& ~~~ 0x00FFFFFFFFFFF000#64 ||| BitVec.ofNat 64 (pfnAddr (pte s (table + 8 * (idx / 16 * 16)))))
            (va / (16 * levelBytes lvl) * (16 * levelBytes lvl)) (16 * levelBytes lvl)
         else .malformed)
      else .leaf ea e (va / levelBytes lvl * levelBytes lvl) (levelBytes lvl)
    else if e.extractLsb' 56 8 != 0#8 || e.extractLsb' 2 10 != 0#10 then .malformed
    else walkFrom s va lower (pfnAddr e)

/-- The five levels (R156). -/
def levels : List Nat := [4, 3, 2, 1, 0]

/-- Canonical form (R155). -/
def canonical (va : W64) : Bool :=
  if va.getLsbD 56 then va.extractLsb' 57 7 == 0x7F#7 else va.extractLsb' 57 7 == 0#7

/-- The negative half (R155). -/
def negHalf (va : W64) : Bool := va.getLsbD 56

/-- The local address window (R163). -/
def inWindow (va : W64) : Bool := decide (Config.windowBase ≤ va.toNat)

/-- The root that translates an address on a die (R155, R298). -/
def rootOf (s : State) (die pasid : Nat) (va : W64) : Nat :=
  match die? s die with
  | some d => if negHalf va then d.hroot.toNat else (sget 0 d.ptbase pasid).toNat
  | none => 0

/-- The handler-region address of a replica's table entry (R294; log entry 10). -/
def entryVa (s : State) (die entry : Nat) : W64 :=
  match die? s die with
  | some d => d.replBase + BitVec.ofNat 64 (fabOff entry)
  | none => 0

/-- PROT with an auxiliary value (R303). -/
def prot (va : W64) (aux : Nat) : Trap := { cause := .prot, va, aux := BitVec.ofNat 64 aux }

/-- What an access through a non-present entry meets (R160, R294, R303). -/
def absentFail (s : State) (die : Nat) (va : W64) (lvl entry : Nat) (e : W64) : XFail :=
  let aux := entryVa s die entry + BitVec.ofNat 64 lvl
  match e.getLsbD 1, e.getLsbD 2 with
  | false, false => .trap { cause := .pageFault, va, aux }
  | true, false =>
    if decide (3 ≤ lvl) || decide (12 ≤ (e.extractLsb' 3 4).toNat) || decide (5 ≤ (e.extractLsb' 56 3).toNat) then
      .trap (prot va 7)
    else .trap { cause := .firstTouch, va, aux }
  | false, true => .ats
  | true, true => .trap (prot va 7)

/-- A leaf as a cache holds it, by a walk of the die's replica. -/
def walkLeaf (s : State) (die pasid : Nat) (va : W64) : Except XFail (Nat × Tlb) :=
  match walkFrom s (va.toNat % 2 ^ 57) levels (rootOf s die pasid va) with
  | .leaf ea e base bytes => .ok (ea, { pasid, hroot := negHalf va, base, bytes, leaf := e, marks := [] })
  | .absent lvl ea e => .error (absentFail s die va lvl ea e)
  | .malformed => .error (.trap (prot va 7))

/-- Setting A, and D for a write, in the entry the walk used (R159). -/
def setAD (s : State) (ea : Nat) (write : Bool) : State :=
  let e := pte s ea
  { s with mem := ssetN 0 s.mem (ea % 2 ^ 43) (toBytes 8 (e ||| (if write then 0xC0#64 else 0x40#64)).toNat) }

/-- Whether a cached leaf covers an address of a context. -/
def Tlb.covers (t : Tlb) (pasid : Nat) (va : W64) : Bool :=
  let a := va.toNat % 2 ^ 57
  t.hroot == negHalf va && (t.hroot || t.pasid == pasid) && decide (t.base ≤ a) && decide (a < t.base + t.bytes)

/-- Whether a cached leaf covers part of a range of a context. -/
def Tlb.meets (t : Tlb) (pasid : Nat) (va : W64) (n : Nat) : Bool :=
  let a := va.toNat % 2 ^ 57
  t.hroot == negHalf va && (t.hroot || t.pasid == pasid) && decide (t.base < a + n) && decide (a < t.base + t.bytes)

/-- A cached leaf serves a write only once D is set (R159). -/
def Tlb.serves (t : Tlb) (pasid : Nat) (va : W64) (write : Bool) : Bool :=
  t.covers pasid va && (!write || !t.leaf.getLsbD 2 || t.leaf.getLsbD 7)

/-- The order of scopes. -/
def scopeRank : Scope → Nat
  | .weak => 0 | .grp => 1 | .team => 2 | .die => 3 | .pkg => 4 | .sys => 5

/-- The widest scope a class admits (R172). -/
def classMax (ccl : Nat) : Nat := if ccl = 0 then 3 else if ccl = 1 then 4 else 5

/-- Whether the region table of a die puts an address in the secure world (R358). -/
def regionSecure (s : State) (a : Nat) : Bool :=
  match die? s (fabDie a) with
  | none => false
  | some d =>
    match d.regions.find? fun e => e.2.1.getLsbD 0 && decide (pfnAddr e.2.1 ≤ a) && decide (a < pfnAddr e.2.2 + 4096) with
    | some e => e.2.1.getLsbD 1
    | none => false

/-- Whether an address lies in a die's region table or the device range that holds it (R336, R358). -/
def inRegionTable (a : Nat) : Bool := decide (0x6000020000 ≤ fabOff a) && decide (fabOff a < 0x6000021000)

/-- Blocks of device registers that take b64 accesses only (R337, R340). -/
def devSizeOk (off n : Nat) : Bool :=
  n == 8 || !((decide (0x6000000000 ≤ off) && decide (off < 0x6000010000)) ||
    (decide (0x6100000000 ≤ off) && decide (off < 0x6200000000)))

/-- The permission checks of R159, in their order. -/
def permission (e : W64) (va : W64) (k : AccKind) : Option Trap :=
  if k.user && !e.getLsbD 4 then some (prot va 0)
  else if (k.write || k.atomic) && !e.getLsbD 2 then some (prot va 0)
  else if k.fetch && !e.getLsbD 3 then some (prot va 0)
  else if e.getLsbD 61 && !k.secure then some { prot va 0 with sec := true }
  else none

/-- A scope wider than a ceiling (R172). -/
def scopeCheck (va : W64) (k : AccKind) (ceiling : Nat) (p : Place) : Except Trap Place :=
  if scopeRank k.scope > ceiling then .error { cause := .scopeClass, va } else .ok p

/-- Whether a die has acted on the loss of another (R327). -/
def knownLost (s : State) (die home : Nat) : Bool := (die? s die).any fun d => d.down.contains home

/-- The host port of a function (R334, R337). -/
def fnPort (s : State) (fn : Nat) : Option Nat := (fnDie s fn).map fun d => if d = 0 then 0 else 1

/-- The store that MT selects at an address of a die (R166, R167). -/
def storeAt (mt a : Nat) : Bool :=
  match mt, regionOf (fabOff a) with
  | 0, .hbm | 0, .vault | 1, .tline | 2, .dev => true
  | _, _ => false

/-- Whether the unit of an access suits the store that MT selects (R167, R186, R222). -/
def mtAdmits (mt : Nat) (k : AccKind) : Bool :=
  match mt with
  | 0 => !k.tline
  | 1 => !k.atomic && (k.size == 8 || (k.watch && k.size == 4))
  | _ => !k.tline && !k.atomic && (k.size == 4 || k.size == 8)

/-- The checks of a frame of another module (R165, R167, R172, R177, R337, R353), which that module makes as this one would: what it
holds of its dies and sockets this module does not know (log entry 9). -/
def farPlace (s : State) (va : W64) (full mt ccl : Nat) (k : AccKind) : Except Trap Place :=
  if ccl = 0 ∧ mt ≠ 2 then .error (prot va 0)
  else if farPorts s k.die full = [] then .error (prot va 1)
  else if 14 ≤ fabDie full ∨ (12 ≤ fabDie full ∧ mt ≠ 0) ∨ (fabDie full < 12 ∧ !storeAt mt full) ∨ Config.farRefuses full s.now then
    .error (prot va 1)
  else if !mtAdmits mt k || (mt = 2 && !devSizeOk (fabOff full) k.size) then .error (prot va 0)
  else if k.ord ≠ .plain && k.scope != .sys then .error { cause := .scopeClass, va }
  else scopeCheck va k (if mt = 2 then 5 else if mt = 0 && fabDie full < 12 && regionOf (fabOff full) = .vault then 4 else classMax ccl)
    (.far k.die full mt ccl)

/-- Whether a leaf that a cache still holds names a replicated page of a lost die, which is served by its new home (R328). -/
def movedHome (s : State) (e : W64) (a mt : Nat) (k : AccKind) : Bool :=
  mt == 0 && regionOf (fabOff a) == .hbm && e.getLsbD 63 && knownLost s k.die (fabDie a) && !knownLost s k.die (Nat.xor (fabDie a) 1)

/-- The checks of a frame on a lost die (R216, R329): a store of a program finds the loss at the home. -/
def lostPlace (e : W64) (va : W64) (a mt ccl : Nat) (k : AccKind) : Except Trap Place :=
  if k.late then
    (if !mtAdmits mt k || (mt = 2 && !devSizeOk (fabOff a) k.size) then .error (prot va 0)
     else scopeCheck va k (if regionOf (fabOff a) = .vault then 4 else if mt = 2 then 5 else classMax ccl) (.fab a mt ccl (e.extractLsb' 56 3).toNat false))
  else .error { cause := .homeLost, va }

/-- The legal-address, class and granule checks of a leaf's frame (R162 steps 4 to 6; R166, R167, R172, R177, R182). -/
def framePlace (s : State) (e : W64) (va : W64) (full : Nat) (k : AccKind) : Except Trap Place :=
  let mt := (e.extractLsb' 59 2).toNat
  let ccl := (e.extractLsb' 8 2).toNat
  let grn := (e.extractLsb' 56 3).toNat
  let moved := movedHome s e (full % 2 ^ 43) mt k
  let a := if moved then mirrorOf (full % 2 ^ 43) else full % 2 ^ 43
  let die := fabDie a
  if mt = 3 then
    if ccl = 1 then .error (prot va 0)
    else if k.atomic && ccl != 2 then .error (prot va 0)
    else if k.tline then .error (prot va 0)
    else match fnPort s k.fn with
      | some port =>
        if knownLost s k.die (11 * port) then .error (prot va 1) else scopeCheck va k (classMax ccl) (.host port full ccl)
      | none => .error (prot va 1)
  else if fabMod full ≠ s.modid.toNat then farPlace s va full mt ccl k
  else if 14 ≤ die then .error (prot va 1)
  else if 12 ≤ die then
    match guest? s (die - 12) with
    | some g =>
      if !g.up || mt != 0 then .error (prot va 1)
      else if k.tline then .error (prot va 0)
      else scopeCheck va k (classMax ccl) (.fab a mt ccl grn false)
    | none => .error (prot va 1)
  else if inRegionTable a && !k.secure then .error { prot va 0 with sec := true }
  else if !storeAt mt a then .error (prot va 1)
  else if knownLost s k.die die then lostPlace e va a mt ccl k
  else
    let reg := regionOf (fabOff a)
    if regionSecure s a && !k.secure then .error { prot va 0 with sec := true }
    else match mt, reg with
      | 0, .hbm =>
        if k.tline then .error (prot va 0)
        else match scopeCheck va k (classMax ccl) (.fab a 0 ccl grn (e.getLsbD 63 && !moved)) with
          | .error t => .error t
          | .ok p => if k.gran && granOf s a != grn then .error { cause := .granule, va } else .ok p
      | 0, .vault => if k.tline then .error (prot va 0) else scopeCheck va k 4 (.fab a 0 ccl grn false)
      | 1, .tline =>
        if ccl = 0 || !mtAdmits 1 k then .error (prot va 0) else scopeCheck va k (classMax ccl) (.fab a 1 ccl grn false)
      | 2, .dev =>
        if !mtAdmits 2 k || !devSizeOk (fabOff a) k.size then .error (prot va 0)
        else scopeCheck va k 5 (.fab a 2 ccl grn false)
      | _, _ => .error (prot va 1)

/-- The place of an address under a cached leaf (R162 steps 3 to 6). -/
def leafPlace (s : State) (t : Tlb) (va : W64) (k : AccKind) : Except Trap Place :=
  match permission t.leaf va k with
  | some x => .error x
  | none => framePlace s t.leaf va (pfnAddr t.leaf + (va.toNat % 2 ^ 57 - t.base)) k

/-- Canonical form and halves (R155): `win` when the window is open to the agent. -/
def halfCheck (va : W64) (user win : Bool) : Option Trap :=
  if !canonical va then some (prot va 0)
  else if inWindow va then (if win then none else some (prot va 8))
  else if negHalf va && user then some (prot va 0)
  else none

/-- Translation for an agent that belongs to no core: the die cache, then a walk that sets A and D (R159, R268, R281). -/
def agentPlace (s : State) (die pasid : Nat) (va : W64) (k : AccKind) : Except XFail (Place × State) :=
  let k := { k with die }
  match halfCheck va k.user false with
  | some t => .error (.trap t)
  | none =>
    let cached := match die? s die with
      | some d => d.cache.find? fun t => t.serves pasid va (k.write || k.atomic)
      | none => none
    match cached with
    | some t => match leafPlace s t va k with
      | .ok p => .ok (p, s)
      | .error x => .error (.trap x)
    | none => match walkLeaf s die pasid va with
      | .error f => .error f
      | .ok (ea, t) => match leafPlace s t va k with
        | .ok p => .ok (p, setAD s ea (k.write || k.atomic))
        | .error x => .error (.trap x)

/-- The pieces of a byte range that lie in one page each: offset, length, address. -/
def pagePieces : Nat → W64 → Nat → Nat → List (Nat × Nat × W64)
  | 0, _, _, _ => []
  | f + 1, va, off, n =>
    if n = 0 then []
    else
      let room := 4096 - va.toNat % 4096
      let k := min room n
      (off, k, va) :: pagePieces f (va + BitVec.ofNat 64 k) (off + k) (n - k)

/-- The pieces of a range. -/
def pieces (va : W64) (n : Nat) : List (Nat × Nat × W64) := pagePieces (n / 4096 + 2) va 0 n

/-- The place `k` bytes into a place. -/
def Place.add (k : Nat) : Place → Place
  | .fab a mt ccl g r => .fab (a + k) mt ccl g r
  | .host f a c => .host f (a + k) c
  | .scratch t c o => .scratch t c (o + k)
  | .vaultWin a => .vaultWin (a + k)
  | .far d a mt ccl => .far d (a + k) mt ccl
  | p => p

/-- The home die of a place, of those of the module. -/
def Place.home : Place → Option Nat
  | .fab a _ _ _ _ => if fabDie a < 12 then some (fabDie a) else none
  | _ => none

/-- Where an access to a place ends: its home die, or 12 or 13 for a guest socket (R166). -/
def Place.endpoint : Place → Option Nat
  | .fab a _ _ _ _ => some (fabDie a)
  | _ => none

/-- Whether a place's home die is lost, as an agent's die knows it (R327, R329). -/
def placeLost (s : State) (die : Nat) (p : Place) : Bool := p.home.any (knownLost s die)

/-- Whether a place's home die no longer answers and an agent's die has not acted on that yet: an access waits (R328). -/
def homeSilent (s : State) (die : Nat) (p : Place) : Bool := p.home.any fun h => !dieUp s h && !knownLost s die h

/-- An agent's read of a byte range. -/
def agentRead (s : State) (die pasid : Nat) (va : W64) (n : Nat) (k : AccKind) : Except XFail (List PByte × State) :=
  (pieces va n).foldl (fun acc pc =>
    match acc with
    | .error f => .error f
    | .ok (bs, s) => match agentPlace s die pasid pc.2.2 k with
      | .error f => .error f
      | .ok (p, s) =>
        if homeSilent s die p then .error .silent
        else
          let r := readHome (returnPlace s p pc.2.1) p pc.2.1
          .ok (bs ++ r.1, ownTx s.freshId .device pasid pc.2.2 pc.2.1 r.2)) (.ok ([], s))

/-- An agent's write of a byte range: every page is checked before any byte is written. -/
def agentWrite (s : State) (die pasid : Nat) (va : W64) (bs : List PByte) (k : AccKind) : Except XFail State :=
  let ps := (pieces va bs.length).foldl (fun acc pc =>
    match acc with
    | .error f => .error f
    | .ok (l, s) => match agentPlace s die pasid pc.2.2 k with
      | .error f => .error f
      | .ok (p, s) => if homeSilent s die p then .error .silent else .ok (l ++ [(pc.1, pc.2.1, p)], s)) (Except.ok (([] : List (Nat × Nat × Place)), s))
  match ps with
  | .error f => .error f
  | .ok (l, s) => .ok (l.foldl (fun s x => ownTx s.freshId .device pasid (va + BitVec.ofNat 64 x.1) x.2.1
      (writeHome (returnPlace s x.2.2 x.2.1) x.2.2 ((bs.drop x.1).take x.2.1))) s)

/-- The kind of a device's own access to a context's memory (R256, R338, R341): it is performed at the home, and any class
admits it (log entry 14). -/
def devKind (s : State) (pasid : Nat) (write : Bool) (size : Nat) : AccKind :=
  { die := 0, user := true, write, late := false, fetch := false, atomic := false, secure := false,
    fn := (match ctx? s pasid with | some c => c.fn | none => 0), size, scope := .weak, ord := .plain, tline := false, watch := false, gran := true }

/-- Whether the Q thread that serves a queue is in the secure world (R358). -/
def queueSecure (s : State) (q : Queue) : Bool := q.bound.any fun t => s.secure.contains (.qthread q.die t)

/-- The kind of an access to a queue's packets and timelines: its world is the Q thread's that serves the queue (R358). -/
def queueKind (s : State) (q : Queue) (write : Bool) (size : Nat) : AccKind :=
  { devKind s q.pasid write size with secure := queueSecure s q }

end Sys2Proof.Machine
end

