-- ==== Sys2Proof/Machine/Queues.lean ====
section
/-! DEFINITION. What queues, fault records, interrupts, completions, device registers and Quadrille do (R255 to R259, R271,
R320 to R322, R330, R336 to R348, R366). -/
namespace Sys2Proof.Machine

/-- A fault record's fields (R271). -/
structure Record where
  source : Nat
  cause  : Nat
  flags  : Nat := 0
  die    : Nat
  unit   : Nat
  pc     : W64 := 0
  va     : W64 := 0
  aux    : W64 := 0
  seq    : Nat := 0
  gser   : W64 := 0
  qid    : Nat := 0

/-- The 64 bytes of a record (R271). -/
def Record.bytes (r : Record) : List Byte :=
  toBytes 1 r.source ++ toBytes 1 r.cause ++ toBytes 2 r.flags ++ toBytes 1 r.die ++ toBytes 1 r.unit ++ toBytes 2 0 ++
  toBytes 8 r.pc.toNat ++ toBytes 8 r.va.toNat ++ toBytes 8 r.aux.toNat ++ toBytes 8 r.seq ++ toBytes 8 r.gser.toNat ++
  toBytes 8 r.qid ++ toBytes 8 0

/-- Clean bytes. -/
def cleanBytes (l : List Byte) : List PByte := l.map fun b => (b, false)

/-- The function a context belongs to (R334). -/
def fnOf (s : State) (pasid : Nat) : Nat := match ctx? s pasid with
  | some c => c.fn
  | none => 0

/-- A release of every die's dirty remote lines: what a completion covers is made visible (R206). -/
def releaseAll (s : State) : State := (List.range Config.dies).foldl releasePkg s

/-- Writing through a context, in the world of a queue (R358) and at a scope; nothing is written when a check of R162 fails. -/
def tryWrite (s : State) (q : Queue) (va : W64) (bs : List Byte) (scope : Scope := .weak) : Option State :=
  match agentWrite s q.die q.pasid va (cleanBytes bs) { queueKind s q true 8 with scope } with
  | .ok s => some s
  | .error _ => none

/-- Counting a lost record, if the header can be written at SYS scope (R341). -/
def countLost (s : State) (q : Queue) (hdr : List Byte) : Option State :=
  tryWrite s q (q.fqva + 24) (toBytes 8 (ofBytes ((hdr.drop 24).take 8) + 1)) .sys

/-- Writing a record into a queue's fault-queue block, header and record at SYS scope (R341). -/
def writeRecord (s : State) (die qid : Nat) (r : Record) : State :=
  match queue? s die qid with
  | none => s
  | some q =>
    let msg := fun s => emit s (.msix (fnOf s q.pasid) q.faultvec)
    match agentRead s die q.pasid q.fqva 32 (queueKind s q false 8) with
    | .error _ => msg s
    | .ok (hb, s) =>
      let hdr := hb.map fun b => b.1
      let wr := ofBytes (hdr.take 8)
      let rd := ofBytes ((hdr.drop 8).take 8)
      let size := ofBytes ((hdr.drop 16).take 4)
      if (wr + 2 ^ 64 - rd) % 2 ^ 64 < size then
        match tryWrite s q (q.fqva + 64 + BitVec.ofNat 64 (64 * (wr % size))) { r with qid }.bytes .sys with
        | none => msg ((countLost s q hdr).getD s)
        | some s => match tryWrite (releaseAll s) q q.fqva (toBytes 8 (wr + 1)) .sys with
          | none => msg s
          | some s => msg s
      else (countLost s q hdr).getD (msg s)

/-- The queue with the lowest QID of a context on a die, for faults of work that no queue started (R341). -/
def lowestQueue (s : State) (die pasid : Nat) : Option Nat :=
  ((s.queues.filter fun q => q.die == die && q.pasid == pasid).map fun q => q.qid).min?

/-- Halting a queue (R259). -/
def haltQueue (s : State) (die qid : Nat) : State := modQueue s die qid fun q => { q with halted := true }

/-- A timeline write made by the device for a context, checked when it is made (R186, R228, R366). -/
def tlSignal (s : State) (die pasid : Nat) (va v : W64) (secure : Bool := false) : Except Trap State :=
  if va.toNat % 8 ≠ 0 then .error { cause := .misalign, va }
  else match agentPlace s die pasid va { devKind s pasid true 8 with tline := true, secure } with
    | .ok (p, s) =>
      if homeSilent s die p then .error { cause := .homeLost, va }
      else .ok (ownTx s.freshId .device pasid va 8 (writeHome (releaseAll s) p (cleanBytes (toBytes 8 v.toNat))))
    | .error (.trap t) => .error t
    | .error _ => .error (prot va 0)

/-- Whether a write of a timeline waits: its home no longer answers, and the die has not acted on the loss (R327). -/
def tlWaits (s : State) (die pasid : Nat) (va : W64) (secure : Bool := false) : Bool :=
  match agentPlace s die pasid va { devKind s pasid true 8 with tline := true, secure } with
  | .ok (p, _) => homeSilent s die p
  | .error _ => false

/-- The interrupt of a queue's host vector: its value is written with a release at SYS scope (R342). -/
def irqQueue (s : State) (die qid : Nat) (v : W64) : State :=
  match queue? s die qid with
  | none => s
  | some q =>
    let s := (tryWrite (releaseAll s) q q.irqvalva (toBytes 8 v.toNat) .sys).getD s
    emit s (.msix (fnOf s q.pasid) q.irqvec)

/-- An entry of the die-kernel mailbox (R342); none when it is full. -/
def mailboxPush (s : State) (die : Nat) (v : W64) (qid t : Nat) : Option State :=
  match die? s die with
  | none => none
  | some d =>
    if d.mailbox.length < Config.mailboxDepth then
      some (emit (modDie s die fun d => { d with mailbox := d.mailbox ++ [(v, qid, t)] }) (.supervisorInterrupt die))
    else none

/-- An event of a queue's bound thread: bit 0 KICK, bit 1 COMPLETE, bit 7 UNBIND (R278). -/
def threadEvent (s : State) (die qid bit : Nat) : State :=
  { s with qthreads := modWhere s.qthreads (fun q => q.die == die && q.bound == some qid) fun q =>
      { q with events := q.events ||| BitVec.ofNat 64 (2 ^ bit) } }

/-- A record of a queue: SOURCE 3 (R271). -/
def queueRecord (s : State) (die qid cause seq : Nat) (va aux : W64) : State :=
  writeRecord s die qid { source := 3, cause, die, unit := 0, va, aux, seq }

/-- The trap code of a cause (R303). -/
def Cause.code : Cause → Nat
  | .illegal => 0x01 | .priv => 0x02 | .laHazard => 0x03 | .role => 0x04 | .divergedMatrix => 0x05
  | .collectiveExited => 0x06 | .collectiveDeadlock => 0x07 | .misalign => 0x08 | .scopeClass => 0x09
  | .ringState => 0x0A | .badTarget => 0x0B | .granule => 0x0C | .pageFault => 0x10 | .firstTouch => 0x11
  | .prot => 0x12 | .overlayMiss => 0x13 | .retired => 0x14 | .trap => 0x15 | .matrixFault => 0x16 | .brk => 0x17
  | .poison => 0x20 | .homeLost => 0x21 | .secure => 0x22 | .doubleFault => 0x23

/-! ### Packets -/

/-- Whether work attributed to a packet is still outstanding (R258, R276, R279). -/
def workLeft (s : State) (die qid seq : Nat) : Bool :=
  (s.launches.any fun l => l.die == die && l.qid == qid && l.seq == seq) ||
  (s.copies.any fun c => c.die == die && c.ops.any fun o => o.qid == qid && o.seq == seq)

/-- Whether every core a packet ran on has since passed a scan (R320). -/
def ranVouched (s : State) (p : Packet) : Bool :=
  p.ran.all fun r => match core? s (r.1 / 64) (r.1 % 64) with
    | some c => decide (r.2 ≤ c.pass)
    | none => false

/-- Whether a packet is vouched by the scans of its cores (R320): not one that has come under suspicion, which only an acknowledgement
vouches (R322). -/
def scanVouched (s : State) (p : Packet) : Bool := ranVouched s p && !p.suspect

/-- Whether a packet completes (R258, R321): not while the write of its timeline waits, or is on its way to another module (R325). -/
def packetReady (s : State) (q : Queue) (p : Packet) : Bool :=
  !(p.acked.any fun a => a.1 != 0 && !p.barred && !p.sent && tlWaits s q.die q.pasid a.1 (queueSecure s q)) &&
  !farOut s (.packet q.die q.qid p.seq) &&
  p.closed && !p.done && !p.never && !workLeft s q.die q.qid p.seq && p.waitTl.isNone &&
  (!(p.flags / 16 % 2 == 1) || p.vouched || scanVouched s p)

/-- A packet completes: its `qack` timeline, then its interrupt (R258, R275, R366), neither if an acknowledgement has barred them (R322). -/
def finishPacket (s : State) (die qid : Nat) (p : Packet) : State :=
  let mark := fun (s : State) => modQueue s die qid fun q =>
    { q with packets := modWhere q.packets (fun x => x.seq == p.seq) fun x => { x with done := true } }
  match queue? s die qid, (if p.barred then none else p.acked) with
  | some q, some (va, v, irq) =>
    let after := fun (s : State) => if irq then irqQueue s die qid (BitVec.ofNat 64 p.seq) else s
    if va = 0 ∨ p.sent then after (mark s)
    else match tlSignal s die q.pasid va v (queueSecure s q) with
      | .ok u =>
        let u := ownTx s.freshId (.packet die qid p.seq) q.pasid va 8 u
        if farOut u (.packet die qid p.seq) then
          modQueue u die qid fun q => { q with packets := modWhere q.packets (fun x => x.seq == p.seq) fun x => { x with sent := true } }
        else after (mark u)
      | .error t =>
        let s := modQueue s die qid fun q =>
          { q with packets := modWhere q.packets (fun x => x.seq == p.seq) fun x => { x with never := true } }
        haltQueue (queueRecord s die qid t.cause.code p.seq t.va t.aux) die qid
  | _, _ => mark s

/-- The sequence number that an unbroken prefix of a queue's packets, those of which a predicate holds, reaches; packets
stand in sequence order. -/
def prefixLen (ps : List Packet) (f : Packet → Bool) (n : Nat) : Nat :=
  match (ps.takeWhile f).getLast? with
  | some p => p.seq
  | none => n

/-- Writing DONE or VOUCHED: the device's own release write of the queue's timeline (R206, R321). -/
def queueTl (s : State) (q : Queue) (va : W64) (n : Nat) : State :=
  match tlSignal s q.die q.pasid va (BitVec.ofNat 64 n) (queueSecure s q) with
  | .ok s => s
  | .error _ => s

/-- Everything that completions make true of a queue: packets complete, DONE and VOUCHED advance (R258, R321). -/
def settleQueue (s : State) (die qid : Nat) : State :=
  match queue? s die qid with
  | none => s
  | some q0 =>
    let ready := q0.packets.filter (packetReady s q0)
    let s := ready.foldl (fun s p => finishPacket s die qid p) s
    let fin := (queue? s die qid).any fun q => q.packets.any fun p => p.done && ready.any fun r => r.seq == p.seq
    let s := if fin then threadEvent s die qid 1 else s
    let s := modQueue s die qid fun q =>
      { q with packets := q.packets.map fun p => { p with vouched := p.vouched || (p.done && scanVouched s p) } }
    match queue? s die qid with
    | none => s
    | some q =>
      let d := prefixLen q.packets (fun p => p.done) q.done
      let v := prefixLen q.packets (fun p => p.done && p.vouched) q.vouched
      let s := if d = q.done then s else queueTl s q q.doneva d
      let s := if v = q.vouched then s else queueTl s q q.vouchva v
      modQueue s die qid fun q => { q with done := d, vouched := v, packets := q.packets.filter fun p => decide (v < p.seq) }

/-- Settling every queue. -/
def settleAll (s : State) : State := s.queues.foldl (fun s q => settleQueue s q.die q.qid) s

/-- The teams of a grid (R261). -/
def gridTeams (l : Launch) : Nat := l.pk.gx * l.pk.gy * l.pk.gz

/-- Whether a grid launched with VOUCH waits for its packet to be vouched (R321). -/
def gridProvisional (s : State) (l : Launch) : Bool :=
  decide (l.pk.flags / 16 % 2 = 1) && match queue? s l.die l.qid with
    | some q => q.packets.any fun p => p.seq == l.seq && !(p.vouched || scanVouched s p)
    | none => false

/-- Whether an acknowledgement has barred the timeline and the interrupt of a grid's packet (R322). -/
def gridBarred (s : State) (l : Launch) : Bool :=
  (queue? s l.die l.qid).any fun q => q.packets.any fun p => p.seq == l.seq && p.barred

/-- The end of a grid (R258, R276, R311, R322, R366). -/
def gridEnd (s : State) (lid : Nat) : State :=
  match launch? s lid with
  | none => s
  | some l =>
    if l.ended < gridTeams l ∨ l.reported then s
    else
      let gone := fun (s : State) => { s with launches := s.launches.filter fun x => x.lid != lid }
      let secure := (queue? s l.die l.qid).any (queueSecure s)
      if l.faulted then
        modLaunch (haltQueue (queueRecord s l.die l.qid 0x33 l.seq 0 0) l.die l.qid) lid fun l => { l with reported := true, next := gridTeams l }
      else if gridProvisional s l then s
      else if gridBarred s l then settleQueue (gone s) l.die l.qid
      else if farOut s (.grid lid) || (l.pk.tlva != 0 && !l.sent && tlWaits s l.die l.pasid l.pk.tlva secure) then s
      else
        let after := fun (s : State) =>
          settleQueue (if l.pk.flags / 2 % 2 = 1 then irqQueue s l.die l.qid (BitVec.ofNat 64 l.seq) else s) l.die l.qid
        if l.pk.tlva = 0 ∨ l.sent then after (gone s)
        else match tlSignal s l.die l.pasid l.pk.tlva l.pk.tlval secure with
          | .ok u =>
            let u := ownTx s.freshId (.grid lid) l.pasid l.pk.tlva 8 u
            if farOut u (.grid lid) then modLaunch u lid fun l => { l with sent := true } else after (gone u)
          | .error t =>
            let s := modLaunch s lid fun l => { l with reported := true, next := gridTeams l }
            let s := modQueue s l.die l.qid fun q =>
              { q with packets := modWhere q.packets (fun x => x.seq == l.seq) fun x => { x with never := true } }
            haltQueue (queueRecord s l.die l.qid t.cause.code l.seq t.va t.aux) l.die l.qid

/-- A kick of value v (R255, R257, R343). -/
def kickQueue (s : State) (die qid : Nat) (v : Nat) : State :=
  match queue? s die qid with
  | none => s
  | some q =>
    if v = q.w then s
    else if q.w < v ∧ v ≤ q.r + q.size then
      let s := modQueue s die qid fun q => { q with w := v, kicked := true }
      if q.bound.isSome then threadEvent s die qid 0 else emit s (.supervisorInterrupt die)
    else haltQueue (queueRecord s die qid 0x32 0 0 0) die qid

/-- Whether a sequence number of a queue lies in a SUSPECT range that an acknowledgement of `v` covers (R322, R340). -/
def inSuspect (q : Queue) (v n : Nat) : Bool := q.suspects.any fun r => r.2 ≤ v && r.1 ≤ n && n ≤ r.2

/-- Acknowledging SUSPECT ranges (R322, R340): their packets count as vouched, and a VOUCH packet or grid among them completes, at
once or when its work ends, without its timeline or interrupt. -/
def suspack (s : State) (die qid v : Nat) : State :=
  match queue? s die qid with
  | none => s
  | some q0 =>
    let s := { s with launches := s.launches.filter fun l =>
      !(l.die == die && l.qid == qid && inSuspect q0 v l.seq && decide (l.pk.flags / 16 % 2 = 1) && !l.faulted && !l.reported &&
        decide (gridTeams l ≤ l.ended)) }
    let s := modQueue s die qid fun q =>
      { q with packets := q.packets.map fun p =>
                 if inSuspect q v p.seq then
                   { p with vouched := true, suspect := false, barred := p.barred || (p.flags / 16 % 2 == 1 && !p.done),
                            done := p.done || (p.closed && !p.never && p.flags / 16 % 2 == 1 && !workLeft s die qid p.seq) }
                 else p,
               suspects := q.suspects.filter fun r => !decide (r.2 ≤ v) }
    let fin := (queue? s die qid).any fun q => q.packets.any fun p => p.done && q0.packets.any fun r => r.seq == p.seq && !r.done
    settleQueue (if fin then threadEvent s die qid 1 else s) die qid

/-- Attributing an issue of a group to the packet of its grid: the core and its scan number (R320). -/
def noteRan (s : State) (g : Group) : State :=
  match team? s g.team with
  | none => s
  | some t => match launch? s t.launch with
    | none => s
    | some l =>
      let scan := match core? s g.die g.core with
        | some c => c.scan
        | none => 0
      let key := g.die * 64 + g.core
      modQueue s l.die l.qid fun q =>
        { q with packets := modWhere q.packets (fun p => p.seq == l.seq) fun p => { p with ran := sset 0 p.ran key (scan + 1) } }

/-! ### Device registers -/

/-- Counting a dropped late write of a function (R337, R344). -/
def lateDrop (s : State) (f pasid : Nat) (xlat : Bool) (addr : W64) : State :=
  match fnDie s f with
  | none => s
  | some _ =>
    let n := sget 0 s.late (3 * f)
    let l0 := BitVec.ofNat 64 (2 ^ 63 + xlat.toNat * 2 ^ 20 + pasid % 2 ^ 20)
    { s with late := sset 0 (sset 0 (sset 0 s.late (3 * f) (if n = BitVec.allOnes 64 then n else n + 1)) (3 * f + 1) l0)
               (3 * f + 2) addr }

/-- A word of a die's device registers, and the state after the read (R336, R337, R340). -/
def devRead (s : State) (die off : Nat) : W64 × State :=
  let o := off / 8 * 8
  match die? s die with
  | none => (0, s)
  | some d =>
    if o < 0x6000010000 then
      let r := o - 0x6000000000
      if r = 0 then (if die = 0 then s.bootwhy else 0, s)
      else if r = 0x100 then
        match d.mailbox with
        | [] => (0, s)
        | (v, q, t) :: rest =>
          (v, modDie s die fun d => { d with mailbox := rest, mbsrc := BitVec.ofNat 64 (2 ^ 63 + q % 65536 * 64 + t) })
      else if r = 0x108 then (BitVec.ofNat 64 d.mailbox.length, s)
      else if r = 0x110 then (d.mbsrc, s)
      else if 0x1000 ≤ r ∧ r < 0x1000 + 32 * 66 then
        let f := (r - 0x1000) / 32
        let k := (r - 0x1000) % 32 / 8
        (if k < 3 ∧ fnDie s f = some die then sget 0 s.late (3 * f + k) else 0, s)
      else (0, s)
    else if 0x6000010000 ≤ o ∧ o < 0x6000010200 then
      let base := (o - 0x6000010000) * 8
      (maskOf ((List.range 64).filter fun k => sget false s.tldisc (tlKey die (base + k))), s)
    else if 0x6000020000 ≤ o ∧ o < 0x6000021000 then
      let e := sget (0, 0) d.regions ((o - 0x6000020000) / 16)
      (if o % 16 = 0 then e.1 else e.2, s)
    else if 0x6000030000 ≤ o ∧ o < 0x6000030800 then (sget 0 d.conn ((o - 0x6000030000) / 8), s)
    else if 0x6100000000 ≤ o ∧ o < 0x6110000000 then
      match queue? s die ((o - 0x6100000000) / 4096) with
      | some q =>
        if o % 4096 = 8 then
          (BitVec.ofNat 64 (q.halted.toNat * 2 ^ 63 + q.bound.isSome.toNat * 2 ^ 62 + q.kicked.toNat * 2 ^ 61 +
            (!q.suspects.isEmpty).toNat * 2 ^ 60 + q.r % 2 ^ 60), s)
        else (0, s)
      | none => (0, s)
    else if 0x6200000000 ≤ o ∧ o < 0x6200010000 then (sget 0 d.routes ((o - 0x6200000000) / 8), s)
    else (0, s)

/-- Writing 1 to BOOTWHY.MINIMAL: COUNT becomes 2 (R362). -/
def clearMinimalBit (s : State) : State :=
  if s.bootwhy.getLsbD 0 then
    { s with bootwhy := (s.bootwhy &&& ~~~ 0xF1#64) ||| 0x20#64, startRec := (s.bootwhy &&& ~~~ 0xF1#64) ||| 0x20#64 }
  else s

/-- Merging a 32-bit write into the word that holds it. -/
def mergeWord (old v : W64) (off : Nat) (wide : Bool) : W64 :=
  if wide then v
  else if off % 8 = 0 then (old &&& 0xFFFFFFFF00000000#64) ||| (v &&& 0xFFFFFFFF#64)
  else (old &&& 0xFFFFFFFF#64) ||| (v <<< 32)

/-- Writing a device register (R336, R337, R340, R350, R358). -/
def devWrite (s : State) (die off : Nat) (wide : Bool) (v : W64) : State :=
  let o := off / 8 * 8
  match die? s die with
  | none => s
  | some _ =>
    if o < 0x6000010000 then
      let r := o - 0x6000000000
      if r = 0 then (if die = 0 && v.getLsbD 0 then clearMinimalBit s else s)
      else if 0x1000 ≤ r ∧ r < 0x1000 + 32 * 66 ∧ r % 32 = 0 ∧ fnDie s ((r - 0x1000) / 32) = some die then
        { s with late := sset 0 s.late (3 * ((r - 0x1000) / 32)) v }
      else s
    else if 0x6000010000 ≤ o ∧ o < 0x6000010200 then
      let base := (o - 0x6000010000) * 8
      let w := mergeWord 0 v off wide
      { s with tldisc := (lanesOf w).foldl (fun m k => sset false m (tlKey die (base + k)) false) s.tldisc }
    else if 0x6000020000 ≤ o ∧ o < 0x6000021000 then
      modDie s die fun d =>
        let k := (o - 0x6000020000) / 16
        let e := sget (0, 0) d.regions k
        let e := if o % 16 = 0 then (mergeWord e.1 v off wide &&& 0x00FFFFFFFFFFF003#64, e.2)
          else (e.1, mergeWord e.2 v off wide &&& 0x00FFFFFFFFFFF000#64)
        { d with regions := sset (0, 0) d.regions k e }
    else if 0x6000030000 ≤ o ∧ o < 0x6000030800 then
      let k := (o - 0x6000030000) / 8
      modDie s die fun d => { d with conn := sset 0 d.conn k (mergeWord (sget 0 d.conn k) v off wide &&& ~~~ 0xFF00000000#64) }
    else if 0x6100000000 ≤ o ∧ o < 0x6110000000 then
      let q := (o - 0x6100000000) / 4096
      if o % 4096 = 0 then kickQueue s die q v.toNat
      else if o % 4096 = 0x10 then suspack s die q v.toNat
      else s
    else if 0x6200000000 ≤ o ∧ o < 0x6200010000 then
      let k := (o - 0x6200000000) / 8
      modDie s die fun d => { d with routes := sset 0 d.routes k (mergeWord (sget 0 d.routes k) v off wide) }
    else s

/-- Whether a place is a device register (R167), of another module too. -/
def isDev : Place → Bool
  | .fab a mt _ _ _ => mt == 2 && fabDie a < 12
  | .far _ _ mt _ => mt == 2
  | _ => false

/-- Reading any place by an agent of a die and core. -/
def readPlace (s : State) (die core : Nat) (p : Place) (n : Nat) (sc : Scope) (ch : BitVec 2) (c : MemChoice) :
    List PByte × State :=
  match p with
  | .fab a mt _ _ _ =>
    if mt = 2 ∧ fabDie a < 12 then
      let (v, s) := devRead s (fabDie a) (fabOff a)
      (cleanBytes (toBytes n (v.toNat / 2 ^ (8 * (fabOff a % 8)))), s)
    else readVia s die core p n sc ch c
  | _ => readVia s die core p n sc ch c

/-- Writing any place by an agent of a die and core. -/
def writePlace (s : State) (die core : Nat) (p : Place) (bs : List PByte) (sc : Scope) (ch : BitVec 2) (c : MemChoice) : State :=
  match p with
  | .fab a mt _ _ _ =>
    if mt = 2 ∧ fabDie a < 12 then
      devWrite s (fabDie a) (fabOff a) (bs.length == 8) (BitVec.ofNat 64 (ofBytes (bs.map fun b => b.1)))
    else writeVia s die core p bs sc ch c
  | _ => writeVia s die core p bs sc ch c

/-! ### Quadrille -/

/-- A message takes the next place of Quadrille's order (R346); none while a ring of an in-service die is full. -/
def quadSend (s : State) (sender : Nat) (words : List W64) : Option State :=
  if s.dies.all fun d => d.lost || decide (s.quad.length - d.qpos < Config.quadDepth) then
    some { s with quad := s.quad ++ [(sender, words)] }
  else none

/-- Sending when the rings have room; a die kernel that finds none keeps what it has to tell and sends it later (R346). -/
def quadKeep (s : State) (sender : Nat) (words : List W64) : State :=
  (quadSend s sender words).getD (modDie s sender fun d => { d with unsent := d.unsent ++ [words] })

/-- An 8-word message. -/
def msg8 (w0 w1 w2 w3 : W64) : List W64 := [w0, w1, w2, w3, 0, 0, 0, 0]

end Sys2Proof.Machine
end

