-- ==== Sys2Proof/Machine/Paths.lean ====
section
/-! DEFINITION. Paths and the reconvergence stack: blocks, splits, arrivals, merges, exits and exchanges (R30 to R36, R40,
R41, R52 to R55, R108, R110, R301). -/
namespace Sys2Proof.Machine

/-- Whether a wait parks the path (R34). Waiting for a ring stage, for presence in `rrel`, for a handler frame, for
Quadrille or for an ATS answer does not. -/
def Wait.parks : Wait → Bool
  | .arrived | .collective _ _ | .barrier _ | .wchg _ _ _ _ _ _ _ _ | .twait _ _ _ _ _ | .line _ | .absent _ | .pri _ => true
  | _ => false

/-- A path at the start of its program: at a header, with an empty view (R50). No transfer leads there, so a cause of the header is raised at
the header's own address (log entry 78). Its creation counts as its last issue, and its age starts at 0 (log entry 84). -/
def newPath (pid : Nat) (h : W64) (mask : Mask) (now : Nat) : Path :=
  { pid, pc := h, hdr := h, blk := none, code := [], left := 0, atHdr := true, src := h, start := true, sys := false, mask, reconv := none,
    parent := 0, side := false, view := [], spois := 0, wait := .run, wins := [], anc := [pid], yielded := false, spinAt := now,
    slotAt := now, age := 0, lastAt := now, parkAt := now, pend := none }

/-- A spilled path that may become live again: neither arrived nor parked (R32, R34). -/
def spilledReady : Entry → Option Path
  | .path p => if p.wait.parks then none else some p
  | _ => none

/-- The stack without the path entry of an identifier. -/
def dropEntry (pid : Nat) (l : List Entry) : List Entry :=
  l.filter fun e => match e with
    | .path p => p.pid != pid
    | _ => true

/-- Filling empty slots with the most recently spilled ready paths (R32, R33); the counts of a slot start anew (R34). With both slots
empty slot A is filled first (log entry 53). -/
def refill (now : Nat) (k : Stack) : Stack :=
  let take := fun (l : List Entry) => l.findSome? spilledReady
  let k := match k.a, take k.rest with
    | none, some p => { k with a := some { p with slotAt := now, spinAt := now }, rest := dropEntry p.pid k.rest }
    | _, _ => k
  match k.b, take k.rest with
  | none, some p => { k with b := some { p with slotAt := now, spinAt := now }, rest := dropEntry p.pid k.rest }
  | _, _ => k

/-- The paths and joins whose parent is a join. -/
def childPaths (k : Stack) (j : Nat) : List Path := k.paths.filter fun p => p.parent == j

/-- Whether a join waits for nothing more: no nested join, every child arrived (R32). -/
def joinReady (k : Stack) : Entry → Bool
  | .join id _ _ _ _ _ _ _ =>
    (k.rest.all fun e => match e with
      | .join _ _ _ _ _ q _ _ => q != id
      | _ => true) && (childPaths k id).all fun p => p.wait == .arrived
  | _ => false

/-- The scalar views of two children differ (R41). -/
def viewsDiffer (a b : Path) : Bool := a.view != b.view

/-- The accesses that a join's merged path follows: those of a child that has exited are noted at its join (R32, R195). -/
def noteAnc (j : Nat) (anc : List Nat) (k : Stack) : Stack :=
  { k with rest := k.rest.map fun e => match e with
      | .join id hdr mask maskA reconv parent side l =>
        if id = j then .join id hdr mask maskA reconv parent side (l ++ anc).dedup else e
      | .path _ => e }

/-- The merge of a ready join (R32, R41): the path it becomes, and whether the views differed. It comes from the block that
the child whose view it takes has left. -/
def mergePath (pid : Nat) (k : Stack) (id : Nat) (hdr : W64) (mask maskA : Mask) (reconv : Option W64) (parent : Nat)
    (side : Bool) (anc : List Nat) (now : Nat) : Option (Path × Bool) :=
  let kids := childPaths k id
  let low := (lanesOf mask).head?.getD 0
  let winner := !(maskA.getLsbD low)
  let base := newPath pid hdr (kids.foldl (fun m p => m ||| p.mask) 0) now
  match kids with
  | [] => none
  | [p] => some ({ base with start := false, src := p.src, reconv, parent, side, view := p.view, spois := p.spois, sys := p.sys,
                             anc := pid :: (anc ++ p.anc).dedup }, false)
  | p :: q :: _ =>
    let w := if p.side = winner then p else q
    some ({ base with start := false, src := w.src, reconv, parent, side, view := w.view, spois := w.spois, sys := w.sys,
                      anc := pid :: (anc ++ p.anc ++ q.anc).dedup }, viewsDiffer p q)

/-- Removing the children of a join and the join itself. -/
def dropJoin (k : Stack) (id : Nat) : Stack :=
  let kid := fun (p : Path) => p.parent == id
  { a := k.a.filter fun p => !kid p, b := k.b.filter fun p => !kid p,
    rest := k.rest.filter fun e => match e with
      | .path p => !kid p
      | .join j _ _ _ _ _ _ _ => j != id }

/-- Putting a path into a live slot: slot A if both are empty. With both taken it is spilled as the most recent entry, a case that R32
does not name (log entry 53). -/
def placeLive (k : Stack) (p : Path) : Stack :=
  match k.a, k.b with
  | none, _ => { k with a := some p }
  | _, none => { k with b := some p }
  | _, _ => { k with rest := .path p :: k.rest }

/-- Every merge that is ready, innermost first (R32), by fuel: each removes a join. -/
def mergeAll (now : Nat) : Nat → Nat × Stack × Bool → Nat × Stack × Bool
  | 0, r => r
  | f + 1, (id0, k, diff) =>
    match k.rest.find? (joinReady k) with
    | some (.join id hdr mask maskA reconv parent side anc) =>
      let k' := dropJoin k id
      match mergePath id0 k id hdr mask maskA reconv parent side anc now with
      | none => mergeAll now f (id0, refill now (noteAnc parent anc k'), diff)
      | some (p, d) =>
        let p := if p.reconv = some hdr then { p with wait := .arrived } else p
        mergeAll now f (id0 + 1, refill now (placeLive k' p), diff || d)
    | _ => (id0, refill now k, diff)

/-- The exchange of a live path with the longest-spilled ready path, the last that the stack lists (R34): `slotA` says which
slot. -/
def exchange (now : Nat) (k : Stack) (slotA : Bool) : Stack :=
  match (k.rest.filterMap spilledReady).getLast? with
  | none => k
  | some q =>
    let live := if slotA then k.a else k.b
    match live with
    | none => k
    | some p =>
      let rest := .path { p with slotAt := now, spinAt := now } :: dropEntry q.pid k.rest
      let q := some { q with slotAt := now, spinAt := now }
      if slotA then { k with a := q, rest } else { k with b := q, rest }

/-- The exchange when both live paths are parked: the one that parked first goes, slot A if both parked in one cycle
(R34; log entry 54). -/
def rotateParked (now : Nat) (k : Stack) : Stack :=
  match k.a, k.b with
  | some p, some q => if p.wait.parks && q.wait.parks then exchange now k (decide (p.parkAt ≤ q.parkAt)) else k
  | _, _ => k

/-- Settling a group's stack after an arrival or an exit (R32, R33, R41). A slot that stays empty because every spilled path is parked is
filled at the next arrival, merge or exit, or by the exchange of R34 (log entry 69). -/
def settle (s : State) (gid : Nat) : State :=
  match grp? s gid with
  | none => s
  | some g =>
    let (id, k, diff) := mergeAll (clk s g.die) (g.stack.rest.length + 1) (s.freshId, g.stack, false)
    modGrp { s with freshId := id } gid fun g =>
      { g with stack := rotateParked (clk s g.die) k, gstat := if diff then g.gstat ||| 1 else g.gstat }

/-- The next instruction of a path after one that did not transfer control (R52): the windows move on, and after the last
instruction of the block the path reaches the word that follows. It arrives there only when its long-latency instructions
are complete (R58) and the word is a header (`ok`), since otherwise the fall-through is trapped. -/
def stepPath (now : Nat) (ok : Bool) (p : Path) : Path :=
  let p := { p with pc := p.pc + 8, left := p.left - 1, wins := p.wins.map (fun w => { w with left := w.left - 1 }),
                    age := 0, lastAt := now, parkAt := now, src := p.pc, denied := [], full := false, began := false }
  if p.left = 0 then
    { p with atHdr := true, wins := p.wins.map (fun w => { w with left := 0 }),
             wait := if p.reconv = some p.pc ∧ p.wins = [] ∧ ok then .arrived else p.wait }
  else p

/-- A path that goes to a header (R55, R108): it arrives if that is its reconvergence header. -/
def goPath (now : Nat) (h : W64) (p : Path) : Path :=
  { p with src := p.pc, pc := h, left := 0, atHdr := true, wins := p.wins.map (fun w => { w with left := 0 }), age := 0,
           lastAt := now, parkAt := now, began := false, wait := if p.reconv = some h ∧ p.wins = [] then .arrived else .run }

/-- A group's live paths after one of them has parked (R34). -/
def rotate (s : State) (e : Issuer) : State :=
  match e with
  | .grp gid _ => modGrp s gid fun g => { g with stack := rotateParked (clk s g.die) g.stack }
  | _ => s

/-- Ending a path: its lanes exit (R33, R110), and its accesses stay before those of its join's merged path (R32). -/
def removePath (k : Stack) (p : Path) : Stack :=
  noteAnc p.parent p.anc
    { a := k.a.filter fun q => q.pid != p.pid, b := k.b.filter fun q => q.pid != p.pid, rest := dropEntry p.pid k.rest }

/-- Whether every lane of a group has exited (R33). -/
def Group.ended (g : Group) : Bool := g.exited == fullMask g.width

/-- The split of a path (R31): the other live path is spilled, a join is pushed, slot A takes the lanes that fall
through and slot B those that branch. Both keep a mark of `yield` that the block made (log entry 55). -/
def splitStack (now id : Nat) (k : Stack) (p : Path) (taken : Mask) (h : W64) (fall target : W64) : Stack :=
  let others := (k.a.toList ++ k.b.toList).filter fun q => q.pid != p.pid
  let spilled := others.map fun q => Entry.path { q with slotAt := now }
  let n := p.mask &&& ~~~ taken
  let join := Entry.join id h p.mask n p.reconv p.parent p.side p.anc
  let kid := fun (pid : Nat) (m : Mask) (side : Bool) (t : W64) =>
    { goPath now t { p with reconv := some h } with pid, mask := m, parent := id, side, anc := pid :: p.anc, slotAt := now, spinAt := now }
  { a := some (kid (id + 1) n false fall), b := some (kid (id + 2) taken true target), rest := join :: (spilled ++ k.rest) }

/-- The base of the code window that holds an address, and its overlay number (R301). -/
def codeBase (h : W64) : Nat := h.toNat / 2 ^ 27 * 2 ^ 27
/-- h[26:14] (R301). -/
def overlayOf (h : W64) : Nat := h.toNat / 2 ^ 14 % 2 ^ 13

/-- The instruction frame that carries an address's tag (R301); handler code serves every context. -/
def frameFor (c : Core) (pasid : Nat) (h : W64) : Option Nat :=
  (c.tags.find? fun e => match e.2 with
    | some t => (t.pasid == pasid || negHalf h) && t.base == codeBase h && t.ovl == overlayOf h
    | none => false).map fun e => e.1

/-- A path parks (R34). -/
def parkPath (now : Nat) (w : Wait) (p : Path) : Path := { p with wait := w, parkAt := now }

/-- The word of an address in a core's instruction scratchpad; none when no frame holds it (R301). -/
def codeWord (s : State) (die core pasid : Nat) (h : W64) : Option W64 :=
  match core? s die core with
  | none => none
  | some c => match frameFor c pasid h with
    | none => none
    | some f => some (sget 0 c.imem (f * 2048 + h.toNat % 16384 / 8))

/-- The context of a group's team; the walker serves no context of its own (R293) and reads the registers of PASID 0 (log entry 58). -/
def groupPasid (s : State) (g : Group) : Nat :=
  match team? s g.team with
  | none => 0
  | some t => match launch? s t.launch with
    | some l => l.pasid
    | none => 0

end Sys2Proof.Machine
end

