-- ==== Sys2Proof/Machine/Perform.lean ====
section
/-! DEFINITION. Performing outstanding operations: the order that R197 preserves, reads, writes and atomics at their homes,
leases (R178), what the ECC decoder finds (R180 to R183) and completions (R58, R217). -/
namespace Sys2Proof.Machine

/-- The die and core of an agent; a Q thread or copy context is near no core (R268). -/
def placeOf (s : State) : Issuer → Nat × Nat
  | .grp gid _ => match grp? s gid with
    | some g => (g.die, g.core)
    | none => (0, 64)
  | .qthr d _ => (d, 64)
  | .copyc d _ => (d, 64)

/-- Whether two issuers are one agent (R191): a group's paths are. -/
def sameAgent : Issuer → Issuer → Bool
  | .grp a _, .grp b _ => a == b
  | .qthr d t, .qthr e u => d == e && t == u
  | .copyc d t, .copyc e u => d == e && t == u
  | _, _ => false

/-- The location of a place (R192): an aligned 8-byte word. -/
def Place.loc : Place → Nat × Nat × Nat × Nat
  | .fab a _ _ _ _ => (0, a / 8, 0, 0)
  | .vaultWin a => (0, a / 8, 0, 0)
  | .host port a _ => (1, hostKey port a / 8, 0, 0)
  | .scratch t c o => (2, t, c, o / 8)
  | .reg g r l => (3, g, r, l)
  | .ringCtl t k j => (4, t, k, j)
  | .far _ a _ _ => (5, a / 8, 0, 0)

/-- Whether an operation reads. -/
def OpKind.reads : OpKind → Bool
  | .ld | .atom _ | .cas => true
  | _ => false

/-- Whether an operation writes. -/
def OpKind.writes : OpKind → Bool
  | .st | .atom _ | .cas => true
  | _ => false

/-- Whether an operation writes its registers when it completes (R58). -/
def OpKind.long : OpKind → Bool
  | .ld | .atom _ | .cas | .alu _ _ _ => true
  | _ => false

/-- An acquire (R64). -/
def ordAcq : MemOrd → Bool
  | .acq | .acqrel => true
  | _ => false

/-- A release (R64). -/
def ordRel : MemOrd → Bool
  | .rel | .acqrel => true
  | _ => false

/-- Whether operation `o` is po-before operation `n` of the same agent (R195). -/
def poBefore (o n : MemOp) : Bool := sameAgent o.who n.who && decide (o.id < n.id) && n.anc.contains o.pid

/-- Whether an operation is cache maintenance, which orders no other access (R226). -/
def OpKind.upkeep : OpKind → Bool
  | .cwb | .cinv => true
  | _ => false

/-- Whether preserved program order puts an earlier access before this one (R197). -/
def ppo (o : MemOp) (oa : Acc) (n : MemOp) (na : Acc) : Bool :=
  !o.kind.upkeep && !n.kind.upkeep && (oa.place.loc == na.place.loc || (o.kind.reads && n.kind.writes) || ordRel n.ord || ordAcq o.ord ||
  (o.pid == n.pid && (isDev oa.place || isDev na.place)))

/-- The 64-byte line that a lease covers. -/
def leaseLine : Place → Option Nat
  | .fab a 0 1 _ _ => some (a / 64 * 64)
  | .fab a 0 _ _ _ => if regionOf (fabOff a) = .vault then some (a / 64 * 64) else none
  | _ => none

/-- Whether an access to a place waits for a lease of its line to end: every request but an atomic of the requester's die (R178). -/
def leasedAway (s : State) (die : Nat) (p : Place) (atomic : Bool := false) : Bool :=
  match p with
  | .fab a _ _ _ _ | .vaultWin a => s.leases.any fun l => l.line == a / 64 * 64 && !(atomic && l.die == die)
  | _ => false

/-- Whether slot A's access to a location comes before a co-issued one of slot B (R196): operations of two paths of a group that
issued in one cycle. -/
def coBefore (o : MemOp) (n : MemOp) (a : Acc) : Bool :=
  sameAgent o.who n.who && o.since == n.since && decide (o.id < n.id) && o.pid != n.pid && (o.kind.writes || n.kind.writes) &&
    o.todo.any fun b => b.place.loc == a.place.loc

/-- Whether an access to another module has left and its answer is awaited (R325). -/
def sentFar (s : State) (o : MemOp) (a : Acc) : Bool := s.links.any fun t => t.acc == some (o.id, a.lane, a.va)

/-- The identifier below which a die's reads across a torn circuit to another die were outstanding when it went: their own circuit, or
a leg to or from the relay that carries them (R326). -/
def tornMark (s : State) (a b : Nat) : Nat :=
  match die? s a with
  | none => 0
  | some d => d.conn.foldl (fun m e =>
      if !connV e.2 && !connOpt e.2 && (joins a b e.2 || relayedOver d.conn a b (connSrc e.2) (connDst e.2)) then
        max m (sget 0 s.circuits (linkKey 2 0 e.1)) else m) 0

/-- Whether a transaction is a read that was outstanding on an optical circuit when it was torn down (R326). -/
def LinkTx.torn (s : State) (t : LinkTx) : Bool :=
  !t.req.write && t.req.rmw.isNone && t.circuit.any fun c => decide (t.tag < sget 0 s.circuits (linkKey 2 0 c))

/-- Whether a read was outstanding on a path that has failed: it completes with poison alone (R326). -/
def torn (s : State) (o : MemOp) (a : Acc) : Bool :=
  o.kind == .ld && a.place.home.any fun h => decide (o.id < tornMark s (placeOf s o.who).1 h)

/-- Whether the register that an aperture access names is pending in its group (R164). -/
def regPending (s : State) : Place → Bool
  | .reg g r _ => match grp? s g with
    | some x => x.allPaths.any fun p => p.wins.any fun w => w.vds.contains r
    | none => false
  | _ => false

/-- Whether the stage line of a place is absent (R189). -/
def placeAbsent (s : State) : Place → Bool
  | .scratch t c o => match team? s t with
    | some x => lineAbsent x c o
    | none => false
  | _ => false

/-- Whether an earlier store of the core to the line of a `cwb` is still to be performed (R226). -/
def lineBusy (s : State) (n : MemOp) (a : Acc) : Bool :=
  match n.kind with
  | .cwb | .cinv => s.ops.any fun o => decide (o.id < n.id) && o.kind.writes && placeOf s o.who == placeOf s n.who &&
      o.todo.any fun b => lineOf (placeAddr b.place) == lineOf (placeAddr a.place) && !isDev b.place
  | _ => false

/-- Whether an access may be performed now (R164, R178, R189, R196, R197, R226, R325, R328). -/
def canPerform (s : State) (n : MemOp) (a : Acc) : Bool :=
  (s.ops.all fun o => !poBefore o n || o.todo.all fun b => !ppo o b n a) &&
  (n.todo.all fun b => !(decide (b.lane < a.lane) && b.place.loc == a.place.loc)) &&
  (s.ops.all fun o => !coBefore o n a) && !sentFar s n a && !torn s n a && !homeSilent s (placeOf s n.who).1 a.place &&
  !leasedAway s (placeOf s n.who).1 a.place (n.kind.reads && n.kind.writes) && !placeAbsent s a.place && !lineBusy s n a &&
  !(n.kind.writes && regPending s a.place)

/-! ### Faults found at the home -/

/-- A record of a group's fault, in the fault queue of the queue that started its work (R271, R309, R341). -/
def groupRecord (s : State) (g : Group) (cause flags : Nat) (pc va aux : W64) : State :=
  match team? s g.team with
  | none => s
  | some t => match launch? s t.launch with
    | none => s
    | some l =>
      let r : Record := { source := 0, cause, flags, die := g.die, unit := g.core, pc, va, aux, seq := l.seq, gser := g.gser }
      if (queue? s l.die l.qid).isSome then writeRecord s l.die l.qid r
      else match lowestQueue s g.die l.pasid with
        | some q => writeRecord s g.die q r
        | none => s

/-- An imprecise cause of a group (R216, R244): it waits for the group's next boundary, or, if the group has exited, is
reported at once and marks the team FAULTED. -/
def noteLate (s : State) (gid pid : Nat) (pc : W64) (t : Trap) : State :=
  match grp? s gid with
  | none => s
  | some g =>
    if g.ended then modTeam (groupRecord s g t.cause.code 3 pc t.va t.aux) g.team fun x => { x with faulted := true }
    else modGrp s gid fun g => { g with late := g.late ++ [{ trap := t, pc, resume := pc, gid, pid }] }

/-! ### Accesses at their homes -/

/-- Whether a place is in HBM of a die of the module. -/
def isHbm : Place → Bool
  | .fab a mt _ _ _ => mt == 0 && decide (fabDie a < 12) && regionOf (fabOff a) == .hbm
  | _ => false

/-- The granule under which an access to HBM was checked (R182). -/
def placeGran : Place → Nat
  | .fab _ _ _ g _ => g
  | _ => 0

/-- What the decoder's finding does at an HBM unit (R180 to R183, R332), and whether its tag differs from the record. A frame
reformed since the access was checked has the wrong tag (R282); another valid word with the right tag passes unseen, its bytes
free values. A unit that is uncorrectable only for its failed pseudo-channel, and poisoned already, stays as it is. -/
def eccApply (s : State) (p : Place) (e : Ecc) : State × Bool :=
  if !isHbm p then (s, false)
  else if placeGran p ≠ granOf s (placeAddr p) then (s, true)
  else
    let a := placeAddr p
    let u := unitBytes s a
    let seen := fun (s : State) => logFlight s (fabDie a) 0x10 3 (hbmUnit a) 1 a
    match decodeUnit s a e with
    | .clean => (s, false)
    | .corrected => (seen s, false)
    | .uncorrectable => (if e = .clean ∧ sget false s.pois (a / 32) then s else spoilUnit s a, false)
    | .other tag poison =>
      if tag ≠ granOf s a then (s, true)
      else
        let (bs, s) := freeBytes s Config.freeByte poison u
        (seen (writeFab s (a / u * u) bs), false)

/-- Bytes of one access event: a b128 access is two events (R192). -/
def MemOp.bytes (o : MemOp) : Nat := min o.size 8

/-- Writing what an access read into its destination (R213, R215, R219). -/
def setDest (s : State) (o : MemOp) (a : Acc) (bs : List PByte) : State :=
  let v := ofBytes (bs.map fun b => b.1)
  let bad := bs.any fun b => b.2
  match o.dest, o.who with
  | .vec r, .grp gid _ => modGrp s gid fun g =>
      let r := if o.size = 16 ∧ a.va.toNat % 16 = 8 then r + 2 else r
      let g := wrVP g r a.lane (BitVec.ofNat 32 v) bad
      if o.size ≤ 4 then g else wrVP g (r + 1) a.lane (BitVec.ofNat 32 (v / 2 ^ 32)) bad
  | .scal d, e => modPath s e o.pid fun p => wrSP p d (BitVec.ofNat 64 v) bad
  | _, _ => s

/-- The lines of a die return to their home (R178). -/
def endLeasesOf (s : State) (die : Nat) : State :=
  let mine := (s.leases.filter fun l => l.die == die).map fun l => l.line
  { s with leases := s.leases.filter fun l => l.die != die,
           ops := s.ops.map fun o =>
             if (placeOf s o.who).1 = die then { o with leased := o.leased.filter fun l => !mine.contains l.1 } else o }

/-- The release of an agent of a die at a scope (R175, R178, R208). -/
def releaseBy (s : State) (die : Nat) (sc : Scope) : State :=
  if nearScope sc then s else endLeasesOf (releaseAt s die sc) die

/-- A load of one lane (R213 to R215, R218, R219). -/
def performLd (s : State) (o : MemOp) (a : Acc) (c : MemChoice) : State × Option Trap :=
  let (d, k) := placeOf s o.who
  if placeLost s d a.place then (s, some { cause := .homeLost, va := a.va })
  else
    let (s, bad) := eccApply s a.place c.ecc
    if bad then (s, some { cause := .granule, va := a.va })
    else
      let c := if k = 64 then { c with useL1 := false, fillL1 := false } else c
      let (bs, s) := readPlace s d k a.place o.bytes o.scope o.ch c
      let s := setDest s o a bs
      (if ordAcq o.ord then acquireAt s d k o.scope else s, none)

/-- A store of one lane (R213, R214, R216). -/
def performSt (s : State) (o : MemOp) (a : Acc) (c : MemChoice) : State × Option Trap :=
  let (d, k) := placeOf s o.who
  if placeLost s d a.place then (s, some { cause := .homeLost, va := a.va, aux := 1 })
  else
    let (s, bad) := eccApply s a.place c.ecc
    if bad then (s, some { cause := .granule, va := a.va, aux := 1 })
    else
      let s := if ordRel o.ord then releaseBy s d o.scope else s
      (writePlace s d k a.place (cleanBytes a.data) o.scope o.ch c, none)

/-- The new value of an atomic on n-bit operands (R220). -/
def atomNew (op : AtomOp) (n old x : Nat) : Nat :=
  let sg := fun (v : Nat) => if v < 2 ^ (n - 1) then (v : Int) else (v : Int) - (2 ^ n : Nat)
  match op with
  | .exch => x
  | .add => (old + x) % 2 ^ n
  | .and => Nat.land old x
  | .or => Nat.lor old x
  | .xor => Nat.xor old x
  | .smin => if sg old ≤ sg x then old else x
  | .smax => if sg x ≤ sg old then old else x
  | .umin => min old x
  | .umax => max old x

/-- An atomic of one lane: one indivisible read and write (R202, R215, R220, R221); `f` gives the new value, none for a
comparison that fails. A lease keeps the line's value before it; every atomic of the die on a leased line waits for the line's return
before it is acknowledged (R178). -/
def performRmw (s : State) (o : MemOp) (a : Acc) (c : MemChoice) (f : Nat → Option Nat) : State × Option Trap :=
  let (d, k) := placeOf s o.who
  if placeLost s d a.place then (s, some { cause := .homeLost, va := a.va, aux := 1 })
  else
    let (s, bad) := eccApply s a.place c.ecc
    if bad then (s, some { cause := .granule, va := a.va, aux := 1 })
    else
      let c := { c with useL1 := false, fillL1 := false }
      let s := if ordRel o.ord then releaseBy s d o.scope else s
      let (bs, s) := readPlace s d k a.place o.size o.scope o.ch c
      if bs.any fun b => b.2 then (s, some { cause := .poison, va := a.va })
      else
        let old := ofBytes (bs.map fun b => b.1)
        let s := match leaseLine a.place with
          | some l =>
            let s := if c.lease && o.scope == .pkg && !s.leases.any (fun x => x.line == l) then
                { s with leases := { line := l, die := d, since := s.now, old := sgetN 0 s.mem l 64, repl := placeRepl a.place } :: s.leases }
              else s
            if s.leases.any fun x => x.line == l && x.die == d then
              { s with ops := modWhere s.ops (fun x => x.id == o.id) fun x => { x with leased := (l, a.va, placeRepl a.place) :: x.leased } }
            else s
          | none => s
        let s := match f old with
          | some v => writePlace s d k a.place (cleanBytes (toBytes o.size v)) o.scope o.ch c
          | none => s
        let s := setDest s o a bs
        (if ordAcq o.ord then acquireAt s d k o.scope else s, none)

/-- `cwb` of one line (R226). -/
def performCwb (s : State) (o : MemOp) (a : Acc) : State :=
  let (d, _) := placeOf s o.who
  if nearScope o.scope || !remotable d a.place then s
  else
    let l := lineOf (placeAddr a.place)
    let s := (s.remote.filter fun x => x.isAt d l).foldl writeBackLine s
    { s with remote := modWhere s.remote (fun x => x.isAt d l) fun x => { x with dirty := [] } }

/-- `cinv` of one 128-byte line, which is two lines of 64 bytes in the host's memory (R193, R226). -/
def performCinv (s : State) (o : MemOp) (a : Acc) : State :=
  let (d, k) := placeOf s o.who
  let s := { s with l1 := s.l1.filter fun x => !(x.die == d && x.core == k && x.addr == lineOf (placeAddr a.place) && isHbm a.place) }
  let s := match hostLine? a.place with
    | some l => if o.scope = .sys then { s with hostCache := s.hostCache.filter fun x => x / 2 != l / 2 } else s
    | none => s
  if nearScope o.scope || !remotable d a.place then s else flushRemote s d (placeAddr a.place)

/-- One access is performed; the trap it meets, if any. -/
def performAcc (s : State) (o : MemOp) (a : Acc) (c : MemChoice) : State × Option Trap :=
  match o.kind with
  | .ld => performLd s o a c
  | .st => performSt s o a c
  | .atom op => performRmw s o a c fun old => some (atomNew op (8 * o.size) old (ofBytes a.data))
  | .cas => performRmw s o a c fun old => if old = ofBytes a.cmp then some (ofBytes a.data) else none
  | .cwb => (performCwb s o a, none)
  | .cinv => (performCinv s o a, none)
  | .alu _ _ _ => (s, none)

/-! ### Completion -/

/-- Whether an operation that reads or writes memory has nothing left to do. -/
def MemOp.isDone (o : MemOp) : Bool :=
  o.todo.isEmpty && o.leased.isEmpty && match o.kind with
    | .alu _ _ _ => false
    | _ => true

/-- What its path sees when an operation completes: its window closes and a wait for a line ends (R58, R189). -/
def closeOp (s : State) (o : MemOp) : State :=
  modPath s o.who o.pid fun p =>
    { p with wins := p.wins.filter fun w => w.op != o.id, wait := if p.wait = .line o.id then .run else p.wait }

/-- Completing every operation that is done. -/
def finishOps (s : State) : State :=
  let done := s.ops.filter MemOp.isDone
  done.foldl closeOp { s with ops := s.ops.filter fun o => !o.isDone }

/-- Writing the vector results of a long-latency instruction (R58). -/
def aluVec (g : Group) (wv : List (Nat × W32)) : Group := wv.foldl (fun g e => wrV g (e.1 / 64) (e.1 % 64) e.2) g

/-- A long-latency instruction that reads no memory completes (R58). -/
def finishAlu (s : State) (o : MemOp) (wv : List (Nat × W32)) (ws : List (Nat × W64)) (flags : W64) : State :=
  let s := match o.who with
    | .grp gid _ => modGrp s gid fun g => { aluVec g wv with fpfl := g.fpfl ||| flags }
    | _ => s
  let s := modPath s o.who o.pid fun p => ws.foldl (fun p e => wrS p e.1 e.2) p
  closeOp { s with ops := s.ops.filter fun x => x.id != o.id } o

/-- The accesses of a lane that an event performs: of the two halves of a b128 access both, or the one asked for (R192). -/
def laneAccs (o : MemOp) (c : MemChoice) (lane : Nat) : List Acc :=
  match o.todo.filter fun a => a.lane == lane with
  | a :: b :: _ => match c.both, c.high with
    | true, true => [b, a]
    | true, false => [a, b]
    | false, true => [b]
    | false, false => [a]
  | l => l

/-- What an access to another module carries there (R177, R325). -/
def farReq (o : MemOp) (a : Acc) (addr : Nat) : LinkReq :=
  match o.kind with
  | .st => { write := true, addr, data := a.data, len := a.data.length }
  | .atom op => { write := false, addr, data := a.data, len := o.size, rmw := some (.atom op) }
  | .cas => { write := false, addr, data := a.data, len := o.size, rmw := some (.cas a.cmp) }
  | _ => { write := false, addr, data := [], len := o.bytes }

/-- Whether an access leaves the module: its home performs it, and the acknowledgement completes it (R177, R325). -/
def leaves (o : MemOp) (a : Acc) : Option Nat :=
  match a.place with
  | .far _ addr _ _ => if o.kind.reads || o.kind.writes then some addr else none
  | _ => none

/-- What a store wrote is noted, so that a unit which its accesses cover together is known to be wholly written (R215). -/
def noteDone (s : State) (o : MemOp) (a : Acc) : State :=
  if o.kind = .st then
    { s with ops := modWhere s.ops (fun x => x.id == o.id) fun x => { x with done := (a.place, a.data.length) :: x.done } }
  else s

/-- An access of an operation is done. -/
def accDone (s : State) (o : MemOp) (a : Acc) : State :=
  { s with ops := modWhere s.ops (fun x => x.id == o.id) fun x => { x with todo := x.todo.filter (fun b => b != a), begun := true } }

/-- Performing accesses of an operation, or sending them to their module; the first precise cause met. The decoder's finding is that of
the first access performed. The lanes of an atomic that are performed before one that meets poison keep their effect (log entry 68). -/
def performAll (id : Nat) (c : MemChoice) : List Acc → State → State × Option (MemOp × Trap)
  | [], s => (s, none)
  | a :: as, s =>
    match s.ops.find? fun o => o.id == id with
    | none => (s, none)
    | some o =>
      if !canPerform s o a then performAll id c as s
      else match leaves o a with
        | some addr =>
          let (d, _) := placeOf s o.who
          let s := if ordRel o.ord then releaseBy s d o.scope else s
          performAll id c as (sendTx s d (farReq o a addr) (some (o.id, a.lane, a.va)))
        | none =>
          let (s, t) := performAcc s o a c
          let c := { c with ecc := .clean }
          match t with
          | none => performAll id c as (accDone (noteDone s o a) o a)
          | some t =>
            let s := accDone s o a
            match o.who with
            | .grp gid _ =>
              if t.aux = 1 then performAll id c as (noteLate s gid o.pid o.pc t) else (s, some (o, t))
            | _ => (s, some (o, t))

/-- A cause that a halted operation's access meets is the group's, as the imprecise cause of a store or atomic (R216, R309). -/
def noteForced (s : State) (o : MemOp) (t : Trap) : State :=
  match o.who with
  | .grp gid _ => noteLate s gid o.pid o.pc t
  | _ => s

/-- Performing an access of an operation that a halt completes (R309); a removal is `quiet`, and notes no cause (R313, R344). -/
def forceAcc (o : MemOp) (c : MemChoice) (quiet : Bool) (s : State) (a : Acc) : State :=
  match leaves o a with
  | some addr => if sentFar s o a then s else sendTx s (placeOf s o.who).1 (farReq o a addr) none
  | none =>
    let (s, t) := performAcc (returnPlace s a.place o.size) o a c
    match t with
    | some t => if quiet then s else noteForced s o t
    | none => s

/-- Performing the accesses of some lanes of an operation; the first precise cause met. A unit that the accesses of a store cover
wholly is clear of poison once the last of them is performed (R183, R215; log entry 68). -/
def performLanes (id : Nat) (c : MemChoice) (lanes : List Nat) (s : State) : State × Option (MemOp × Trap) :=
  match s.ops.find? fun o => o.id == id with
  | none => (s, none)
  | some o =>
    let (s, t) := performAll id c (lanes.flatMap (laneAccs o c)) s
    let all := ((s.ops.find? fun o => o.id == id).map fun o => o.done).getD []
    (clearWhole s (placeOf s o.who).1 all (all.take (all.length - o.done.length)), t)

end Sys2Proof.Machine
end

