-- ==== Sys2Proof/Machine/Bulk.lean ====
section
/-! DEFINITION. The bulk engine: the ring lines a copy makes absent, its source and its landing (R185, R189, R205, R215,
R223, R224). -/
namespace Sys2Proof.Machine

/-- The choice that keeps no copy and finds no error. -/
def plainChoice : MemChoice :=
  { useL1 := false, fillL1 := false, useRemote := true, fillRemote := false, lease := false, ecc := .clean, high := false }

/-- The ring lines that a range of a scratchpad touches: ring, stage and line. -/
def ringLines (t : Team) (core off n : Nat) : List (Nat × Nat × Nat) :=
  (((List.range (n / 256 + 1)).map fun i => off + 256 * i) ++ [off + n - 1]).filterMap (fun o =>
    if o < off + n then ringAt t core o else none) |>.dedup

/-- Bytes landed by a chunk: 256, or what is left. -/
def chunkLen (count i : Nat) : Nat := min 256 (count - 256 * i)

/-- Making the lines of a range absent (R189). -/
def markAbsent (s : State) (team core off n : Nat) : State :=
  modTeam s team fun t => (ringLines t core off n).foldl (fun t r =>
    modStage t r.1 r.2.1 fun st => { st with absent := (r.2.2 :: st.absent).dedup }) t

/-- Whether an outstanding bulk operation that still has bytes to land writes a line (R189, R207). -/
def lineAwaited (s : State) (team : Nat) (t : Team) (r : Nat × Nat × Nat) : Bool :=
  s.bulks.any fun b => !b.todo.isEmpty && b.dests.any fun d => d.1 == team && (ringLines t d.2.1 d.2.2 b.count).contains r

/-- Making present the lines of a range that nothing lands in any more (R189). -/
def markPresent (s : State) (team core off n : Nat) : State :=
  match team? s team with
  | none => s
  | some t =>
    let free := (ringLines t core off n).filter fun r => !lineAwaited s team t r
    modTeam s team fun t => free.foldl (fun t r =>
      modStage t r.1 r.2.1 fun st => { st with absent := st.absent.filter fun l => l != r.2.2 }) t

/-- The place of the 16 source bytes at an offset. -/
def spanPlace (src : List Span) (off : Nat) : Option Place :=
  (src.find? fun p => decide (p.off ≤ off) && decide (off < p.off + p.len)).map fun p => p.place.add (off - p.off)

/-- Reading source bytes in units of 16: a lost or fenced home gives poison (R183, R326). With CH = bypass L1 the copies in the L1 of
the issuing core are invalidated (R169). -/
def readSource (s : State) (die core : Nat) (ch : BitVec 2) (src : List Span) (off : Nat) : Nat → List PByte × State
  | 0 => ([], s)
  | n + 1 =>
    let (l, s) := readSource s die core ch src off n
    match spanPlace src (off + 16 * n) with
    | none => (l, s)
    | some p =>
      let (b, s) := if placeLost s die p then freeBytes s Config.poisonByte true 16
        else
          let s := if ch = 3 ∧ l1able p then dropL1 s die core (placeAddr p) else s
          readPlace (returnPlace s p 16) die 64 p 16 .weak ch plainChoice
      (l ++ b, s)

/-- Whether a path's earlier writes to the `n` source bytes from `off` on are performed, and its earlier acquires, by which it observes
the writes of others (R205). -/
def writesDone (s : State) (gid : Nat) (anc : List Nat) (src : List Span) (off n : Nat) : Bool :=
  s.ops.all fun o => o.who.gid? != some gid || !anc.contains o.pid || o.todo.all fun a =>
    !ordAcq o.ord && !(o.kind.writes && (List.range (n / 8)).any fun k =>
      match spanPlace src (off + 8 * k) with
      | some p => p.loc == a.place.loc
      | none => false)

/-- The memory units of `n` source bytes, each by the offset and place at which it begins to be read (R180). -/
def sourceUnits (s : State) (src : List Span) (off n : Nat) : List (Nat × Place) :=
  (List.range (n / 16)).filterMap fun k => (spanPlace src (off + 16 * k)).bind fun p =>
    if k = 0 ∨ placeAddr p % unitBytes s (placeAddr p) = 0 then some (off + 16 * k, p) else none

/-- The decoder's findings at the units of a source, of which the event's is that of unit `k`; the offset of a unit whose tag is wrong
(R180, R182). -/
def decodeSource (e : Ecc) : Nat → List (Nat × Place) → State → State × Option Nat
  | _, [], s => (s, none)
  | k, (off, p) :: rest, s =>
    let (s, wrong) := eccApply s p (if k = 0 then e else .clean)
    if wrong then (s, some off) else decodeSource (if k = 0 then .clean else e) (k - 1) rest s

/-- The source bytes that the landing of a chunk reads: those of the chunk, or all of them at the one read of `ldm` (R185). -/
def chunkReads (b : BulkOp) (i : Nat) : Nat × Nat :=
  if b.buf.isSome then (0, 0) else if b.multi then (0, b.count) else (256 * i, chunkLen b.count i)

/-- Whether a bulk copy's reads from a place were outstanding on a path that has failed: they complete with poison alone (R326). -/
def sourceTorn (s : State) (b : BulkOp) (die : Nat) (p : Place) : Bool := p.home.any fun h => decide (b.id < tornMark s die h)

/-- Whether a chunk's source may be read: the earlier writes of the path to it are performed (R205), and its home answers (R328).
The one read of `ldm` takes the whole source (R185). -/
def sourceReady (s : State) (b : BulkOp) (die i : Nat) : Bool :=
  let old := { s with ops := s.ops.filter fun o => decide (o.id < b.id) }
  (match b.multi, b.buf with
   | true, some _ => true
   | true, none => writesDone old b.gid b.anc b.src 0 b.count
   | false, _ => writesDone old b.gid b.anc b.src (256 * i) (chunkLen b.count i)) &&
  (b.src.all fun p => !homeSilent s die p.place) &&
  let r := chunkReads b i
  (List.range (r.2 / 16)).all fun k => !(spanPlace b.src (r.1 + 16 * k)).any (sourceTorn s b die)

/-- A chunk is no longer to land; with the last one the copy's ring lines are present (R189, R207). -/
def chunkDone (s : State) (b : BulkOp) (i : Nat) : State :=
  let b := { b with todo := b.todo.filter fun k => k != i }
  let s := { s with bulks := modWhere s.bulks (fun x => x.id == b.id) fun _ => b }
  if b.todo.isEmpty then b.dests.foldl (fun s d => markPresent s d.1 d.2.1 d.2.2 b.count) s else s

/-- The sectors at a destination of which a chunk writes a half with clean data: destinations are aligned to 16 bytes (R223). -/
def halfSectors (bytes : List PByte) (start : Nat) (d : Nat × Nat × Nat) : List (Nat × Nat × Nat) :=
  let o := d.2.2 + start
  let clean := fun (l : List PByte) => !l.any fun b => b.2
  (if o % 32 = 16 ∧ clean (bytes.take 16) then [(d.1, d.2.1, o / 32)] else []) ++
  (if (o + bytes.length) % 32 = 16 ∧ clean (bytes.drop (bytes.length - 16)) then [(d.1, d.2.1, (o + bytes.length) / 32)] else [])

/-- Sectors both of whose halves a bulk copy has written with clean data are clear (R215). -/
def clearHalves (s : State) (l : List (Nat × Nat × Nat)) : State :=
  l.foldl (fun s h => modTeam s h.1 fun t => { t with spois := sset false t.spois (scrKey h.2.1 (32 * h.2.2) / 32) false }) s

/-- The bytes of one chunk land in every destination (R185, R215). -/
def landBytes (s : State) (b : BulkOp) (i : Nat) (bytes : List PByte) : State :=
  let s := b.dests.foldl (fun s d => writeScratch s d.1 d.2.1 (d.2.2 + 256 * i) bytes) s
  let before := ((s.bulks.find? fun x => x.id == b.id).map fun x => x.half).getD []
  let now := b.dests.flatMap (halfSectors bytes (256 * i))
  let whole := now.filter fun h => before.contains h
  chunkDone (clearHalves s whole) { b with half := before ++ now.filter fun h => !whole.contains h } i

/-- The PASID under which a bulk copy's source was translated. -/
def bulkPasid (s : State) (b : BulkOp) : Nat := ((grp? s b.gid).map fun g => groupPasid s g).getD 0

/-- One chunk is read and lands (R223, R224). -/
def landChunk (s : State) (b : BulkOp) (die core i : Nat) : State :=
  let n := chunkLen b.count i
  let pasid := bulkPasid s b
  let (s, b) := match b.multi, b.buf with
    | true, none =>
      let r := readSource s die core b.ch b.src 0 (b.count / 16)
      (ownTx s.freshId (.bulk b.gid) pasid b.sva b.count r.2, { b with buf := some r.1 })
    | _, _ => (s, b)
  let (bytes, s) := match b.buf with
    | some l => ((l.drop (256 * i)).take n, s)
    | none =>
      let r := readSource s die core b.ch b.src (256 * i) (n / 16)
      (r.1, ownTx s.freshId (.bulk b.gid) pasid (b.sva + BitVec.ofNat 64 (256 * i)) n r.2)
  landBytes s b i bytes

/-- Paths parked on an absent line go on when every line their operation reads is present (R189). -/
def wakeLines (s : State) : State :=
  { s with groups := s.groups.map fun g => g.allPaths.foldl (fun (g : Group) p =>
      match p.wait with
      | .line id =>
        if s.ops.any fun o => o.id == id && o.todo.any fun a => placeAbsent s a.place then g
        else g.modPid p.pid fun p => { p with wait := .run }
      | .absent pl => if placeAbsent s pl then g else g.modPid p.pid fun p => { p with wait := .run }
      | _ => g) g }

/-- Bulk operations whose last byte has landed end (R217). -/
def finishBulks (s : State) : State := wakeLines { s with bulks := s.bulks.filter fun b => !b.todo.isEmpty }

end Sys2Proof.Machine
end

