-- ==== Sys2Proof/Machine/Traps.lean ====
section
/-! DEFINITION. Traps: their classes (R303), entry into a handler (R304 to R307) and the return from one (R283, R308), group
kills (R310), team halts (R309) and the stop of a Q or C program (R67, R270). -/
namespace Sys2Proof.Machine

/-- The recoverable causes (R303). -/
def Cause.recoverable : Cause → Bool
  | .pageFault | .firstTouch | .prot | .overlayMiss | .retired | .trap | .matrixFault | .brk => true
  | _ => false

/-- The secure log gets the details that a record leaves out (R159, R358). -/
def logSecure (s : State) (die : Nat) (t : Trap) : State :=
  if t.sec then modDie s die fun d => { d with secLog := d.secLog ++ [(t.cause.code, t.va)] } else s

/-! ### Ends of groups and teams -/

/-- What a group raised before its team stopped (R309): its cause, address and value, the PC and the flags of the record. -/
structure Raised where
  gid   : Nat
  code  : Nat
  pc    : W64
  va    : W64
  aux   : W64
  flags : Nat := 0

/-- The next word of a slot, for a HALT record (R309). -/
def slotPc : Option Path → W64
  | some p => p.pc
  | none => 0

/-- Whether an operation belongs to a group of a team. -/
def opOfTeam (s : State) (tid : Nat) (o : MemOp) : Bool :=
  match o.who with
  | .grp g _ => match grp? s g with
    | some x => x.team == tid
    | none => false
  | _ => false

/-- Landing one chunk of the bulk operation with an identifier. -/
def landOf (id : Nat) (s : State) (i : Nat) : State :=
  match s.bulks.find? (fun b => b.id == id) with
  | none => s
  | some b => match grp? s b.gid with
    | some g => landChunk s b g.die g.core i
    | none => s

/-- A halted team's outstanding operations: each is performed whole or not at all, and one of which part is performed is
completed (R309; log entry 5); `quiet` when the team is removed with no record (R313, R344). -/
def haltOps (s : State) (tid : Nat) (quiet : Bool := false) : State :=
  let s := (s.ops.filter (opOfTeam s tid)).foldl (fun s o =>
    let (n, s) := draw s
    let s := if o.begun || Config.haltPerforms n then o.todo.foldl (forceAcc o plainChoice quiet) s else s
    { s with ops := s.ops.filter fun x => x.id != o.id }) s
  let mine := s.bulks.filter fun b => match grp? s b.gid with
    | some x => x.team == tid
    | none => false
  mine.foldl (fun s b =>
    let (n, s) := draw s
    let s := if decide (b.todo.length < (b.count + 255) / 256) || Config.haltPerforms n then b.todo.foldl (landOf b.id) s else s
    finishBulks { s with bulks := s.bulks.filter fun x => x.id != b.id }) s

/-- The streams without the operations of a group. -/
def dropOps (gid : Nat) (m : SMap (List MatOp)) : SMap (List MatOp) :=
  m.filterMap fun e => match e.2.filter (fun o => o.gid != gid) with
    | [] => none
    | l => some (e.1, l)

/-- The matrix operations of a group are discarded (R244, R310). -/
def dropMatrix (s : State) (gid : Nat) : State :=
  { s with cores := s.cores.map fun c => { c with strm := dropOps gid c.strm } }

/-- The page requests of groups that go stay outstanding until their responses, on behalf of no group (R335). -/
def orphanPris (s : State) (gids : List Nat) : List PriReq := s.pris.map fun p => if gids.contains p.gid then { p with gid := 0, pid := 0 } else p

/-- A team's groups, reservations, binding, barrier set and requests go (R26, R309). -/
def dropTeam (s : State) (tid : Nat) : State :=
  let mine := (s.groups.filter fun g => g.team == tid).map fun g => g.gid
  let s := mine.foldl dropMatrix s
  { s with teams := s.teams.filter fun t => t.tid != tid, groups := s.groups.filter fun g => g.team != tid,
           ops := s.ops.filter fun o => match o.who with
             | .grp g _ => !mine.contains g
             | _ => true,
           bulks := s.bulks.filter fun b => !mine.contains b.gid,
           waiters := s.waiters.filter fun w => w.1 != tid,
           ats := s.ats.filter fun a => a.use.isWalker || !(a.who.gid?.any fun g => mine.contains g),
           pris := orphanPris s mine,
           cores := s.cores.map fun c =>
             { c with bind := if c.bind = some tid then none else c.bind,
                      tiles := if c.bind = some tid then [] else c.tiles,
                      missQ := c.missQ.filter fun m => !mine.contains m.gid } }

/-- A team-fatal halt (R309): the records, the discarded work, the released team, and its grid (R311). A group whose imprecise cause
still waits for its boundary, or was met by an operation that the halt completed, records that cause. -/
def haltTeam (s : State) (tid : Nat) (raised : List Raised) : State :=
  match team? s tid with
  | none => s
  | some t =>
    let s := haltOps s tid
    let gs := s.groups.filter fun g => g.team == tid && !g.ended
    let s := gs.foldl (fun s g => match raised.find? (fun r => r.gid == g.gid) with
      | some r => groupRecord s g r.code r.flags r.pc r.va r.aux
      | none => match g.late with
        | l :: _ => groupRecord s g l.trap.cause.code (if l.trap.aux.getLsbD 0 then 2 else 0) l.pc l.trap.va l.trap.aux
        | [] => groupRecord s g 0x33 0 (slotPc g.stack.a) (slotPc g.stack.b) 0) s
    let s := dropTeam s tid
    gridEnd (modLaunch s t.launch fun l => { l with faulted := true, ended := l.ended + 1 }) t.launch

/-- A group kill (R310): its paths end, its matrix operations go, the record is written and the team is marked. -/
def killGroup (s : State) (g : Group) (pc va : W64) : State :=
  let s := groupRecord s g 0x20 0 pc va 0
  let s := g.late.foldl (fun s l => groupRecord s g l.trap.cause.code 3 l.pc l.trap.va l.trap.aux) s
  let s := dropMatrix s g.gid
  let s := { s with waiters := s.waiters.filter fun w => w.2.2.2.1 != g.gid,
                    cores := s.cores.map fun c => { c with missQ := c.missQ.filter fun m => m.gid != g.gid } }
  let s := modGrp s g.gid fun g =>
    { g with exited := fullMask g.width, stack := { a := none, b := none, rest := [] }, frames := [], late := [], mfault := [] }
  modTeam s g.team fun t => { t with faulted := true, killed := (g.gid :: t.killed).dedup }

/-! ### Handler frames and entry -/

/-- The handler frames in use on a core (R306). -/
def framesUsed (s : State) (die core : Nat) : List Nat :=
  (s.groups.filter fun g => g.die == die && g.core == core).flatMap fun g => g.frames.map fun f => f.num

/-- The frame that an entry to a level takes: the lowest free one, frames 1 to 7 first at level 2 (R306). -/
def freeFrame (s : State) (g : Group) : Option Nat :=
  let used := framesUsed s g.die g.core
  let first := if g.frames = [] then 8 else 1
  ((List.range 64).filter fun n => decide (first ≤ n) && !used.contains n).head?

/-- Whether a group has long-latency results to come (R59, R305). -/
def longPending (s : State) (gid : Nat) : Bool :=
  s.ops.any fun o => o.kind.long && match o.who with
    | .grp g _ => g == gid
    | _ => false

/-- The first resume point of a cause (R303). -/
def resumeOf (t : Trap) (pc : W64) : W64 :=
  match t.cause with
  | .overlayMiss => t.va
  | .retired | .trap | .brk => pc + 8
  | _ => pc

/-- The access of a read of the handler table or of a handler's header (R304). -/
def tableKind (s : State) (g : Group) (pasid : Nat) (fetch : Bool) : AccKind :=
  { devKind s pasid false 8 with user := false, fetch, secure := s.secure.contains (.core g.die g.core) }

/-- The first header of an instruction frame, as the number of its word (R302). -/
def firstHeader (c : Core) (f : Nat) : Option Nat :=
  (List.range 2048).find? fun i => (headerOf (sget 0 c.imem (f * 2048 + i))).isSome

/-- What the handler table gives a cause (R304, R365): a header, no handler, DOUBLE_FAULT with its values, an address whose translation
the host gives first (R160), or nothing yet, since the table's home no longer answers (R327). -/
inductive HandlerEntry
  | header (h : W64)
  | none
  | double (aux : Nat) (va : W64)
  | ats (va : W64)
  | silent

/-- What a read of handler entry comes to that has no place (R160, R304, R365). -/
def readFailed (va : W64) : XFail → HandlerEntry
  | .trap t => .double t.cause.code va
  | .ats => .ats va
  | .silent => .silent

/-- A word read of handler entry, with the checks of R162 (R304): its canonical form, its alignment, the place, poison. -/
def tableRead (s : State) (g : Group) (pasid : Nat) (va : W64) (fetch : Bool) : Except HandlerEntry (W64 × State) :=
  match halfCheck va false false with
  | some t => .error (readFailed va (.trap t))
  | none =>
    if va.toNat % 8 ≠ 0 then .error (.double Cause.misalign.code va)
    else match agentRead s g.die pasid va 8 (tableKind s g pasid fetch) with
      | .error f => .error (readFailed va f)
      | .ok (bs, s) =>
        if bs.any fun b => b.2 then .error (.double Cause.poison.code va)
        else .ok (BitVec.ofNat 64 (ofBytes (bs.map fun b => b.1)), s)

/-- Looking up the handler of a cause (R302, R304). -/
def handlerOf (s : State) (g : Group) (pasid : Nat) (t : Trap) : HandlerEntry × State :=
  if t.cause = .overlayMiss then
    match core? s g.die g.core with
    | none => (.double 0x13 t.va, s)
    | some c => match sget none c.tags 0 with
      | some tag =>
        let h := BitVec.ofNat 64 (tag.base + tag.ovl * 16384)
        match firstHeader c 0 with
        | some i => (.header (h + BitVec.ofNat 64 (8 * i)), s)
        | none => (.double 0x13 h, s)
      | none => (.double 0x13 t.va, s)
  else
    let ea := g.htb + BitVec.ofNat 64 (8 * (t.cause.code - 0x10))
    match tableRead s g pasid ea false with
    | .error e => (e, s)
    | .ok (h, s) =>
      if h = 0 then (.none, s)
      else match tableRead s g pasid h true with
        | .error e => (e, s)
        | .ok (_, s) => match codeWord s g.die g.core pasid h with
          | none => (.double 0x13 h, s)
          | some w => match headerOf w with
            | some _ => (.header h, s)
            | none => (.double t.cause.code h, s)

/-- Entering the next handler level at a header (R305): the frame keeps the stack and the trap registers, and one path
starts with the lanes that raised the cause. -/
def enterAt (s : State) (g : Group) (p : Path) (t : Trap) (pc resume h : W64) (num : Nat) : State :=
  let (pid, s) := fresh s
  let lanes := t.lanes.getD p.mask
  let saved := g.stack.modPid p.pid fun p =>
    { p with pend := none, wait := (if p.wait = .trapping then .run else p.wait), denied := [], full := false, began := false }
  let f : Frame := { num, saved, old := g.regs, pid := p.pid, cause := t.cause.code, pc, resume, entry := h, lanes, v := [], vpois := [] }
  let view := p.view.filter fun e => decide (e.1 < g.sbud)
  let q := { newPath pid h lanes (clk s g.die) with start := false, view, spois := p.spois, anc := pid :: p.anc }
  modGrp s g.gid fun g =>
    { g with frames := f :: g.frames, stack := { a := some q, b := none, rest := [] },
             regs := { trapc := BitVec.ofNat 64 t.cause.code, trappc := pc, trapmask := lanes, trapva := t.va, trapaux := t.aux } }

/-- A cause that ends a group's team (R309). -/
def fatal (s : State) (g : Group) (t : Trap) (pc : W64) : State :=
  haltTeam s g.team [{ gid := g.gid, code := t.cause.code, pc, va := t.va, aux := t.aux }]

/-- Delivering the oldest imprecise cause of a group at an instruction boundary (R216, R244): its team is halted. -/
def deliverLate (s : State) (g : Group) : State :=
  match g.late with
  | [] => s
  | l :: _ => haltTeam (logSecure s g.die l.trap) g.team
      [{ gid := g.gid, code := l.trap.cause.code, pc := l.pc, va := l.trap.va, aux := l.trap.aux, flags := 2 }]

/-- DOUBLE_FAULT with the values of R365; one that an exited group has left behind is reported with EXITED (R216, R309). -/
def doubleFault (s : State) (g : Group) (pc : W64) (aux : Nat) (va : W64) : State :=
  let s := if g.ended then groupRecord s g 0x23 1 pc va (BitVec.ofNat 64 (aux % 256)) else s
  haltTeam s g.team [{ gid := g.gid, code := 0x23, pc, va, aux := BitVec.ofNat 64 (aux % 256) }]

/-- Taking a recoverable trap (R305 to R307); `none` while it waits for a frame or for pending results. -/
def tryEnter (s : State) (g : Group) (p : Path) (t : Trap) (pc resume : W64) : Option State :=
  if 2 ≤ g.frames.length then some (doubleFault s g pc t.cause.code t.va)
  else if longPending s g.gid then none
  else match freeFrame s g with
    | none => none
    | some n => match handlerOf s g (groupPasid s g) t with
      | (.header h, s) => some (enterAt s g p t pc resume h n)
      | (.none, s) => some (fatal s g t pc)
      | (.double aux va, s) => some (doubleFault s g pc aux va)
      | (.ats _, _) | (.silent, _) => none

/-- An entry that waits for a translation of its table or header asks the host for it, once (R160, R288, R304). -/
def askHandler (s : State) (g : Group) (p : Path) (t : Trap) : State :=
  if 2 ≤ g.frames.length || longPending s g.gid || (freeFrame s g).isNone ||
      s.ats.any (fun r => r.use == .access && r.who.gid? == some g.gid && r.pid == p.pid) then s
  else match (handlerOf s g (groupPasid s g) t).1 with
    | .ats va =>
      let pasid := groupPasid s g
      let (id, s) := fresh s
      let r : AtsReq := { id, fn := fnOf s pasid, pasid, va, write := false, die := g.die, who := .grp g.gid 0, pid := p.pid, use := .access,
                          since := s.now }
      emit { s with ats := s.ats ++ [r] } (.atsRequest id r.fn pasid va false)
    | _ => s

/-- A recoverable cause of a group's path: it is taken at once, or the path waits without parking (R306). A path that
another path's handler keeps parked (R36) takes it after that handler. -/
def raiseRecoverable (s : State) (g : Group) (p : Path) (t : Trap) (pc resume : W64) : State :=
  match (if g.stack.paths.any fun q => q.pid == p.pid then tryEnter s g p t pc resume else none) with
  | some s => s
  | none => modGrp (askHandler s g p t) g.gid fun g => g.modPid p.pid fun p =>
      { p with wait := .trapping, pend := some { trap := t, pc, resume, gid := g.gid, pid := p.pid }, denied := [], full := false }

/-- A cause of a group that is not the walker, by its class (R303, R307). -/
def raiseTeam (s : State) (g : Group) (p : Path) (t : Trap) (pc : W64) : State :=
  let s := logSecure s g.die t
  if t.cause.recoverable then raiseRecoverable s g p t pc (resumeOf t pc)
  else if t.cause = .poison then killGroup s g pc t.va
  else fatal s g t pc

/-! ### Stopped matrix streams -/

/-- OP of MRPn (R245). -/
def mrpOp : MatKind → Nat
  | .mma _ _ _ => 1
  | .mloop _ _ _ => 2
  | .mst _ _ _ _ _ => 3
  | _ => 0

/-- MRPn of a stop (R245): SRC = 6 holds STEP and ROW 0. Every other stop holds the row that the operation has come to, which for a B
segment or a B scale is not 0 where a handler has moved ROW (log entry 82). -/
def mrpWord (o : MatOp) (src : Nat) : W64 :=
  let (st, row) := if src = 6 then (0, 0) else (o.step, o.row)
  BitVec.ofNat 64 (2 ^ 63 + mrpOp o.kind * 2 ^ 56 + st % 2 ^ 24 * 2 ^ 32 + row % 64 * 2 ^ 8 + src)

/-- Changing the operation at the head of a stream. -/
def modHead (s : State) (die core k : Nat) (f : MatOp → MatOp) : State :=
  modCore s die core fun c => { c with strm := sset [] c.strm k ((sget [] c.strm k).modifyHead f) }

/-- A stream's operations of a group are discarded, and its team retires marked FAULTED (R244, R247). -/
def discardStream (s : State) (die core k gid team : Nat) : State :=
  modTeam (modCore s die core fun c => { c with strm := sset [] c.strm k ((sget [] c.strm k).filter fun o => o.gid != gid) }) team
    fun t => { t with faulted := true }

/-- Inserting a stopped stream's fault, lowest stream first (R247). -/
def insertFault (k : Nat) (va aux : W64) (l : List (Nat × W64 × W64)) : List (Nat × W64 × W64) :=
  l.filter (fun e => decide (e.1 < k)) ++ (k, va, aux) :: l.filter fun e => decide (k < e.1)

/-- A stream's stopped operation whose group has exited is reported and the group's operations on it go (R247). -/
def reportStream (s : State) (c : Core) (k : Nat) : State :=
  match sget [] c.strm k with
  | [] => s
  | o :: _ => match grp? s o.gid, o.halt with
    | some g, some (va, code) =>
      if o.stopped && g.ended then
        discardStream (groupRecord s g 0x16 1 o.pc va (code ||| BitVec.ofNat 64 (256 * k))) c.die c.core k g.gid g.team
      else s
    | _, _ => s

/-- Every such report of a core, at the exit of a group on it (R247). -/
def reportCore (s : State) (die core : Nat) : State :=
  match core? s die core with
  | some c => (List.range 4).foldl (fun s k => reportStream s c k) s
  | none => s

/-- A stream stops at an operand that cannot be obtained (R244, R245, R247). -/
def stopStream (s : State) (die core k : Nat) (o : MatOp) (cause : Cause) (va : W64) (src : Nat) : State :=
  match grp? s o.gid with
  | none => s
  | some g =>
    if g.ended then
      discardStream (groupRecord s g 0x16 1 o.pc va (BitVec.ofNat 64 (cause.code + 256 * k))) die core k g.gid g.team
    else
      let s := modHead s die core k fun o => { o with stopped := true, await := none, halt := some (va, BitVec.ofNat 64 cause.code) }
      modGrp s g.gid fun g => { g with mrp := sset 0 g.mrp k (mrpWord o src),
                                       mfault := insertFault k va (BitVec.ofNat 64 cause.code) g.mfault }

/-- A matrix operation meets a cause that stops no stream (R244): it is raised imprecisely with bit 0 of TRAPAUX set, or as
POISON. -/
def matFailed (s : State) (die core k : Nat) (o : MatOp) (t : Trap) : State :=
  match grp? s o.gid with
  | none => s
  | some g =>
    if t.cause = .poison then
      (if g.ended then modTeam (dropMatrix (groupRecord s g 0x20 1 o.pc 0 0) g.gid) g.team fun t => { t with faulted := true }
       else killGroup s g o.pc 0)
    else
      let s := noteLate s g.gid o.pid o.pc { t with aux := t.aux ||| 1 }
      if g.ended then discardStream s die core k g.gid g.team
      else modHead s die core k fun o => { o with stopped := true, await := none }

/-- What a walker's answer is to the matrix streams of a group that await the address (R244, R294). -/
def answerMat (s : State) (m : Miss) (die core : Nat) (t : Trap) : State :=
  (List.range 4).foldl (fun s k => match core? s die core with
    | none => s
    | some c => match sget [] c.strm k with
      | o :: _ => match o.await with
        | some (va, src) =>
          if o.gid = m.gid ∧ va = m.va then
            (if t.cause = .pageFault ∨ t.cause = .firstTouch then stopStream s die core k o t.cause va src
             else matFailed s die core k o t)
          else s
        | none => s
      | [] => s) s

/-- The requester's instruction (R365). -/
def missPc (s : State) (g : Group) (m : Miss) : W64 :=
  let waiting := (core? s g.die g.core).bind fun c => (c.strm.flatMap fun e => e.2).find? fun o =>
    o.gid == m.gid && o.await.any fun a => a.1 == m.va
  match (if m.mat then waiting else none), g.path? m.pid with
  | some o, _ => o.pc
  | none, some p => p.pc
  | none, none => 0

/-- What a walker's request comes to for its requester (R293, R294): a cause, or DOUBLE_FAULT. A cause is raised once every lane of the
access has its outcome (R162): until then it is noted with the path, whose instruction issues again (log entry 12). -/
def answerMiss (s : State) (m : Miss) (t : Trap) : State :=
  match grp? s m.gid with
  | none => s
  | some g =>
    if m.mat ∧ t.cause ≠ .doubleFault then answerMat s m g.die g.core t
    else if t.cause = .doubleFault then doubleFault s g (missPc s g m) t.aux.toNat t.va
    else match g.path? m.pid with
    | none => s
    | some p =>
      if m.whole then raiseTeam s g p { t with lanes := some (m.lanes &&& p.mask) } p.pc
      else modGrp s g.gid fun g => g.modPid m.pid fun p => { p with denied := (m.va.toNat / 4096, t) :: p.denied }

/-- The walker leaves its request (R294); its registers stay until the next one (R293). -/
def walkerDone (s : State) (g : Group) : State :=
  let g := (grp? s g.gid).getD g
  modCore { s with groups := s.groups.filter fun x => x.gid != g.gid } g.die g.core fun c => { c with walk := none, idle := some g }

/-- The walker's request of a core. -/
def walkOf (s : State) (g : Group) : Option Miss :=
  match core? s g.die g.core with
  | some c => c.walk
  | none => none

/-- A trap of a group's path (R70, R303, R307); one inside the walker abandons its request (R294). -/
def raiseGroup (s : State) (g : Group) (p : Path) (t : Trap) (pc : W64) : State :=
  if g.isWalker then
    let m := walkOf s g
    let s := walkerDone (logSecure s g.die t) g
    match m with
    | some m => answerMiss s m { cause := .doubleFault, va := t.va, aux := BitVec.ofNat 64 t.cause.code }
    | none => s
  else raiseTeam s g p t pc

/-! ### Q and C programs -/

/-- A record of a copy context, for the operation at the head of its queue (R270, R271, R341). -/
def copyRecord (s : State) (c : CopyCtx) (code : Nat) (pc va aux : W64) : State :=
  let op := c.ops.head?
  let qid := (op.map fun o => o.qid).getD 0
  let seq := (op.map fun o => o.seq).getD 0
  let r : Record := { source := 2, cause := code, die := c.die, unit := c.k, pc, va, aux, seq }
  if (queue? s c.die qid).isSome then writeRecord s c.die qid r
  else match lowestQueue s c.die c.pasid with
    | some q => writeRecord s c.die q r
    | none => s

/-- A copy program that raises a cause stops, and does not continue (R67, R270). -/
def endProgram (s : State) (d k : Nat) : State := modCc s d k fun c => { c with prog := none, inner := none, ret := none }

/-- The copy operation at the head of a context's queue stops with a cause (R270, R281). -/
def stopCopy (s : State) (c : CopyCtx) (t : Trap) (pc : W64) : State :=
  modCc (copyRecord (logSecure s c.die t) c t.cause.code pc t.va t.aux) c.die c.k
    fun c => { c with ops := c.ops.modifyHead fun o => { o with stop := some t } }

/-- A Q thread's program stops (R67, R270, R291): its record, the QPROG packet that it ran, and the halt of its queue. `code` is a
trap code or HALT. -/
def stopThread (s : State) (q : QThread) (code : Nat) (pc va aux : W64) : State :=
  let seq := (q.qprog <|> q.popped).getD 0
  let r : Record := { source := 1, cause := code, die := q.die, unit := q.t, pc, va, aux, seq }
  let s := modQt s q.die q.t fun q => { q with path := none, ret := none, qprog := none, asleep := none }
  match q.bound with
  | some b =>
    let s := modQueue s q.die b fun k =>
      { k with packets := modWhere k.packets (fun p => q.qprog == some p.seq) fun p => { p with never := true } }
    haltQueue (writeRecord s q.die b r) q.die b
  | none => match lowestQueue s q.die q.pasid with
    | some b => writeRecord s q.die b r
    | none => s

/-- A trap of an executor's path (R67, R303). -/
def raiseOn (s : State) (e : Issuer) (t : Trap) (pc : W64) : State :=
  match e with
  | .grp gid slot => match grp? s gid, pathOf s (.grp gid slot) with
    | some g, some p => raiseGroup s g p t pc
    | _, _ => s
  | .qthr d k => match qt? s d k with
    | some q => stopThread (logSecure s d t) q t.cause.code pc t.va t.aux
    | none => s
  | .copyc d k => match cc? s d k with
    | some c => endProgram (stopCopy s c t pc) d k
    | none => s

/-! ### Return from a handler -/

/-- The causes whose resume point a handler may move (R308). -/
def movable (cause : Nat) : Bool := [0x10, 0x11, 0x12, 0x14, 0x15, 0x17].contains cause

/-- The interrupted path at its resume point (R308); `ok` when the word behind the trapping one may begin a block (R52). -/
def resumePath (now : Nat) (ok : Bool) (f : Frame) (h : Path) (p : Path) : Path :=
  let p := { p with view := h.view, spois := h.spois, pend := none, anc := (p.anc ++ h.anc).dedup }
  if f.resume = p.pc then p
  else if f.resume = f.pc + 8 ∧ !p.atHdr then stepPath now ok p
  else { goPath now f.resume p with src := f.pc }

/-- Whether the word at an address may begin a block of a group's code: no word of its core that is no header (R52). -/
def headerAt (s : State) (g : Group) (h : W64) : Bool :=
  match codeWord s g.die g.core (groupPasid s g) h with
  | some w => (headerOf w).isSome
  | none => true

/-- Ending a handler level (R283, R305): the frame's stack, the trap registers before the trap, and the handler's view
for the interrupted path. ILLEGAL when lanes are missing or another path or join exists, or the resume point is not
aligned (R308). -/
def leaveHandler (s : State) (g : Group) (p : Path) : Except Trap State :=
  match g.frames with
  | [] => .error { cause := .priv }
  | f :: fs =>
    if p.mask &&& f.lanes ≠ f.lanes ∨ g.stack.paths.length ≠ 1 ∨ g.stack.rest ≠ [] then .error { cause := .illegal }
    else if f.resume.toNat % 8 ≠ 0 then .error { cause := .illegal }
    else
      let s := modGrp s g.gid fun g =>
        { g with stack := f.saved.modPid f.pid (resumePath (clk s g.die) (headerAt s g (f.pc + 8)) f p), frames := fs, regs := f.old }
      .ok (settle s g.gid)

end Sys2Proof.Machine
end

