-- ==== Sys2Proof/Machine/Ops.lean ====
section
/-! DEFINITION. Issuing an instruction: the executor's context, the checks of R68 in their order, lookahead (R58), poison
(R215), the end of an instruction, control transfers (R52, R55), headers (R54, R301) and the fetch of a word. -/
namespace Sys2Proof.Machine

/-- The executor of the instruction that issues, as the checks see it. -/
structure Ex where
  who    : Issuer
  p      : Path
  g      : Option Group
  die    : Nat
  core   : Nat
  pasid  : Nat
  user   : Bool
  secure : Bool

/-- Why a body ends without its effect: a trap, or a wait in which the path stays at its word. -/
inductive Stop
  | trap (t : Trap) | hold (s : State)

/-- What a meaning's body gives. -/
abbrev Body := Ex → Except Stop State

/-- Raising a cause with no address. -/
def bad (c : Cause) : Except Stop State := .error (.trap { cause := c })

/-- The executor that an issuer names (R191, R268). -/
def exOf (s : State) (e : Issuer) : Option Ex :=
  match e with
  | .grp gid slot => match grp? s gid with
    | none => none
    | some g => match (if slot = 0 then g.stack.a else g.stack.b) with
      | none => none
      | some p => some { who := e, p, g := some g, die := g.die, core := g.core, pasid := groupPasid s g,
                         user := g.frames.isEmpty, secure := s.secure.contains (.core g.die g.core) }
  | .qthr d t => match qt? s d t with
    | none => none
    | some q => match q.path with
      | none => none
      | some p => some { who := e, p, g := none, die := d, core := 64, pasid := q.pasid, user := !p.sys,
                         secure := s.secure.contains (.qthread d t) }
  | .copyc d k => match cc? s d k with
    | none => none
    | some c => match c.prog with
      | none => none
      | some p => some { who := e, p, g := none, die := d, core := 64, pasid := c.pasid, user := !p.sys,
                         secure := s.secure.contains (.copyEngine d (k / 4)) }

/-! ### The checks at issue -/

/-- The classes of R22. -/
inductive Cls
  | control | vector | memory | sync | matrix | ring | cache | handler
  deriving DecidableEq, Repr

/-- Which classes a role may issue (R22). -/
def roleOk : Role → Cls → Bool
  | .general, _ => true
  | .feed, c => c == .control || c == .memory || c == .sync || c == .ring || c == .cache
  | .matrix, c => c == .control || c == .sync || c == .matrix || c == .ring || c == .cache
  | .vector, c => c != .matrix

/-- The opcode map's row of an instruction (R66, R269): its executors, its class, P, the need of system level, whether
it is a control transfer, and whether it is in the trapped state of the ladder (R72) or a hint (R225). `ill` is the TRAPAUX of
an ILLEGAL that an operand's value raises (R236, R279). -/
structure Rule where
  g    : Bool
  q    : Bool
  c    : Bool
  cls  : Cls
  priv : Bool := false
  sys  : Bool := false
  ctl  : Bool := false
  gone : Bool := false
  hint : Bool := false
  ill  : Option W64 := none
  deriving DecidableEq, Repr

/-- The registers an instruction names: vector and scalar sources and destinations (R24, R58, R215). -/
structure Use where
  vs : List Nat := []
  vd : List Nat := []
  ss : List Nat := []
  sd : List Nat := []
  deriving DecidableEq, Repr

/-- Whether an executor is listed (R67). -/
def Rule.admits (r : Rule) : Issuer → Bool
  | .grp _ _ => r.g
  | .qthr _ _ => r.q
  | .copyc _ _ => r.c

/-- A vector register within the budget, or of the handler frame (R24, R305). -/
def vregOk (g : Group) (r : Nat) : Bool := decide (r < g.vbud) || frameReg g r

/-- The register budgets of a group (R24). -/
def Use.fits (u : Use) (x : Ex) : Bool :=
  match x.g with
  | none => true
  | some g => (u.vs ++ u.vd).all (fun r => vregOk g r && decide (r < 256)) && (u.ss ++ u.sd).all fun r => decide (r < g.sbud)

/-- The rule is one of the mode the executor is in (R23, R66, R269). -/
def Rule.privOk (r : Rule) (x : Ex) : Bool :=
  match x.g with
  | some _ => !r.priv || !x.user
  | none => !r.sys || !x.user

/-- The role check, which handler mode skips (R22). -/
def Rule.roleFits (r : Rule) (x : Ex) : Bool :=
  match x.g with
  | some g => !x.user || match g.role with
    | some ro => roleOk ro r.cls
    | none => true
  | none => true

/-- A matrix instruction needs a group with one path and no join, outside handler mode (R235). -/
def Rule.unsplit (r : Rule) (x : Ex) : Bool :=
  match x.g with
  | some g => r.cls != .matrix || !x.user || (g.stack.paths.length == 1 && g.stack.rest.isEmpty)
  | none => true

/-- Whether an instruction names a pending register of a window that contains it (R58). -/
def Use.hazard (u : Use) (p : Path) : Bool :=
  p.wins.any fun w => decide (0 < w.left) &&
    ((u.vs ++ u.vd).any (fun r => w.vds.contains r) || (u.ss ++ u.sd).any fun r => w.sds.contains r)

/-- The active lanes of an instruction with a predicate; the whole path without one (R57). -/
def Ex.active (x : Ex) (h : Option Head) : Mask :=
  match x.g, h with
  | some g, some h => activeOf g x.p h
  | some g, none => x.p.mask &&& fullMask g.width
  | none, _ => 1

/-- Whether a source that the instruction reads is marked (R215): scalars for the path, vectors in the active lanes. -/
def Use.poisoned (u : Use) (x : Ex) (act : Mask) : Bool :=
  act != 0 && (u.ss.any (fun r => x.p.spois.getLsbD r) ||
    match x.g with
    | some g => u.vs.any fun r => vMarks g r &&& act != 0
    | none => false)

/-- The checks of R68 in their order, an operand's value after the mode (R235, R269), then RETIRED, LA_HAZARD (R58) and POISON (R215), of
which a hint raises the last two not (R225). Where RETIRED and LA_HAZARD stand, and that all but RETIRED and POISON are raised with no
active lane too, is the model's choice (log entry 48). -/
def checks (r : Rule) (u : Use) (h : Option Head) (x : Ex) : Option Trap :=
  if !r.admits x.who || !u.fits x || (r.ctl && x.p.left != 1) then some { cause := .illegal }
  else if !r.privOk x then some { cause := .priv }
  else if r.ill.isSome then some { cause := .illegal, aux := r.ill.getD 0 }
  else if !r.roleFits x then some { cause := .role }
  else if !r.unsplit x then some { cause := .divergedMatrix }
  else if r.gone && x.active h != 0 then some { cause := .retired, lanes := some (x.active h) }
  else if r.hint then none
  else if u.hazard x.p then some { cause := .laHazard }
  else if u.poisoned x (x.active h) then some { cause := .poison, lanes := some (x.active h) }
  else none

/-- Whether the path may not issue yet: it waits, it stands at a header, or a window before it is not complete (R58). -/
def Ex.held (x : Ex) : Bool := x.p.wait != .run || x.p.atHdr || x.p.wins.any fun w => w.left == 0

/-- Issuing an instruction: the checks, then its body. -/
def issue (s : State) (r : Rule) (u : Use) (h : Option Head) (body : Body) : Host.Outcome State Fault Refusal :=
  match s.cur with
  | none => .fault .noIssuer
  | some e =>
    match exOf s e with
    | none => .next s
    | some x =>
      if x.held then .next s
      else match checks r u h x with
        | some t => .next (raiseOn s e t x.p.pc)
        | none => match body x with
          | .ok s => .next s
          | .error (.trap t) => .next (raiseOn s e t x.p.pc)
          | .error (.hold s) => .next s

/-! ### The end of an instruction -/

/-- A group's issue counts for its packet (R320). -/
def noteIssue (s : State) (x : Ex) : State :=
  match x.who, x.g with
  | .grp gid _, some g =>
    let s := modGrp s gid fun g => { g with issued := g.issued + 1 }
    if g.isWalker then s else noteRan s g
  | _, _ => s

/-- A path that has just arrived is merged if it can be (R32). -/
def settleArrived (s : State) (x : Ex) : State :=
  match x.who with
  | .grp gid _ => if (pathOf s x.who).any fun p => p.wait == .arrived then settle s gid else s
  | _ => s

/-- Whether the word behind the instruction may begin a block: no word of the core that is no header (R52). -/
def endsAtHeader (s : State) (x : Ex) : Bool :=
  match codeWord s x.die x.core x.pasid (x.p.pc + 8) with
  | some w => (headerOf w).isSome
  | none => true

/-- An instruction that does not transfer control is done: the path goes to the next word (R52). -/
def advance (s : State) (x : Ex) : State :=
  settleArrived (modPath (noteIssue s x) x.who x.p.pid (stepPath (clkOf s x.who) (endsAtHeader s x))) x

/-- A control transfer is done: the path goes to a header (R55). -/
def transfer (s : State) (x : Ex) (h : W64) : State :=
  settleArrived (modPath (noteIssue s x) x.who x.p.pid (goPath (clkOf s x.who) h)) x

/-- Writing a scalar register into the path's view (R40). -/
def setS (s : State) (x : Ex) (r : SReg) (v : W64) : State := modPath s x.who x.p.pid fun p => wrS p r.toNat v

/-- Writing the registers of the issuing group. -/
def onGroup (s : State) (x : Ex) (f : Group → Group) : State :=
  match x.who with
  | .grp gid _ => modGrp s gid f
  | _ => s

/-- A body that writes one scalar register from the path's view. -/
def scalarBody (s : State) (sd : SReg) (f : Path → W64) : Body := fun x => .ok (advance (setS s x sd (f x.p)) x)

/-- The group's issuer, for bodies that only a group runs. -/
def withGroup (f : Ex → Group → Except Stop State) : Body := fun x =>
  match x.g with
  | some g => f x g
  | none => bad .illegal

/-- A body that changes the group's registers in the active lanes; with none it has no effect (R57). -/
def laneBody (s : State) (h : Head) (f : Group → Path → Mask → Group) : Body := withGroup fun x g =>
  .ok (advance (onGroup s x fun g' => f g' x.p (activeOf g x.p h)) x)

/-! ### Targets and headers -/

/-- The checks of a transfer's target that the issuing executor can make at once (R55, R301). -/
def targetCheck (s : State) (x : Ex) (h : W64) : Option Trap :=
  if h.toNat % 8 ≠ 0 then some { cause := .badTarget, va := h }
  else match x.g with
    | none => none
    | some _ =>
      if !canonical h then some { cause := .badTarget, va := h }
      else if negHalf h && x.user then some { cause := .priv, va := h }
      else match codeWord s x.die x.core x.pasid h with
        | none => none
        | some w => match headerOf w with
          | some _ => none
          | none => some { cause := .badTarget, va := h }

/-- A transfer body: the checks of the target, the effect before it, then the way to the header. -/
def goto (s : State) (x : Ex) (h : W64) (before : State → State) : Except Stop State :=
  match targetCheck s x h with
  | some t => .error (.trap t)
  | none => .ok (transfer (before s) x h)

/-- The kind of a code fetch of a Q or C program (R268). -/
def fetchKind (s : State) (x : Ex) : AccKind :=
  { devKind s x.pasid false 8 with user := x.user, fetch := true, secure := x.secure, gran := true }

/-- A request for a delegated range on behalf of a Q or C executor, which waits for the answer (R160, R281, R288). -/
def askAts (s : State) (x : Ex) (va : W64) (write : Bool) : State :=
  let (id, s) := fresh s
  let fn := fnOf s x.pasid
  let r : AtsReq := { id, fn, pasid := x.pasid, va, write, die := x.die, who := x.who, pid := x.p.pid, use := .access, since := s.now }
  let s := emit { s with ats := s.ats ++ [r] } (.atsRequest id fn x.pasid va write)
  modPath s x.who x.p.pid fun p => { p with wait := .ats id }

/-- What a fetch that has no word comes to: the cause of the failed check at the fetched address, a wait for the host's translation
(R160), or for a home that no longer answers (R327). -/
def fetchStop (s : State) (x : Ex) (h : W64) : XFail → Stop
  | .trap t => .trap { t with va := h }
  | .ats => .hold (askAts s x h false)
  | .silent => .hold s

/-- The word at an address that a Q or C program fetches (R268). -/
def fetchQC (s : State) (x : Ex) (h : W64) : Except Stop (W64 × State) :=
  match agentRead s x.die x.pasid h 8 (fetchKind s x) with
  | .error f => .error (fetchStop s x h f)
  | .ok (bs, s) => .ok (BitVec.ofNat 64 (ofBytes (bs.map fun b => b.1)), s)

/-- The QPROG packet that a dispatch program has popped and not closed (R270). -/
def poppedProg (s : State) (q : QThread) : Option Nat :=
  match q.bound, q.popped with
  | some b, some n => match queue? s q.die b with
    | some k => if k.packets.any fun p => p.seq == n && p.typ == 3 && !p.closed then some n else none
    | none => none
  | _, _ => none

/-- The QPROG packet whose program begins has started (R258). -/
def startProg (s : State) (q : QThread) : State :=
  match q.bound, poppedProg s q with
  | some b, some n => modQueue s q.die b fun k => { k with packets := modWhere k.packets (fun p => p.seq == n) fun p => { p with started := true } }
  | _, _ => s

/-- A system-level `calli` has reached a header without HANDLER: its link goes into the hidden return register (R268). -/
def recordReturn (s : State) (x : Ex) : State :=
  match x.p.call, x.who with
  | some link, .qthr d t => match qt? s d t with
    | some q => startProg (modQt s d t fun q => { q with ret := some link, qprog := poppedProg s q }) q
    | none => s
  | some link, .copyc d k => modCc s d k fun c => { c with ret := some link }
  | _, _ => s

/-- The path begins a block (R52); the count of SPIN cycles goes on only from one SPIN block to the next (R34). -/
def beginBlock (now : Nat) (hd : Header) (code : List W64) (p : Path) : Path :=
  { p with hdr := p.pc, blk := some hd, code, pc := p.pc + 8, left := hd.len.toNat, atHdr := false, start := false, call := none,
           spinAt := if hd.spin && (match p.blk with | some b => b.spin | none => false) then p.spinAt else now }

/-- The words of a block in the frame that holds its header (R81, R301); a word past the frame reads as zero (log entry 11). -/
def blockWords (c : Core) (f : Nat) (h : W64) (n : Nat) : List W64 :=
  let k := h.toNat % 16384 / 8
  (List.range n).map fun i => if k + 1 + i < 2048 then sget 0 c.imem (f * 2048 + k + 1 + i) else 0

/-- Whether the word that a path stands at may be a header (R52). -/
def atHeader (s : State) (x : Ex) : Bool :=
  match codeWord s x.die x.core x.pasid x.p.pc with
  | some w => (headerOf w).isSome
  | none => true

/-- Whether a path with the mark of `yield` has reached a header, where the mark is tested (R112). -/
def yieldsHere (s : State) (x : Ex) : Bool :=
  x.p.yielded && x.p.pc.toNat % 8 == 0 && canonical x.p.pc && atHeader s x

/-- A group's path reaches a header (R54, R112, R301). R54 gives no order among the causes of one header: PRIV comes first, then
ILLEGAL, then BADTARGET (log entry 56). The exchange of a `yield` comes before the checks of the header, which are made when the path
is live again (log entry 70); the effect of a block's last instruction stands when the word behind it is no header (log entry 71). -/
def groupHeader (s : State) (x : Ex) (g : Group) : State :=
  let p := x.p
  let h := p.pc
  let raise := fun (s : State) (t : Trap) (pc : W64) => raiseGroup s g p t pc
  if yieldsHere s x then
    let s := modPath s x.who p.pid fun p => { p with yielded := false }
    match x.who with
    | .grp gid slot => modGrp s gid fun g => { g with stack := exchange (clk s g.die) g.stack (slot == 0) }
    | _ => s
  else if h.toNat % 8 ≠ 0 ∨ !canonical h then raise s { cause := .badTarget, va := h } p.src
  else if negHalf h && x.user then raise s { cause := .priv, va := h } p.src
  else match core? s g.die g.core with
    | none => s
    | some c => match frameFor c x.pasid h with
      | none => raise s { cause := .overlayMiss, va := h, aux := BitVec.ofNat 64 (overlayOf h) } p.src
      | some f => match headerOf (sget 0 c.imem (f * 2048 + h.toNat % 16384 / 8)) with
        | none => raise s { cause := .badTarget, va := h } p.src
        | some hd =>
          if hd.handler && x.user then raise s { cause := .priv, va := h } h
          else if hd.len = 0 then raise s { cause := .illegal } h
          else if p.start && !hd.entry then raise s { cause := .badTarget, va := h } h
          else modPath s x.who p.pid (beginBlock (clkOf s x.who) hd (blockWords c f h hd.len.toNat))

/-- A Q or C program reaches a header (R54, R55, R268). -/
def qcHeader (s : State) (x : Ex) : State :=
  let p := x.p
  let h := p.pc
  if h.toNat % 8 ≠ 0 then raiseOn s x.who { cause := .badTarget, va := h } p.src
  else match fetchQC s x h with
    | .error (.trap t) => raiseOn s x.who t h
    | .error (.hold s) => s
    | .ok (w, s) => match headerOf w with
      | none => raiseOn s x.who { cause := .badTarget, va := h } p.src
      | some hd =>
        if hd.handler && x.user && !p.start then raiseOn s x.who { cause := .priv, va := h } h
        else if hd.len = 0 then raiseOn s x.who { cause := .illegal } h
        else modPath (if hd.handler then s else recordReturn s x) x.who p.pid fun p =>
          { beginBlock (clkOf s x.who) hd [] p with sys := hd.handler }

/-- A path at a header: it waits for its long-latency instructions, arrives, or begins the block (R32, R52, R58). -/
def headerStep (s : State) (x : Ex) : State :=
  if x.p.wins ≠ [] ∨ x.p.wait ≠ .run then s
  else if x.p.reconv = some x.p.pc ∧ atHeader s x then
    settleArrived (modPath s x.who x.p.pid (parkPath (clkOf s x.who) .arrived)) x
  else match x.g with
    | some g => groupHeader s x g
    | none => qcHeader s x

/-- The instruction word at the path's pc. -/
def fetchWord (s : State) (x : Ex) : Except Stop (W64 × State) :=
  match x.g with
  | some _ => .ok ((x.p.code[x.p.code.length - x.p.left]?).getD 0, s)
  | none => fetchQC s x x.p.pc

end Sys2Proof.Machine
end

