-- ==== Sys2Proof/Machine/Operands.lean ====
section
/-! DEFINITION. Operands of every form: integers of n bits (R84 to R87, R100, R122), bit fields, shifts and counts, floating
elements (R122, R142), and the lane-wise writing of results at once or behind a lookahead window (R58, R95, R122). -/
namespace Sys2Proof.Machine

/-! ### Integers of n bits -/

/-- The low n bits of a pattern, read as an integer under the type (R84, R100). -/
def readInt (ty : IntTy) (x : Nat) : Int :=
  let m := x % 2 ^ ty.width
  if ty.isI && decide (2 ^ (ty.width - 1) ≤ m) then (m : Int) - (2 ^ ty.width : Nat) else m

/-- The exact result narrowed to n bits: clamped under `.sat`, else its low n bits (R85). -/
def narrow (ty : IntTy) (sat : Bool) (x : Int) : Nat :=
  let x := if sat then min (max x (tyMin ty)) (tyMax ty) else x
  (x % (2 ^ ty.width : Nat)).toNat

/-- The n-bit pattern extended to a register: by its sign for .i types, by zeros otherwise (R100, R122). -/
def extend (w : Nat) (ty : IntTy) (x : Nat) : BitVec w := BitVec.ofInt w (readInt ty x)

/-- The low n bits of a pattern. -/
def lowBits (n x : Nat) : Nat := x % 2 ^ n

/-- The shift count of an n-bit operation (R86). -/
def shiftCount (n b : Nat) : Nat := lowBits n b % n

/-- Left shift of n bits (R86). -/
def shlN (n a c : Nat) : Nat := a * 2 ^ c % 2 ^ n
/-- Logical right shift (R86). -/
def shrN (a c : Nat) : Nat := a / 2 ^ c
/-- Arithmetic right shift of n bits (R86). -/
def sraN (n a c : Nat) : Nat := if a < 2 ^ (n - 1) then a / 2 ^ c else (2 ^ n - 1) - (2 ^ n - 1 - a) / 2 ^ c
/-- Right rotation of n bits (R101). -/
def rotN (n a c : Nat) : Nat := (a / 2 ^ c + a * 2 ^ (n - c)) % 2 ^ n
/-- Leading zeros of n bits (R101). -/
def clzN (n a : Nat) : Nat := if a = 0 then n else n - 1 - a.log2
/-- One bits among the low n (R101). -/
def popcN (n a : Nat) : Nat := ((List.range n).filter fun k => a.testBit k).length
/-- The low n bits reversed (R126). -/
def brevN (n a : Nat) : Nat := (List.range n).foldl (fun r k => if a.testBit k then r + 2 ^ (n - 1 - k) else r) 0
/-- Bits [pos+len-1:pos] (R103). -/
def fieldN (a pos len : Nat) : Nat := a / 2 ^ pos % 2 ^ len
/-- A field replaced (R103, R128). -/
def insertN (a b pos len : Nat) : Nat := a - fieldN a pos len * 2 ^ pos + b % 2 ^ len * 2 ^ pos
/-- A field read by its sign or by zeros (R103, R128). -/
def signField (sgn : Bool) (f len : Nat) : Int :=
  if sgn && decide (0 < len) && decide (2 ^ (len - 1) ≤ f) then (f : Int) - (2 ^ len : Nat) else f

/-- Quotient and remainder of n bits (R87). -/
def divRem (ty : IntTy) (a b : Int) : Int × Int :=
  if b = 0 then ((2 ^ ty.width : Nat) - 1, a)
  else if ty.isI && a == tyMin ty && b == -1 then (tyMin ty, 0)
  else (a.tdiv b, a.tmod b)

/-- The carry-less product of two 32-bit words (R130). -/
def clmul (a b : Nat) : Nat := (List.range 32).foldl (fun p k => if a.testBit k then Nat.xor p (b * 2 ^ k) else p) 0

/-! ### Lane operands -/

/-- A lane's integer operand (R122). -/
def laneInt (g : Group) (ty : IntTy) (r lane : Nat) : Int :=
  if ty.width = 64 then readInt ty (rdV2 g r lane).toNat else readInt ty (rdV g r lane).toNat

/-- A lane's n-bit pattern. -/
def laneBits (g : Group) (ty : IntTy) (r lane : Nat) : Nat := lowBits ty.width (rdV g r lane).toNat

/-- The register writes of an integer result: one register, or a pair for 64 bits (R122). -/
def intWrites (ty : IntTy) (r lane x : Nat) : List (Nat × W32) :=
  if ty.width = 64 then [(r * 64 + lane, BitVec.ofNat 32 x), ((r + 1) * 64 + lane, BitVec.ofNat 32 (x / 2 ^ 32))]
  else [(r * 64 + lane, extend 32 ty x)]

/-- A lane's floating operand as a pattern of its format (R122). -/
def laneFp (g : Group) (ty : FpTy) (r lane : Nat) : Nat :=
  if ty = .f64 then (rdV2 g r lane).toNat else (rdV g r lane).toNat % 2 ^ (fmtShape ty).w

/-- The register writes of a floating result: bits above the format are zero (R122). -/
def fpWrites (ty : FpTy) (r lane x : Nat) : List (Nat × W32) :=
  if ty = .f64 then [(r * 64 + lane, BitVec.ofNat 32 x), ((r + 1) * 64 + lane, BitVec.ofNat 32 (x / 2 ^ 32))]
  else [(r * 64 + lane, BitVec.ofNat 32 x)]

/-- The registers a floating operand takes. -/
def fpRegs (ty : FpTy) (r : VReg) : List Nat := if ty = .f64 then [r.toNat, r.toNat + 1] else [r.toNat]
/-- The registers an integer operand takes. -/
def intRegs (ty : IntTy) (r : VReg) : List Nat := if ty.width = 64 then [r.toNat, r.toNat + 1] else [r.toNat]
/-- A run of registers. -/
def runRegs (r : VReg) (k : Nat) : List Nat := (List.range k).map fun i => r.toNat + i

/-- Element j of a packed register (R142). -/
def packedAt (ty : FpTy) (x j : Nat) : Nat :=
  let step := 32 / ty.perReg
  x / 2 ^ (step * j) % 2 ^ (fmtShape ty).w

/-! ### Results -/

/-- The results of the active lanes: each source is read before any result is written (R122). -/
def mapLanes (g : Group) (act : Mask) (f : Nat → List (Nat × W32)) : Group := aluVec g ((lanesOf act).flatMap f)

/-- The results and the flags of the active lanes (R95, R122). -/
def fpLanes (act : Mask) (f : Nat → List (Nat × W32) × Flags) : List (Nat × W32) × Flags :=
  let l := (lanesOf act).map f
  (l.flatMap fun e => e.1, gatherFlags (l.map fun e => e.2))

/-- Writing results and flags at once. -/
def takeFp (g : Group) (r : List (Nat × W32) × Flags) : Group := { aluVec g r.1 with fpfl := g.fpfl ||| flagWord r.2 }

/-- A vector integer body: results of the active lanes (R122). -/
def vecBody (s : State) (h : Head) (f : Group → Path → Nat → List (Nat × W32)) : Body :=
  laneBody s h fun g p act => mapLanes g act (f g p)

/-- A vector floating body that completes at issue. -/
def fpBody (s : State) (h : Head) (f : Group → Nat → List (Nat × W32) × Flags) : Body :=
  laneBody s h fun g _ act => takeFp g (fpLanes act (f g))

/-- A body that writes a mask register in the active lanes (R124). -/
def maskBody (s : State) (h : Head) (md : MReg) (f : Group → Path → Mask) : Body :=
  laneBody s h fun g p act => if act = 0 then g else wrM g md.toNat act (f g p)

/-! ### Lookahead -/

/-- Opening the window of a long-latency instruction, floating or not: it holds the next `la` instructions of the block (R58). -/
def openWindow (s : State) (x : Ex) (op : Nat) (fp : Bool) (la : Nat) (vds sds : List Nat) : State :=
  modPath s x.who x.p.pid fun p => { p with wins := p.wins ++ [{ op, fp, left := la + 1, vds, sds }] }

/-- A long-latency instruction that reads no memory: with no window it completes at issue, else its results wait for its
completion (R58, R95). -/
def longBody (s : State) (x : Ex) (fp : Bool) (la : BitVec 4) (vds sds : List Nat) (wv : List (Nat × W32)) (ws : List (Nat × W64))
    (flags : Flags) : State :=
  if la = 0 then
    let s := onGroup s x fun g => { aluVec g wv with fpfl := g.fpfl ||| flagWord flags }
    advance (modPath s x.who x.p.pid fun p => ws.foldl (fun p e => wrS p e.1 e.2) p) x
  else
    let (id, s) := fresh s
    let op : MemOp := { id, who := x.who, pid := x.p.pid, anc := x.p.anc, pc := x.p.pc, kind := .alu wv ws (flagWord flags),
                        size := 0, scope := .weak, ord := .plain, ch := 0, dest := .nowhere, todo := [], begun := false, since := s.now, counted := false, leased := [] }
    advance (openWindow { s with ops := s.ops ++ [op] } x id fp la.toNat vds sds) x

/-- A long-latency vector floating body (R58, R135). -/
def longFpBody (s : State) (h : Head) (vds : List Nat) (f : Group → Nat → List (Nat × W32) × Flags) : Body := withGroup fun x g =>
  let act := activeOf g x.p h
  if act = 0 then .ok (advance s x)
  else
    let r := fpLanes act (f g)
    .ok (longBody s x true h.la vds [] r.1 [] r.2)

end Sys2Proof.Machine
end

