-- ==== Sys2Proof/Machine/Address.lean ====
section
/-! DEFINITION. Where the accesses of an instruction land: the effective address (R212), the local address window (R163 to
R165), the translation caches and the miss queue of a core (R292, R293), and the first cause over all lanes (R162). -/
namespace Sys2Proof.Machine

/-- What one lane's checks give: a place, a cause with its step in R162, or a miss. -/
inductive Found
  | place (p : Place) | trap (rank : Nat) (t : Trap) | miss

/-- The cluster of a core and its index there (R12). -/
def clusterOf (c : Nat) : Nat := c % 8 / 4 + 2 * (c / 8 / 2)
/-- A core's index within its cluster (R12). -/
def clusterIdx (c : Nat) : Nat := c % 4 + 4 * (c / 8 % 2)

/-- The team core index of the cluster core c (R25, R163). -/
def teamCoreAt (t : Team) (cidx : Nat) : Option Nat :=
  (t.cores.zipIdx.find? fun e => clusterIdx e.1 == cidx).map fun e => e.2

/-- An access to a scratchpad (R163, R188): its extent, then its scope, then the stage that holds it. -/
def scratchPlace (t : Team) (j off : Nat) (va : W64) (k : AccKind) : Found :=
  if t.scratch < off + k.size then .trap 3 (prot va 0)
  else if scopeRank k.scope > 3 then .trap 5 { cause := .scopeClass, va }
  else if k.gran && !stagePermits t j off (k.write || k.atomic) then .trap 7 { cause := .ringState, va }
  else .place (.scratch t.tid j off)

/-- The resident group of a team that a number names, a live one before an exited one (R164). -/
def groupAt (s : State) (tid gidx : Nat) : Option Group :=
  let l := s.groups.filter fun g => g.team == tid && g.gidx == gidx
  (l.find? fun g => !g.ended) <|> l.head?

/-- An access to a vault of the die through the window, which needs no team (R163, R165, R358). -/
def vaultPlace (s : State) (die : Nat) (va : W64) (k : AccKind) (v o : Nat) : Found :=
  let a := fabAddr die (0x4000000000 + v * 0x1000000 + o)
  if 12 * 1024 * 1024 < o + k.size then .trap 3 (prot va 0)
  else if regionSecure s a && !k.secure then .trap 4 { prot va 0 with sec := true }
  else if scopeRank k.scope > 3 then .trap 5 { cause := .scopeClass, va }
  else .place (.vaultWin a)

/-- An access in the window (R163 to R165, R190). -/
def windowPlace (s : State) (g : Group) (va : W64) (k : AccKind) : Found :=
  let off := va.toNat - Config.windowBase
  let vault := vaultPlace s g.die va k
  if 0x300000000 ≤ off ∧ off < 0x301000000 then vault g.core (off - 0x300000000)
  else if 0x400000000 ≤ off ∧ off < 0x440000000 then vault ((off - 0x400000000) / 0x1000000) (off % 0x1000000)
  else match team? s g.team with
  | none => .trap 3 (prot va 0)
  | some t =>
    let within := fun (p : Place) => if scopeRank k.scope > 3 then Found.trap 5 { cause := .scopeClass, va } else .place p
    if off < 0x100000000 then scratchPlace t g.tcore off va k
    else if off < 0x108000000 then
      match teamCoreAt t ((off - 0x100000000) / 0x1000000) with
      | some j => scratchPlace t j (off % 0x1000000) va k
      | none => .trap 3 (prot va 0)
    else if 0x200000000 ≤ off ∧ off < 0x220000000 then
      match groupAt s g.team ((off - 0x200000000) / 65536) with
      | some x =>
        let r := off % 65536 / 256
        let lane := off % 256 / 4
        if k.atomic || k.size != 4 || decide (x.vbud ≤ r) || decide (x.width ≤ lane) then .trap 3 (prot va 0)
        else within (.reg x.gid r lane)
      | none => .trap 3 (prot va 0)
    else if 0x500000000 ≤ off ∧ off < 0x500000400 then
      let o := off - 0x500000000
      match stage? t (o / 128) (o % 128 / 8) with
      | some _ => if k.write || k.atomic || k.size != 8 then .trap 3 (prot va 0) else within (.ringCtl t.tid (o / 128) (o % 128 / 8))
      | none => .trap 3 (prot va 0)
    else .trap 3 (prot va 0)

/-- The last-page register of a lane, if it serves the access (R292). -/
def lprHit (c : Core) (pasid gid : Nat) (va : W64) (write : Bool) : Option Nat → Option Tlb
  | some l => (c.lpr.find? fun (e : Nat × Nat × Tlb) => e.1 == gid && e.2.1 == l && e.2.2.serves pasid va write).map fun e => e.2.2
  | none => none

/-- The lane's last-page register takes the leaf (R292). -/
def lprFill (s : State) (x : Ex) (gid : Nat) (t : Tlb) : Option Nat → State
  | some l => modCore s x.die x.core fun c => { c with lpr := (gid, l, t) :: c.lpr.filter fun e => !(e.1 == gid && e.2.1 == l) }
  | none => s

/-- The first level of R292 that serves a lane's access, with the fills it makes; `lane` is none for a scalar access. -/
def lookup (s : State) (x : Ex) (gid : Nat) (lane : Option Nat) (va : W64) (write : Bool) : Option (Tlb × State) :=
  match core? s x.die x.core, die? s x.die with
  | some c, some d =>
    match lprHit c x.pasid gid va write lane with
    | some t => some (t, s)
    | none => match c.tlb.find? fun (t : Tlb) => t.serves x.pasid va write with
      | some t => some (t, lprFill s x gid t lane)
      | none => match d.cache.find? fun (t : Tlb) => t.serves x.pasid va write with
        | some t => some (t, lprFill (modCore s x.die x.core fun c => { c with tlb := t :: c.tlb }) x gid t lane)
        | none => none
  | _, _ => none

/-- The step of R162 in which a leaf's check found a cause. -/
def rankOf (t : Trap) : Nat :=
  match t.cause with
  | .scopeClass => 5
  | .granule => 6
  | _ => 4

/-- The cause by which the walker has refused a page to an instruction whose other lanes were still to be translated (R162, R294). -/
def deniedAt (p : Path) (va : W64) : Option Trap := (p.denied.find? fun e => e.1 == va.toNat / 4096).map fun e => e.2

/-- An access of the walker routine's own that misses every level: the tables give its outcome, since no other routine can, and a cause
abandons the request (R294; log entry 85). -/
def walkerOwn (s : State) (x : Ex) (k : AccKind) (va : W64) : Found × State :=
  match agentPlace s x.die x.pasid va k with
  | .ok (p, s) => (.place p, s)
  | .error (.trap t) => (.trap (rankOf t) t, s)
  | .error .ats => (.trap 3 (prot va 6), s)
  | .error .silent => (.trap 3 { cause := .homeLost, va }, s)

/-- The checks of one lane's access, in R162's order. -/
def findLane (s : State) (x : Ex) (g : Group) (k : AccKind) (lane : Option Nat) (va : W64) : Found × State :=
  match halfCheck va k.user true with
  | some t => (.trap 1 t, s)
  | none =>
    if va.toNat % k.size ≠ 0 then (.trap 2 { cause := .misalign, va }, s)
    else if inWindow va then (windowPlace s g va k, s)
    else match deniedAt x.p va with
    | some t => (.trap 3 { t with va }, s)
    | none => match lookup s x g.gid lane va (k.write || k.atomic) with
      | none => if g.isWalker then walkerOwn s x k va else (.miss, s)
      | some (t, s) => match permission t.leaf va k with
        | some tr => (.trap 3 tr, s)
        | none => match leafPlace s t va k with
          | .ok p => (.place p, s)
          | .error tr => (.trap (rankOf tr) tr, s)

/-- What the lanes so far have given: places, the first cause in R162's order with its lanes, and the lanes that missed. -/
structure Gather where
  got  : List (Nat × W64 × Place)
  trap : Option (Nat × Trap × Mask)
  miss : List (Nat × W64)

/-- Adding a lane's cause: the first in order wins, and lanes that meet the same cause at the same step of the order join it (R162; log
entry 12). -/
def Gather.add (r : Gather) (lane rank : Nat) (t : Trap) : Gather :=
  let bit := putBit 0 lane true
  match r.trap with
  | none => { r with trap := some (rank, t, bit) }
  | some (k, u, m) =>
    if rank < k then { r with trap := some (rank, t, bit) }
    else if rank = k ∧ t.cause = u.cause then { r with trap := some (k, u, m ||| bit) }
    else r

/-- Checking the lanes in ascending order. -/
def gatherLanes (x : Ex) (g : Group) (k : AccKind) (scal : Bool) : List (Nat × W64) → Gather → State → Gather × State
  | [], r, s => (r, s)
  | (l, va) :: rest, r, s =>
    let (f, s) := findLane s x g k (if scal then none else some l) va
    let r := match f with
      | .place p => { r with got := r.got ++ [(l, va, p)] }
      | .trap n t => r.add l n t
      | .miss => { r with miss := r.miss ++ [(l, va)] }
    gatherLanes x g k scal rest r s

/-- Whether a core's miss queue has no room (R293). -/
def missFull (s : State) (die core : Nat) : Bool := (core? s die core).any fun c => decide (64 ≤ c.missQ.length)

/-- A request in the core's miss queue (R293). A full queue takes none: the path waits, and is not eligible until there is room. -/
def pushMiss (s : State) (x : Ex) (gid : Nat) (va : W64) (k : AccKind) (mat : Bool) (lanes : Mask) (whole : Bool := true) : State :=
  let m : Miss := { gid, pid := x.p.pid, pasid := x.pasid, va, write := k.write || k.atomic, fetch := k.fetch, hroot := negHalf va,
                    mat, lanes, whole }
  let known := (core? s x.die x.core).any fun c => c.missQ.contains m || c.walk == some m
  if known then s
  else if missFull s x.die x.core then (if mat then s else modPath s x.who x.p.pid fun p => { p with full := true })
  else modCore s x.die x.core fun c => { c with missQ := c.missQ ++ [m] }

/-- The places of every lane of a group's access: the first cause in R162's order, or a wait for the walker. A cause of the
first two steps needs no translation; a later one waits until every lane is translated or refused its translation (log entry 12). -/
def groupPlaces (s : State) (x : Ex) (g : Group) (k : AccKind) (scal : Bool) (l : List (Nat × W64)) :
    Except Stop (List (Nat × W64 × Place) × State) :=
  let (r, s) := gatherLanes x g k scal l { got := [], trap := none, miss := [] } s
  let raise := fun (t : Trap) (m : Mask) => Except.error (Stop.trap { t with lanes := if scal then none else some m })
  let walk := fun (va : W64) =>
    let same := r.miss.filter fun e => e.2.toNat / 4096 == va.toNat / 4096
    Except.error (Stop.hold (pushMiss s x g.gid va k false (if scal then x.p.mask else maskOf (same.map fun e => e.1))
      (r.trap.isNone && same.length == r.miss.length)))
  match r.trap, r.miss with
  | some (_, t, m), [] => raise t m
  | some (n, t, m), (_, va) :: _ => if n ≤ 2 then raise t m else walk va
  | none, (_, va) :: _ => walk va
  | none, [] => .ok (r.got, s)

/-- The place of a Q or C executor's access (R162, R268). -/
def agentAccess (s : State) (x : Ex) (k : AccKind) (va : W64) : Except Stop (Place × State) :=
  match halfCheck va k.user false with
  | some t => .error (.trap t)
  | none =>
    if va.toNat % k.size ≠ 0 then .error (.trap { cause := .misalign, va })
    else match agentPlace s x.die x.pasid va k with
      | .ok r => .ok r
      | .error (.trap t) => .error (.trap t)
      | .error .ats => .error (.hold (askAts s x va (k.write || k.atomic)))
      | .error .silent => .error (.hold s)

/-- The place of an access that is made once for the path (R219). -/
def onePlace (s : State) (x : Ex) (k : AccKind) (va : W64) : Except Stop (Place × State) :=
  match x.g with
  | none => agentAccess s x k va
  | some g => match groupPlaces s x g k true [(0, va)] with
    | .error e => .error e
    | .ok (l, s) => match l.head? with
      | some e => .ok (e.2.2, s)
      | none => .error (.trap (prot va 0))

/-! ### Operations -/

/-- Operations that the agent's memory counter holds (R217). -/
def memCount (s : State) (e : Issuer) : Nat := (s.ops.filter fun o => o.counted && sameAgent o.who e).length

/-- The displacement of OFF8 (R64, R212). -/
def offOf (m : MemArg) : W64 := BitVec.ofInt 64 (m.off.toInt * m.size.bytes)

/-- The effective address of a lane (R64, R212): `scaled` for `ldx` and `stx`, `disp` unless OFF8 is an operation. -/
def laneEa (g : Group) (p : Path) (m : MemArg) (scaled disp : Bool) (lane : Nat) : W64 :=
  let i : Int := if m.index = 0xFF then 0 else (rdV g m.index.toNat lane).toInt
  let i := if scaled then i * m.size.bytes else i
  rdS p m.base + BitVec.ofInt 64 i + (if disp then offOf m else 0)

/-- The address of an access that is made once for the path (R212). -/
def pathEa (p : Path) (m : MemArg) (disp : Bool) : W64 := rdS p m.base + (if disp then offOf m else 0)

/-- What an access of an instruction is. -/
def memKind (s : State) (x : Ex) (m : MemArg) (write atomic : Bool) : AccKind :=
  { die := x.die, user := x.user, write, late := write || atomic, fetch := false, atomic, secure := x.secure, fn := fnOf s x.pasid,
    size := m.size.bytes, scope := m.scope, ord := m.ord, tline := false, watch := false, gran := true }

/-- The accesses of a lane: a b128 access is two events (R192). -/
def splitAcc (size lane : Nat) (va : W64) (place : Place) (data cmp : List Byte) : List Acc :=
  if size = 16 then
    [{ lane, va, place, data := data.take 8, cmp }, { lane, va := va + 8, place := place.add 8, data := data.drop 8, cmp }]
  else [{ lane, va, place, data, cmp }]

/-- Issuing an outstanding operation: a long-latency one opens its window, and a path whose access meets an absent ring
line parks (R58, R189, R217). -/
def startOp (s : State) (x : Ex) (kind : OpKind) (m : MemArg) (dest : Dest) (accs : List Acc) (la : Nat) (vds sds : List Nat)
    (counted : Bool := true) : State :=
  let (id, s) := fresh s
  let op : MemOp := { id, who := x.who, pid := x.p.pid, anc := x.p.anc, pc := x.p.pc, kind, size := m.size.bytes, scope := m.scope,
                      ord := m.ord, ch := m.ch, dest, todo := accs, begun := false, since := s.now, counted, leased := [] }
  let s := { s with ops := s.ops ++ [op] }
  let s := if kind.long then openWindow s x id false la vds sds else s
  let s := advance s x
  if kind.reads && accs.any fun a => placeAbsent s a.place then
    rotate (modPath s x.who x.p.pid (parkPath (clkOf s x.who) (.line id))) x.who
  else s

end Sys2Proof.Machine
end

