-- ==== Sys2Proof/Machine/Scalar.lean ====
section
/-! DEFINITION. The scalar instructions (R99 to R105). -/
namespace Sys2Proof.Machine

/-- Every executor may issue it, at every level (R66). -/
def ruleAll : Rule := { g := true, q := true, c := true, cls := .control }

/-- Only a group may issue it (R66). -/
def ruleGrp (cls : Cls) : Rule := { g := true, q := false, c := false, cls }

/-- A scalar operand read under a type (R100). -/
def scaInt (ty : IntTy) (p : Path) (r : SReg) : Int := readInt ty (rdS p r).toNat
/-- A scalar operand's low n bits (R100). -/
def scaBits (ty : IntTy) (p : Path) (r : SReg) : Nat := lowBits ty.width (rdS p r).toNat
/-- A scalar shift count (R86). -/
def scaCount (ty : IntTy) (p : Path) (r : SReg) : Nat := shiftCount ty.width (rdS p r).toNat

/-- A scalar instruction: sources, destination and result from the path's view (R99, R102). -/
def scalarOp (s : State) (ss : List SReg) (sd : SReg) (f : Path → W64) : Host.Outcome State Fault Refusal :=
  issue s ruleAll { ss := ss.map BitVec.toNat, sd := [sd.toNat] } none (scalarBody s sd f)

/-- A two-source arithmetic instruction: the exact result is narrowed and extended (R85, R100, R102). -/
def scalarArith (s : State) (ty : IntTy) (sd sa sb : SReg) (sat : Bool) (f : Int → Int → Int) : Host.Outcome State Fault Refusal :=
  scalarOp s [sa, sb] sd fun p => extend 64 ty (narrow ty sat (f (scaInt ty p sa) (scaInt ty p sb)))

/-- A two-source bitwise instruction (R100, R102). -/
def scalarBits (s : State) (ty : IntTy) (sd sa sb : SReg) (f : Nat → Nat → Nat) : Host.Outcome State Fault Refusal :=
  scalarOp s [sa, sb] sd fun p => extend 64 ty (f (scaBits ty p sa) (scaBits ty p sb))

/-- A shift instruction (R86, R101). -/
def scalarShift (s : State) (ty : IntTy) (sd sa sb : SReg) (f : Nat → Nat → Nat → Nat) : Host.Outcome State Fault Refusal :=
  scalarOp s [sa, sb] sd fun p => extend 64 ty (f ty.width (scaBits ty p sa) (scaCount ty p sb))

/-- `sadd` (R101, R102). -/
def execSadd (ty : IntTy) (sd sa sb : SReg) (sat : Bool) (s : State) : Host.Outcome State Fault Refusal :=
  scalarArith s ty sd sa sb sat fun a b => a + b
/-- `ssub` (R101, R102). -/
def execSsub (ty : IntTy) (sd sa sb : SReg) (sat : Bool) (s : State) : Host.Outcome State Fault Refusal :=
  scalarArith s ty sd sa sb sat fun a b => a - b
/-- `smul` (R101, R102). -/
def execSmul (ty : IntTy) (sd sa sb : SReg) (sat : Bool) (s : State) : Host.Outcome State Fault Refusal :=
  scalarArith s ty sd sa sb sat fun a b => a * b
/-- `smulh`: the upper n bits of the exact product (R101). -/
def execSmulh (ty : IntTy) (sd sa sb : SReg) (s : State) : Host.Outcome State Fault Refusal :=
  scalarArith s ty sd sa sb false fun a b => a * b / (2 ^ ty.width : Nat)

/-- `sdiv` and `srem` are long-latency (R87, R102). -/
def scalarDiv (s : State) (la : BitVec 4) (ty : IntTy) (sd sa sb : SReg) (f : Int × Int → Int) : Host.Outcome State Fault Refusal :=
  issue s ruleAll { ss := [sa.toNat, sb.toNat], sd := [sd.toNat] } none fun x =>
    let r := extend 64 ty (narrow ty false (f (divRem ty (scaInt ty x.p sa) (scaInt ty x.p sb))))
    .ok (longBody s x false la [] [sd.toNat] [] [(sd.toNat, r)] 0)

/-- `sdiv` (R87, R101). -/
def execSdiv (la : BitVec 4) (ty : IntTy) (sd sa sb : SReg) (s : State) : Host.Outcome State Fault Refusal :=
  scalarDiv s la ty sd sa sb fun r => r.1
/-- `srem` (R87, R101). -/
def execSrem (la : BitVec 4) (ty : IntTy) (sd sa sb : SReg) (s : State) : Host.Outcome State Fault Refusal :=
  scalarDiv s la ty sd sa sb fun r => r.2

/-- `sand` (R101). -/
def execSand (ty : IntTy) (sd sa sb : SReg) (s : State) : Host.Outcome State Fault Refusal := scalarBits s ty sd sa sb Nat.land
/-- `sor` (R101). -/
def execSor (ty : IntTy) (sd sa sb : SReg) (s : State) : Host.Outcome State Fault Refusal := scalarBits s ty sd sa sb Nat.lor
/-- `sxor` (R101). -/
def execSxor (ty : IntTy) (sd sa sb : SReg) (s : State) : Host.Outcome State Fault Refusal := scalarBits s ty sd sa sb Nat.xor
/-- `sandn`: a and not b (R101). -/
def execSandn (ty : IntTy) (sd sa sb : SReg) (s : State) : Host.Outcome State Fault Refusal :=
  scalarBits s ty sd sa sb fun a b => a - Nat.land a b
/-- `sshl` (R86, R101). -/
def execSshl (ty : IntTy) (sd sa sb : SReg) (s : State) : Host.Outcome State Fault Refusal := scalarShift s ty sd sa sb shlN
/-- `sshr` (R86, R101). -/
def execSshr (ty : IntTy) (sd sa sb : SReg) (s : State) : Host.Outcome State Fault Refusal :=
  scalarShift s ty sd sa sb fun _ a c => shrN a c
/-- `ssra` (R86, R101). -/
def execSsra (ty : IntTy) (sd sa sb : SReg) (s : State) : Host.Outcome State Fault Refusal := scalarShift s ty sd sa sb sraN
/-- `srot` (R101). -/
def execSrot (ty : IntTy) (sd sa sb : SReg) (s : State) : Host.Outcome State Fault Refusal := scalarShift s ty sd sa sb rotN
/-- `smin` (R101). -/
def execSmin (ty : IntTy) (sd sa sb : SReg) (s : State) : Host.Outcome State Fault Refusal := scalarArith s ty sd sa sb false min
/-- `smax` (R101). -/
def execSmax (ty : IntTy) (sd sa sb : SReg) (s : State) : Host.Outcome State Fault Refusal := scalarArith s ty sd sa sb false max

/-- `sclz` (R101). -/
def execSclz (ty : IntTy) (sd sa : SReg) (s : State) : Host.Outcome State Fault Refusal :=
  scalarOp s [sa] sd fun p => BitVec.ofNat 64 (clzN ty.width (scaBits ty p sa))
/-- `spopc` (R101). -/
def execSpopc (ty : IntTy) (sd sa : SReg) (s : State) : Host.Outcome State Fault Refusal :=
  scalarOp s [sa] sd fun p => BitVec.ofNat 64 (popcN ty.width (scaBits ty p sa))

/-- `sbfe` (R103). -/
def execSbfe (ty : IntTy) (sd sa : SReg) (pos lenm1 : BitVec 6) (s : State) : Host.Outcome State Fault Refusal :=
  scalarOp s [sa] sd fun p =>
    let len := lenm1.toNat + 1
    extend 64 ty (narrow ty false (signField ty.isI (fieldN (scaBits ty p sa) pos.toNat len) len))
/-- `sbfi` (R103). -/
def execSbfi (ty : IntTy) (sd sa sb : SReg) (pos lenm1 : BitVec 6) (s : State) : Host.Outcome State Fault Refusal :=
  scalarOp s [sa, sb] sd fun p =>
    BitVec.ofNat 64 (insertN (scaBits ty p sa) (scaBits ty p sb) pos.toNat (lenm1.toNat + 1))
/-- `ssel`: a where s[SC] is not zero, else b (R101). -/
def execSsel (sd sa sb sc : SReg) (s : State) : Host.Outcome State Fault Refusal :=
  scalarOp s [sa, sb, sc] sd fun p => if rdS p sc = 0 then rdS p sb else rdS p sa
/-- `scmp` (R101). -/
def execScmp (ty : IntTy) (cnd : Cnd) (sd sa sb : SReg) (s : State) : Host.Outcome State Fault Refusal :=
  scalarOp s [sa, sb] sd fun p => if cndHolds cnd (scaInt ty p sa) (scaInt ty p sb) then 1 else 0
/-- `smov` (R101). -/
def execSmov (sd sa : SReg) (s : State) : Host.Outcome State Fault Refusal := scalarOp s [sa] sd fun p => rdS p sa
/-- `sli` (R105). -/
def execSli (sd : SReg) (imm : W32) (s : State) : Host.Outcome State Fault Refusal :=
  scalarOp s [] sd fun _ => imm.signExtend 64
/-- `sli.hi`: the low half is kept (R105). -/
def execSliHi (sd : SReg) (imm : W32) (s : State) : Host.Outcome State Fault Refusal :=
  scalarOp s [sd] sd fun p => imm ++ (rdS p sd).extractLsb' 0 32

/-- An immediate form: 64 bits, b the sign-extended immediate (R104). -/
def scalarImm (s : State) (sd sa : SReg) (imm : BitVec 33) (f : W64 → W64 → W64) : Host.Outcome State Fault Refusal :=
  scalarOp s [sa] sd fun p => f (rdS p sa) (imm.signExtend 64)

/-- `sadd` with an immediate (R104). -/
def execSaddImm (sd sa : SReg) (imm : BitVec 33) (s : State) : Host.Outcome State Fault Refusal :=
  scalarImm s sd sa imm fun a b => a + b
/-- `smul` with an immediate (R104). -/
def execSmulImm (sd sa : SReg) (imm : BitVec 33) (s : State) : Host.Outcome State Fault Refusal :=
  scalarImm s sd sa imm fun a b => a * b
/-- `sand` with an immediate (R104). -/
def execSandImm (sd sa : SReg) (imm : BitVec 33) (s : State) : Host.Outcome State Fault Refusal :=
  scalarImm s sd sa imm fun a b => a &&& b
/-- `sor` with an immediate (R104). -/
def execSorImm (sd sa : SReg) (imm : BitVec 33) (s : State) : Host.Outcome State Fault Refusal :=
  scalarImm s sd sa imm fun a b => a ||| b
/-- `sxor` with an immediate (R104). -/
def execSxorImm (sd sa : SReg) (imm : BitVec 33) (s : State) : Host.Outcome State Fault Refusal :=
  scalarImm s sd sa imm fun a b => a ^^^ b
/-- `sshl` with an immediate (R104). -/
def execSshlImm (sd sa : SReg) (imm : BitVec 33) (s : State) : Host.Outcome State Fault Refusal :=
  scalarImm s sd sa imm fun a b => a <<< (b.toNat % 64)
/-- `sshr` with an immediate (R104). -/
def execSshrImm (sd sa : SReg) (imm : BitVec 33) (s : State) : Host.Outcome State Fault Refusal :=
  scalarImm s sd sa imm fun a b => a >>> (b.toNat % 64)
/-- `ssra` with an immediate (R104). -/
def execSsraImm (sd sa : SReg) (imm : BitVec 33) (s : State) : Host.Outcome State Fault Refusal :=
  scalarImm s sd sa imm fun a b => a.sshiftRight (b.toNat % 64)

end Sys2Proof.Machine
end

