-- ==== Sys2Proof/Machine/Collective.lean ====
section
/-! DEFINITION. The collectives (R35, R146 to R154): the rendezvous of a group's paths and the results. -/
namespace Sys2Proof.Machine

/-- The issuing path issues, parks at its word, and the live slots rotate (R34, R264). -/
def parkAt (s : State) (x : Ex) (w : Wait) : State :=
  let now := clkOf s x.who
  rotate (modPath s x.who x.p.pid fun p => parkPath now w { p with age := 0, lastAt := now }) x.who

/-- A path that issued when it parked keeps its place in the selection when its wait ends (R264, R266). -/
def keepTurn (p q : Path) : Path := { q with age := p.age, lastAt := p.lastAt }

/-- A parked path goes on at the next word (R146). -/
def unpark (now : Nat) (ok : Bool) (p : Path) : Path := keepTurn p (stepPath now ok { p with wait := .run })

/-- The member mask with which a path is parked at a collective word. -/
def Path.parkedAt (p : Path) (pc : W64) : Option Mask :=
  match p.wait with
  | .collective m _ => if p.pc = pc then some m else none
  | _ => none

/-- Parked at a collective word with a member mask that overlaps another and differs from it (R146). -/
def Path.clashes (p : Path) (pc : W64) (P : Mask) : Bool :=
  match p.parkedAt pc with
  | some m => m != P && m &&& P != 0
  | none => false

/-- The lanes of some paths. -/
def lanesHeld (l : List Path) : Mask := l.foldl (fun m p => m ||| p.mask) 0

/-- A spilled path (R30). -/
def Entry.isPath : Entry → Bool
  | .path _ => true
  | _ => false

/-- Every path of the current level is parked at a collective, none spilled (R35). -/
def allAtCollective (g : Group) : Bool :=
  g.stack.rest.all (fun e => !e.isPath) && !g.stack.paths.isEmpty && g.stack.paths.all fun p =>
    match p.wait with
    | .collective _ _ => true
    | _ => false

/-- The path that parked last at a collective. -/
def lastParked (g : Group) : Option Path :=
  g.stack.paths.foldl (fun (m : Option Path) p => match p.wait, m with
    | .collective _ n, some q => match q.wait with
      | .collective _ k => if k < n then some p else some q
      | _ => some p
    | .collective _ _, none => some p
    | _, m => m) none

/-- COLLECTIVE_DEADLOCK when every path of the group is parked at a collective (R35). -/
def deadlockCheck (s : State) (gid : Nat) : State :=
  match grp? s gid with
  | none => s
  | some g =>
    if allAtCollective g then
      match lastParked g with
      | some p => raiseGroup s g p { cause := .collectiveDeadlock } p.pc
      | none => s
    else s

/-- A parked path whose collective names an exited lane, when every other lane of it is parked there (R148). -/
def exitedParked (g : Group) : Option (Path × Mask) :=
  g.stack.paths.findSome? fun p => match p.wait with
    | .collective m _ =>
      let l := g.stack.paths.filter fun q => q.parkedAt p.pc == some m
      if m &&& g.exited ≠ 0 ∧ (m &&& ~~~ g.exited) &&& ~~~ (lanesHeld l) = 0 then some (p, lanesHeld l) else none
    | _ => none

/-- What an exit makes of the group's parked collectives (R35, R148). -/
def exitCheck (s : State) (gid : Nat) : State :=
  match grp? s gid with
  | none => s
  | some g => match exitedParked g with
    | some (p, m) => raiseGroup s g p { cause := .collectiveExited, lanes := some m } p.pc
    | none => deadlockCheck s gid

/-- What a complete collective does: to the group's registers and to each participating path. -/
structure Effect where
  grp  : Group → Group
  path : Path → Path

/-- A collective's body (R146 to R149): it parks, raises, or completes for every participating path as one event. -/
def collective (s : State) (mm : MReg) (lane : Option (BitVec 6)) (eff : Group → List Path → Mask → Effect) : Body :=
  withGroup fun x g =>
    let P := rdM g x.p mm
    if x.p.mask &&& ~~~ P ≠ 0 then bad .illegal
    else if g.frames.any fun f => P &&& ~~~ f.lanes != 0 then bad .illegal
    else if lane.any fun l => !P.getLsbD l.toNat then bad .illegal
    else
      if g.stack.paths.any fun q => q.clashes x.p.pc P then bad .illegal
      else
        let part := x.p :: g.stack.paths.filter fun q => q.parkedAt x.p.pc == some P
        if (P &&& ~~~ g.exited) &&& ~~~ (lanesHeld part) ≠ 0 then
          let (n, s) := fresh s
          .ok (deadlockCheck (parkAt (noteIssue s x) x (.collective P n)) g.gid)
        else if P &&& g.exited ≠ 0 then .error (.trap { cause := .collectiveExited, lanes := some (lanesHeld part) })
        else
          let e := eff g part P
          let s := modGrp (noteIssue s x) g.gid e.grp
          let s := part.foldl (fun s q => modPath s x.who q.pid fun p => unpark (clkOf s x.who) (endsAtHeader s x) (e.path p)) s
          .ok (settle s g.gid)

/-- The rule of the collectives (R66). -/
def collRule : Rule := ruleGrp .vector

/-- A collective that writes a mask register. -/
def voteOp (s : State) (vs : List Nat) (md mm : MReg) (f : Group → List Path → Mask → Mask) : Host.Outcome State Fault Refusal :=
  issue s collRule { vs } none (collective s mm none fun g part P =>
    { grp := fun g' => wrM g' md.toNat P (f g part P), path := id })

/-- A collective that writes a vector register in every member lane. -/
def memberOp (s : State) (vs : List Nat) (vd : VReg) (mm : MReg) (f : Group → List Path → Mask → Nat → W32) :
    Host.Outcome State Fault Refusal :=
  issue s collRule { vs, vd := [vd.toNat] } none (collective s mm none fun g part P =>
    { grp := fun g' => (lanesOf P).foldl (fun a i => wrV a vd.toNat i (f g part P i)) g', path := id })

/-- B of R151: m0 reads the union of the participating paths' masks. -/
def voteSet (g : Group) (part : List Path) (P : Mask) (mb : MReg) : Mask :=
  (if mb = 0 then lanesHeld part else rdM g (newPath 0 0 0 0) mb) &&& P

/-- `vote.any` (R151). -/
def execVoteAny (md mm mb : MReg) (s : State) : Host.Outcome State Fault Refusal :=
  voteOp s [] md mm fun g part P => if voteSet g part P mb = 0 then 0 else BitVec.allOnes 64
/-- `vote.all` (R151). -/
def execVoteAll (md mm mb : MReg) (s : State) : Host.Outcome State Fault Refusal :=
  voteOp s [] md mm fun g part P => if voteSet g part P mb = P then BitVec.allOnes 64 else 0
/-- `vote.ballot` (R151). -/
def execVoteBallot (md mm mb : MReg) (s : State) : Host.Outcome State Fault Refusal :=
  voteOp s [] md mm fun g part P => voteSet g part P mb
/-- `vote.uni` (R151); a hold bit affects timing only (R60). -/
def execVoteUni (_hold : Bool) (md mm : MReg) (va : VReg) (s : State) : Host.Outcome State Fault Refusal :=
  voteOp s [va.toNat] md mm fun g _ P =>
    let vals := (lanesOf P).map fun j => rdV g va.toNat j
    if vals.all fun v => vals.head? == some v then BitVec.allOnes 64 else 0

/-- The value `shfl` gives lane i from source lane j (R151). -/
def shflFrom (g : Group) (P : Mask) (vs : VReg) (i : Nat) (j : Int) : W32 :=
  if 0 ≤ j ∧ j < g.width ∧ P.getLsbD j.toNat then rdV g vs.toNat j.toNat else rdV g vs.toNat i

/-- `shfl.idx` (R151). -/
def execShflIdx (_hold : Bool) (vd vs : VReg) (mm : MReg) (s : State) : Host.Outcome State Fault Refusal :=
  memberOp s [vs.toNat, vd.toNat] vd mm fun g _ P i => shflFrom g P vs i (rdV g vd.toNat i).toNat
/-- `shfl.up` (R151). -/
def execShflUp (_hold : Bool) (vd vs : VReg) (mm : MReg) (k : BitVec 6) (s : State) : Host.Outcome State Fault Refusal :=
  memberOp s [vs.toNat] vd mm fun g _ P i => shflFrom g P vs i ((i : Int) - k.toNat)
/-- `shfl.down` (R151). -/
def execShflDown (_hold : Bool) (vd vs : VReg) (mm : MReg) (k : BitVec 6) (s : State) : Host.Outcome State Fault Refusal :=
  memberOp s [vs.toNat] vd mm fun g _ P i => shflFrom g P vs i ((i : Int) + k.toNat)
/-- `shfl.xor` (R151). -/
def execShflXor (_hold : Bool) (vd vs : VReg) (mm : MReg) (k : BitVec 6) (s : State) : Host.Outcome State Fault Refusal :=
  memberOp s [vs.toNat] vd mm fun g _ P i => shflFrom g P vs i (Nat.xor i k.toNat : Nat)

/-- The combining operation of `vscan` and `vred` (R152). -/
def scanFn (op : ScanOp) (ty : IntTy) (a b : W32) : W32 :=
  match op with
  | .add => a + b
  | .min => if ty.isI then (if a.toInt ≤ b.toInt then a else b) else (if a.toNat ≤ b.toNat then a else b)
  | .max => if ty.isI then (if b.toInt ≤ a.toInt then a else b) else (if b.toNat ≤ a.toNat then a else b)
  | .and => a &&& b
  | .or => a ||| b
  | .xor => a ^^^ b

/-- The identity of R152. -/
def scanUnit (op : ScanOp) (ty : IntTy) : W32 :=
  match op with
  | .min => BitVec.ofInt 32 (tyMax ty)
  | .max => BitVec.ofInt 32 (tyMin ty)
  | .and => 0xFFFFFFFF#32
  | _ => 0

/-- The combination over some lanes in ascending order (R152). -/
def scanOver (g : Group) (op : ScanOp) (ty : IntTy) (vs : VReg) (l : List Nat) : W32 :=
  l.foldl (fun a j => scanFn op ty a (rdV g vs.toNat j)) (scanUnit op ty)

/-- `vscan` (R152). -/
def execVscan (_hold : Bool) (op : ScanOp) (ty : IntTy) (vd vs : VReg) (mm : MReg) (excl : Bool) (s : State) :
    Host.Outcome State Fault Refusal :=
  memberOp s [vs.toNat] vd mm fun g _ P i =>
    scanOver g op ty vs ((lanesOf P).filter fun j => decide (j < i) || (!excl && j == i))
/-- `vred` (R152). -/
def execVred (_hold : Bool) (op : ScanOp) (ty : IntTy) (vd vs : VReg) (mm : MReg) (s : State) : Host.Outcome State Fault Refusal :=
  memberOp s [vs.toNat] vd mm fun g _ P _ => scanOver g op ty vs (lanesOf P)

/-- The participating path that holds a lane. -/
def holderOf (part : List Path) (lane : Nat) : Option Path := part.find? fun p => p.mask.getLsbD lane

/-- A scalar read from the view of the path that holds a lane. -/
def heldScalar (part : List Path) (lane : Nat) (r : SReg) : W64 :=
  match holderOf part lane with
  | some p => rdS p r
  | none => 0

/-- The sum of the counts of some lanes (R153). -/
def sumLanes (g : Group) (vs : VReg) (l : List Nat) : W64 := l.foldl (fun a j => a + (rdV g vs.toNat j).setWidth 64) 0

/-- `vappend` (R153). -/
def execVappend (_hold : Bool) (vd vs : VReg) (mm : MReg) (sb : SReg) (s : State) : Host.Outcome State Fault Refusal :=
  issue s collRule { vs := [vs.toNat], vd := [vd.toNat], ss := [sb.toNat], sd := [sb.toNat] } none
    (collective s mm none fun g part P =>
      let base := heldScalar part ((lanesOf P).head?.getD 0) sb
      { grp := fun g' => (lanesOf P).foldl (fun a j =>
          wrV a vd.toNat j ((base + sumLanes g vs ((lanesOf P).filter fun k => decide (k < j))).setWidth 32)) g',
        path := fun p => wrS p sb.toNat (base + sumLanes g vs (lanesOf P)) })
/-- `vreadl` (R154). -/
def execVreadl (_hold : Bool) (sd : SReg) (vs : VReg) (mm : MReg) (lane : BitVec 6) (s : State) : Host.Outcome State Fault Refusal :=
  issue s collRule { vs := [vs.toNat], sd := [sd.toNat] } none (collective s mm (some lane) fun g _ _ =>
    { grp := id, path := fun p => wrS p sd.toNat ((rdV g vs.toNat lane.toNat).setWidth 64) })
/-- `vwritel` (R154). -/
def execVwritel (vd : VReg) (ss : SReg) (mm : MReg) (lane : BitVec 6) (s : State) : Host.Outcome State Fault Refusal :=
  issue s collRule { vd := [vd.toNat], ss := [ss.toNat] } none (collective s mm (some lane) fun _ part _ =>
    { grp := fun g => wrV g vd.toNat lane.toNat ((heldScalar part lane.toNat ss).setWidth 32), path := id })

end Sys2Proof.Machine
end

