-- ==== Sys2Proof/Machine/Engine.lean ====
section
/-! DEFINITION. The matrix engine at work (R234, R239 to R244): the operands of an operation, one element at a time, the ends
of rows and steps, and the completion that advances the stream's timeline. -/
namespace Sys2Proof.Machine

/-- The operation at the head of a stream, with its group, as its accesses see it, and the die whose outstanding reads come back
poisoned, if any (R326). -/
structure Eng where
  die  : Nat
  core : Nat
  k    : Nat
  o    : MatOp
  g    : Group
  ecc  : Ecc
  far  : Option Nat := none

/-- Why an operation does not go on: it waits, or it meets a cause. -/
inductive MatStop
  | wait (s : State) | fail (s : State) (t : Trap)

/-- The operation at the head of a stream that has not stopped. -/
def engOf (s : State) (die core k : Nat) (ecc : Ecc) : Option Eng :=
  match core? s die core with
  | none => none
  | some c => match sget [] c.strm k with
    | [] => none
    | o :: _ => match grp? s o.gid with
      | none => none
      | some g => if o.stopped then none else some { die, core, k, o, g, ecc }

/-- The executor as which an operation's accesses are translated and checked (R244). -/
def Eng.ex (s : State) (e : Eng) : Ex :=
  { who := .grp e.o.gid 0, p := newPath e.o.pid e.o.pc 0 s.now, g := some e.g, die := e.g.die, core := e.g.core,
    pasid := groupPasid s e.g, user := !e.o.sys, secure := s.secure.contains (.core e.g.die e.g.core) }

/-- What a matrix access is: weak (R241), or the signal of `mst` (R240). -/
def Eng.kind (s : State) (e : Eng) (write tline : Bool) (size : Nat) : AccKind :=
  { die := e.g.die, late := false, watch := false, user := !e.o.sys, write, fetch := false, atomic := false, secure := s.secure.contains (.core e.g.die e.g.core),
    fn := fnOf s (groupPasid s e.g), size, scope := .weak, ord := .plain, tline, gran := true }

/-- Changing the operation where it stands. -/
def Eng.mod (s : State) (e : Eng) (f : MatOp → MatOp) : State := modHead s e.die e.core e.k f

/-- Whether a matrix access may name a place (R241). -/
def matTarget : Place → Bool
  | .fab _ mt _ _ _ | .far _ _ mt _ => mt == 0
  | .reg _ _ _ | .ringCtl _ _ _ => false
  | _ => true

/-- The place of an operand's unit (R189, R241, R244); `src` is its SRC in MRPn. A read that was outstanding on a path that has failed
waits for its poison (R326). -/
def Eng.seek (s : State) (e : Eng) (write tline : Bool) (src : Nat) (va : W64) (size : Nat) : Except MatStop (Place × State) :=
  let k := e.kind s write tline size
  match findLane s (e.ex s) e.g k none va with
  | (.miss, s) => .error (.wait (e.mod (pushMiss s (e.ex s) e.g.gid va k true 0) fun o => { o with await := some (va, src) }))
  | (.trap _ t, s) => .error (.fail s t)
  | (.place p, s) =>
    let torn := e.far.isNone && p.home.any fun h => decide (e.o.since < tornMark s e.g.die h)
    if (!tline && !matTarget p) || (tline && inWindow va) then .error (.fail s (prot va 0))
    else if placeLost s e.g.die p then .error (.fail s { cause := .homeLost, va })
    else if placeAbsent s p || leasedAway s e.g.die p || homeSilent s e.g.die p || (!write && torn) then .error (.wait s)
    else .ok (p, s)

/-- The transactions to other modules that a stream has sent since an identifier are its own (R299, R325). -/
def Eng.own (s0 : State) (e : Eng) (before : Nat) (va : W64) (n : Nat) (s : State) : State :=
  ownTx before (.matrix e.die e.core e.k) (groupPasid s0 e.g) va n s

/-- The reads that an operation makes from now on have begun (R326). -/
def Eng.anew (s : State) (e : Eng) : State :=
  let (since, s) := fresh s
  e.mod s fun o => { o with since }

/-- What serves a matrix read: the nearest valid copy, the core's L1 first (R214, R241). -/
def nearestCopy : MemChoice := { plainChoice with useL1 := true }

/-- Reading one unit of an operand. -/
def Eng.unit (s : State) (e : Eng) (src : Nat) (va : W64) (u : Nat) : Except MatStop (List Byte × State) :=
  match e.seek s false false src va u with
  | .error x => .error x
  | .ok (p, s) =>
    let (s, wrong) := eccApply s p e.ecc
    if wrong then .error (.fail s { cause := .granule, va })
    else
      let r := readPlace s e.g.die e.g.core p u .weak 0 nearestCopy
      let (bs, s) := (r.1, e.own s s.freshId va u r.2)
      if (bs.any fun b => b.2) || (e.far.isSome && p.endpoint == e.far) then .error (.fail s { cause := .poison, va }) else .ok (bs.map fun b => b.1, s)

/-- Reading `n` units of `u` bytes. -/
def Eng.read (s : State) (e : Eng) (src : Nat) (va : W64) (u : Nat) : Nat → Except MatStop (List Byte × State)
  | 0 => .ok ([], s)
  | n + 1 => match e.read s src va u n with
    | .error x => .error x
    | .ok (l, s) => match e.unit s src (va + BitVec.ofNat 64 (u * n)) u with
      | .error x => .error x
      | .ok (b, s) => .ok (l ++ b, s)

/-- The places of `n` units of 16 bytes to be written; a wrong tag is found before any of them is (R182). -/
def Eng.dests (s : State) (e : Eng) (va : W64) : Nat → Except MatStop (List Place × State)
  | 0 => .ok ([], s)
  | n + 1 => match e.dests s va n with
    | .error x => .error x
    | .ok (l, s) => match e.seek s true false 5 (va + BitVec.ofNat 64 (16 * n)) 16 with
      | .error x => .error x
      | .ok (p, s) =>
        let (s, wrong) := eccApply s p e.ecc
        if wrong then .error (.fail s { cause := .granule, va := va + BitVec.ofNat 64 (16 * n) }) else .ok (l ++ [p], s)

/-! ### Segments and elements -/

/-- Key of a tile's element. -/
def tileKey (zd m n : Nat) : Nat := zd * 4096 + m * 64 + n

/-- An element of a tile of the core that runs the operation. -/
def Eng.elem (s : State) (e : Eng) (n : Nat) : W32 :=
  match core? s e.die e.core with
  | some c => sget 0 c.tiles (tileKey e.o.zd e.o.row n)
  | none => 0

/-- Writing an element (R242). -/
def Eng.setElem (s : State) (e : Eng) (n : Nat) (v : W32) : State :=
  modCore s e.die e.core fun c => { c with tiles := sset 0 c.tiles (tileKey e.o.zd e.o.row n) v }

/-- Word i of an operand triple. -/
def word (l : List W64) (i : Nat) : W64 := (l[i]?).getD 0

/-- The increment of an operand: an `mma` has one step and reads none (R236). -/
def Eng.incr (e : Eng) (l : List W64) : W64 := BitVec.ofNat 64 e.o.step * word l 2

/-- The formats of a multiply-accumulate operation. -/
def MatKind.types : MatKind → Option (MatTy × MatTy × Bool)
  | .mma a b mx | .mloop a b mx => some (a, b, mx)
  | _ => none

/-- Whether a format is one of the 6-bit ones. -/
def sixBit : MatTy → Bool
  | .fp t => t.isFp6
  | .int => false

/-- Units of a segment: 12 bytes of a 6-bit format in 4-byte units, else 16 bytes (R237). -/
def segUnits (t : MatTy) : Nat × Nat := if sixBit t then (4, 3) else (16, 1)

/-- The values of a segment's terms (R88, R239). -/
def segTerms (t : FpTy) (l : List Byte) : List FVal :=
  let w := (fmtShape t).w
  (List.range (8 * l.length / w)).map fun i => readFp t (ofBytes l / 2 ^ (w * i) % 2 ^ w)

/-- The block index of a step's scales (R98, R239). -/
def Eng.block (e : Eng) : MatTy → Nat
  | .fp .e2m1 => e.o.step
  | _ => e.o.step / 2

/-- The sum of an INT8 step (R239). -/
def intStep (a b : List Byte) : Int := (a.zip b).foldl (fun s p => s + p.1.toInt * p.2.toInt) 0

/-- One element of a step (R97, R98, R239). -/
def macElem (ta : MatTy) (tb : MatTy) (mx : Bool) (z : W32) (a b : List Byte) (ea eb : Nat) : W32 × Flags :=
  match ta, tb with
  | .fp x, .fp y =>
    if mx && (ea == 255 || eb == 255) then (0x7FC00000#32, fIV)
    else
      let r := dotstep z.toNat (segTerms x a) (segTerms y b) (dotWindow x)
        (if mx then (ea : Int) - 127 + ((eb : Int) - 127) else 0)
      (BitVec.ofNat 32 r.1, r.2)
  | _, _ => (z + BitVec.ofInt 32 (intStep a b), 0)

/-- Bytes of an element in memory. -/
def elemBytes : MatTy → Nat
  | .int => 4
  | .fp t => (fmtShape t).w / 8

/-- What `mld` makes of an element's bytes (R240). -/
def loadElem : MatTy → Nat → W32 × Flags
  | .fp t, x =>
    if t = .f32 then (BitVec.ofNat 32 x, 0)
    else
      let r := fpCvt (readFp t x) .f32 .rne false
      (BitVec.ofNat 32 r.1, r.2)
  | .int, x => (BitVec.ofNat 32 x, 0)

/-- A value times a power of two (R240). -/
def scaleVal (k : Int) : FVal → FVal
  | .fin n m e => .fin n m (if m = 0 then e else e + k)
  | v => v

/-- What `mst` makes of an element (R240). -/
def storeElem (ty : MatTy) (rm : RoundMode) (ovf : Bool) (k : Int) (z : W32) : Nat × Flags :=
  match ty with
  | .int => (z.toNat, 0)
  | .fp t => fpCvt (scaleVal k (readFp .f32 z.toNat)) t rm ovf

/-! ### Progress -/

/-- The B segments of a step (R239). -/
def Eng.readB (s : State) (e : Eng) (tb : MatTy) : Nat → Except MatStop (List (List Byte) × State)
  | 0 => .ok ([], s)
  | n + 1 => match e.readB s tb n with
    | .error x => .error x
    | .ok (l, s) =>
      match e.read s 1 (word e.o.b 0 + e.incr e.o.b + BitVec.ofNat 64 n * word e.o.b 1) (segUnits tb).1 (segUnits tb).2 with
      | .error x => .error x
      | .ok (b, s) => .ok (l ++ [b], s)

/-- Obtaining the B segments and B scales of the step, before its row 0 (R239). -/
def Eng.takeB (s : State) (e : Eng) (tb : MatTy) (mx : Bool) : Except MatStop State :=
  match e.readB s tb 64 with
  | .error x => .error x
  | .ok (l, s) =>
    match (if mx then e.read s 3 (word e.o.k 2 + BitVec.ofNat 64 (64 * e.block tb)) 1 64 else .ok ([], s)) with
    | .error x => .error x
    | .ok (sc, s) => .ok (e.anew (e.mod s fun o => { o with bseg := some (l, sc), await := none }))

/-- Obtaining the A segment and A scale of the row, before the row (R239). -/
def Eng.takeA (s : State) (e : Eng) (ta : MatTy) (mx : Bool) : Except MatStop State :=
  match e.read s 0 (word e.o.a 0 + e.incr e.o.a + BitVec.ofNat 64 e.o.row * word e.o.a 1) (segUnits ta).1 (segUnits ta).2 with
  | .error x => .error x
  | .ok (l, s) =>
    match (if mx then e.read s 2 (word e.o.k 1 + BitVec.ofNat 64 (64 * e.block ta + e.o.row)) 1 1 else .ok ([], s)) with
    | .error x => .error x
    | .ok (sc, s) => .ok (e.mod s fun o => { o with aseg := some (l, ofBytes sc), await := none })

/-- The address of the row of `mld` and `mst` (R240). -/
def Eng.rowVa (e : Eng) : W64 := word e.o.a 0 + BitVec.ofNat 64 e.o.row * word e.o.a 1

/-- Obtaining the source row of `mld` (R240). -/
def Eng.takeRow (s : State) (e : Eng) (ty : MatTy) : Except MatStop State :=
  match e.read s 4 e.rowVa 16 (4 * elemBytes ty) with
  | .error x => .error x
  | .ok (l, s) => .ok (e.mod s fun o => { o with aseg := some (l, 0), await := none })

/-- An element is done: the row's flags gather (R239). -/
def Eng.next (s : State) (e : Eng) (fl : Flags) : State := e.mod s fun o => { o with col := o.col + 1, flags := o.flags ||| fl }

/-- One element of a row (R239, R240). -/
def Eng.oneElem (s : State) (e : Eng) (seg : List Byte × Nat) : State :=
  let n := e.o.col
  match e.o.kind with
  | .mzero => s
  | .mld ty =>
    let r := loadElem ty (ofBytes ((seg.1.drop (n * elemBytes ty)).take (elemBytes ty)))
    e.next (e.setElem s n r.1) r.2
  | .mma ta tb mx | .mloop ta tb mx =>
    let b := e.o.bseg.getD ([], [])
    let r := macElem ta tb mx (e.elem s n) seg.1 ((b.1[n]?).getD []) seg.2 (((b.2[n]?).getD 0).toNat)
    e.next (e.setElem s n r.1) r.2
  | .mst ty rm ovf sc _ =>
    let r := storeElem ty rm ovf (if sc then (word e.o.k 0).toInt else 0) (e.elem s n)
    e.next (e.mod s fun o => { o with aseg := some (seg.1 ++ toBytes (elemBytes ty) r.1, 0) }) r.2

/-- A row is complete: its flags are ORed into MSTAT (R239, R246). -/
def Eng.rowDone (s : State) (e : Eng) : State :=
  let s := modGrp s e.o.gid fun g => { g with mstat := g.mstat ||| flagWord e.o.flags }
  e.anew (e.mod s fun o =>
    let o := { o with row := o.row + 1, col := 0, aseg := none, flags := 0, await := none }
    match o.kind with
    | .mma _ _ _ | .mloop _ _ _ => if o.row = 64 then { o with step := o.step + 1, row := 0, bseg := none } else o
    | _ => o)

/-- The end of a row: `mst` writes it (R240). -/
def Eng.rowEnd (s : State) (e : Eng) (seg : List Byte × Nat) : Except MatStop State :=
  match e.o.kind with
  | .mst ty _ _ _ _ =>
    match e.dests s e.rowVa (4 * elemBytes ty) with
    | .error x => .error x
    | .ok (ps, s) =>
      let s := e.own s s.freshId e.rowVa (64 * elemBytes ty) (ps.zipIdx.foldl (fun s p =>
        writePlace s e.g.die e.g.core p.1 (cleanBytes ((seg.1.drop (16 * p.2)).take 16)) .weak 0 plainChoice) s)
      .ok (e.rowDone (clearWhole s e.g.die (ps.map fun p => (p, 16)) (ps.map fun p => (p, 16))))
  | _ => .ok (e.rowDone s)

/-- The stream's timeline (R234). -/
def strmTl (core k : Nat) : Nat := 3776 + 4 * core + k

/-- An operation completes: the stream's timeline advances to its number, which releases every access of the stream's
operations (R206, R234), and the next one begins to read. -/
def Eng.complete (s : State) (e : Eng) : State :=
  let s := tlWrite (releaseBy s e.die .pkg) e.die (strmTl e.core e.k) (BitVec.ofNat 64 e.o.num)
  let (since, s) := fresh s
  modCore s e.die e.core fun c =>
    { c with strm := sset [] c.strm e.k (((sget [] c.strm e.k).drop 1).modifyHead fun o => { o with since }) }

/-- The signal of `mst` (R206, R240); one to another module is performed when it is acknowledged (R325). -/
def Eng.signal (s : State) (e : Eng) : Except MatStop State :=
  if e.o.signalled then .ok (e.complete s)
  else match e.seek s true true 6 (word e.o.b 0) 8 with
  | .error x => .error x
  | .ok (p, s) =>
    let u := e.own s s.freshId (word e.o.b 0) 8 (writeHome (releaseBy s e.die .pkg) p (cleanBytes (toBytes 8 (word e.o.b 1).toNat)))
    if farOut u (.matrix e.die e.core e.k) then .ok (e.mod u fun o => { o with signalled := true }) else .ok (e.complete u)

/-- Whether every row of an operation is done, the signal apart. -/
def MatOp.rowsDone (o : MatOp) : Bool :=
  match o.kind with
  | .mzero => true
  | .mld _ | .mst _ _ _ _ _ => decide (64 ≤ o.row)
  | .mma _ _ _ => decide (1 ≤ o.step)
  | .mloop _ _ _ => decide ((word o.k 0).toNat ≤ o.step)

/-- The end of an operation whose rows are done and whose writes to other modules are performed (R206, R325). `mzero` clears its tile's elements in one action, so that no other stream's update
falls between two of them (log entry 17). -/
def Eng.finish (s : State) (e : Eng) : Except MatStop State :=
  if farOut s (.matrix e.die e.core e.k) then .error (.wait s)
  else match e.o.kind with
  | .mzero => .ok (e.complete (modCore s e.die e.core fun c => { c with tiles := sclear (e.o.zd * 4096) 4096 c.tiles }))
  | .mst _ _ _ _ true => e.signal s
  | _ => .ok (e.complete s)

/-- Whether a tile has met an uncorrectable error (R324). -/
def Eng.tileLost (s : State) (e : Eng) : Bool := (core? s e.die e.core).any fun c => c.tpois.contains e.o.zd

/-- Obtaining what a row needs before its first element; a `mst` of a tile that was hit after its issue finds POISON (R324). -/
def Eng.begin (s : State) (e : Eng) : Except MatStop State :=
  match e.o.kind with
  | .mld ty => e.takeRow s ty
  | .mma ta tb mx | .mloop ta tb mx => if e.o.bseg.isNone then e.takeB s tb mx else e.takeA s ta mx
  | .mst _ _ _ _ _ => if e.tileLost s then .error (.fail s { cause := .poison }) else .ok (e.mod s fun o => { o with aseg := some ([], 0) })
  | .mzero => .ok (e.mod s fun o => { o with aseg := some ([], 0) })

/-- The next action of an operation: obtaining operands, one element, the end of a row, or the end of the operation. -/
def Eng.act (s : State) (e : Eng) : Except MatStop State :=
  if e.o.rowsDone then e.finish s
  else match e.o.aseg with
    | none => e.begin s
    | some seg => if e.o.col < 64 then .ok (e.oneElem s seg) else e.rowEnd s seg

/-- One action of a stream, and whether it was taken (R242, R244). -/
def streamStep (s : State) (die core k : Nat) (ecc : Ecc) : State × Bool :=
  match engOf s die core k ecc with
  | none => (s, false)
  | some e => match e.act s with
    | .ok s => (s, true)
    | .error (.wait s) => (s, false)
    | .error (.fail s t) => (matFailed s die core k e.o t, false)

/-- Actions of a stream, up to a number, while its head operation is the one numbered `num` and `go` holds of it. -/
def streamRun (die core k num : Nat) (go : MatOp → Bool) (ecc : Ecc) : Nat → State → State
  | 0, s => s
  | n + 1, s =>
    match engOf s die core k ecc with
    | none => s
    | some e =>
      if e.o.num = num && go e.o then
        match streamStep s die core k ecc with
        | (s, true) => streamRun die core k num go .clean n s
        | (s, false) => s
      else s

/-- The number of actions that complete an operation at most. -/
def MatOp.work (o : MatOp) : Nat := 70 * 64 * ((word o.k 0).toNat % 2 ^ 24 + 2)

/-- Running a stream's head operation as far as it goes. -/
def runHead (s : State) (die core k : Nat) (ecc : Ecc) : State :=
  match engOf s die core k ecc with
  | none => s
  | some e => streamRun die core k e.o.num (fun _ => true) ecc e.o.work s

/-- Running a stream's head operation to a row boundary (R249). -/
def runToRow (s : State) (die core k : Nat) : State :=
  match engOf s die core k .clean with
  | none => s
  | some e => streamRun die core k e.o.num (fun o => o.aseg.isSome) .clean 70 s

end Sys2Proof.Machine
end

