-- ==== Sys2Proof/Machine/Barrier.lean ====
section
/-! DEFINITION. Team barriers: recording, arrival, and the end of a phase (R230, R231, R266). -/
namespace Sys2Proof.Machine

/-- A barrier no phase of which is open. -/
def Bar.fresh : Bar := { roles := none, lanes := [], want := [], arrived := [], phase := false, aborted := false }

/-- A team's barrier. -/
def barOf (t : Team) (b : Nat) : Bar := sget Bar.fresh t.bars b

/-- Changing a team's barrier. -/
def modBar (s : State) (tid b : Nat) (f : Bar → Bar) : State :=
  modTeam s tid fun t => { t with bars := sset Bar.fresh t.bars b (f (barOf t b)) }

/-- ROLES with 0 standing for all four (R230). -/
def rolesOf (r : BitVec 4) : BitVec 4 := if r = 0 then 0xF#4 else r

/-- The bit of a role in ROLES. -/
def Role.bit : Role → Nat
  | .general => 0 | .feed => 1 | .matrix => 2 | .vector => 3

/-- Whether ROLES names a group's role. -/
def namesRole (r : BitVec 4) (g : Group) : Bool := match g.role with
  | some ro => (rolesOf r).getLsbD ro.bit
  | none => false

/-- ARR of a barrier (R231). -/
def arrBit (g : Group) (b : Nat) : Bool := g.barst.getLsbD b

/-- The lanes of a group recorded in the open phase. -/
def recorded (s : State) (g : Group) (b : Nat) : Mask :=
  match team? s g.team with
  | some t => sget 0 (barOf t b).lanes g.gid
  | none => 0

/-- Whether a group has every lane that has not exited recorded. -/
def allRecorded (s : State) (g : Group) (b : Nat) : Bool :=
  let l := recorded s g b
  l != 0 && (fullMask g.width &&& ~~~ g.exited) &&& ~~~ l == 0

/-- A group arrives with the roles it names; `none` when they differ from those of the phase's first arrival (R230). -/
def arrive (s : State) (g : Group) (b : Nat) (roles : BitVec 4) : Option State :=
  match team? s g.team with
  | none => none
  | some t =>
    if (barOf t b).roles.any fun r => r != rolesOf roles then none
    else
      let s := modBar s t.tid b fun x => { x with roles := some (rolesOf roles), arrived := g.gid :: x.arrived }
      some (modGrp s g.gid fun g => { g with barst := putBit g.barst b true })

/-- Recording a path's lanes, and the group's arrival when it is complete. -/
def recordLanes (s : State) (x : Ex) (g : Group) (b : Nat) (roles : BitVec 4) : Option State :=
  let s := modBar s g.team b fun y =>
    { y with lanes := sset 0 y.lanes g.gid (sget 0 y.lanes g.gid ||| x.p.mask), want := sset 0 y.want g.gid (rolesOf roles) }
  if allRecorded s g b then arrive s g b roles else some s

/-- An exit may leave every other lane of the group recorded: the group then arrives (R230). An arrival with other ROLES than the phase's
first is raised by the first path of the stack at its pc (log entry 81). -/
def barExit (s : State) (gid : Nat) : State :=
  match grp? s gid with
  | none => s
  | some g =>
    if g.ended then s
    else (List.range 8).foldl (fun s b =>
      if !arrBit g b && allRecorded s g b then
        match team? s g.team with
        | none => s
        | some t => match arrive s g b (sget 0 (barOf t b).want gid) with
          | some s => s
          | none => match g.stack.paths.head? with
            | some p => raiseGroup s g p { cause := .illegal } p.pc
            | none => s
      else s) s

/-- The participants of a phase: the team's launch groups of its roles (R230). -/
def participants (s : State) (t : Team) (r : BitVec 4) : List Group :=
  s.groups.filter fun g => g.team == t.tid && g.spawned.isNone && namesRole r g

/-- Whether a phase is complete: every participant has arrived, has exited or has been killed. -/
def phaseDone (s : State) (t : Team) (b : Nat) : Bool :=
  let x := barOf t b
  !x.arrived.isEmpty && match x.roles with
    | some r => (participants s t r).all fun g => x.arrived.contains g.gid || g.ended || t.killed.contains g.gid
    | none => false

/-- Waking a group's paths that wait for a barrier. -/
def wakeBarrier (b : Nat) (g : Group) : Group :=
  g.allPaths.foldl (fun (g : Group) p => if p.wait = .barrier b then g.modPid p.pid fun p => { p with wait := .run } else g) g

/-- The end of a phase in one participant (R230, R231). -/
def endPhase (b : Nat) (aborted : Bool) (g : Group) : Group :=
  let v := putBit (g.barst ^^^ BitVec.ofNat 64 (2 ^ (8 + b))) b false
  { g with barst := if aborted then putBit v (16 + b) true else v, gstat := if aborted then g.gstat ||| 2 else g.gstat }

/-- A phase completes (R230, R266): ARR, PHASE and AB change in every participant, and the waiting paths go on. Each
returning wait is an acquire at TEAM scope. -/
def completePhase (s : State) (tid b : Nat) : State :=
  match team? s tid with
  | none => s
  | some t =>
    if t.st ≠ .resident || !phaseDone s t b then s
    else
      let r := (barOf t b).roles.getD 0
      let parts := participants s t r
      let aborted := parts.any fun g => t.killed.contains g.gid
      let s := modBar s tid b fun x => { Bar.fresh with phase := !x.phase, aborted }
      parts.foldl (fun s g => modGrp (acquireNear s g.die g.core) g.gid fun g => wakeBarrier b (endPhase b aborted g)) s

end Sys2Proof.Machine
end

