-- ==== Sys2Proof/Machine/Control.lean ====
section
/-! DEFINITION. Control instructions: branches (R106 to R108), calls and returns (R109, R268), `exit` (R110), `spawn`
(R111), `yield`, `nop`, the software traps (R112 to R114) and the system registers (R115 to R121). -/
namespace Sys2Proof.Machine

/-- The executor that is issuing. -/
def curEx (s : State) : Option Ex := s.cur.bind (exOf s)

/-- Whether the executor that is issuing is a group outside handler mode, or a program at user level. -/
def curUser (s : State) : Bool := match curEx s with
  | some x => x.user
  | none => true

/-- A control transfer of every executor (R52, R66). -/
def ruleCtl : Rule := { ruleAll with ctl := true }

/-- PC + sext(DISP32) × 8 (R61). -/
def target (p : Path) (disp : W32) : W64 := p.pc + BitVec.ofInt 64 (disp.toInt * 8)

/-! ### Branches -/

/-- Whether a branch is taken (R106). -/
def brTaken (x : Ex) : BrCond → Bool
  | .always => true
  | .z r => rdS x.p r == 0
  | .nz r => rdS x.p r != 0
  | .lt r => (rdS x.p r).msb
  | .ge r => !(rdS x.p r).msb
  | .any m => match x.g with
    | some g => rdM g x.p 0 &&& rdM g x.p m != 0
    | none => false
  | .all m => match x.g with
    | some g => rdM g x.p 0 &&& ~~~ (rdM g x.p m) == 0
    | none => false
  | .none m => match x.g with
    | some g => rdM g x.p 0 &&& rdM g x.p m == 0
    | none => false

/-- Whether a condition reads a mask register, which only a group has (R106). -/
def condMasked : BrCond → Bool
  | .any _ | .all _ | .none _ => true
  | _ => false

/-- The scalar register a condition reads. -/
def condReads : BrCond → List Nat
  | .z r | .nz r | .lt r | .ge r => [r.toNat]
  | _ => []

/-- `br` (R106). -/
def execBr (cc : BrCond) (disp : W32) (s : State) : Host.Outcome State Fault Refusal :=
  issue s { ruleCtl with q := !condMasked cc, c := !condMasked cc } { ss := condReads cc } none fun x =>
    if brTaken x cc then goto s x (target x.p disp) id else .ok (advance s x)

/-- Entries of a level's stack (R30, R305). -/
def Stack.entries (k : Stack) : Nat := k.a.toList.length + k.b.toList.length + k.rest.length

/-- The split of a path (R31, R107): RECONV must name a header, and a handler's stack holds 34 entries at most (R305). -/
def splitPath (s : State) (x : Ex) (g : Group) (taken : Mask) (fall tgt : W64) : Except Stop State :=
  let rec0 := match x.p.blk with
    | some b => b.reconv
    | none => 0
  if rec0 = 0 then bad .illegal
  else if !g.frames.isEmpty && decide (34 < g.stack.entries + 2) then bad .illegal
  else
    let h := x.p.hdr + BitVec.ofInt 64 (rec0.toInt * 8)
    let id := s.freshId
    let s := noteIssue { s with freshId := s.freshId + 3 } x
    .ok (settle (modGrp s g.gid fun g => { g with stack := splitStack (clk s g.die) id g.stack x.p taken h fall tgt }) g.gid)

/-- `brm` (R31, R107): it does not act while its path has open windows (log entry 80). -/
def execBrm (inv : Bool) (ma : MReg) (disp : W32) (s : State) : Host.Outcome State Fault Refusal :=
  issue s { ruleGrp .control with ctl := true } {} none (withGroup fun x g =>
    let m := rdM g x.p 0
    let t := m &&& (if inv then ~~~ (rdM g x.p ma) else rdM g x.p ma)
    if x.p.wins ≠ [] then .error (.hold s)
    else if m &&& ~~~ t = 0 then goto s x (target x.p disp) id
    else if t = 0 then .ok (advance s x)
    else match targetCheck s x (target x.p disp) <|> targetCheck s x (x.p.pc + 8) with
      | some tr => .error (.trap tr)
      | none => splitPath s x g t (x.p.pc + 8) (target x.p disp))

/-! ### Calls and returns -/

/-- `jmpi` (R109). -/
def execJmpi (sa : SReg) (s : State) : Host.Outcome State Fault Refusal :=
  issue s ruleCtl { ss := [sa.toNat] } none fun x => goto s x (rdS x.p sa) id
/-- `ret` (R109). -/
def execRet (sa : SReg) (s : State) : Host.Outcome State Fault Refusal :=
  issue s ruleCtl { ss := [sa.toNat] } none fun x => goto s x (rdS x.p sa) id
/-- `call` (R109). -/
def execCall (link : SReg) (disp : W32) (s : State) : Host.Outcome State Fault Refusal :=
  issue s ruleCtl { sd := [link.toNat] } none fun x =>
    goto s x (target x.p disp) fun s => setS s x link (x.p.pc + 8)

/-- A system-level `calli` of a Q or C program keeps its link until the header that it leads to is known (R268). -/
def noteCall (s : State) (x : Ex) : State :=
  if x.user || x.g.isSome then s else modPath s x.who x.p.pid fun p => { p with call := some (x.p.pc + 8) }

/-- `calli` (R109, R268): the target is read before the link is written. -/
def execCalli (link sa : SReg) (s : State) : Host.Outcome State Fault Refusal :=
  issue s ruleCtl { ss := [sa.toNat], sd := [link.toNat] } none fun x =>
    goto s x (rdS x.p sa) fun s => setS (noteCall s x) x link (x.p.pc + 8)

/-! ### Exit -/

/-- The end of a Q or C program at a level (R268, R270). -/
def exitProgram (s : State) (x : Ex) : State :=
  let back := fun (h : W64) => modPath s x.who x.p.pid fun p => { goPath (clkOf s x.who) h p with sys := true }
  match x.who with
  | .qthr d t =>
    match (if x.user then (qt? s d t).bind (fun q => q.ret) else none) with
    | some h => modQt (back h) d t fun q => { q with ret := none, qprog := none }
    | none => modQt s d t fun q => { q with path := none, ret := none, qprog := none, popped := none }
  | .copyc d k =>
    match (if x.user then (cc? s d k).bind (fun c => c.ret) else none) with
    | some h => modCc (back h) d k fun c => { c with ret := none }
    | none => modCc s d k fun c => { c with prog := none, ret := none, ops := c.ops.modifyHead fun o => { o with pos := 1 } }
  | .grp _ _ => s

/-- A group's path exits (R33, R110). -/
def exitPath (s : State) (x : Ex) (g : Group) : State :=
  let s := modGrp (noteIssue s x) g.gid fun g =>
    { g with exited := g.exited ||| (x.p.mask &&& fullMask g.width), stack := removePath g.stack x.p }
  reportCore (exitCheck (barExit (settle s g.gid) g.gid) g.gid) g.die g.core

/-- `exit` (R110). -/
def execExit (s : State) : Host.Outcome State Fault Refusal :=
  issue s { ruleCtl with g := curUser s } {} none fun x =>
    if x.p.wins ≠ [] then .error (.hold s)
    else match x.g with
      | some g => .ok (exitPath s x g)
      | none => .ok (exitProgram s x)

/-! ### Spawn -/

/-- The base of a new group's handler table (R48, R304). -/
def tableBase (s : State) (g : Group) : W64 :=
  match team? s g.team with
  | none => 0
  | some t => match launch? s t.launch with
    | none => 0
    | some l => if l.ds.htb = 0 then (match ctx? s l.pasid with | some c => c.htb | none => 0) else l.ds.htb

/-- The kernel-argument VA of a group's launch (R50). -/
def argOf (s : State) (g : Group) : W64 :=
  match team? s g.team with
  | none => 0
  | some t => match launch? s t.launch with
    | none => 0
    | some l => l.pk.arg

/-- The pool slots of a team on a team core that are free, ascending (R42). -/
def freeSlots (s : State) (t : Team) (j : Nat) : List Nat :=
  (List.range t.pool).filter fun k => !s.groups.any fun g => g.team == t.tid && g.tcore == j && g.spawned == some k && !g.ended

/-- The lowest group-table entries of a core that no resident group holds. -/
def freeEntry (s : State) (die core : Nat) : Nat :=
  (((List.range 1023).filter fun e => !s.groups.any fun g => g.die == die && g.core == core && g.entry == e && !g.ended).head?).getD 0

/-- One spawned group in a pool slot (R42, R43, R50). -/
def spawnOne (x : Ex) (g : Group) (t : Team) (e : W64) (args : List W64) (s : State) (slot : Nat) : State :=
  let (gid, s) := fresh s
  let (pid, s) := fresh s
  let view := sset 0 ([] : SMap W64) 0 (argOf s g)
  let view := args.zipIdx.foldl (fun (m : SMap W64) a => sset 0 m (a.2 + 1) a.1) view
  let p := { newPath pid e (fullMask g.width) (clk s g.die) with view }
  { s with groups := s.groups ++ [
    { g with gid, gidx := t.groups + g.tcore * t.pool + slot, gser := BitVec.ofNat 64 gid, entry := freeEntry s x.die x.core, ehdr := e,
             spawned := some slot, exited := 0, stack := { a := some p, b := none, rest := [] }, frames := [], vregs := [],
             vpois := [], masks := [], gstat := 0, fpfl := 0, barst := 0, mstat := 0, mrp := [], htb := tableBase s g, regs := {},
             late := [], mfault := [], issued := 0 }] }

/-- `spawn` (R42, R43, R111). -/
def execSpawn (sd se sb : SReg) (nm1 : BitVec 4) (argc : BitVec 3) (s : State) : Host.Outcome State Fault Refusal :=
  let n := nm1.toNat + 1
  let regs := (List.range argc.toNat).map fun k => sb.toNat + k
  issue s { ruleGrp .control with g := curUser s } { ss := se.toNat :: regs, sd := [sd.toNat] } none (withGroup fun x g =>
    match team? s g.team with
    | none => .ok (advance (setS s x sd 0) x)
    | some t =>
      let free := freeSlots s t g.tcore
      if free.length < n then .ok (advance (setS s x sd 0) x)
      else
        let args := (List.range argc.toNat).map fun k => rdSk x.p sb k
        let s := (free.take n).foldl (spawnOne x g t (rdS x.p se) args) s
        .ok (advance (setS s x sd (BitVec.ofNat 64 n)) x))

/-! ### Yield, nop and software traps -/

/-- `yield` (R112): the mark is tested at the next header. -/
def execYield (s : State) : Host.Outcome State Fault Refusal :=
  issue s (ruleGrp .control) {} none fun x =>
    .ok (advance (modPath s x.who x.p.pid fun p => { p with yielded := true }) x)

/-- `nop` (R113). -/
def execNop (s : State) : Host.Outcome State Fault Refusal :=
  issue s ruleAll {} none fun x => .ok (advance s x)

/-- `trap` (R114). -/
def execTrap (imm : BitVec 33) (s : State) : Host.Outcome State Fault Refusal :=
  issue s (ruleGrp .control) {} none fun _ => .error (.trap { cause := .trap, aux := imm.signExtend 64 })

/-- `brk` (R114). -/
def execBrk (imm : BitVec 33) (s : State) : Host.Outcome State Fault Refusal :=
  issue s (ruleGrp .control) {} none fun _ => .error (.trap { cause := .brk, aux := imm.signExtend 64 })

/-! ### System registers -/

/-- The access to a register in a mode (R117). -/
inductive SysAcc
  | none | ro | rw
  deriving DecidableEq, Repr

/-- A row of R117: executors, access at user level and in handler mode or at system level. -/
structure SysRow where
  g    : Bool
  q    : Bool
  c    : Bool
  user : SysAcc
  hand : SysAcc

/-- R117's table. -/
def sysRow (n : Nat) : Option SysRow :=
  if n = 0 ∨ n = 0x18 ∨ n = 0x19 ∨ n = 0x24 then some ⟨true, false, false, .rw, .rw⟩
  else if n ≤ 0xA then some ⟨true, false, false, .ro, .ro⟩
  else if n ≤ 0xE ∨ n = 0x10 ∨ n = 0x11 ∨ n = 0x30 ∨ n = 0x31 then some ⟨true, true, true, .ro, .ro⟩
  else if 0x20 ≤ n ∧ n ≤ 0x23 then some ⟨true, false, false, .ro, .rw⟩
  else if n = 0x406 then some ⟨true, false, false, .none, .ro⟩
  else if 0x400 ≤ n ∧ n ≤ 0x408 then some ⟨true, false, false, .none, .rw⟩
  else if n = 0x800 then some ⟨false, true, false, .ro, .rw⟩
  else if n = 0x801 ∨ n = 0x802 then some ⟨false, true, false, .ro, .ro⟩
  else if n = 0xC00 then some ⟨false, false, true, .ro, .ro⟩
  else none

/-- The rule of an access to a system register in a mode (R115). -/
def sysRule (user : Bool) (n : Nat) (write : Bool) : Rule :=
  match sysRow n with
  | none => { g := false, q := false, c := false, cls := .control }
  | some r =>
    let a := if user then r.user else r.hand
    let ok := !(write && a == .ro)
    { g := r.g && ok, q := r.q && ok, c := r.c && ok, cls := .control, priv := a == .none, sys := a == .none }

/-- ROLE as R117 numbers it. -/
def Role.num : Role → Nat
  | .general => 0 | .feed => 1 | .matrix => 2 | .vector => 3

/-- GSTAT with FOLD (R118). -/
def gstatOf (s : State) (g : Group) : W64 :=
  let fold := match core? s g.die g.core with
    | some c => c.fold.isSome
    | none => false
  (g.gstat &&& 0xF#64) ||| (if fold then 0x10#64 else 0)

/-- Whether a stream of a core holds an operation of a group. -/
def streamBusy (s : State) (g : Group) (k : Nat) : Bool :=
  match core? s g.die g.core with
  | some c => (sget [] c.strm k).any fun o => o.gid == g.gid
  | none => false

/-- MSTAT with BUSY and STOP (R246). -/
def mstatOf (s : State) (g : Group) : W64 :=
  (g.mstat &&& 0x1F#64) ||| maskOf ((List.range 4).flatMap fun k =>
    (if streamBusy s g k then [16 + k] else []) ++ (if (sget 0 g.mrp k).getLsbD 63 then [8 + k] else []))

/-- The registers that a context gives (R117, R121). -/
def ctxReg (s : State) (pasid : Nat) (f : Context → W64) : W64 :=
  match ctx? s pasid with
  | some c => f c
  | none => 0

/-- The registers that a die gives (R117). -/
def dieReg (s : State) (die : Nat) (f : Die → W64) : W64 :=
  match die? s die with
  | some d => f d
  | none => 0

/-- A register of a group (R117 to R119). The walker has no team, role or context: their registers read as zero or as those of
PASID 0 (log entry 58). -/
def groupReg (s : State) (x : Ex) (g : Group) (n : Nat) : W64 :=
  let t := team? s g.team
  let coord := fun (f : Team → W32) => match t with
    | some t => (f t).setWidth 64
    | none => 0
  if n = 0 then gstatOf s g
  else if n = 1 then BitVec.ofNat 64 g.gidx
  else if n = 2 then g.gser
  else if n = 3 then coord fun t => t.x
  else if n = 4 then coord fun t => t.y
  else if n = 5 then coord fun t => t.z
  else if n = 6 then (match t with
    | some t => BitVec.ofNat 64 (t.cores.length * 2 ^ 32 + t.pool * 2 ^ 16 + t.groups)
    | none => 0)
  else if n = 7 then BitVec.ofNat 64 g.width
  else if n = 8 then (match g.role with
    | some r => BitVec.ofNat 64 r.num
    | none => 0)
  else if n = 9 then BitVec.ofNat 64 (g.tcore * 2 ^ 12 + clusterIdx g.core * 2 ^ 8 + g.core)
  else if n = 0xA then BitVec.ofNat 64 (clusterOf g.core)
  else if n = 0x18 then g.fpfl
  else if n = 0x19 then g.barst
  else if n = 0x24 then mstatOf s g
  else if 0x20 ≤ n ∧ n ≤ 0x23 then sget 0 g.mrp (n - 0x20)
  else if n = 0x400 then g.htb
  else if n = 0x401 then g.regs.trapc
  else if n = 0x402 then g.regs.trappc
  else if n = 0x403 then g.regs.trapmask
  else if n = 0x404 then g.regs.trapva
  else if n = 0x405 then g.regs.trapaux
  else if n = 0x406 then BitVec.ofNat 64 g.frames.length
  else if n = 0x407 then dieReg s x.die fun d => sget 0 d.ptbase x.pasid
  else dieReg s x.die fun d => d.poolbase

/-- QBIND (R272). -/
def qbindOf (q : QThread) : W64 :=
  BitVec.ofNat 64 (q.bound.isSome.toNat * 2 ^ 63 + q.cap % 8 * 2 ^ 60 + q.pasid % 2 ^ 20 * 2 ^ 36 + q.ccx % 64 * 2 ^ 30 +
    q.sleepm.toNat * 2 ^ 16 + q.bound.getD 0 % 2 ^ 16)

/-- A register of a Q thread or copy context (R272, R273). -/
def unitReg (s : State) (e : Issuer) (n : Nat) : W64 :=
  match e with
  | .qthr d t => match qt? s d t with
    | none => 0
    | some q =>
      if n = 0x800 then qbindOf q
      else match q.bound.bind (fun b => queue? s d b) with
        | some k => BitVec.ofNat 64 (if n = 0x801 then k.r else k.w)
        | none => 0
  | .copyc d k => match cc? s d k with
    | some c => BitVec.ofNat 64 (c.pasid % 2 ^ 20 * 2 ^ 36 + (4032 + k) * 2 ^ 12 + k)
    | none => 0
  | .grp _ _ => 0

/-- A system register's value (R117): CYC counts clocked cycles of a core for a group, MCLK cycles for Q and C (R120). -/
def sysRead (s : State) (x : Ex) (n : Nat) : W64 :=
  if n = 0xB then BitVec.ofNat 64 x.die
  else if n = 0xC then s.modid
  else if n = 0xD then BitVec.ofNat 64 x.pasid
  else if n = 0xE then (match x.g with
    | some g => dieReg s g.die fun d => BitVec.ofNat 64 (d.cyc / 16)
    | none => BitVec.ofNat 64 (2 * s.now))
  else if n = 0x10 then ctxReg s x.pasid fun c => c.feat0
  else if n = 0x11 then ctxReg s x.pasid fun c => c.feat1
  else if n = 0x30 then ctxReg s x.pasid fun c => c.retcnt
  else if n = 0x31 then ctxReg s x.pasid fun c => c.retlast
  else match x.g with
    | some g => groupReg s x g n
    | none => unitReg s x.who n

/-- Whether a system register waits for the path's earlier floating instructions: FPFL (R96). -/
def awaitsFloats (p : Path) (n : Nat) : Bool := n == 0x18 && p.wins.any fun w => w.fp

/-- `mfs` (R96, R115, R116). -/
def execMfs (sd : SReg) (reg : BitVec 12) (s : State) : Host.Outcome State Fault Refusal :=
  issue s (sysRule (curUser s) reg.toNat false) { sd := [sd.toNat] } none fun x =>
    if awaitsFloats x.p reg.toNat then .error (.hold s)
    else .ok (advance (setS s x sd (sysRead s x reg.toNat)) x)

/-- Writing a group's register (R6, R115 to R118, R231, R245, R246, R308). -/
def groupWrite (g : Group) (n : Nat) (v : W64) : Group :=
  if n = 0 then { g with gstat := g.gstat &&& ~~~ (v &&& 0xF#64) }
  else if n = 0x18 then { g with fpfl := v &&& fpflMask }
  else if n = 0x19 then { g with barst := g.barst &&& ~~~ (v &&& 0xFF0000#64) }
  else if n = 0x24 then { g with mstat := g.mstat &&& ~~~ (v &&& 0x1F#64) }
  else if 0x20 ≤ n ∧ n ≤ 0x23 then { g with mrp := sset 0 g.mrp (n - 0x20) (v &&& 0x83FFFFFF00003F07#64) }
  else if n = 0x400 then { g with htb := v }
  else if n = 0x401 then { g with regs := { g.regs with trapc := v &&& 0xFF#64 } }
  else if n = 0x402 then
    { g with regs := { g.regs with trappc := v },
             frames := g.frames.modifyHead fun f => if movable f.cause then { f with resume := v } else f }
  else if n = 0x403 then { g with regs := { g.regs with trapmask := v } }
  else if n = 0x404 then { g with regs := { g.regs with trapva := v } }
  else if n = 0x405 then { g with regs := { g.regs with trapaux := v } }
  else g

/-- Writing a system register (R115, R117, R272). SLEEPM keeps bits 16 and 17 only: R272 says that bits 18 and 19 must be written
0 and not what happens otherwise (log entry 57). -/
def sysWrite (s : State) (x : Ex) (n : Nat) (v : W64) : State :=
  if n = 0x407 then modDie s x.die fun d => { d with ptbase := sset 0 d.ptbase x.pasid v }
  else if n = 0x408 then modDie s x.die fun d => { d with poolbase := v }
  else match x.who with
    | .grp gid _ => modGrp s gid fun g => groupWrite g n v
    | .qthr d t => modQt s d t fun q => { q with sleepm := v.extractLsb' 16 4 &&& 0b0011 }
    | .copyc _ _ => s

/-- `mts` (R115, R116): it waits as `mfs` does. -/
def execMts (reg : BitVec 12) (sa : SReg) (s : State) : Host.Outcome State Fault Refusal :=
  issue s (sysRule (curUser s) reg.toNat true) { ss := [sa.toNat] } none fun x =>
    if awaitsFloats x.p reg.toNat then .error (.hold s)
    else .ok (advance (sysWrite s x reg.toNat (rdS x.p sa)) x)

end Sys2Proof.Machine
end

