-- ==== Sys2Proof/Machine/MemInstr.lean ====
section
/-! DEFINITION. Loads, stores, atomics, bulk copy, multicast, prefetch and cache maintenance (R211 to R226). -/
namespace Sys2Proof.Machine

/-- The rule of a lane access (R22, R66). -/
def memRule : Rule := ruleGrp .memory
/-- The rule of a scalar access (R66). -/
def memRuleAll : Rule := { ruleAll with cls := .memory }

/-- The vector registers of a datum (R213). -/
def dataRegs (m : MemArg) : List Nat :=
  match m.size with
  | .b64 => runRegs m.data 2
  | .b128 => runRegs m.data 4
  | _ => [m.data.toNat]

/-- The index register, if there is one (R64). -/
def indexRegs (m : MemArg) : List Nat := if m.index = 0xFF then [] else [m.index.toNat]

/-- The bytes that a store takes from a lane's registers (R213). -/
def laneData (g : Group) (r n lane : Nat) : List Byte :=
  ((List.range 4).flatMap fun j => toBytes 4 (rdV g (r + j) lane).toNat).take n

/-- A lane's effective addresses over the active lanes. -/
def laneEas (g : Group) (p : Path) (m : MemArg) (scaled disp : Bool) (act : Mask) : List (Nat × W64) :=
  (lanesOf act).map fun l => (l, laneEa g p m scaled disp l)

/-- A lane access (R216 to R218): the counter, the checks of every lane, then the operation. `data` gives a lane's bytes to
store and to compare with. -/
def laneAccess (s : State) (h : Head) (m : MemArg) (scaled disp : Bool) (kind : OpKind) (dest : Dest) (vds : List Nat)
    (data : Group → Nat → List Byte × List Byte) : Body := withGroup fun x g =>
  let act := activeOf g x.p h
  if act = 0 then .ok (advance s x)
  else if 64 ≤ memCount s x.who then .error (.hold s)
  else
    let k := memKind s x m kind.writes (kind.reads && kind.writes)
    match groupPlaces s x g k false (laneEas g x.p m scaled disp act) with
    | .error e => .error e
    | .ok (got, s) =>
      let accs := got.flatMap fun e =>
        let d := data g e.1
        splitAcc m.size.bytes e.1 e.2.1 e.2.2 d.1 d.2
      .ok (startOp s x kind m dest accs h.la.toNat vds [])

/-- No data. -/
def noData (_ : Group) (_ : Nat) : List Byte × List Byte := ([], [])

/-- `ld` and `ldx` (R218). -/
def loadOp (s : State) (h : Head) (m : MemArg) (scaled : Bool) : Host.Outcome State Fault Refusal :=
  issue s memRule { vs := indexRegs m, vd := dataRegs m, ss := [m.base.toNat] } (some h)
    (laneAccess s h m scaled true .ld (.vec m.data.toNat) (dataRegs m) noData)

/-- `st` and `stx` (R218): data is read at issue. -/
def storeOp (s : State) (h : Head) (m : MemArg) (scaled : Bool) : Host.Outcome State Fault Refusal :=
  issue s memRule { vs := indexRegs m ++ dataRegs m, ss := [m.base.toNat] } (some h)
    (laneAccess s h m scaled true .st .nowhere [] fun g l => (laneData g m.data.toNat m.size.bytes l, []))

/-- `ld` (R212, R218). -/
def execLd (h : Head) (m : MemArg) (s : State) : Host.Outcome State Fault Refusal := loadOp s h m false
/-- `ldx`: the index is scaled (R212, R218). -/
def execLdx (h : Head) (m : MemArg) (s : State) : Host.Outcome State Fault Refusal := loadOp s h m true
/-- `st` (R212, R218). -/
def execSt (h : Head) (m : MemArg) (s : State) : Host.Outcome State Fault Refusal := storeOp s h m false
/-- `stx` (R212, R218). -/
def execStx (h : Head) (m : MemArg) (s : State) : Host.Outcome State Fault Refusal := storeOp s h m true

/-- The scalar register that DATA names (R62). -/
def dataS (m : MemArg) : SReg := m.data.setWidth 6

/-- An access made once for the path (R219). -/
def pathAccess (s : State) (la : BitVec 4) (m : MemArg) (disp : Bool) (kind : OpKind) (dest : Dest) (sds : List Nat)
    (data : Path → List Byte) : Body := fun x =>
  if 64 ≤ memCount s x.who then .error (.hold s)
  else
    let va := pathEa x.p m disp
    match onePlace s x (memKind s x m kind.writes (kind.reads && kind.writes)) va with
    | .error e => .error e
    | .ok (pl, s) => .ok (startOp s x kind m dest (splitAcc m.size.bytes 0 va pl (data x.p) []) la.toNat [] sds)

/-- `lds` (R219). -/
def execLds (la : BitVec 4) (m : MemArg) (s : State) : Host.Outcome State Fault Refusal :=
  issue s memRuleAll { ss := [m.base.toNat], sd := [(dataS m).toNat] } none
    (pathAccess s la m true .ld (.scal (dataS m).toNat) [(dataS m).toNat] fun _ => [])
/-- `sts` (R219). -/
def execSts (m : MemArg) (s : State) : Host.Outcome State Fault Refusal :=
  issue s memRuleAll { ss := [m.base.toNat, (dataS m).toNat] } none
    (pathAccess s 0 m true .st .nowhere [] fun p => toBytes m.size.bytes (rdS p (dataS m)).toNat)

/-- `atom` (R220): the address has no offset. -/
def execAtom (h : Head) (op : AtomOp) (m : MemArg) (s : State) : Host.Outcome State Fault Refusal :=
  issue s memRule { vs := indexRegs m ++ dataRegs m, vd := dataRegs m, ss := [m.base.toNat] } (some h)
    (laneAccess s h m false false (.atom op) (.vec m.data.toNat) (dataRegs m) fun g l =>
      (laneData g m.data.toNat m.size.bytes l, []))

/-- The first register of the new value of a `cas` (R221). -/
def casNew (m : MemArg) : Nat := m.data.toNat + m.size.bytes / 4

/-- `cas` (R221): the compare registers alone are pending. -/
def execCas (h : Head) (m : MemArg) (s : State) : Host.Outcome State Fault Refusal :=
  let new := (List.range (m.size.bytes / 4)).map fun k => casNew m + k
  issue s memRule { vs := indexRegs m ++ dataRegs m ++ new, vd := dataRegs m, ss := [m.base.toNat] } (some h)
    (laneAccess s h m false true .cas (.vec m.data.toNat) (dataRegs m) fun g l =>
      (laneData g (casNew m) m.size.bytes l, laneData g m.data.toNat m.size.bytes l))

/-- `satom` (R220). -/
def execSatom (la : BitVec 4) (op : AtomOp) (m : MemArg) (s : State) : Host.Outcome State Fault Refusal :=
  issue s memRuleAll { ss := [m.base.toNat, (dataS m).toNat], sd := [(dataS m).toNat] } none
    (pathAccess s la m false (.atom op) (.scal (dataS m).toNat) [(dataS m).toNat] fun p =>
      toBytes m.size.bytes (rdS p (dataS m)).toNat)

/-! ### Prefetch and cache maintenance -/

/-- What a prefetched place brings near the core; with CH = bypass L1 the core's copy is invalidated (R169, R225). -/
def prefetchPlace (s : State) (x : Ex) (ch : BitVec 2) (p : Place) : State :=
  let a := placeAddr p
  if knownLost s x.die (fabDie a) || homeSilent s x.die p then s
  else if remotable x.die p then (if (remote? s x.die a).isSome then s else fillL2 s x.die a p)
  else if !l1able p then s
  else if ch = 3 then dropL1 s x.die x.core a
  else fillL1 s x.die x.core a p

/-- The lanes that a prefetch asks for: none that names a pending or marked register (R225; log entry 24). -/
def prefetchLanes (g : Group) (p : Path) (u : Use) (act : Mask) : Mask :=
  if u.hazard p || u.ss.any fun r => p.spois.getLsbD r then 0 else u.vs.foldl (fun m r => m &&& ~~~ vMarks g r) act

/-- `pf` (R225): a lane whose access would fail a check is dropped, and so is one that needs the walker. -/
def execPf (h : Head) (m : MemArg) (s : State) : Host.Outcome State Fault Refusal :=
  let u : Use := { vs := indexRegs m, ss := [m.base.toNat] }
  issue s { memRule with hint := true } u (some h) (withGroup fun x g =>
    let l := laneEas g x.p m false true (prefetchLanes g x.p u (activeOf g x.p h))
    let (r, s) := gatherLanes x g (memKind s x m false false) false l { got := [], trap := none, miss := [] } s
    .ok (advance (r.got.foldl (fun s e => prefetchPlace s x m.ch e.2.2) s) x))

/-- `cwb` and `cinv` (R226): every check of R162 but the granule's. -/
def cacheOp (s : State) (m : MemArg) (kind : OpKind) : Host.Outcome State Fault Refusal :=
  issue s { memRuleAll with cls := .cache } { vs := indexRegs m, ss := [m.base.toNat] } none fun x =>
    if 64 ≤ memCount s x.who then .error (.hold s)
    else
      let k := { memKind s x m false false with gran := false }
      match x.g with
      | none => match onePlace s x k (pathEa x.p m true) with
        | .error e => .error e
        | .ok (pl, s) => .ok (startOp s x kind m .nowhere [{ lane := 0, va := pathEa x.p m true, place := pl, data := [], cmp := [] }] 0 [] [])
      | some g => match groupPlaces s x g k false (laneEas g x.p m false true (rdM g x.p 0)) with
        | .error e => .error e
        | .ok (got, s) =>
          .ok (startOp s x kind m .nowhere (got.map fun e => { lane := e.1, va := e.2.1, place := e.2.2, data := [], cmp := [] }) 0 [] [])

/-- Q and C executors name no index (R211, R226). -/
def cacheRule (m : MemArg) (x : Issuer) : Bool :=
  match x with
  | .grp _ _ => true
  | _ => m.index == 0xFF

/-- `cwb` and `cinv` with the INDEX check of the executor (R211). -/
def cacheIssue (s : State) (m : MemArg) (kind : OpKind) : Host.Outcome State Fault Refusal :=
  if s.cur.all (cacheRule m) then cacheOp s m kind
  else issue s { g := false, q := false, c := false, cls := .cache } {} none fun _ => bad .illegal

/-- `cwb` (R226). -/
def execCwb (m : MemArg) (s : State) : Host.Outcome State Fault Refusal := cacheIssue s m .cwb
/-- `cinv` (R226). -/
def execCinv (m : MemArg) (s : State) : Host.Outcome State Fault Refusal := cacheIssue s m .cinv

/-! ### Bulk copy and multicast -/

/-- Bulk operations that the group's counter holds (R217). -/
def bulkCount (s : State) (gid : Nat) : Nat := (s.bulks.filter fun b => b.gid == gid).length

/-- The offset of an address in the window. -/
def winOff (va : W64) : Nat := va.toNat - Config.windowBase

/-- A source that a bulk copy may not read: scratchpads, the register aperture, ring control (R223). -/
def badSource (va : W64) : Bool :=
  let o := winOff va
  inWindow va && (decide (o < 0x108000000) || (decide (0x200000000 ≤ o) && decide (o < 0x220000000)) ||
    (decide (0x500000000 ≤ o) && decide (o < 0x500000400)))

/-- The team core and offset that a bulk destination names (R163, R223). -/
def bulkDest (t : Team) (j : Nat) (va : W64) (n : Nat) : Option (Nat × Nat) :=
  let o := winOff va
  let inside := fun (j o : Nat) => if o + n ≤ t.scratch then some (j, o) else none
  if !inWindow va then none
  else if o < 0x100000000 then inside j o
  else if o < 0x108000000 then match teamCoreAt t ((o - 0x100000000) / 0x1000000) with
    | some i => inside i (o % 0x1000000)
    | none => none
  else none

/-- Whether every ring line of a destination is in a FILLING stage (R188). -/
def ringOk (t : Team) (core off n : Nat) : Bool :=
  (ringLines t core off n).all fun r => match stage? t r.1 r.2.1 with
    | some st => st.st == 1
    | none => true

/-- The checks of a bulk copy's addresses and count before translation (R223); a count that is not admitted names the source (log entry
72). -/
def bulkFirst (x : Ex) (dst src : W64) (n : Nat) : Option Trap :=
  halfCheck src x.user true <|> halfCheck dst x.user true <|>
    (if n = 0 ∨ n % 16 ≠ 0 ∨ 65536 < n ∨ src.toNat % 16 ≠ 0 then some { cause := .misalign, va := src }
     else if dst.toNat % 16 ≠ 0 then some { cause := .misalign, va := dst }
     else none)

/-- The source of a bulk copy, page by page (R223). -/
def bulkSource (s : State) (x : Ex) (g : Group) (src : W64) (n : Nat) : Except Stop (List Span × State) :=
  if badSource src || badSource (src + BitVec.ofNat 64 (n - 1)) then .error (.trap (prot src 0))
  else
    let k : AccKind := { devKind s x.pasid false 16 with die := x.die, user := x.user, secure := x.secure }
    let ps := pieces src n
    match groupPlaces s x g k true (ps.map fun e => (0, e.2.2)) with
    | .error e => .error e
    | .ok (got, s) => .ok ((ps.zip got).map fun e => { off := e.1.1, len := e.1.2.1, place := e.2.2.2 }, s)

/-- A delivery in progress that a request joins: the same source, size and window offset, from another core, whose
source still holds what was read (R185). The path's own earlier writes to it must have been performed (R205). -/
def joined (s : State) (x : Ex) (g : Group) (src : List Span) (n off : Nat) : Option (List PByte) :=
  if !writesDone s g.gid x.p.anc src 0 n then none
  else (s.bulks.find? fun b => b.multi && b.src == src && b.count == n && b.dests.any (fun d => d.2.2 == off) && !b.todo.isEmpty &&
    (match grp? s b.gid with
     | some o => !(o.die == g.die && o.core == g.core)
     | none => false) && b.buf == some (readSource s g.die g.core 0 src 0 (n / 16)).1).bind fun b => b.buf

/-- Starting a bulk copy: the destination lines become absent (R189, R223, R224). -/
def startBulk (s : State) (x : Ex) (g : Group) (multi : Bool) (sva : W64) (src : List Span) (n : Nat) (dests : List (Nat × Nat × Nat))
    (buf : Option (List PByte)) (ch : BitVec 2) : State :=
  let (id, s) := fresh s
  let s := dests.foldl (fun s d => markAbsent s d.1 d.2.1 d.2.2 n) s
  let b : BulkOp := { id, gid := g.gid, pid := x.p.pid, anc := x.p.anc, pc := x.p.pc, multi, sva, src, count := n, dests,
                      todo := List.range ((n + 255) / 256), buf, ch }
  advance { s with bulks := s.bulks ++ [b] } x

/-- A bulk instruction runs only if lane 0 is in the path's mask; otherwise it sets SKIP (R118, R223). -/
def bulkBody (s : State) (f : Ex → Group → Team → Except Stop State) : Body := withGroup fun x g =>
  if !x.p.mask.getLsbD 0 then .ok (advance (onGroup s x fun g => { g with gstat := g.gstat ||| 8 }) x)
  else if 16 ≤ bulkCount s g.gid then .error (.hold s)
  else match team? s g.team with
    | none => .error (.trap (prot 0 0))
    | some t => f x g t

/-- `bcp` (R223); RING_STATE names the destination (log entry 72). -/
def execBcp (m : MemArg) (s : State) : Host.Outcome State Fault Refusal :=
  let d := dataS m
  issue s memRule { ss := [m.base.toNat, d.toNat, d.toNat + 1] } none (bulkBody s fun x g t =>
    let dst := rdS x.p d
    let src := rdS x.p m.base
    let n := (rdSk x.p d 1).toNat
    match bulkFirst x dst src n with
    | some tr => .error (.trap tr)
    | none => match bulkDest t g.tcore dst n with
      | none => .error (.trap (prot dst 0))
      | some (j, o) => match bulkSource s x g src n with
        | .error e => .error e
        | .ok (sp, s) =>
          if !ringOk t j o n then .error (.trap { cause := .ringState, va := dst })
          else .ok (startBulk s x g false src sp n [(t.tid, j, o)] none m.ch))

/-- The receiving team of a core, with its team core index (R224). -/
def receiver (s : State) (g : Group) (t : Team) (k : Nat) : Option (Team × Nat) :=
  let idx := fun (t : Team) => t.cores.findIdx? fun c => c == k
  match idx t with
  | some j => some (t, j)
  | none =>
    let cosched := match launch? s t.launch with
      | some l => l.pk.flags / 4 % 2 == 1
      | none => false
    match s.teams.filter fun u => u.launch == t.launch && u.die == g.die && u.st == .resident && u.cores.contains k with
    | [u] => if cosched then (idx u).map fun j => (u, j) else none
    | _ => none

/-- `ldm` (R185, R224). -/
def execLdm (m : MemArg) (s : State) : Host.Outcome State Fault Refusal :=
  let d := dataS m
  issue s memRule { ss := [m.base.toNat, d.toNat, d.toNat + 1, d.toNat + 2] } none (bulkBody s fun x g t =>
    let dst := rdS x.p d
    let src := rdS x.p m.base
    let n := (rdSk x.p d 1).toNat
    let cs := lanesOf (rdSk x.p d 2)
    let rcv := cs.map fun k => receiver s g t k
    let off := winOff dst
    match bulkFirst x dst src n with
    | some tr => .error (.trap tr)
    | none =>
      if !inWindow dst || decide (0x100000000 ≤ off) || cs.isEmpty || rcv.any Option.isNone ||
          rcv.any (fun r => r.any fun e => decide (e.1.scratch < off + n)) then .error (.trap (prot dst 0))
      else match bulkSource s x g src n with
        | .error e => .error e
        | .ok (sp, s) =>
          let l := rcv.filterMap id
          if l.any fun e => !ringOk e.1 e.2 off n then .error (.trap { cause := .ringState, va := dst })
          else .ok (startBulk s x g true src sp n (l.map fun e => (e.1.tid, e.2, off)) (joined s x g sp n off) m.ch))

end Sys2Proof.Machine
end

