-- ==== Sys2Proof/Machine/Sync.lean ====
section
/-! DEFINITION. Fences, timelines, the wait on a line and team barriers (R200, R201, R227 to R230). -/
namespace Sys2Proof.Machine

/-- The rule of the fences and timeline instructions (R66). -/
def syncRule : Rule := { ruleAll with cls := .sync }
/-- The rule of a group's synchronisation instructions. -/
def syncGrp : Rule := ruleGrp .sync

/-! ### Fences -/

/-- Accesses of kind IO (R200). -/
def isIo : Place → Bool
  | .host _ _ ccl => ccl == 0
  | p => isDev p

/-- Whether a path's earlier operation is in a predecessor set (R200): bits R, W, CR, CW, MR, MW, IO. Accesses of kind IO are
ordered by IO alone (R209). A `cwb` counts with W, and a `cinv` with a successor set that holds R (R226). -/
def opInSet (pred succ : BitVec 7) (o : MemOp) : Bool :=
  let plain := o.todo.any fun a => !isIo a.place
  let io := o.todo.any fun a => isIo a.place
  match o.kind with
  | .cwb => pred.getLsbD 1
  | .cinv => succ.getLsbD 0
  | k => (plain && ((pred.getLsbD 0 && k.reads) || (pred.getLsbD 1 && k.writes))) || (pred.getLsbD 6 && io) ||
      (o.todo.isEmpty && ((pred.getLsbD 0 && k.reads) || (pred.getLsbD 1 && k.writes)))

/-- Whether a matrix operation is in a predecessor set (R200). -/
def matInSet (pred : BitVec 7) : MatKind → Bool
  | .mzero => false
  | .mst _ _ _ _ _ => pred.getLsbD 5
  | _ => pred.getLsbD 4

/-- Whether copy operations that a Q thread issued are outstanding (R200, R281). -/
def copiesOut (s : State) (d t : Nat) : Bool := s.copies.any fun c => c.die == d && c.ops.any fun o => o.owner == some t

/-- Whether an operation is one that a path has issued, or its part of the program before it (R195). -/
def earlierOp (x : Ex) (o : MemOp) : Bool := sameAgent o.who x.who && x.p.anc.contains o.pid

/-- Whether an earlier write of a path is still to be performed, of kind IO too, or an acquire by which it observes the writes of others
(R205, R281, R290). -/
def writesPending (s : State) (x : Ex) : Bool := s.ops.any fun o => earlierOp x o && (o.kind.writes || ordAcq o.ord)

/-- Whether an access of the predecessor set, issued before a path's fence, is still to be performed (R227). -/
def predPending (s : State) (x : Ex) (pred succ : BitVec 7) : Bool :=
  (s.ops.any fun o => earlierOp x o && opInSet pred succ o) ||
  match x.who with
  | .grp gid _ =>
    ((pred.getLsbD 2 || pred.getLsbD 3) && s.bulks.any fun b => b.gid == gid && x.p.anc.contains b.pid) ||
    s.cores.any fun c => c.strm.any fun e => e.2.any fun o => o.gid == gid && x.p.anc.contains o.pid && matInSet pred o.kind
  | .qthr d t => (pred.getLsbD 2 || pred.getLsbD 3) && copiesOut s d t
  | .copyc _ _ => false

/-- A path stands at a fence or barrier that has begun to wait (R200, R230). -/
def stall (s : State) (x : Ex) : State := modPath s x.who x.p.pid fun p => { p with began := true }

/-- A fence (R175, R199, R200, R208, R227): it writes back with W in the predecessor set, and discards with R in the
successor set, or as the reader side of a synchronisation with R in the predecessor set. -/
def fenceOp (s : State) (scope : Scope) (pred succ : BitVec 7) : Host.Outcome State Fault Refusal :=
  issue s syncRule {} none fun x =>
    if predPending s x pred succ then .error (.hold (stall s x))
    else
      let s := if pred.getLsbD 1 then releaseBy s x.die scope else s
      let reader := succ.getLsbD 0 || (pred.getLsbD 0 && succ != 0)
      .ok (advance (if reader then acquireAt s x.die x.core scope else s) x)

/-- `fence` (R227). -/
def execFence (scope : Scope) (pred succ : BitVec 7) (s : State) : Host.Outcome State Fault Refusal := fenceOp s scope pred succ

/-- `fence.sc`: both sets hold all seven kinds, and the step's place in the run is its place in S (R201). -/
def execFenceSc (scope : Scope) (s : State) : Host.Outcome State Fault Refusal :=
  fenceOp s scope (BitVec.allOnes 7) (BitVec.allOnes 7)

/-! ### Timelines -/

/-- The argument of a b64 access at a scalar base (R228). -/
def tlArg (sa : SReg) (scope : Scope) (ord : MemOrd) : MemArg :=
  { data := 0, base := sa, index := 0xFF, size := .b64, scope, ord, ch := 0, hdv := false, hd := 0, off := 0 }

/-- The place of a timeline access: MISALIGN, or PROT unless it is mapped with MT = 1 (R186, R228). -/
def tlPlace (s : State) (x : Ex) (m : MemArg) (write : Bool) : Except Stop (Place × State) :=
  let va := rdS x.p m.base
  if inWindow va then .error (.trap (if va.toNat % 8 ≠ 0 then { cause := .misalign, va } else prot va (if x.g.isSome then 0 else 8)))
  else onePlace s x { memKind s x m write false with tline := true } va

/-- `tsig`: a release write at its scope (R206, R228). -/
def execTsig (scope : Scope) (sa sb : SReg) (s : State) : Host.Outcome State Fault Refusal :=
  let m := tlArg sa scope .rel
  issue s syncRule { ss := [sa.toNat, sb.toNat] } none fun x =>
    match tlPlace s x m true with
    | .error e => .error e
    | .ok (pl, s) =>
      .ok (startOp s x .st m .nowhere (splitAcc 8 0 (rdS x.p sa) pl (toBytes 8 (rdS x.p sb).toNat) []) 0 [] [] false)

/-- `tread`: plain and long-latency (R228). -/
def execTread (la : BitVec 4) (sd sa : SReg) (s : State) : Host.Outcome State Fault Refusal :=
  let m := tlArg sa .weak .plain
  issue s syncRule { ss := [sa.toNat], sd := [sd.toNat] } none fun x =>
    match tlPlace s x m false with
    | .error e => .error e
    | .ok (pl, s) => .ok (startOp s x .ld m (.scal sd.toNat) (splitAcc 8 0 (rdS x.p sa) pl [] []) la.toNat [] [sd.toNat] false)

/-- Whether an access of a path to a place may be performed now (R197). -/
def mayAct (s : State) (x : Ex) (kind : OpKind) (size : Nat) (scope : Scope) (ord : MemOrd) (pl : Place) : Bool :=
  let a : Acc := { lane := 0, va := 0, place := pl, data := [], cmp := [] }
  canPerform s { id := s.freshId, who := x.who, pid := x.p.pid, anc := x.p.anc, pc := x.p.pc, kind, size, scope, ord, ch := 0,
                 dest := .nowhere, todo := [a], begun := false, since := s.now, counted := false, leased := [] } a

/-- Whether a path's read of a place may be performed now (R197). -/
def mayRead (s : State) (x : Ex) (m : MemArg) (pl : Place) : Bool := mayAct s x .ld m.size.bytes m.scope m.ord pl

/-- Whether a path's read of whole pages may be performed now: of each location of theirs that an outstanding access names (R197). -/
def mayReadPages (s : State) (x : Ex) (pls : List Place) : Bool :=
  let inPage := fun (p q : Place) => p.loc.1 == q.loc.1 && p.loc.2.1 / 512 == q.loc.2.1 / 512
  let named := s.ops.flatMap fun o => (o.todo.map fun a => a.place).filter fun q => pls.any fun p => inPage p q
  (pls ++ named).all fun p => mayAct s x .ld 8 .weak .plain p

/-- A wait that ends: the value is written, the read is an acquire, and the path goes on (R228, R229). -/
def endWait (s : State) (x : Ex) (ws : List (Nat × W64 × Bool)) (acq : Option Scope) : State :=
  let s := modPath s x.who x.p.pid fun p => ws.foldl (fun p w => wrSP p w.1 w.2.1 w.2.2) { p with wait := .run }
  let s := advance (match acq with
    | some sc => acquireAt s x.die x.core sc
    | none => s) x
  if x.p.wait.parks then modPath s x.who x.p.pid (keepTurn x.p) else s

/-- The die and number of a place's timeline; the dies of another module stand from 16 on (R177). -/
def tlUnit : Place → Option (Nat × Nat)
  | .fab a _ _ _ _ => some (fabDie a, tlOf (fabOff a))
  | .far _ a _ _ => some (16 * (fabMod a + 1) + fabDie a, tlOf (fabOff a))
  | _ => none

/-- The address on which a parked path waits: of the line that a `wchg` watches, or of a timeline. -/
def Wait.address : Wait → Option Nat
  | .wchg (.fab a _ _ _ _) _ _ _ _ _ _ _ | .wchg (.host _ a _) _ _ _ _ _ _ _ | .wchg (.far _ a _ _) _ _ _ _ _ _ _ => some a
  | .twait d t _ _ _ => some ((if d < 16 then fabAddr d 0 else (d / 16 - 1) * 2 ^ 43 + fabAddr (d % 16) 0) + 0x5000000000 + 8 * t)
  | _ => none

/-- Whether a parked path of a context waits on a place in the frame of a translation. -/
def watchUses (pasid : Nat) (t : Tlb) (w : Wait) : Bool :=
  (t.hroot || t.pasid == pasid) && w.address.any fun a =>
    decide (pfnAddr t.leaf % 2 ^ 43 ≤ a % 2 ^ 43) && decide (a % 2 ^ 43 < pfnAddr t.leaf % 2 ^ 43 + t.bytes)

/-- `twait` (R228): it parks until the timeline unit wakes it. -/
def execTwait (scope : Scope) (sd sa sb : SReg) (s : State) : Host.Outcome State Fault Refusal :=
  let m := tlArg sa scope .acq
  issue s syncRule { ss := [sa.toNat, sb.toNat], sd := [sd.toNat] } none fun x =>
    match tlPlace s x m false with
    | .error e => .error e
    | .ok (pl, s) =>
      if !mayRead s x m pl then .error (.hold s)
      else
        let (bs, s) := readHome s pl 8
        let v := BitVec.ofNat 64 (ofBytes (bs.map fun b => b.1))
        let want := rdS x.p sb
        if want.toNat ≤ v.toNat then .ok (endWait s x [(sd.toNat, v, false)] (some scope))
        else match tlUnit pl with
          | some (d, t) => .error (.hold (parkAt s x (.twait d t want sd.toNat scope)))
          | none => .error (.hold s)

/-! ### Waiting on a line -/

/-- Watch entries in use on a core (R265). -/
def watches (s : State) (die core : Nat) : Nat :=
  ((s.groups.filter fun g => g.die == die && g.core == core).flatMap fun g => g.allPaths.filter fun p => match p.wait with
    | .wchg _ _ _ _ _ _ _ _ => true
    | _ => false).length

/-- The read that a wait makes, with CH (R169, R229). -/
def waitRead (s : State) (x : Ex) (pl : Place) (n : Nat) (sc : Scope) (ch : BitVec 2) : (W64 × Bool) × State :=
  let (bs, s) := readPlace s x.die x.core pl n sc ch plainChoice
  ((BitVec.ofNat 64 (ofBytes (bs.map fun b => b.1)), bs.any fun b => b.2), s)

/-- `wchg` (R186, R189, R229, R265): a read of an absent ring line parks the path, which issues the word again; one that a pre-emption
interrupted ends with status 2. -/
def execWchg (m : MemArg) (s : State) : Host.Outcome State Fault Refusal :=
  let d := dataS m
  issue s syncGrp { ss := [m.base.toNat, d.toNat], sd := [d.toNat, d.toNat + 1] } none fun x =>
    let va := pathEa x.p m true
    match onePlace s x { memKind s x m false false with watch := true } va with
    | .error e => .error e
    | .ok (pl, s) =>
      if placeLost s x.die pl then .error (.trap { cause := .homeLost, va })
      else if placeAbsent s pl then .error (.hold (parkAt s x (.absent pl)))
      else if 64 ≤ watches s x.die x.core || !mayRead s x m pl || homeSilent s x.die pl then .error (.hold s)
      else
        let n := m.size.bytes
        let ((v, bad), s) := waitRead s x pl n m.scope m.ch
        let want := BitVec.ofNat 64 ((rdS x.p d).toNat % 2 ^ (8 * n))
        if x.p.cut then
          let s := modPath s x.who x.p.pid fun p => { p with cut := false }
          .ok (endWait s x [(d.toNat, v, bad), (d.toNat + 1, 2, false)] (if ordAcq m.ord then some m.scope else none))
        else if v = want then
          .error (.hold (parkAt s x (.wchg pl n want d.toNat (clk s x.die) (ordAcq m.ord) m.scope m.ch)))
        else .ok (endWait s x [(d.toNat, v, bad), (d.toNat + 1, 0, false)] (if ordAcq m.ord then some m.scope else none))

/-! ### Barriers -/

/-- A barrier instruction: the role must be named, and the issuer is a launch group outside handler mode (R230). It waits for the path's
earlier accesses, `barw` too (log entry 74). -/
def barBody (s : State) (roles : BitVec 4) (f : Ex → Group → Except Stop State) : Body := withGroup fun x g =>
  if !namesRole roles g || g.spawned.isSome then bad .illegal
  else if s.ops.any fun o => sameAgent o.who x.who && x.p.anc.contains o.pid && !(match o.kind with | .alu _ _ _ => true | _ => false)
  then .error (.hold (stall s x))
  else f x g

/-- The path's lanes are already recorded in the open phase, one of them at least, or its group has arrived (R230; log entry 73). -/
def alreadyIn (s : State) (x : Ex) (g : Group) (b : Nat) : Bool := arrBit g b || recorded s g b &&& x.p.mask != 0

/-- Parking at a barrier word, which is issued again when the phase completes. -/
def parkAtBar (s : State) (x : Ex) (b : Nat) : Except Stop State :=
  .error (.hold (parkAt s x (.barrier b)))

/-- Parking behind a barrier word: the path goes on after it when the phase completes. -/
def parkAfterBar (s : State) (x : Ex) (b : Nat) : State :=
  rotate (modPath (noteIssue s x) x.who x.p.pid fun p => parkPath (clkOf s x.who) (.barrier b) (stepPath (clkOf s x.who) true p)) x.who

/-- Recording a path's lanes; ILLEGAL when the group arrives with other roles than the phase's first arrival (R230). -/
def record (s : State) (x : Ex) (g : Group) (b : Nat) (roles : BitVec 4) (k : State → State) : Except Stop State :=
  match recordLanes s x g b roles with
  | some s => .ok (k s)
  | none => bad .illegal

/-- The rule of the barrier instructions: not in handler mode (R230). -/
def barRule (s : State) : Rule := { syncGrp with g := curUser s }

/-- `barr` (R230). -/
def execBarr (b : BitVec 3) (roles : BitVec 4) (s : State) : Host.Outcome State Fault Refusal :=
  issue s (barRule s) {} none (barBody s roles fun x g =>
    if alreadyIn s x g b.toNat then parkAtBar s x b.toNat
    else record s x g b.toNat roles fun s => advance s x)

/-- `barw` (R230). -/
def execBarw (b : BitVec 3) (roles : BitVec 4) (s : State) : Host.Outcome State Fault Refusal :=
  issue s (barRule s) {} none (barBody s roles fun x g =>
    if alreadyIn s x g b.toNat then .ok (parkAfterBar s x b.toNat)
    else .ok (advance (acquireNear s x.die x.core) x))

/-- `bar`: `barr`, then `barw` (R230). -/
def execBar (b : BitVec 3) (roles : BitVec 4) (s : State) : Host.Outcome State Fault Refusal :=
  issue s (barRule s) {} none (barBody s roles fun x g =>
    if alreadyIn s x g b.toNat then parkAtBar s x b.toNat
    else record s x g b.toNat roles fun s => parkAfterBar s x b.toNat)

end Sys2Proof.Machine
end

