-- ==== Sys2Proof/Machine/Ring.lean ====
section
/-! DEFINITION. The stage-ring instructions (R187 to R190, R207, R250 to R254) and the events that end their waits. -/
namespace Sys2Proof.Machine

/-- The rule of the ring instructions (R22, R66, R250). -/
def ringRule : Rule := ruleGrp .ring

/-- A ring of a team. -/
def ring? (t : Team) (k : Nat) : Option Ring := t.rings.find? fun r => r.k == k

/-- The stage that an instruction names (R250). Its PROT has TRAPVA 0, as has the RING_STATE of `rrel` (log entry 83). -/
def namedStage (s : State) (g : Group) (k : Nat) (j : W64) : Except Stop (Team × Stage × Nat) :=
  match team? s g.team with
  | none => .error (.trap (prot 0 3))
  | some t => match ring? t k with
    | none => .error (.trap (prot 0 3))
    | some r => match r.stages[j.toNat]? with
      | none => .error (.trap (prot 0 2))
      | some st => .ok (t, st, j.toNat)

/-! ### Defining a ring -/

/-- Whether two ranges of a scratchpad overlap. -/
def overlaps (a n b m : Nat) : Bool := decide (a < b + m) && decide (b < a + n)

/-- A ring as `rinit` leaves it (R251). -/
def freshRing (k core base size n : Nat) : Ring :=
  { k, core, base, size, stages := List.replicate n { st := 0, phase := false, absent := [] } }

/-- Whether every stage of a ring is EMPTY with no absent line. -/
def Ring.idle (r : Ring) : Bool := r.stages.all fun st => st.st == 0 && st.absent.isEmpty

/-- Paths that wait for a stage of a ring issue their `racq` again. -/
def reissueRacq (s : State) (tid k : Nat) : State :=
  { s with waiters := s.waiters.filter fun w => !(w.1 == tid && w.2.1 == k),
           groups := s.groups.map fun g => g.allPaths.foldl (fun (g : Group) p => match p.wait with
             | .racq t r _ _ _ _ => if t = tid ∧ r = k then g.modPid p.pid fun p => { p with wait := .run } else g
             | _ => g) g }

/-- `rinit` (R251). A MISALIGN of the size has the base in TRAPVA too (log entry 83). -/
def execRinit (k : BitVec 3) (stagesm1 : BitVec 4) (sa sb : SReg) (s : State) : Host.Outcome State Fault Refusal :=
  issue s ringRule { ss := [sa.toNat, sb.toNat] } none (withGroup fun x g =>
    let va := rdS x.p sa
    let size := (rdS x.p sb).toNat
    let n := stagesm1.toNat + 1
    if va.toNat % 256 ≠ 0 ∨ size % 256 ≠ 0 ∨ size = 0 then .error (.trap { cause := .misalign, va })
    else match team? s g.team with
      | none => .error (.trap (prot va 0))
      | some t => match bulkDest t g.tcore va (size * n) with
        | none => .error (.trap (prot va 0))
        | some (core, base) =>
          if t.rings.any fun r => r.k != k.toNat && r.core == core && overlaps base (size * n) r.base (r.size * r.stages.length) then
            .error (.trap (prot va 0))
          else if (ring? t k.toNat).any fun r => !r.idle then .error (.trap { cause := .ringState, va })
          else
            let s := modTeam s t.tid fun t =>
              { t with rings := freshRing k.toNat core base size n :: t.rings.filter fun r => r.k != k.toNat }
            .ok (advance (reissueRacq s t.tid k.toNat) x))

/-! ### Acquiring a stage -/

/-- The state that `racq` waits for (R252). -/
def racqWants (cons : Bool) : Nat := if cons then 2 else 0

/-- The change that `racq` makes, with the stage word read after it (R188, R190, R252). -/
def takeStage (s : State) (x : Ex) (t : Team) (st : Stage) (k j sd : Nat) (cons : Bool) : State :=
  let new := { st with st := racqWants cons + 1 }
  endWait (modTeam s t.tid fun t => modStage t k j fun _ => new) x [(sd, stageWord new, false)] (some .team)

/-- Whether a waiter of a stage has its path live and waiting in a mode. -/
def waitsIn (s : State) (cons : Bool) (w : Nat × Nat × Nat × Nat × Nat × Nat) : Bool :=
  match grp? s w.2.2.2.1 with
  | some g => (g.stack.a.toList ++ g.stack.b.toList).any fun p => p.pid == w.2.2.2.2.1 && match p.wait with
    | .racq t k j _ c _ => t == w.1 && k == w.2.1 && j == w.2.2.1 && c == cons
    | _ => false
  | none => false

/-- `racq` (R252): it waits without parking. -/
def execRacq (sd : SReg) (k : BitVec 3) (sa : SReg) (cons : Bool) (s : State) : Host.Outcome State Fault Refusal :=
  issue s ringRule { ss := [sa.toNat], sd := [sd.toNat] } none (withGroup fun x g =>
    match namedStage s g k.toNat (rdS x.p sa) with
    | .error e => .error e
    | .ok (t, st, j) =>
      let ahead := s.waiters.any fun w => w.1 == t.tid && w.2.1 == k.toNat && w.2.2.1 == j && waitsIn s cons w
      if st.st = racqWants cons ∧ !ahead then .ok (takeStage s x t st k.toNat j sd.toNat cons)
      else
        let s := { s with waiters := s.waiters ++ [(t.tid, k.toNat, j, g.gid, x.p.pid, s.now)] }
        .error (.hold (modPath s x.who x.p.pid fun p => { p with wait := .racq t.tid k.toNat j sd.toNat cons g.gidx })))

/-- The live slot of a path. -/
def slotOf (g : Group) (pid : Nat) : Option Nat :=
  if g.stack.a.any fun p => p.pid == pid then some 0 else if g.stack.b.any fun p => p.pid == pid then some 1 else none

/-- The rank of a waiter: when it began to wait, then GIDX, then slot A before slot B (R252). -/
def waiterRank (s : State) (w : Nat × Nat × Nat × Nat × Nat × Nat) : Nat :=
  match grp? s w.2.2.2.1 with
  | some g => (w.2.2.2.2.2 * 2 ^ 16 + g.gidx) * 2 + (slotOf g w.2.2.2.2.1).getD 0
  | none => 0

/-- The waiter that is served first. -/
def firstWaiter (s : State) (l : List (Nat × Nat × Nat × Nat × Nat × Nat)) : Option (Nat × Nat × Nat × Nat × Nat × Nat) :=
  l.foldl (fun m w => match m with
    | none => some w
    | some v => if waiterRank s w < waiterRank s v then some w else some v) none

/-- A waiting `racq` meets the state it waits for (R252). -/
def grantRacq (s : State) (tid k j : Nat) : State :=
  match team? s tid with
  | none => s
  | some t => match stage? t k j with
    | none => s
    | some st =>
      if st.st ≠ 0 ∧ st.st ≠ 2 then s
      else
        let cons := st.st == 2
        match firstWaiter s (s.waiters.filter fun w => w.1 == tid && w.2.1 == k && w.2.2.1 == j && waitsIn s cons w) with
        | none => s
        | some w => match grp? s w.2.2.2.1 with
          | none => s
          | some g => match slotOf g w.2.2.2.2.1 with
            | none => s
            | some sl => match exOf s (.grp g.gid sl) with
              | none => s
              | some x => match x.p.wait with
                | .racq _ _ _ sd _ _ => takeStage { s with waiters := s.waiters.filter fun v => v != w } x t st k j sd cons
                | _ => s

/-! ### Releasing a stage -/

/-- Whether `rrel` waits no more: the path's earlier reads and writes and the group's earlier matrix accesses are performed,
and from DRAINING every line is present (R189, R253). -/
def rrelReady (s : State) (x : Ex) (g : Group) (st : Stage) : Bool :=
  !(s.ops.any fun o => sameAgent o.who x.who && x.p.anc.contains o.pid && (o.kind.reads || o.kind.writes)) &&
  !(s.cores.any fun c => c.strm.any fun e => e.2.any fun o => o.gid == g.gid && matInSet 0b0110000#7 o.kind) &&
  !(st.st == 3 && !st.absent.isEmpty)

/-- The change that `rrel` makes (R188, R207, R253). -/
def giveStage (s : State) (x : Ex) (t : Team) (st : Stage) (k j : Nat) : Except Stop State :=
  let move := fun (f : Stage → Stage) => .ok (endWait (modTeam (releaseBy s x.die .team) t.tid fun t => modStage t k j f) x [] none)
  if st.st = 1 then move fun st => { st with st := 2 }
  else if st.st = 3 then move fun st => { st with st := 0, phase := !st.phase }
  else bad .ringState

/-- `rrel` (R253): it waits without parking. -/
def execRrel (k : BitVec 3) (sa : SReg) (s : State) : Host.Outcome State Fault Refusal :=
  issue s ringRule { ss := [sa.toNat] } none (withGroup fun x g =>
    match namedStage s g k.toNat (rdS x.p sa) with
    | .error e => .error e
    | .ok (t, st, j) =>
      if rrelReady s x g st then giveStage s x t st k.toNat j
      else .error (.hold (modPath s x.who x.p.pid fun p => { p with wait := .rrel t.tid k.toNat j })))

/-- A waiting `rrel` whose waits are over makes its change (R253). -/
def completeRrel (s : State) (gid pid : Nat) : State :=
  match grp? s gid with
  | none => s
  | some g => match (slotOf g pid).bind fun sl => exOf s (.grp gid sl) with
    | none => s
    | some x => match x.p.wait with
      | .rrel tid k j => match team? s tid with
        | none => s
        | some t => match stage? t k j with
          | none => s
          | some st =>
            if !rrelReady s x g st then s
            else match giveStage s x t st k j with
              | .ok s => s
              | .error (.trap tr) => raiseOn s x.who tr x.p.pc
              | .error (.hold s) => s
      | _ => s

/-- `rstat` (R254). -/
def execRstat (sd : SReg) (k : BitVec 3) (sa : SReg) (s : State) : Host.Outcome State Fault Refusal :=
  issue s ringRule { ss := [sa.toNat], sd := [sd.toNat] } none (withGroup fun x g =>
    match namedStage s g k.toNat (rdS x.p sa) with
    | .error e => .error e
    | .ok (_, st, _) => .ok (advance (setS s x sd (stageWord st)) x))

/-- RACQ_GRANT: the oldest waiter that the stage's state serves acquires it (R252). -/
def execRacqGrant (team k j : Nat) (s : State) : Host.Outcome State Fault Refusal := .next (grantRacq s team k j)

/-- RREL_COMPLETE: a waiting `rrel` makes its change (R253). -/
def execRrelComplete (gid pid : Nat) (s : State) : Host.Outcome State Fault Refusal := .next (completeRrel s gid pid)

end Sys2Proof.Machine
end

