-- ==== Sys2Proof/Machine/QueueOps.lean ====
section
/-! DEFINITION. The instructions of Q threads (R268 to R278): packets and their errors (R46, R47, R259, R339), descriptors
(R48, R49), launches (R276), interrupts (R277, R342) and sleep. -/
namespace Sys2Proof.Machine

/-- Only a Q thread may issue it; `sys` at system level alone (R269). -/
def ruleQ (sys : Bool) : Rule := { g := false, q := true, c := false, cls := .control, sys }

/-! ### Packets -/

/-- A little-endian field. -/
def le (raw : List Byte) (off n : Nat) : Nat := ofBytes ((raw.drop off).take n)

/-- The offset of the first nonzero byte of a reserved range. -/
def nonzeroAt (raw : List Byte) (lo hi : Nat) : Option Nat := (List.range (hi - lo)).findSome? fun k =>
  if (raw[lo + k]?).getD 0 = 0 then none else some (lo + k)

/-- An offset that fails when a condition holds. -/
def fails (b : Bool) (off : Nat) : Option Nat := if b then some off else none

/-- The width that a WIDTH code names (R46). -/
def widthOf (code : Nat) : Nat := 8 * 2 ^ code

/-- The fields of a LAUNCH packet (R46). -/
def packet46 (raw : List Byte) : Packet46 :=
  { flags := le raw 1 1, dies := le raw 4 2, width := widthOf (le raw 6 1), cores := le raw 7 1,
    tlva := BitVec.ofNat 64 (le raw 8 8), tlval := BitVec.ofNat 64 (le raw 16 8), desc := BitVec.ofNat 64 (le raw 24 8),
    arg := BitVec.ofNat 64 (le raw 32 8), gx := le raw 40 4, gy := le raw 44 4, gz := le raw 48 4,
    counts := (List.range 4).map (fun r => le raw (52 + 2 * r) 2), scratch := le raw 60 4,
    vbud := (List.range 4).map (fun r => le raw (64 + r) 1 + 1), sbud := (List.range 4).map (fun r => le raw (68 + r) 1),
    pool := le raw 72 2, prio := le raw 76 1 }

/-- Number i of a list of counts. -/
def nth (l : List Nat) (i : Nat) : Nat := (l[i]?).getD 0

/-- Groups of a team at launch. -/
def Packet46.groups (p : Packet46) : Nat := p.counts.foldl (fun a b => a + b) 0

/-- The offset of the first failing field of a LAUNCH packet (R46, R47, R276). -/
def launchErr (raw : List Byte) : Option Nat :=
  let p := packet46 raw
  fails (decide (32 ≤ p.flags)) 1 <|> fails (le raw 2 2 != 2) 2 <|> fails (p.dies == 0 || decide (4096 ≤ p.dies)) 4 <|>
  fails (decide (3 < le raw 6 1)) 6 <|> fails (p.cores == 0 || decide (8 < p.cores)) 7 <|> fails (p.tlva.toNat % 8 != 0) 8 <|>
  fails (p.desc.toNat % 64 != 0) 24 <|> fails (p.gx == 0) 40 <|> fails (p.gy == 0) 44 <|> fails (p.gz == 0) 48 <|>
  fails (p.groups == 0) 52 <|> fails (p.scratch % 256 != 0) 60 <|>
  ((List.range 4).findSome? fun r =>
    fails (nth p.counts r != 0 && (nth p.sbud r == 0 || decide (64 < nth p.sbud r))) (68 + r)) <|>
  nonzeroAt raw 74 76 <|> fails (decide (7 < p.prio)) 76 <|> nonzeroAt raw 77 128 <|>
  fails (decide (65536 < p.width * (p.groups + p.cores * p.pool))) 52

/-- The limits of a copy operation's operands: index in the block, least and greatest value (R279). -/
def copyLimits : CopyKind → List (Nat × Nat × Nat)
  | .cpy | .cfill => [(4, 0, 2 ^ 40)]
  | .prog => []
  | .cpy2d => [(4, 0, 2 ^ 40), (5, 0, 2 ^ 24)]
  | .cpyg | .cpys => [(5, 1, 65536), (6, 0, 2 ^ 24)]
  | .reform _ _ => [(3, 1, 2 ^ 18)]

/-- Words of a copy operation's operand block (R279, R282). -/
def copyWords : CopyKind → Nat
  | .cpy | .cfill => 5
  | .prog | .reform _ _ => 4
  | .cpy2d => 8
  | .cpyg | .cpys => 7

/-- The operation that a COPY packet's OP names (R339). -/
def copyOfOp : Nat → Option CopyKind
  | 0 => some .cpy
  | 1 => some .cpy2d
  | 2 => some .cpyg
  | 3 => some .cpys
  | 4 => some .cfill
  | _ => none

/-- SIZE of a type other than LAUNCH (R339). -/
def sizeOfType (t op : Nat) : Nat := if t = 6 ∨ t = 2 ∧ op = 1 then 2 else 1

/-- The offset of the first failing field of a packet, by its type (R47, R259, R339). -/
def packetErr (raw : List Byte) : Option Nat :=
  let t := le raw 0 1
  let fl := le raw 1 1
  if 7 < t then some 0
  else if 32 ≤ fl ∨ (t ≠ 1 ∧ fl / 4 % 4 ≠ 0) then some 1
  else if t = 1 then launchErr raw
  else if le raw 2 2 ≠ sizeOfType t (le raw 4 1) then some 2
  else
    let tail := fun (lo : Nat) => nonzeroAt raw lo raw.length
    match t with
    | 2 => match copyOfOp (le raw 4 1) with
      | none => some 4
      | some k => nonzeroAt raw 5 8 <|>
          ((copyLimits k).findSome? fun e => fails (decide (le raw (8 + 8 * e.1) 8 < e.2.1 ∨ e.2.2 < le raw (8 + 8 * e.1) 8)) (8 + 8 * e.1)) <|>
          tail (8 + 8 * copyWords k)
    | 6 => fails (decide (1 < le raw 4 1)) 4 <|> nonzeroAt raw 5 8 <|> tail 72
    | 7 => nonzeroAt raw 4 16 <|> tail 24
    | 0 => nonzeroAt raw 4 8 <|> tail 24
    | _ => nonzeroAt raw 4 8 <|> tail 40

/-! ### Consuming packets -/

/-- What a `qpop` comes to: the value for s[SB] and the packet's words, a trap, or a wait. -/
inductive Pop
  | done (s : State) (v : W64) (words : Option (List W64)) | trap (s : State) (t : Trap) | hold (s : State)

/-- The bytes of the packet at R_q, as far as the kicks cover it (R255, R256), or why a slot cannot be read, with its address.
Poisoned bytes are taken as they stand (log entry 87). -/
def packetAt (s : State) (q : Queue) : Except (XFail × W64) (Option (List Byte) × State) :=
  let kind := queueKind s q false 8
  let slot := fun (i : Nat) => q.ring + BitVec.ofNat 64 (64 * (i % q.size))
  match agentRead s q.die q.pasid (slot q.r) 64 kind with
  | .error f => .error (f, slot q.r)
  | .ok (b, s) =>
    let raw := b.map fun e => e.1
    if le raw 2 2 ≠ 2 then .ok (some raw, s)
    else if q.w < q.r + 2 then .ok (none, s)
    else match agentRead s q.die q.pasid (slot (q.r + 1)) 64 kind with
      | .error f => .error (f, slot (q.r + 1))
      | .ok (b, s) => .ok (some (raw ++ b.map fun e => e.1), s)

/-- Whether a packet may start (R258): every earlier one has started, or was closed without that, every WAITGE is complete, and, with
BARRIER set, every earlier one. -/
def mayStart (q : Queue) (flags : Nat) : Bool :=
  (flags % 2 == 0 || q.packets.all fun p => p.done) && q.packets.all fun p => p.waitTl.isNone && (p.started || p.closed)

/-- The packet's record; NOP, SIGNAL and WAITGE close themselves, with the header's timeline and interrupt (R258, R339). -/
def packetOf (seq : Nat) (raw : List Byte) : Packet :=
  let t := le raw 0 1
  let w := fun (k : Nat) => BitVec.ofNat 64 (le raw (8 * k) 8)
  let own := t = 0 ∨ t = 4 ∨ t = 5
  { seq, typ := t, flags := le raw 1 1, tlva := w 1, tlval := w 2, closed := own,
    done := false, acked := if own then some (w 1, w 2, le raw 1 1 / 2 % 2 == 1) else none, status := 0, ran := [], vouched := false,
    waitTl := if t = 5 then some (w 3, w 4) else none, guest := none, data := (List.range 13).map fun k => if k = 0 then BitVec.ofNat 64 (le raw 4 1) else w (k + 2),
    never := false, started := !(t == 1 || t == 2 || t == 3) }

/-- Consuming the packet at R_q (R256, R274); a start that waited on completions, for its BARRIER or for a WAITGE, is an acquire at
SYS. -/
def consume (s : State) (q : Queue) (raw : List Byte) : State :=
  let r := q.r + max 1 (le raw 2 2)
  let s := if le raw 1 1 % 2 = 1 ∨ q.waited then acquireAt s q.die 64 .sys else s
  let s := modQueue s q.die q.qid fun q => { q with r, waited := false, packets := q.packets ++ [packetOf (q.r + 1) raw] }
  (tryWrite s q q.ridxva (toBytes 8 r)).getD s

/-- Changing a packet of a queue. -/
def modPacket (s : State) (die qid seq : Nat) (f : Packet → Packet) : State :=
  modQueue s die qid fun q => { q with packets := modWhere q.packets (fun p => p.seq == seq) f }

/-- The value of a queue's timeline, if it can be read and its home answers (R327). -/
def queueTlValue (s : State) (q : Queue) (va : W64) : Option (Nat × State) :=
  match agentPlace s q.die q.pasid va { queueKind s q false 8 with tline := true } with
  | .ok (p, s) =>
    if homeSilent s q.die p then none
    else
      let (b, s) := readHome s p 8
      some (ofBytes (b.map fun e => e.1), s)
  | .error _ => none

/-- A WAITGE packet completes (R258). -/
def waitgeDone (s : State) (q : Queue) (p : Packet) : State :=
  match p.waitTl with
  | none => s
  | some (va, v) => match queueTlValue s q va with
    | some (n, s) =>
      if v.toNat ≤ n then
        let s := modQueue s q.die q.qid fun q => { q with waited := true }
        settleQueue (modPacket s q.die q.qid p.seq fun p => { p with waitTl := none }) q.die q.qid
      else s
    | none => s

/-- The WAITGE packet that a queue waits for, if any, is tested (R258, R274). -/
def waitgeTest (s : State) (q : Queue) : State :=
  match q.packets.find? fun p => p.waitTl.isSome with
  | some p => waitgeDone s q p
  | none => s

/-- The translation check of the timeline of a WAITGE, or of a COPY packet, which will be written (R186, R339). -/
def waitgeCheck (s : State) (q : Queue) (va : W64) (write : Bool := false) : Option Trap :=
  if va.toNat % 8 ≠ 0 then some { cause := .misalign, va }
  else match agentPlace s q.die q.pasid va { queueKind s q write 8 with tline := true } with
    | .ok _ => none
    | .error (.trap t) => some t
    | .error _ => some (prot va 0)

/-- NOP, SIGNAL and WAITGE are performed when they are consumed, and the timeline of a COPY is checked (R258, R274, R339; log entry
27). R_q has passed the packet when that check traps, and a SIGNAL that failed it completes (log entry 88). -/
def performSimple (s : State) (q : Queue) (raw : List Byte) : Except (State × Trap) State :=
  let va := BitVec.ofNat 64 (le raw 24 8)
  match le raw 0 1 with
  | 4 => match tlSignal s q.die q.pasid va (BitVec.ofNat 64 (le raw 32 8)) (queueSecure s q) with
    | .ok s => .ok (settleQueue s q.die q.qid)
    | .error t => .error (s, t)
  | 5 => match waitgeCheck s q va with
    | some t => .error (s, t)
    | none => .ok (((queue? s q.die q.qid).map (waitgeTest s)).getD s)
  | 2 => match (if le raw 8 8 = 0 then none else waitgeCheck s q (BitVec.ofNat 64 (le raw 8 8)) true) with
    | some t => .error (s, t)
    | none => .ok s
  | _ => .ok (settleQueue s q.die q.qid)

/-- Reads, writes and device accesses of a thread that are still to be performed. -/
def stillOut (s : State) (x : Ex) : Bool := predPending s x 0b1000011#7 0

/-- A trap of `qpop` concerns the packet that it was taking (R271, R274). -/
def concern (s : State) (x : Ex) (seq : Nat) : State :=
  match x.who with
  | .qthr d t => modQt s d t fun q => { q with popped := some seq }
  | _ => s

/-- The loop of `qpop` (R274), by fuel: each turn but the last consumes a packet. The release of a SIGNAL covers the thread's earlier
accesses (R206). -/
def popLoop (x : Ex) (die : Nat) (bound : Option Nat) : Nat → State → Pop
  | 0, s => .done s 0 none
  | n + 1, s =>
    let s := ((bound.bind fun b => queue? s die b).map (waitgeTest s)).getD s
    match bound.bind fun b => queue? s die b with
    | none => .done s 0 none
    | some q =>
      let s := modQueue s die q.qid fun q => { q with kicked := false }
      if q.r = q.w then .done s 0 none
      else if q.halted then .done s (BitVec.allOnes 64) none
      else match packetAt s q with
        | .error (.ats, va) => .hold (askAts s x va false)
        | .error (.silent, _) => .hold s
        | .error (.trap t, _) => .trap (concern s x (q.r + 1)) t
        | .ok (none, s) => .done s 0 none
        | .ok (some raw, s) =>
          match packetErr raw with
          | some off =>
            .done (haltQueue (queueRecord s die q.qid 0x30 (q.r + 1) 0 (BitVec.ofNat 64 (1 + 256 * off))) die q.qid) (BitVec.allOnes 64) none
          | none =>
            if !mayStart q (le raw 1 1) then .done s 0 none
            else if le raw 0 1 = 4 ∧ (stillOut s x ∨ tlWaits s die q.pasid (BitVec.ofNat 64 (le raw 24 8)) (queueSecure s q)) then .hold s
            else
              let s := consume s q raw
              let t := le raw 0 1
              match (if t = 0 ∨ t = 2 ∨ t = 4 ∨ t = 5 then performSimple s q raw else .ok s) with
              | .error (s, t) => .trap (concern s x (q.r + 1)) t
              | .ok s => if t = 0 ∨ t = 4 ∨ t = 5 then popLoop x die bound n s else .done s (BitVec.ofNat 64 (q.r + 1)) (some ((List.range 16).map fun k => BitVec.ofNat 64 (le raw (8 * k) 8)))

/-- The thread that issues. -/
def thread (s : State) (x : Ex) : Option QThread :=
  match x.who with
  | .qthr d t => qt? s d t
  | _ => none

/-- A body that only a Q thread runs. -/
def withThread (s : State) (f : Ex → QThread → Except Stop State) : Body := fun x =>
  match thread s x with
  | some q => f x q
  | none => bad .illegal

/-- The queue that a thread is bound to. -/
def boundQueue (s : State) (q : QThread) : Option Queue := q.bound.bind fun b => queue? s q.die b

/-- `qpop` (R274). -/
def execQpop (sd sb : SReg) (s : State) : Host.Outcome State Fault Refusal :=
  issue s (ruleQ true) { sd := sb.toNat :: (List.range 16).map fun k => sd.toNat + k } none (withThread s fun x t =>
    let fuel := match boundQueue s t with
      | some q => q.w - q.r + 1
      | none => 1
    match popLoop x t.die t.bound fuel s with
    | .hold s => .error (.hold s)
    | .trap s tr => .ok (raiseOn s x.who tr x.p.pc)
    | .done s v words =>
      let s := match words with
        | some l => modQt (modPath s x.who x.p.pid fun p => l.zipIdx.foldl (fun p e => wrS p (sd.toNat + e.2) e.1) p) t.die t.t
            fun q => { q with popped := some v.toNat }
        | none => s
      .ok (advance (setS s x sb v) x))

/-- A consumed packet of the bound queue that has not been closed (R275). -/
def openPacket (s : State) (t : QThread) (seq : W64) : Option (Queue × Packet) :=
  match boundQueue s t with
  | none => none
  | some q => (q.packets.find? fun p => p.seq == seq.toNat && !p.closed).map fun p => (q, p)

/-- A closed packet is no longer the one that its thread serves (R271). -/
def leavePacket (s : State) (t : QThread) (seq : Nat) : State :=
  modQt s t.die t.t fun q => { q with popped := if q.popped = some seq then none else q.popped }

/-- `qack` (R275): what DONE covers includes the thread's own accesses, which are performed first (R206). -/
def execQack (sa sb : SReg) (cause : BitVec 8) (irq : Bool) (s : State) : Host.Outcome State Fault Refusal :=
  issue s (ruleQ true) { ss := [sa.toNat, sb.toNat, sb.toNat + 1] } none (withThread s fun x t =>
    match openPacket s t (rdS x.p sa) with
    | none => bad .illegal
    | some (q, p) =>
      if cause = 0 then
        if stillOut s x then .error (.hold s) else
        let s := modPacket s q.die q.qid p.seq fun p => { p with closed := true, acked := some (rdS x.p sb, rdSk x.p sb 1, irq) }
        .ok (advance (settleQueue (leavePacket s t p.seq) q.die q.qid) x)
      else
        let s := leavePacket (modPacket s q.die q.qid p.seq fun p => { p with closed := true, never := true }) t p.seq
        let s := queueRecord s q.die q.qid cause.toNat p.seq 0 (if cause = 0x31#8 then p.status else 0)
        .ok (advance (haltQueue s q.die q.qid) x))

/-! ### Launches -/

/-- The fields of a kernel descriptor (R48). -/
def descOf (raw : List Byte) : Desc :=
  { entries := (List.range 4).map (fun r => BitVec.ofNat 64 (le raw (7 * r) 7)), prest := le raw 28 1 % 2 == 1, ranks := le raw 29 1,
    isa := le raw 30 1, feat0 := BitVec.ofNat 64 (le raw 32 8), feat1 := BitVec.ofNat 64 (le raw 40 8),
    htb := BitVec.ofNat 64 (le raw 48 8), vmax := (List.range 4).map (fun r => le raw (56 + r) 1 + 1),
    smax := (List.range 4).map (fun r => le raw (60 + r) 1), ok := le raw 28 1 / 2 == 0 && le raw 31 1 == 0 }

/-- The descriptor checks (R49). -/
def descOk (p : Packet46) (d : Desc) (c : Context) : Bool :=
  d.isa == 3 && d.ok && d.feat0 &&& ~~~ c.feat0 == 0 && d.feat1 &&& ~~~ c.feat1 == 0 && d.entries.all (fun e => e.toNat % 8 == 0) &&
  (List.range 4).all fun r => nth p.counts r == 0 ||
    ((d.entries[r]?).getD 0 != 0 && decide (nth d.vmax r ≤ nth p.vbud r) && decide (nth d.smax r ≤ nth p.sbud r))

/-- What a set of groups reserves on a core (R27): groups, lanes, vector bytes, Core Store bytes, and in its context's private
memory. -/
structure Share where
  groups : Nat := 0
  lanes  : Nat := 0
  vec    : Nat := 0
  store  : Nat := 0
  pin    : Nat := 0

/-- Adding reservations. -/
def Share.add (a b : Share) : Share :=
  { groups := a.groups + b.groups, lanes := a.lanes + b.lanes, vec := a.vec + b.vec, store := a.store + b.store,
    pin := a.pin + b.pin }

/-- The reservation of one group (R27). -/
def Share.one (w v sb : Nat) : Share :=
  { groups := 1, lanes := w, vec := w * v * 4, store := w * v * 4 + 24 * sb + 16 + 512,
    pin := (2 * w - 19) * 32 + (2 * w - 3) * (8 + 8 * sb) }

/-- A reservation n times. -/
def Share.times (n : Nat) (a : Share) : Share :=
  { groups := n * a.groups, lanes := n * a.lanes, vec := n * a.vec, store := n * a.store, pin := n * a.pin }

/-- The limits of a core (R27). -/
def Share.fits (a : Share) : Bool :=
  decide (a.groups ≤ 1023) && decide (a.lanes ≤ 16384) && decide (a.vec ≤ Config.vectorStore) &&
  decide (a.store + Config.handlerArea ≤ Config.coreStore)

/-- The largest budgets of the roles that a team uses: what a spawn-pool slot reserves (R27). -/
def poolSlot (p : Packet46) : Share :=
  let used := (List.range 4).filter fun r => nth p.counts r != 0
  let v := used.foldl (fun m r => max m (nth p.vbud r)) 0
  let b := used.foldl (fun m r => max m (nth p.sbud r)) 0
  Share.one p.width v b

/-- Groups of role r on team core j (R25). -/
def roleOnCore (p : Packet46) (r j : Nat) : Nat := (nth p.counts r + p.cores - 1 - j) / p.cores

/-- A team's share of its core j (R25, R27). -/
def teamShare (p : Packet46) (j : Nat) : Share :=
  (List.range 4).foldl (fun a r => a.add (Share.times (roleOnCore p r j) (Share.one p.width (nth p.vbud r) (nth p.sbud r))))
    ((Share.times p.pool (poolSlot p)).add { store := p.scratch })

/-- The bytes of private memory that a team pins (R27, R28). -/
def teamPin (p : Packet46) : Nat := ((List.range p.cores).map fun j => (teamShare p j).pin).sum

/-- The named dies in service (R261). -/
def namedDies (s : State) (p : Packet46) : List Nat := (List.range Config.dies).filter fun d => p.dies.testBit d && dieUp s d

/-- Whether a launch's teams may use the matrix engine: a nonzero GENERAL or MATRIX count (R232). -/
def usesEngine (p : Packet46) : Bool := nth p.counts 0 != 0 || nth p.counts 2 != 0

/-- Whether COSCHED is set (R46). -/
def Packet46.cosched (p : Packet46) : Bool := p.flags / 4 % 2 == 1

/-- What stands on the cores of the module before a grid is placed: the reservations of a core, the barrier sets in use in a cluster,
and whether a core may be used. -/
structure Floor where
  use  : Nat → Nat → Share
  sets : Nat → Nat → Nat
  ok   : Nat → Nat → Bool

/-- What a core bears with the teams placed so far. -/
def Floor.load (f : Floor) (p : Packet46) (l : List (Nat × List Nat)) (d c : Nat) : Share :=
  l.foldl (fun a e => match e.2.findIdx? fun k => k == c with
    | some j => if e.1 = d then a.add (teamShare p j) else a
    | none => a) (f.use d c)

/-- Whether a COSCHED grid's next team may stand at a place beside those placed so far (R27, R232, R262). -/
def Floor.takes (f : Floor) (p : Packet46) (l : List (Nat × List Nat)) (d : Nat) (cs : List Nat) : Bool :=
  let k := clusterOf (cs.head?.getD 0)
  (cs.zipIdx.all fun e => f.ok d e.1 && ((f.load p l d e.1).add (teamShare p e.2)).fits &&
    !(usesEngine p && l.any fun q => q.1 == d && q.2.contains e.1)) &&
  decide (f.sets d k + (l.filter fun q => q.1 == d && clusterOf (q.2.head?.getD 0) == k).length < 64)

/-- The ascending choices of n members of a list. -/
def choose : Nat → List Nat → List (List Nat)
  | 0, _ => [[]]
  | _ + 1, [] => []
  | n + 1, c :: cs => (choose n cs).map (fun l => c :: l) ++ choose (n + 1) cs

/-- The places that a team may take: CORES cores of one cluster of a named die (R25, R261). -/
def placesOf (s : State) (p : Packet46) : List (Nat × List Nat) :=
  (namedDies s p).flatMap fun d => (List.range 8).flatMap fun k =>
    (choose p.cores ((List.range Config.cores).filter fun c => clusterOf c == k)).map fun cs => (d, cs)

/-- Whether n more teams of a COSCHED grid can be placed, in any way, beside those placed so far (R29). -/
def Floor.packs (f : Floor) (p : Packet46) (places : List (Nat × List Nat)) : Nat → List (Nat × List Nat) → Bool
  | 0, _ => true
  | n + 1, l => places.any fun e => f.takes p l e.1 e.2 && f.packs p places n (e :: l)

/-- More teams than this no module holds: 64 barrier sets in each cluster (R262). -/
def maxTeams : Nat := 64 * 8 * Config.dies

/-- Whether a COSCHED grid fits its dies when they are empty (R29): on every core that is not out of service. -/
def gridFits (s : State) (p : Packet46) : Bool :=
  let n := p.gx * p.gy * p.gz
  let f : Floor := { use := fun _ _ => {}, sets := fun _ _ => 0, ok := fun d c => (core? s d c).any fun x => x.st != .out }
  decide (n ≤ maxTeams) && f.packs p (placesOf s p) (min n maxTeams) []

/-- The checks of `launch` in their order (R276): the status, or what is launched. Poisoned bytes of the descriptor are used as they stand
(log entry 87). -/
def launchCheck (s : State) (x : Ex) (raw : List Byte) : Except XFail ((Nat ⊕ (Packet46 × Desc)) × State) :=
  let p := packet46 raw
  match (if le raw 0 1 = 1 then launchErr raw else some 0) with
  | some off => .ok (.inl (1 + 256 * off), s)
  | none => match agentRead s x.die x.pasid p.desc 64 { devKind s x.pasid false 8 with user := x.user, secure := x.secure } with
    | .error (.trap _) => .ok (.inl (2 + 256 * 6), s)
    | .error f => .error f
    | .ok (b, s) =>
      let d := descOf (b.map fun e => e.1)
      let st :=
        if !(ctx? s x.pasid).any (fun c => descOk p d c) then some 5
        else if namedDies s p = [] then some 2
        else if !((List.range p.cores).all fun j => (teamShare p j).fits) then some 1
        else if p.cosched && !gridFits s p then some 4
        else if Config.pinFails (teamPin p) s.freeCtr then some 3
        else none
      let (_, s) := draw s
      match st with
      | some k => .ok (.inl (2 + 256 * k), s)
      | none => .ok (.inr (p, d), s)

/-- The packet to which a thread's work is attributed (R276, R279). -/
def attributed (s : State) (x : Ex) (t : QThread) (sb : SReg) : Option (Queue × Packet) :=
  if x.user then
    (if sb = 0 then match t.qprog with
      | some n => openPacket s t (BitVec.ofNat 64 n)
      | none => none
     else none)
  else openPacket s t (rdS x.p sb)

/-- A grid handed to the work distributors (R258, R260, R276). -/
def startGrid (s : State) (q : Queue) (seq : Nat) (p : Packet46) (d : Desc) : State :=
  let (lid, s) := fresh s
  let l : Launch := { lid, die := q.die, qid := q.qid, seq, pasid := q.pasid, pk := p, ds := d, prio := min p.prio q.cap, next := 0,
                      redo := [], ended := 0, faulted := false, since := s.now, held := false, reported := false }
  modPacket { s with launches := s.launches ++ [l] } q.die q.qid seq fun p => { p with started := true }

/-- Whether a Q thread issues. -/
def onThread (s : State) : Bool := match s.cur with
  | some (.qthr _ _) => true
  | _ => false

/-- The register that the SB field of an attributed instruction names: s[SB] at system level; at user level and on C the field names
none (R276, R279). -/
def sbNamed (s : State) (sb : SReg) : List Nat := if onThread s && !curUser s then [sb.toNat] else []

/-- `launch` (R276): at user level a nonzero SB field is found at issue. -/
def execLaunch (sd sa sb : SReg) (s : State) : Host.Outcome State Fault Refusal :=
  issue s { ruleQ false with q := !(curUser s && sb != 0) } { ss := sbNamed s sb ++ (List.range 16).map (fun k => sa.toNat + k), sd := [sd.toNat] } none
    (withThread s fun x t =>
      match attributed s x t sb with
      | none => bad .illegal
      | some (q, pk) =>
        if stillOut s x then .error (.hold s)
        else
          let raw := ((List.range 16).map fun k => toBytes 8 (rdSk x.p sa k).toNat).flatten
          match launchCheck (releaseBy s x.die .sys) x raw with
          | .error .ats => .error (.hold (askAts s x (packet46 raw).desc false))
          | .error _ => .error (.hold s)
          | .ok (.inl st, s) =>
            let s := modPacket s q.die q.qid pk.seq fun p => { p with status := BitVec.ofNat 64 st }
            .ok (advance (setS s x sd (BitVec.ofNat 64 st)) x)
          | .ok (.inr (p, d), s) => .ok (advance (setS (startGrid s q pk.seq p d) x sd 0) x))

/-! ### Interrupts and sleep -/

/-- Delivering a value to the die-kernel mailbox; a full one makes the thread wait (R342). -/
def toMailbox (s : State) (x : Ex) (t : QThread) (v : W64) : Except Stop State :=
  match mailboxPush s t.die v (t.bound.getD 0) t.t with
  | some s => .ok (advance s x)
  | none => .error (.hold s)

/-- An interrupt waits until the thread's earlier reads and writes are performed at SYS scope (R277). -/
def irqBody (s : State) (f : State → Ex → QThread → Except Stop State) : Body := withThread s fun x t =>
  if stillOut s x then .error (.hold s) else f (releaseBy s x.die .sys) x t

/-- `irq.host` (R277, R342). -/
def execIrqHost (sa : SReg) (s : State) : Host.Outcome State Fault Refusal :=
  issue s (ruleQ false) { ss := [sa.toNat] } none (irqBody s fun s x t =>
    match t.bound with
    | some b => .ok (advance (irqQueue s t.die b (rdS x.p sa)) x)
    | none => toMailbox s x t (rdS x.p sa))

/-- `irq.kern` (R277, R342). -/
def execIrqKern (sa : SReg) (s : State) : Host.Outcome State Fault Refusal :=
  issue s (ruleQ true) { ss := [sa.toNat] } none (irqBody s fun s x t => toMailbox s x t (rdS x.p sa))

/-- The events that end a thread's sleep: those of SLEEPM, and UNBIND (R272, R278). -/
def QThread.arrived (q : QThread) : W64 := q.events &&& (q.sleepm.setWidth 64 ||| 0x80#64)

/-- `qsleep` returns (R278): the arrived events are written. -/
def wakeThread (s : State) (x : Ex) (t : QThread) (sd : Nat) : State :=
  let s := modQt s t.die t.t fun q => { q with events := 0, asleep := none }
  advance (modPath s x.who x.p.pid fun p => wrS p sd t.arrived) x

/-- `qsleep` (R278). -/
def execQsleep (sd : SReg) (s : State) : Host.Outcome State Fault Refusal :=
  issue s (ruleQ true) { sd := [sd.toNat] } none (withThread s fun x t =>
    if t.arrived = 0 then .error (.hold (modQt s t.die t.t fun q => { q with asleep := some sd.toNat }))
    else .ok (wakeThread s x t sd.toNat))

end Sys2Proof.Machine
end

