-- ==== Sys2Proof/Machine/Copy.lean ====
section
/-! DEFINITION. The copy engine (R279 to R282, R366): operations and their operands, their progress by pieces, completion, and
the reformatting of frames. -/
namespace Sys2Proof.Machine

/-! ### Operations -/

/-- Word i of an operation's operand block. -/
def CopyOp.arg (o : CopyOp) (i : Nat) : W64 := (o.args[i]?).getD 0

/-- Bytes of one row or element (R279); pages of a `reform`. -/
def CopyOp.segLen (o : CopyOp) : Nat :=
  match o.kind with
  | .cpy | .cpy2d | .cfill => (o.arg 4).toNat
  | .cpyg | .cpys => (o.arg 5).toNat
  | .reform _ _ => (o.arg 3).toNat
  | .prog => 1

/-- Rows or elements (R279). -/
def CopyOp.segCount (o : CopyOp) : Nat :=
  match o.kind with
  | .cpy2d => (o.arg 5).toNat
  | .cpyg | .cpys => (o.arg 6).toNat
  | _ => 1

/-- Bytes that an operation writes, or pages that it converts. -/
def CopyOp.total (o : CopyOp) : Nat := o.segLen * o.segCount

/-- The context that works, with what the decoder finds, and the die or socket whose outstanding reads come back poisoned, if any (R326,
R357). -/
structure Cop where
  die    : Nat
  k      : Nat
  pasid  : Nat
  secure : Bool
  ecc    : Ecc
  far    : Option Nat := none

/-- Why an operation stops: a cause, a delegated range whose answer it waits for, or a home that no longer answers (R327). -/
inductive CopyStop
  | trap (s : State) (t : Trap) | ats (s : State) (va : W64) (write : Bool) | silent (s : State)

/-- What a copy's access that has no place comes to. -/
def copyStop (s : State) (va : W64) (write : Bool) : XFail → CopyStop
  | .trap t => .trap s t
  | .ats => .ats s va write
  | .silent => .silent s

/-- The context's operation that is in progress: the program's own copy, or the head of the queue (R280). -/
def CopyCtx.current (c : CopyCtx) : Option CopyOp := c.inner <|> c.ops.head?

/-- Changing the operation in progress. -/
def modCopy (s : State) (c : Cop) (f : CopyOp → CopyOp) : State :=
  modCc s c.die c.k fun x => if x.inner.isSome then { x with inner := x.inner.map f } else { x with ops := x.ops.modifyHead f }

/-- The transactions to other modules that the context has sent since an identifier are its own (R299, R325). -/
def Cop.own (c : Cop) (before : Nat) (va : W64) (n : Nat) (s : State) : State := ownTx before (.copy c.die c.k) c.pasid va n s

/-- What a copy's access is: every check of R162 but alignment (R281). -/
def Cop.kind (s : State) (c : Cop) (write : Bool) : AccKind := { devKind s c.pasid write 1 with secure := c.secure }

/-- Whether the reads that the operation in progress makes from a place were outstanding on a path that has failed: they complete with
poison alone (R326). -/
def copyTorn (s : State) (c : Cop) (p : Place) : Bool :=
  ((cc? s c.die c.k).bind fun x => x.current).any fun o => p.home.any fun h => decide (o.since < tornMark s c.die h)

/-- Reading the pieces of a source (R281): a wrong tag raises GRANULE, an uncorrectable read gives poison. -/
def copyRead (c : Cop) : List (Nat × Nat × W64) → State → Except CopyStop (List PByte × State)
  | [], s => .ok ([], s)
  | pc :: rest, s =>
    match agentPlace s c.die c.pasid pc.2.2 (c.kind s false) with
    | .error f => .error (copyStop s pc.2.2 false f)
    | .ok (p, s) =>
      let (s, wrong) := eccApply s p c.ecc
      let hit := c.far.isSome && (p.endpoint == c.far || copyTorn s c p)
      if homeSilent s c.die p || (copyTorn s c p && !hit) then .error (.silent s)
      else if wrong then .error (.trap s { cause := .granule, va := pc.2.2 })
      else
        let (b, s) := if hit then freeBytes s Config.poisonByte true pc.2.1
          else
            let r := readPlace (returnPlace s p pc.2.1) c.die 64 p pc.2.1 .weak 0 plainChoice
            (r.1, c.own s.freshId pc.2.2 pc.2.1 r.2)
        match copyRead c rest s with
        | .error e => .error e
        | .ok (l, s) => .ok (b ++ l, s)

/-- Reading the four bytes of an index (R279). -/
def copyIndex (c : Cop) (o : CopyOp) (e : Nat) (s : State) : Except CopyStop (Nat × State) :=
  match o.kind with
  | .cpyg | .cpys => match copyRead c (pieces (o.arg 3 + BitVec.ofNat 64 (4 * e)) 4) s with
    | .error x => .error x
    | .ok (b, s) => .ok (ofBytes (b.map fun x => x.1), s)
  | _ => .ok (0, s)

/-- Where row or element e goes (R280). -/
def CopyOp.dst (o : CopyOp) (e idx : Nat) : W64 :=
  match o.kind with
  | .cpy2d => o.arg 2 + BitVec.ofNat 64 e * o.arg 6
  | .cpyg => o.arg 2 + BitVec.ofNat 64 (e * o.segLen)
  | .cpys => o.arg 2 + BitVec.ofNat 64 (idx * o.segLen)
  | _ => o.arg 2

/-- Where row or element e comes from (R280). -/
def CopyOp.src (o : CopyOp) (e idx : Nat) : W64 :=
  match o.kind with
  | .cpy2d => o.arg 3 + BitVec.ofNat 64 e * o.arg 7
  | .cpyg => o.arg 4 + BitVec.ofNat 64 (idx * o.segLen)
  | .cpys => o.arg 4 + BitVec.ofNat 64 (e * o.segLen)
  | _ => o.arg 3

/-- Byte j of a fill (R280). -/
def fillByte (o : CopyOp) (j : Nat) : PByte := ((toBytes 8 (o.arg 3).toNat)[j % 8]?.getD 0, false)

/-- The index and the source of the row or element in progress are read as a whole first (R280). -/
def copyTake (s : State) (c : Cop) (o : CopyOp) : Except CopyStop State :=
  let e := o.pos / o.segLen
  match copyIndex c o e s with
  | .error x => .error x
  | .ok (idx, s) => match copyRead c (pieces (o.src e idx) o.segLen) s with
    | .error x => .error x
    | .ok (b, s) => .ok (modCopy s c fun o => { o with buf := some b, idx := some idx })

/-- Writing bytes in the destination's page of the next byte not yet written (R281). -/
def copyPut (s : State) (c : Cop) (o : CopyOp) (bytes : Nat → Nat → List PByte) : Except CopyStop State :=
  let e := o.pos / o.segLen
  let off := o.pos % o.segLen
  let va := o.dst e (o.idx.getD 0) + BitVec.ofNat 64 off
  let n := min (o.segLen - off) (4096 - va.toNat % 4096)
  match agentPlace s c.die c.pasid va (c.kind s true) with
  | .error f => .error (copyStop s va true f)
  | .ok (p, s) =>
    let (s, wrong) := eccApply s p c.ecc
    if homeSilent s c.die p then .error (.silent s)
    else if wrong then .error (.trap s { cause := .granule, va })
    else
      let s := if (bytes off n).any fun b => b.2 then taintFab s (placeAddr p) n else s
      let s := c.own s.freshId va n (writePlace (returnPlace s p n) c.die 64 p (bytes off n) .weak 0 plainChoice)
      let last := off + n = o.segLen
      let (since, s) := fresh s
      .ok (modCopy s c fun o => { o with pos := o.pos + n, since := if last then since else o.since, buf := if last then none else o.buf,
                                         idx := if last then none else o.idx })

/-! ### Reformatting -/

/-- Poison of a frame in a new granule: a new unit that overlaps a poisoned sector is poisoned whole (R282). -/
def reformPoison (s : State) (a gran : Nat) : SMap Bool :=
  let u := 32 * 2 ^ gran
  (List.range (4096 / u)).foldl (fun m n =>
    let base := a + n * u
    if (List.range (u / 32)).any fun k => sget false s.pois (base / 32 + k) then markUnits u true m base else m) s.pois

/-- One frame is converted (R182, R282). -/
def reformFrame (s : State) (a gran : Nat) : State :=
  { s with pois := reformPoison s a gran, l2bad := s.l2bad.filter fun k => k / 128 != a / 4096, fmt := sset 4 s.fmt (a / 4096) gran }

/-- The frame of a page in the VA form (R282): any other outcome is PROT with TRAPAUX 4, but for an operand in the window (R268). -/
def reformPage (s : State) (c : Cop) (va : W64) : Except Trap Nat :=
  match halfCheck va true false with
  | some t => .error (if canonical va && inWindow va then t else prot va 4)
  | none => match walkFrom s (va.toNat % 2 ^ 57) levels (rootOf s c.die c.pasid va) with
    | .absent lvl _ e =>
      if e.getLsbD 1 || e.getLsbD 2 then .error (prot va 4)
      else .ok (pfnAddr e + va.toNat % 2 ^ 57 % levelBytes lvl / 4096 * 4096)
    | _ => .error (prot va 4)

/-- The frame that a `reform` converts next (R282). A frame outside this module's HBM is PROT with TRAPAUX 1 in both forms (log entry
86). -/
def reformTarget (s : State) (c : Cop) (o : CopyOp) (frame : Bool) : Except Trap Nat :=
  let va := o.arg 2 + BitVec.ofNat 64 (4096 * o.pos)
  let checked := fun (a : Nat) =>
    if fabMod a ≠ s.modid.toNat ∨ 12 ≤ fabDie a ∨ regionOf (fabOff a) ≠ .hbm then Except.error (prot va 1)
    else if knownLost s c.die (fabDie a) then .error { cause := .homeLost, va }
    else if regionSecure s (a % 2 ^ 43) && !c.secure then .error { prot va 0 with sec := true }
    else .ok (a % 2 ^ 43)
  if frame then (if va.toNat % 4096 ≠ 0 then .error { cause := .misalign, va } else checked va.toNat)
  else match reformPage s c va with
    | .error t => .error t
    | .ok a => checked a

/-! ### Progress -/

/-- The next action of an operation that has bytes or frames left (R280 to R282). -/
def copyAct (s : State) (c : Cop) (o : CopyOp) : Except CopyStop State :=
  match o.kind with
  | .reform g frame => match reformTarget s c o frame with
    | .error t => .error (.trap s t)
    | .ok a =>
      let (s, wrong) := eccApply (spoilFailed s a 4096) (.fab a 0 1 (granOf s a) false) c.ecc
      if wrong then .error (.trap s { cause := .granule, va := o.arg 2 + BitVec.ofNat 64 (4096 * o.pos) })
      else .ok (modCopy (reformFrame s a g) c fun o => { o with pos := o.pos + 1 })
  | .cfill => copyPut s c o fun off n => (List.range n).map fun j => fillByte o (off + j)
  | .prog => .ok s
  | _ => match o.buf with
    | none => copyTake s c o
    | some b => copyPut s c o fun off n => (b.drop off).take n

/-- How a run of actions ends: every byte is written, the actions are used up, or a stop. -/
inductive CopyEnd
  | all (s : State) | more (s : State) | stop (s : State) (e : CopyStop)

/-- The operation in progress of a context that has not stopped; the accesses of its program, which are earlier, are performed
first (R206, R281). -/
def copyOf (s : State) (die k : Nat) : Option CopyOp :=
  match cc? s die k with
  | none => none
  | some c => if c.ops.head?.any (fun o => o.stop.isSome) || s.ops.any (fun o => o.who == .copyc die k) then none else c.current

/-- Actions of the operation in progress, up to a number. -/
def copyRun (c : Cop) : Nat → State → CopyEnd
  | 0, s => .more s
  | n + 1, s => match copyOf s c.die c.k with
    | none => .more s
    | some o =>
      if o.total ≤ o.pos then .all s
      else match copyAct s c o with
        | .ok s => copyRun { c with ecc := .clean } n s
        | .error (.silent s) => .more s
        | .error e => .stop s e

/-- A context as it works. -/
def copOf (s : State) (x : CopyCtx) (ecc : Ecc) : Cop :=
  { die := x.die, k := x.k, pasid := x.pasid, secure := s.secure.contains (.copyEngine x.die (x.k / 4)), ecc }

/-- Actions that finish an operation at most. -/
def CopyOp.work (o : CopyOp) : Nat := o.segCount * (o.segLen / 4096 + 4) + o.total + 2

/-- The context's timeline reaches the operation's number, unless an aborted operation holds it below (R273, R280, R343). -/
def copyTimeline (s : State) (x : CopyCtx) (num : Nat) : State :=
  if x.deadOp.isSome then s else tlWrite s x.die (4032 + x.k) (BitVec.ofNat 64 num)

/-- The end of an operation whose timeline is written: the context's timeline, and the next operation begins to read (R280). A program's
own copy ends its instruction. -/
def copyEnds (s : State) (x : CopyCtx) (o : CopyOp) : State :=
  if x.inner.isSome then
    let s := modCc s x.die x.k fun x => { x with inner := none }
    match exOf s (.copyc x.die x.k) with
    | some e => advance s e
    | none => s
  else
    let (since, s) := fresh (copyTimeline s x o.num)
    settleQueue (modCc s x.die x.k fun x => { x with ops := (x.ops.drop 1).modifyHead fun o => { o with since } }) x.die o.qid

/-- An operation whose bytes are written: its timeline, then the context's (R280, R366), once its writes to other modules are performed
(R206, R325) and the timeline's home answers (R327). -/
def copyDone (s : State) (c : Cop) (x : CopyCtx) (o : CopyOp) : State :=
  if farOut s (.copy x.die x.k) then s
  else if o.arg 0 = 0 ∨ o.signalled then copyEnds (releaseBy s x.die .pkg) x o
  else if tlWaits s x.die x.pasid (o.arg 0) c.secure then s
  else match tlSignal (releaseBy s x.die .pkg) x.die x.pasid (o.arg 0) (o.arg 1) c.secure with
    | .error t => stopCopy (releaseBy s x.die .pkg) x t 0
    | .ok u =>
      let u := c.own s.freshId (o.arg 0) 8 u
      if farOut u (.copy x.die x.k) then modCopy u c fun o => { o with signalled := true } else copyEnds u x o

/-- A `cpy.prog` operation starts its program (R270, R279): system code's may be system code too (R268; log entry 61). -/
def startProgram (s : State) (x : CopyCtx) (o : CopyOp) : State :=
  let (pid, s) := fresh s
  modCc s x.die x.k fun x => { x with prog := some { newPath pid (o.arg 2) 1 (clk s x.die) with start := o.sys, sys := o.sys, view := sset 0 [] 0 (o.arg 3) } }

/-- A request for a delegated range of a copy's operand (R281), once. -/
def copyAts (s : State) (x : CopyCtx) (va : W64) (write : Bool) : State :=
  if s.ats.any fun a => a.who == .copyc x.die x.k then s
  else
    let (id, s) := fresh s
    let fn := fnOf s x.pasid
    emit { s with ats := s.ats ++ [{ id, fn, pasid := x.pasid, va, write, die := x.die, who := .copyc x.die x.k, pid := 0, use := .access,
                                     since := s.now }] } (.atsRequest id fn x.pasid va write)

/-- The PC of a copy context's record: that of its program (R271). -/
def copyPc (x : CopyCtx) : W64 := match x.prog with
  | some p => p.pc
  | none => 0

/-- The operation in progress completes, if all of it can be performed; a failed check stops it (R280, R281). -/
def completeCopy (s : State) (die k : Nat) (ecc : Ecc) : State :=
  match cc? s die k, copyOf s die k with
  | some x, some o =>
    if o.kind = .prog then
      (if x.prog.isSome then s else if o.pos = 0 then startProgram s x o else copyDone s (copOf s x ecc) x o)
    else match copyRun (copOf s x ecc) o.work s with
      | .all s => copyDone s (copOf s x ecc) x o
      | .stop s0 (.ats _ va w) => copyAts s0 x va w
      | .stop _ (.trap s t) => stopCopy s x t (copyPc x)
      | .stop _ (.silent _) | .more _ => s
  | _, _ => s

/-- The operation in progress meets a failed check: it stops at the first byte not yet written (R270, R281). -/
def faultCopy (s : State) (die k : Nat) : State :=
  match cc? s die k, copyOf s die k with
  | some x, some o => match copyRun (copOf s x .clean) o.work s with
    | .stop _ (.trap s t) => stopCopy s x t (copyPc x)
    | _ => s
  | _, _ => s

/-- Part of the operation in progress is performed (R281). -/
def partCopy (s : State) (die k n : Nat) : State :=
  match cc? s die k with
  | none => s
  | some x => match copyRun (copOf s x .clean) n s with
    | .all s | .more s => s
    | .stop s (.ats _ va w) => copyAts s x va w
    | .stop s _ => s

/-! ### The engines (R260) -/

/-- Whether a context has an operation that its engine can work on now. -/
def contends (s : State) (die k : Nat) : Bool :=
  match cc? s die k, copyOf s die k with
  | some x, some o => !(o.kind == .prog && x.prog.isSome) && !s.ats.any fun a => a.who == .copyc die k
  | _, _ => false

/-- The priority of a context's operation in progress: the cap of its queue. -/
def copyPrio (s : State) (die k : Nat) : Nat :=
  (((copyOf s die k).bind fun o => queue? s die o.qid).map fun q => q.cap).getD 0

/-- How far a context is behind the one that its engine served last. -/
def turnsAway (s : State) (die k : Nat) : Nat :=
  (k % 4 + 7 - ((die? s die).map fun d => sget 3 d.turns (k / 4)).getD 3) % 4

/-- Whether a copy engine serves a context now: of the contexts that contend, the one of highest priority, then round robin (R260). -/
def copyTurn (s : State) (die k : Nat) : Bool :=
  contends s die k && (List.range 4).all fun j =>
    let m := k / 4 * 4 + j
    m == k || !contends s die m || decide (copyPrio s die m < copyPrio s die k) ||
      (copyPrio s die m == copyPrio s die k && decide (turnsAway s die k < turnsAway s die m))

/-- The engine notes which of its contexts it serves. -/
def serveTurn (s : State) (die k : Nat) : State := modDie s die fun d => { d with turns := sset 3 d.turns (k / 4) (k % 4) }

/-! ### The instructions -/

/-- The rule of the copy instructions: a copy program names no SD or SB (R269, R279). -/
def copyRule (s : State) (c : Bool) (sd sb : SReg) (ill : Option Nat) : Rule :=
  { g := false, q := !(curUser s && sb != 0), c := c && sd == 0 && sb == 0, cls := .control, ill := ill.map (BitVec.ofNat 64) }

/-- The operand block of an instruction. -/
def blockOf (p : Path) (sa : SReg) (n : Nat) : List W64 := (List.range n).map fun k => rdSk p sa k

/-- The index of the first operand out of range (R279). -/
def badOperand (s : State) (kind : CopyKind) (sa : SReg) : Option Nat :=
  match curEx s with
  | none => none
  | some x => ((copyLimits kind).find? fun (e : Nat × Nat × Nat) =>
      decide ((rdSk x.p sa e.1).toNat < e.2.1 ∨ e.2.2 < (rdSk x.p sa e.1).toNat)).map fun e => e.1

/-- A new operation. -/
def newCopy (since num : Nat) (kind : CopyKind) (args : List W64) (qid seq : Nat) (owner : Option Nat) (sys : Bool) : CopyOp :=
  { num, kind, args, qid, seq, owner, sys, since, pos := 0, buf := none, stop := none }

/-- A Q thread's operation joins its copy context's queue (R280). -/
def handCopy (s : State) (x : Ex) (t : QThread) (q : Queue) (p : Packet) (kind : CopyKind) (sd : SReg) (args : List W64) : State :=
  let n := match cc? s t.die t.ccx with
    | some c => c.count + 1
    | none => 0
  let s := modCc s t.die t.ccx fun c => { c with count := n, ops := c.ops ++ [newCopy s.freshId n kind args q.qid p.seq (some t.t) (!x.user)] }
  let s := modPacket s q.die q.qid p.seq fun p => { p with started := true }
  advance (setS s x sd (BitVec.ofNat 64 n)) x

/-- A copy instruction's body (R276, R279, R280): a Q thread's earlier writes are performed first, and a copy program waits
for its own copy. -/
def copyBody (s : State) (kind : CopyKind) (sd sa sb : SReg) : Body := fun x =>
  let args := blockOf x.p sa (copyWords kind)
  match x.who with
  | .copyc d k => match (cc? s d k).bind fun c => c.ops.head? with
    | none => bad .illegal
    | some o => .error (.hold (modCc s d k fun c => { c with inner := some (newCopy s.freshId o.num kind args o.qid o.seq none (!x.user)) }))
  | _ => withThread s (fun x t => match attributed s x t sb with
    | none => bad .illegal
    | some (q, p) =>
      if writesPending s x then .error (.hold s) else .ok (handCopy s x t q p kind sd args)) x

/-- A copy instruction (R279): on C its SD and SB fields, and at user level its SB field, name no register. -/
def copyOp (s : State) (kind : CopyKind) (onC : Bool) (sd sa sb : SReg) : Host.Outcome State Fault Refusal :=
  issue s (copyRule s onC sd sb (badOperand s kind sa))
    { ss := sbNamed s sb ++ (List.range (copyWords kind)).map (fun k => sa.toNat + k), sd := if onThread s then [sd.toNat] else [] } none
    (copyBody s kind sd sa sb)

/-- `cpy` (R279, R280). -/
def execCpy (sd sa sb : SReg) (s : State) : Host.Outcome State Fault Refusal := copyOp s .cpy true sd sa sb
/-- `cpy.prog` (R279, R280): only a Q thread issues it (R269). -/
def execCpyProg (sd sa sb : SReg) (s : State) : Host.Outcome State Fault Refusal := copyOp s .prog false sd sa sb
/-- `cpy2d` (R279, R280). -/
def execCpy2d (sd sa sb : SReg) (s : State) : Host.Outcome State Fault Refusal := copyOp s .cpy2d true sd sa sb
/-- `cpyg` (R279, R280). -/
def execCpyg (sd sa sb : SReg) (s : State) : Host.Outcome State Fault Refusal := copyOp s .cpyg true sd sa sb
/-- `cpys` (R279, R280). -/
def execCpys (sd sa sb : SReg) (s : State) : Host.Outcome State Fault Refusal := copyOp s .cpys true sd sa sb
/-- `cfill` (R279, R280). -/
def execCfill (sd sa sb : SReg) (s : State) : Host.Outcome State Fault Refusal := copyOp s .cfill true sd sa sb

/-- `reform` (R282): `.frame` at system level alone (R269). -/
def execReform (sa : SReg) (gran : BitVec 3) (frame : Bool) (s : State) : Host.Outcome State Fault Refusal :=
  let kind := CopyKind.reform gran.toNat frame
  issue s { g := false, q := false, c := true, cls := .control, sys := frame, ill := (badOperand s kind sa).map (BitVec.ofNat 64) }
    { ss := (List.range 4).map fun k => sa.toNat + k } none (copyBody s kind 0 sa 0)

/-- COPY_OP_COMPLETE (R260, R280): the context that its engine serves. -/
def execCopyOpComplete (die k : Nat) (ecc : Ecc) (s : State) : Host.Outcome State Fault Refusal :=
  .next (if copyTurn s die k then completeCopy (serveTurn s die k) die k ecc else s)
/-- COPY_FAULT_STOP (R260, R281): the context that its engine serves. -/
def execCopyFaultStop (die k : Nat) (s : State) : Host.Outcome State Fault Refusal :=
  .next (if copyTurn s die k then faultCopy (serveTurn s die k) die k else s)

/-- Whether a stopped context may be resumed (R67, R281): a page can be mapped, and no program has ended. -/
def canResume (c : CopyCtx) : Bool :=
  c.ops.head?.any fun o => o.stop.any (fun t => t.cause == .pageFault || t.cause == .firstTouch) && (o.kind != .prog || c.prog.isSome)

/-- COPY_CONTEXT_RESUME: the die kernel resumes a stopped context (R281, R343); its reads begin anew (R326). -/
def execCopyContextResume (die k : Nat) (s : State) : Host.Outcome State Fault Refusal :=
  .next (let (since, s) := fresh s
         modCc s die k fun c => if canResume c then { c with ops := c.ops.modifyHead fun o => { o with stop := none, since } } else c)

/-- COPY_CONTEXT_ABORT: the stopped operation ends with no timeline written, and the context's timeline stays below it
(R343). -/
def execCopyContextAbort (die k : Nat) (s : State) : Host.Outcome State Fault Refusal :=
  match cc? s die k with
  | none => .next s
  | some c => match c.ops.head? with
    | some o =>
      if o.stop.isNone then .next s
      else
        let s := modPacket s die o.qid o.seq fun p => { p with never := true }
        .next (modCc s die k fun c => { c with ops := c.ops.drop 1, prog := none, inner := none, ret := none,
                                               deadOp := some (c.deadOp.getD o.num) })
    | none => .next s

end Sys2Proof.Machine
end

