-- ==== Sys2Proof/Machine/System.lean ====
section
/-! DEFINITION. The system instructions of handler mode (R283 to R291) and the end of a walker's request (R293, R294). -/
namespace Sys2Proof.Machine

/-- Only a group in handler mode may issue it (R23, R269). -/
def ruleHandler : Rule := { ruleGrp .handler with priv := true }

/-! ### Return from a handler -/

/-- The cause that a walker's TRAPC delivers (R294). -/
def walkerCause (c : W64) : Option Cause :=
  if c = 0x10#64 then some .pageFault else if c = 0x11#64 then some .firstTouch else if c = 0x12#64 then some .prot else none

/-- Whether the requester of a walk is parked on a PRI reply, so that the walker's return leaves it as it is (R289, R294). -/
def onPri (s : State) (m : Miss) : Bool :=
  ((grp? s m.gid).bind fun g => g.path? m.pid).any fun p => match p.wait with
    | .pri _ => true
    | _ => false

/-- The outcome of a walk reaches its requester, unless it is parked on a PRI reply (R289, R294). -/
def answerWalk (s : State) (m : Miss) (t : Trap) : State := if onPri s m then s else answerMiss s m t

/-- The walker ends its request (R294). -/
def walkerReturn (s : State) (g : Group) : State :=
  let m := walkOf s g
  let s := walkerDone s g
  match m with
  | none => s
  | some m =>
    if g.regs.trapc = 0 then s
    else match walkerCause g.regs.trapc with
      | some c => answerWalk s m { cause := c, va := g.regs.trapva, aux := g.regs.trapaux }
      | none => answerWalk s m { cause := .doubleFault, va := g.regs.trapva, aux := g.regs.trapc }

/-- Whether a walker's path may return: it holds all eight lanes and is alone (R283, R293). -/
def walkerAlone (g : Group) (p : Path) : Bool :=
  p.mask &&& fullMask 8 == fullMask 8 && g.stack.paths.length == 1 && g.stack.rest.isEmpty

/-- `tret` (R283, R294, R308): it does not act while its path has open windows (log entry 80). -/
def execTret (s : State) : Host.Outcome State Fault Refusal :=
  issue s { ruleHandler with ctl := true } {} none (withGroup fun x g =>
    if x.p.wins ≠ [] then .error (.hold s)
    else if g.isWalker && g.frames.length == 1 then
      (if walkerAlone g x.p then .ok (walkerReturn (noteIssue s x) g) else bad .illegal)
    else match leaveHandler (noteIssue s x) g x.p with
      | .error t => .error (.trap t)
      | .ok s => .ok s)

/-! ### Translations -/

/-- The page size of a size code, and whether it is a CONTIG run (R284). -/
def tlbSize : Nat → Nat × Bool
  | 0 => (2 ^ 12, false)
  | 1 => (2 ^ 16, true)
  | 2 => (2 ^ 21, false)
  | 3 => (2 ^ 25, true)
  | 4 => (2 ^ 30, false)
  | _ => (2 ^ 39, false)

/-- Whether `tlbw` admits a leaf: V and LEAF set, nothing reserved, CONTIG as the size has it (R157, R284). -/
def tlbLeafOk (e : W64) (size : Nat) : Bool :=
  e.getLsbD 0 && e.getLsbD 1 && e.extractLsb' 10 2 == 0#2 && e.extractLsb' 8 2 != 3#2 && decide ((e.extractLsb' 56 3).toNat ≤ 4) &&
  e.getLsbD 62 == (tlbSize size).2

/-- Whether a cached translation lies in a shoot-down's range (R299). -/
def inShoot (pasid : Nat) (va len : W64) (t : Tlb) : Bool :=
  t.hroot == negHalf va && (t.hroot || t.pasid == pasid || t.leaf.getLsbD 5) && decide (t.base < va.toNat % 2 ^ 57 + len.toNat) &&
  decide (va.toNat % 2 ^ 57 < t.base + t.bytes)

/-- The shoot-downs between PREPARE and COMMIT on a die whose range covers a translation (R284, R299, R300). -/
def openShoots (s : State) (die : Nat) (t : Tlb) : List Nat :=
  (s.shoots.filter fun h => inShoot h.pasid h.va h.len t &&
    (if h.phase = 2 then h.done.contains die else !h.done.contains die)).map fun h => h.id

/-- A translation as `tlbw` installs it: the frame of a run or large page starts at its size (R284). -/
def tlbEntry (s : State) (die : Nat) (va leaf : W64) (pasid : Nat) (hroot : Bool) (size : Nat) : Tlb :=
  let n := (tlbSize size).1
  let base := va.toNat % 2 ^ 57 / n * n
  let leaf := (leaf &&& ~~~ 0x00FFFFFFFFFFF000#64) ||| BitVec.ofNat 64 (pfnAddr leaf / n * n)
  let t : Tlb := { pasid, hroot, base, bytes := n, leaf, marks := [] }
  { t with marks := openShoots s die t }

/-- Installing a translation in a core's TLB and the die's cache (R284, R292). -/
def installTlb (s : State) (die core : Nat) (t : Tlb) : State :=
  let other := fun (u : Tlb) => !(u.pasid == t.pasid && u.hroot == t.hroot && u.base == t.base && u.bytes == t.bytes)
  let s := modCore s die core fun c => { c with tlb := t :: c.tlb.filter other }
  modDie s die fun d => { d with cache := t :: d.cache.filter other }

/-- The TRAPAUX of the ILLEGAL that a leaf raises (R284). -/
def tlbIll (s : State) (sa : SReg) (size : BitVec 3) : Option W64 :=
  match curEx s with
  | some x => if tlbLeafOk (rdSk x.p sa 1) size.toNat then none else some 1
  | none => none

/-- `tlbw` (R284). -/
def execTlbw (sa : SReg) (size : BitVec 3) (s : State) : Host.Outcome State Fault Refusal :=
  issue s { ruleHandler with ill := tlbIll s sa size } { ss := (List.range 3).map fun k => sa.toNat + k } none fun x =>
    let w := rdSk x.p sa 2
    .ok (advance (installTlb s x.die x.core
      (tlbEntry s x.die (rdS x.p sa) (rdSk x.p sa 1) (w.toNat % 2 ^ 20) (w.getLsbD 20) size.toNat)) x)

/-- Whether an invalidation acts on an entry (R285). -/
def invHits (mode pasid : Nat) (va : W64) (t : Tlb) : Bool :=
  match mode with
  | 0 => t.pasid == pasid && !t.leaf.getLsbD 5 && t.hroot == negHalf va && decide (t.base ≤ va.toNat % 2 ^ 57) &&
      decide (va.toNat % 2 ^ 57 < t.base + t.bytes)
  | 1 => t.pasid == pasid && !t.leaf.getLsbD 5
  | _ => true

/-- The PASID under which an issuer's accesses are translated. -/
def pasidOf (s : State) (e : Issuer) : Nat := match exOf s e with
  | some x => x.pasid
  | none => match e with
    | .grp gid _ => match grp? s gid with
      | some g => groupPasid s g
      | none => 0
    | _ => 0

/-- The core whose translations a transaction to another module used, none for those of the die's own agents. -/
def LinkTx.core (s : State) (t : LinkTx) : Nat :=
  match t.work with
  | some (.matrix _ c _) => c
  | some (.bulk g) => (placeOf s (.grp g 0)).2
  | _ => 64

/-- Whether an access of a die, or of one core of it, that used a removed entry is still to be performed: of a path, of a bulk copy, or
one that is on its way to another module (R285, R299, R325). -/
def entryInUse (s : State) (die : Nat) (core : Option Nat) (hit : Tlb → Bool) (l : List Tlb) : Bool :=
  let near := fun (e : Issuer) => (placeOf s e).1 == die && core.all fun c => (placeOf s e).2 == c
  let gone := l.filter hit
  (s.ops.any fun o => near o.who && o.todo.any fun a => gone.any fun t => t.covers (pasidOf s o.who) a.va) ||
  (s.bulks.any fun b => near (.grp b.gid 0) && gone.any fun t => t.meets (pasidOf s (.grp b.gid 0)) b.sva b.count) ||
  s.links.any fun x => x.work.isSome && x.die == die && core.all (fun c => x.core s == c) && gone.any fun t => t.meets x.pasid x.va x.vlen

/-- `tlbinv` (R285). -/
def execTlbinv (sa : SReg) (mode : BitVec 2) (die : Bool) (s : State) : Host.Outcome State Fault Refusal :=
  issue s ruleHandler { ss := [sa.toNat, sa.toNat + 1] } none fun x =>
    let hit := invHits mode.toNat ((rdSk x.p sa 1).toNat % 2 ^ 20) (rdS x.p sa)
    let core := (core? s x.die x.core).toList.flatMap fun c => c.tlb
    let cache := if die then (die? s x.die).toList.flatMap fun d => d.cache else []
    if entryInUse s x.die (some x.core) hit core || entryInUse s x.die none hit cache then .error (.hold s)
    else
      let s := modCore s x.die x.core fun c => { c with tlb := c.tlb.filter fun t => !hit t }
      .ok (advance (if die then modDie s x.die fun d => { d with cache := d.cache.filter fun t => !hit t } else s) x)

/-- `lprinv` (R285). -/
def execLprinv (sa : SReg) (mode : BitVec 2) (s : State) : Host.Outcome State Fault Refusal :=
  issue s ruleHandler { ss := [sa.toNat, sa.toNat + 1] } none fun x =>
    let hit := invHits mode.toNat ((rdSk x.p sa 1).toNat % 2 ^ 20) (rdS x.p sa)
    let lprs := (core? s x.die x.core).toList.flatMap fun c => c.lpr.map fun e => e.2.2
    if entryInUse s x.die (some x.core) hit lprs then .error (.hold s)
    else .ok (advance (modCore s x.die x.core fun c => { c with lpr := c.lpr.filter fun e => !hit e.2.2 }) x)

/-! ### Overlays and frame pools -/

/-- The words of an image's bytes. -/
def wordsOf (b : List Byte) : List W64 := (List.range (b.length / 8)).map fun k => BitVec.ofNat 64 (ofBytes ((b.drop (8 * k)).take 8))

/-- Staging an image into an instruction frame (R286, R301). -/
def stageFrame (s : State) (die core frame : Nat) (tag : FrameTag) (words : List W64) : State :=
  modCore s die core fun c =>
    { c with imem := ssetN 0 (sclear (frame * 2048) 2048 c.imem) (frame * 2048) (words.take 2048),
             tags := sset none c.tags frame (some tag) }

/-- A handler's own system access: size 8, in the handler's mode. -/
def sysKind (s : State) (x : Ex) (write fetch : Bool) (size : Nat) : AccKind :=
  { die := x.die, late := false, watch := false, user := x.user, write, fetch, atomic := false, secure := x.secure, fn := fnOf s x.pasid, size, scope := .weak, ord := .plain,
    tline := false, gran := true }

/-- `ovld` (R286). Poisoned bytes of the image are staged as they stand (log entry 87). -/
def execOvld (sa sb : SReg) (frame : BitVec 5) (s : State) : Host.Outcome State Fault Refusal :=
  let big := (curEx s).any fun x => decide (8191 < (rdS x.p sb).toNat)
  issue s { ruleHandler with ill := if big then some 0 else none } { ss := [sa.toNat, sb.toNat] } none (withGroup fun x g =>
    let va := rdS x.p sa
    if va.toNat % 16384 ≠ 0 then .error (.trap { cause := .misalign, va })
    else if inWindow va then .error (.trap (prot va 0))
    else match groupPlaces s x g (sysKind s x false true 16) true ((List.range 4).map fun k => (0, va + BitVec.ofNat 64 (4096 * k))) with
      | .error e => .error e
      | .ok (got, s) =>
        if !mayReadPages s x (got.map fun e => e.2.2) then .error (.hold s) else
        let (b, s) := got.foldl (fun (r : List PByte × State) e =>
          let (b, s) := readPlace r.2 x.die x.core e.2.2 4096 .weak 0 plainChoice
          (r.1 ++ b, s)) ([], s)
        let tag : FrameTag := { pasid := x.pasid, base := codeBase g.ehdr, ovl := (rdS x.p sb).toNat }
        .ok (advance (stageFrame s x.die x.core frame.toNat tag (wordsOf (b.map fun e => e.1))) x))

/-- A word that a handler's system access reads. -/
def readWord (s : State) (x : Ex) (p : Place) (n : Nat) : Nat × State :=
  let (b, s) := readPlace s x.die x.core p n .die 0 plainChoice
  (ofBytes (b.map fun e => e.1), s)

/-- Whether a word that a handler's system access reads is poisoned (R162, R297). -/
def wordBad (s : State) (x : Ex) (p : Place) (n : Nat) : Bool := (readPlace s x.die x.core p n .die 0 plainChoice).1.any fun e => e.2

/-- The first word of a pool's record that is poisoned: HEAD, TAIL, RING, or SIZE and LOW (R296, R297). -/
def recordBad (s : State) (x : Ex) (p : Place) : Option Nat := [0, 8, 16, 24].find? fun k => wordBad s x (p.add k) 8

/-- Whether the accesses of `pgrab` to a pool's record may be performed now (R197). -/
def poolFree (s : State) (x : Ex) (p : Place) : Bool :=
  ([0, 8, 16, 24].all fun k => mayAct s x .ld 8 .die .plain (p.add k)) && mayAct s x .st 8 .die .plain p

/-- `pgrab` (R287, R296, R297): its reads of TAIL are acquires at DIE scope; it waits for earlier accesses as R197 has it, and a poisoned
word raises POISON. -/
def execPgrab (sd : SReg) (gran size : BitVec 3) (s : State) : Host.Outcome State Fault Refusal :=
  issue s ruleHandler { sd := [sd.toNat] } none fun x =>
    let cls := 5 * size.toNat + gran.toNat
    let base := dieReg s x.die (fun d => d.poolbase) + BitVec.ofNat 64 (64 * cls)
    match onePlace s x (sysKind s x true false 8) base with
    | .error e => .error e
    | .ok (p, s) =>
      if !poolFree s x p then .error (.hold s) else
      match recordBad s x p with
      | some k => .error (.trap { cause := .poison, va := base + BitVec.ofNat 64 k })
      | none =>
      let (head, s) := readWord s x p 8
      let (tail, s) := readWord (acquireNear s x.die x.core) x (p.add 8) 8
      let (ring, s) := readWord s x (p.add 16) 8
      let (n, s) := readWord s x (p.add 24) 4
      let (low, s) := readWord s x (p.add 28) 4
      let left := (tail + 2 ^ 64 - head) % 2 ^ 64
      if left = 0 then .ok (advance (setS (emit s (.poolInterrupt x.die cls true)) x sd 0) x)
      else match onePlace s x (sysKind s x false false 8) (BitVec.ofNat 64 (ring + 8 * (head % n))) with
        | .error e => .error e
        | .ok (q, s) =>
          if !mayAct s x .ld 8 .die .plain q then .error (.hold s)
          else if wordBad s x q 8 then .error (.trap { cause := .poison, va := BitVec.ofNat 64 (ring + 8 * (head % n)) }) else
          let (f, s) := readWord s x q 8
          let s := writePlace s x.die x.core p (cleanBytes (toBytes 8 (head + 1))) .die 0 plainChoice
          let s := if left - 1 = low then emit s (.poolInterrupt x.die cls false) else s
          .ok (advance (setS s x sd (BitVec.ofNat 64 f)) x)

/-! ### The host IOMMU -/

/-- `ats` (R288): long-latency; its answer is an event. -/
def execAts (la : BitVec 4) (sd sa : SReg) (w : Bool) (s : State) : Host.Outcome State Fault Refusal :=
  issue s ruleHandler { ss := [sa.toNat, sa.toNat + 1], sd := [sd.toNat, sd.toNat + 1] } none fun x =>
    let (id, s) := fresh s
    let (op, s) := fresh s
    let pasid := (rdSk x.p sa 1).toNat % 2 ^ 20
    let va := rdS x.p sa
    let o : MemOp := { id := op, who := x.who, pid := x.p.pid, anc := x.p.anc, pc := x.p.pc, kind := .alu [] [] 0, size := 0,
                       scope := .weak, ord := .plain, ch := 0, dest := .nowhere, todo := [], begun := false, since := s.now,
                       counted := false, leased := [] }
    let r : AtsReq := { id, fn := fnOf s pasid, pasid, va, write := w, die := x.die, who := x.who, pid := x.p.pid,
                        use := .instr op sd.toNat, since := s.now }
    let s := emit { s with ops := s.ops ++ [o], ats := s.ats ++ [r] } (.atsRequest id (fnOf s pasid) pasid va w)
    .ok (advance (openWindow s x op false la.toNat [] [sd.toNat, sd.toNat + 1]) x)

/-- Page requests of a function that are outstanding (R335). -/
def prisOut (s : State) (fn : Nat) : Nat := (s.pris.filter fun p => p.fn == fn).length

/-- A group parks until the answer to a page request (R34, R289). -/
def parkPri (now id : Nat) (g : Group) : Group :=
  (g.stack.a.toList ++ g.stack.b.toList).foldl (fun (g : Group) p =>
    if p.wait = .run then g.modPid p.pid (parkPath now (.pri id)) else g) g

/-- Sending a page request on behalf of a group's path (R289, R335); none while the function has 512 outstanding. -/
def sendPri (s : State) (pasid : Nat) (va : W64) (w : Bool) (gid pid : Nat) : Option State :=
  let fn := fnOf s pasid
  if 512 ≤ prisOut s fn then none
  else
    let (id, s) := fresh s
    let s := emit { s with pris := s.pris ++ [{ id, fn, pasid, va, gid, pid }] } (.priRequest id fn pasid va w)
    some (modGrp s gid fun g => parkPri (clk s g.die) id g)

/-- The path of a group on whose behalf a page request is made: the walker's requester, or the group's first live path. -/
def priPath (s : State) (x : Ex) (g : Group) : Nat :=
  match (core? s x.die x.core).bind fun c => c.walk with
  | some m => if m.gid = g.gid then m.pid else ((g.stack.a <|> g.stack.b).map fun p => p.pid).getD 0
  | none => ((g.stack.a <|> g.stack.b).map fun p => p.pid).getD 0

/-- `pri` (R289). -/
def execPri (sa : SReg) (w : Bool) (s : State) : Host.Outcome State Fault Refusal :=
  issue s ruleHandler { ss := (List.range 3).map fun k => sa.toNat + k } none fun x =>
    let n := (rdSk x.p sa 2).toNat % 1024
    match s.groups.find? fun g => g.die == x.die && g.core == x.core && g.entry == n && !g.isWalker && !g.ended with
    | none => bad .illegal
    | some g => match sendPri (advance s x) ((rdSk x.p sa 1).toNat % 2 ^ 20) (rdS x.p sa) w g.gid (priPath s x g) with
      | none => .error (.hold s)
      | some s => .ok s

/-! ### Quadrille and halts -/

/-- `dmsg` (R290, R346): the path's earlier writes are performed at PKG scope first. -/
def execDmsg (sd sa : SReg) (s : State) : Host.Outcome State Fault Refusal :=
  issue s ruleHandler { ss := (List.range 8).map (fun k => sa.toNat + k), sd := [sd.toNat] } none fun x =>
    if writesPending s x || predPending s x 0b0101000#7 0 then .error (.hold s)
    else
      let words := (List.range 8).map fun k => rdSk x.p sa k
      match quadSend (releaseBy s x.die .pkg) x.die words with
      | none => .error (.hold s)
      | some t => .ok (advance (setS t x sd (BitVec.ofNat 64 s.quad.length)) x)

/-- A copy program stops with CAUSE HALT (R291). -/
def haltCopy (s : State) (x : Ex) (d k : Nat) (aux : W64) : State :=
  match cc? s d k with
  | none => s
  | some c => endProgram (modCc (copyRecord s c 0x33 x.p.pc 0 aux) d k
      fun c => { c with ops := c.ops.modifyHead fun o => { o with stop := some { cause := .trap, aux } } }) d k

/-- `hlt` (R291, R309); of the walker, which has no team, ILLEGAL (log entry 79). -/
def execHlt (sa : SReg) (s : State) : Host.Outcome State Fault Refusal :=
  issue s { g := true, q := true, c := true, cls := .handler, priv := true } { ss := [sa.toNat] } none fun x =>
    let v := rdS x.p sa
    match x.who with
    | .qthr d t => match qt? s d t with
      | some q => .ok (stopThread s q 0x33 x.p.pc 0 v)
      | none => .ok s
    | .copyc d k => .ok (haltCopy s x d k v)
    | .grp _ _ => match x.g with
      | some g =>
        if g.isWalker then bad .illegal
        else .ok (haltTeam s g.team [{ gid := g.gid, code := g.regs.trapc.toNat % 256, pc := g.regs.trappc, va := g.regs.trapva, aux := v }])
      | none => .ok s

end Sys2Proof.Machine
end

