-- ==== Sys2Proof/Machine/Complete.lean ====
section
/-! DEFINITION. Completions and wakes: what the memory system, the timeline unit, the line watch, the barrier network, the
rotation of paths and the matrix engine do on their own (R34, R189, R216, R217, R228 to R230, R244, R247, R258, R278). -/
namespace Sys2Proof.Machine

/-- A path of a group, live or spilled, as its instruction sees it. -/
def exAt (s : State) (g : Group) (p : Path) : Ex :=
  { who := .grp g.gid ((slotOf g p.pid).getD 0), p, g := some g, die := g.die, core := g.core, pasid := groupPasid s g,
    user := g.frames.isEmpty, secure := s.secure.contains (.core g.die g.core) }

/-- The paths of the current level of every group. -/
def groupExecs (s : State) : List Ex := s.groups.flatMap fun g => g.stack.paths.map (exAt s g)

/-- The programs of Q threads and copy contexts. -/
def unitExecs (s : State) : List Ex :=
  s.qthreads.filterMap (fun q => exOf s (.qthr q.die q.t)) ++ s.copies.filterMap fun c => exOf s (.copyc c.die c.k)

/-- A path of a group's current level. -/
def pathEx (s : State) (gid pid : Nat) : Option Ex :=
  (grp? s gid).bind fun g => (g.stack.paths.find? fun p => p.pid == pid).map (exAt s g)

/-! ### Memory -/

/-- A precise cause that an outstanding operation of a group meets (R215, R303, R310). -/
def raiseGroupOp (s : State) (g : Group) (o : MemOp) (t : Trap) : State :=
  if g.isWalker then
    match g.path? o.pid with
    | some p => raiseGroup s g p t o.pc
    | none => s
  else if g.ended then noteLate s g.gid o.pid o.pc t
  else if t.cause = .poison then killGroup s g o.pc t.va
  else fatal s g t o.pc

/-- A precise cause that an outstanding operation meets at its home: the operation ends. -/
def raiseOp (s : State) (o : MemOp) (t : Trap) : State :=
  let s := { s with ops := s.ops.filter fun x => x.id != o.id }
  match o.who with
  | .grp gid _ => match grp? s gid with
    | none => s
    | some g => raiseGroupOp s g o t
  | e => raiseOn s e t o.pc

/-- Whether an operation is an `ats` that waits for its answer (R288). -/
def awaitsAts (s : State) (id : Nat) : Bool := s.ats.any fun a => match a.use with
  | .instr op _ => op == id
  | _ => false

/-- Accesses of an outstanding operation are performed, and what is then done completes (R58, R217). -/
def completeAccess (s : State) (id : Nat) (lanes : Mask) (c : MemChoice) : State :=
  match s.ops.find? fun o => o.id == id with
  | none => s
  | some o => match o.kind with
    | .alu wv ws fl => if awaitsAts s id then s else finishAlu s o wv ws fl
    | _ => match performLanes id c (lanesOf lanes) s with
      | (s, some (o, t)) => finishOps (raiseOp s o t)
      | (s, none) => finishOps s

/-- MEMORY_ACCESS_COMPLETE (R217). -/
def execMemoryAccessComplete (op : Nat) (lanes : Mask) (c : MemChoice) (s : State) : Host.Outcome State Fault Refusal :=
  .next (completeAccess s op lanes c)

/-- The oldest imprecise cause of a group is delivered (R216); in the walker it abandons the request (R294). -/
def deliverImprecise (s : State) (g : Group) : State :=
  if g.isWalker then
    match g.late, g.stack.paths with
    | l :: _, p :: _ => raiseGroup s g p l.trap l.pc
    | _, _ => s
  else deliverLate s g

/-- IMPRECISE_FAULT (R216): every state between two steps is an instruction boundary. -/
def execImpreciseFault (gid : Nat) (s : State) : Host.Outcome State Fault Refusal :=
  .next (match grp? s gid with
    | some g => deliverImprecise s g
    | none => s)

/-- A chunk of a bulk copy lands, with what the decoder found at a unit of its source; a wrong tag is an imprecise GRANULE and lands nothing
(R182, R183, R223), and a lost home an imprecise HOME_LOST (R329). -/
def landOne (s : State) (id : Nat) (ecc : Ecc) (unit i : Nat) : State :=
  match s.bulks.find? fun b => b.id == id with
  | none => s
  | some b =>
    match grp? s b.gid with
    | some g =>
      if !b.todo.contains i || !sourceReady s b g.die i then s
      else
        let late := fun (s : State) (cause : Cause) (off : Nat) =>
          noteLate (chunkDone s b i) g.gid b.pid b.pc { cause, va := b.sva + BitVec.ofNat 64 off, aux := 1 }
        let units := sourceUnits s b.src (chunkReads b i).1 (chunkReads b i).2
        match units.find? fun u => placeLost s g.die u.2 with
        | some u => late s .homeLost u.1
        | none => match decodeSource ecc unit units s with
          | (s, some off) => late s .granule off
          | (s, none) => landChunk s b g.die g.core i
    | none => s

/-- BULK_COPY_LAND (R189, R217). -/
def execBulkCopyLand (op : Nat) (lines : List Nat) (ecc : UnitEcc) (s : State) : Host.Outcome State Fault Refusal :=
  .next (finishBulks ((lines.foldl (fun (r : State × Ecc) i => (landOne r.1 op r.2 ecc.unit i, Ecc.clean)) (s, ecc.ecc)).1))

/-- Whether a line's lease is over (R178): 2048 MCLK have passed, or no atomic of its die waits on the line. -/
def leaseOver (s : State) (l : Lease) : Bool :=
  decide (1024 ≤ s.now - l.since) || !(s.ops.any fun o => (placeOf s o.who).1 == l.die && o.kind.reads && o.kind.writes &&
    o.todo.any fun a => leaseLine a.place == some l.line)

/-- A leased line returns to its home, and the atomics performed under the lease are acknowledged (R178). -/
def endLease (s : State) (line : Nat) : State :=
  match s.leases.find? fun l => l.line == line with
  | none => s
  | some l =>
    if !leaseOver s l then s
    else finishOps { s with leases := s.leases.filter fun x => x.line != line,
                            ops := s.ops.map fun o => { o with leased := o.leased.filter fun x => x.1 != line } }

/-- LEASE_EXPIRE (R178). -/
def execLeaseExpire (line : Nat) (s : State) : Host.Outcome State Fault Refusal := .next (endLease s line)

/-! ### Timelines and lines -/

/-- A path that waits for a timeline goes on if the value satisfies it (R228). -/
def wakeTwait (die t : Nat) (v : W64) (s : State) (x : Ex) : State :=
  match x.p.wait with
  | .twait d k want sd sc =>
    if d = die ∧ k = t ∧ want.toNat ≤ v.toNat then endWait s x [(sd, v, false)] (some sc) else s
  | _ => s

/-- The value of a timeline that its unit announces: a free value for one of another module, whose dies stand from 16 on (R177; log
entry 9). -/
def tlSeen (s : State) (die t : Nat) : W64 × State :=
  if die < 16 then (tlGet s die t, s)
  else
    let (b, s) := freeBytes s Config.freeByte false 8
    (BitVec.ofNat 64 (ofBytes (b.map fun e => e.1)), s)

/-- TWAIT_WAKE (R228, R265): a die that no longer answers announces nothing (R327). -/
def execTwaitWake (die t : Nat) (s : State) : Host.Outcome State Fault Refusal :=
  .next (if die < 16 ∧ !dieUp s die then s
    else
      let (v, s) := tlSeen s die t
      (groupExecs s ++ unitExecs s).foldl (wakeTwait die t v) s)

/-- WAITGE_COMPLETE (R258). -/
def execWaitgeComplete (die qid : Nat) (s : State) : Host.Outcome State Fault Refusal :=
  .next (match queue? s die qid with
    | some q => waitgeTest s q
    | none => s)

/-- Whether the team of a waiting path is to be saved, so that its `wchg` ends with status 2 after that (R314). -/
def beingSaved (s : State) (x : Ex) : Bool := x.g.any fun g => (team? s g.team).any fun t => t.st == .stopping

/-- A watched line is read again (R229); a wait on a lost home is issued again and meets the loss (R329). -/
def wakeWchg (s : State) (x : Ex) : State :=
  match x.p.wait with
  | .wchg pl n want sd _ acq sc ch =>
    if placeLost s x.die pl then modPath s x.who x.p.pid fun p => { p with wait := .run }
    else if leasedAway s x.die pl || placeAbsent s pl || homeSilent s x.die pl || beingSaved s x then s
    else
      let ((v, bad), s) := waitRead s x pl n sc ch
      if v = want then s else endWait s x [(sd, v, bad), (sd + 1, 0, false)] (if acq then some sc else none)
  | _ => s

/-- WCHG_WAKE (R229). -/
def execWchgWake (gid pid : Nat) (s : State) : Host.Outcome State Fault Refusal :=
  .next (match pathEx s gid pid with
    | some x => wakeWchg s x
    | none => s)

/-- A wait of 2^20 cycles ends with the word last read, its poison, and status 1 if it is still the one expected (R215, R229). -/
def timeoutWchg (s : State) (x : Ex) : State :=
  match x.p.wait with
  | .wchg pl n want sd since acq sc ch =>
    if clk s x.die < since + 2 ^ 20 || homeSilent s x.die pl || placeAbsent s pl || leasedAway s x.die pl || beingSaved s x then s
    else
      let ((v, bad), s) := waitRead s x pl n sc ch
      endWait s x [(sd, v, bad), (sd + 1, if v = want then 1 else 0, false)] (if acq then some sc else none)
  | _ => s

/-- WCHG_TIMEOUT (R229). -/
def execWchgTimeout (gid pid : Nat) (s : State) : Host.Outcome State Fault Refusal :=
  .next (match pathEx s gid pid with
    | some x => timeoutWchg s x
    | none => s)

/-- BARRIER_PHASE_COMPLETE (R230, R266). -/
def execBarrierPhaseComplete (team b : Nat) (s : State) : Host.Outcome State Fault Refusal := .next (completePhase s team b)

/-! ### Rotation -/

/-- Whether a live path has spun for 4096 cycles (R34). -/
def spunOut (now : Nat) : Option Path → Bool
  | some p => decide (p.spinAt + 4096 ≤ now) && match p.blk with
    | some b => b.spin && !p.atHdr
    | none => false
  | none => false

/-- The exchange of a spinning path (R34); of two that have spun for as long, slot A's (log entry 54). -/
def spinExchange (now : Nat) (k : Stack) : Stack :=
  let k := rotateParked now k
  if spunOut now k.a then exchange now k true else if spunOut now k.b then exchange now k false else k

/-- SPIN_ROTATION (R34). -/
def execSpinRotation (gid : Nat) (s : State) : Host.Outcome State Fault Refusal :=
  .next (modGrp s gid fun g => { g with stack := spinExchange (clk s g.die) g.stack })

/-- Which live path a path spilled for long takes the slot of (R34): a parked one, else the one that has held its slot longer; of two
that have held theirs as long, slot A's (log entry 54). -/
def yieldsSlotA (k : Stack) : Bool :=
  match k.a, k.b with
  | some p, some q => p.wait.parks || (!q.wait.parks && decide (p.slotAt ≤ q.slotAt))
  | some _, none => true
  | none, _ => false

/-- The exchange of a path that has been spilled for 16,384 cycles (R34). -/
def longExchange (now : Nat) (k : Stack) : Stack :=
  let k := rotateParked now k
  if (k.rest.filterMap spilledReady).any fun p => decide (p.slotAt + 16384 ≤ now) then exchange now k (yieldsSlotA k) else k

/-- SPILL_EXCHANGE (R34). -/
def execSpillExchange (gid : Nat) (s : State) : Host.Outcome State Fault Refusal :=
  .next (modGrp s gid fun g => { g with stack := longExchange (clk s g.die) g.stack })

/-! ### Traps and the walker -/

/-- A path that waits to enter a handler enters it (R305, R306). -/
def enterPending (s : State) (gid pid : Nat) : State :=
  match grp? s gid with
  | none => s
  | some g => match g.stack.paths.find? fun p => p.pid == pid with
    | none => s
    | some p => match p.pend with
      | none => s
      | some d => (tryEnter s g p d.trap d.pc d.resume).getD (askHandler s g p d.trap)

/-- TRAP_ENTRY (R305, R306). -/
def execTrapEntry (gid pid : Nat) (s : State) : Host.Outcome State Fault Refusal := .next (enterPending s gid pid)

/-- TRAPAUX of a walker's request (R293). -/
def walkerAux (s : State) (m : Miss) : W64 :=
  let entry := match grp? s m.gid with
    | some g => g.entry
    | none => 0
  BitVec.ofNat 64 (m.pasid % 2 ^ 20 * 2 ^ 16 + m.hroot.toNat * 2 ^ 15 + m.mat.toNat * 2 ^ 14 + m.fetch.toNat * 2 ^ 13 +
    m.write.toNat * 2 ^ 12 + entry % 1024)

/-- The walker group of a core before its first request (R24, R293). -/
def firstWalker (die core : Nat) : Group :=
  { gid := die * 64 + core, team := 0, role := none, width := 8, gidx := 0, gser := 0, die, core, tcore := 0, entry := 1023, ehdr := 0,
    column := 0, sector := 0, rank := 0, spawned := none, vbud := 0, sbud := 64, exited := 0, stack := { a := none, b := none, rest := [] },
    frames := [], vregs := [], vpois := [], masks := [], gstat := 0, fpfl := 0, barst := 0, mstat := 0, mrp := [], htb := 0, regs := {},
    late := [], mfault := [], issued := 0 }

/-- The walker group of a core as it takes a request (R24, R293, R305, R306): frame 0, all eight lanes, and the masks, flags, HTB and scalar
registers as its last request left them (log entry 85). -/
def walkerGroup (s : State) (die core : Nat) (m : Miss) (h : W64) (pid : Nat) : Group :=
  let b := ((core? s die core).bind fun c => c.idle).getD (firstWalker die core)
  let last := b.stack.paths.head?
  let p := { newPath pid h 0xFF#64 (clk s die) with
    start := false, view := (last.map fun q => q.view).getD [], spois := (last.map fun q => q.spois).getD 0 }
  { firstWalker die core with
    ehdr := h, masks := b.masks, gstat := b.gstat, fpfl := b.fpfl, htb := b.htb, issued := b.issued,
    stack := { a := some p, b := none, rest := [] },
    frames := [{ num := 0, saved := { a := none, b := none, rest := [] }, old := {}, pid, cause := 0, pc := 0, resume := 0, entry := h,
                 lanes := 0xFF#64, v := [], vpois := [] }],
    regs := { trapc := 0, trappc := 0, trapmask := m.lanes, trapva := m.va, trapaux := walkerAux s m } }

/-- The vendor walker asks the host for a delegated translation (R160, R288, R294). -/
def walkerAsks (s : State) (die core : Nat) (m : Miss) : State :=
  let (id, s) := fresh s
  let fn := fnOf s m.pasid
  let r : AtsReq := { id, fn, pasid := m.pasid, va := m.va, write := m.write, die, who := .grp m.gid 0, pid := m.pid,
                      use := .walker core, since := s.now }
  let s := modCore { s with ats := s.ats ++ [r] } die core fun c => { c with walk := some m }
  emit s (.atsRequest id fn m.pasid m.va m.write)

/-- The entries that a walk reads, the root's first, those of a CONTIG run among them (R156, R158). -/
def walkEntries (s : State) (va : Nat) : List Nat → Nat → List Nat
  | [], _ => []
  | lvl :: lower, table =>
    let i := va / levelBytes lvl % 512
    let e := pte s (table + 8 * i)
    (table + 8 * i) ::
      (if e.getLsbD 0 && !e.getLsbD 1 then walkEntries s va lower (pfnAddr e)
       else if e.getLsbD 0 && e.getLsbD 62 then (List.range 16).map fun k => table + 8 * (i / 16 * 16 + k)
       else [])

/-- The first entry of a walk that the walker's own access cannot read, as DOUBLE_FAULT with that access's cause and address: its table
is not mapped in the die's handler region, or the entry is poisoned (R162, R183, R294, R365). -/
def unmapped (s : State) (die : Nat) (entries : List Nat) : Option Trap :=
  entries.findSome? fun a =>
    let va := entryVa s die a
    match walkLeaf s die 0 va with
    | .ok _ => if sget false s.pois (a % 2 ^ 43 / 32) then some { cause := .doubleFault, va, aux := 0x20 } else none
    | .error (.trap x) => some { cause := .doubleFault, va, aux := BitVec.ofNat 64 x.cause.code }
    | .error _ => some { cause := .doubleFault, va, aux := 0x12 }

/-- The leaf after the walker has set A, and D for a write that the leaf admits (R159). -/
def walkSet (s : State) (die core : Nat) (ea : Nat) (t : Tlb) (w : Bool) : State :=
  let d := w && t.leaf.getLsbD 2
  let t := { t with leaf := t.leaf ||| (if d then 0xC0#64 else 0x40#64) }
  let s := setAD s ea d
  installTlb s die core { t with marks := openShoots s die t }

/-- The vendor walker serves a request (R156 to R160, R294); an entry that its own access cannot read abandons it. -/
def vendorWalk (s : State) (die core : Nat) (m : Miss) : State :=
  match unmapped s die (walkEntries s (m.va.toNat % 2 ^ 57) levels (rootOf s die m.pasid m.va)) with
  | some t => answerMiss s m t
  | none => match walkLeaf s die m.pasid m.va with
    | .ok (ea, t) => walkSet s die core ea t m.write
    | .error (.trap t) => answerWalk s m t
    | .error _ => walkerAsks s die core m

/-- The walker of a core takes its next request (R293): the vendor routine, or the one whose header the die kernel set. -/
def serveMiss (s : State) (die core : Nat) : State :=
  match core? s die core with
  | none => s
  | some c =>
    if c.walk.isSome then s
    else match c.missQ with
      | [] => s
      | m :: rest =>
        let s := modCore s die core fun c => { c with missQ := rest }
        match (die? s die).bind fun d => d.walker with
        | none => vendorWalk s die core m
        | some h =>
          let (pid, s) := fresh s
          let s := modCore s die core fun c => { c with walk := some m }
          { s with groups := s.groups ++ [walkerGroup s die core m h pid] }

/-- WALKER_REQUEST (R293). -/
def execWalkerRequest (die core : Nat) (s : State) : Host.Outcome State Fault Refusal := .next (serveMiss s die core)

/-! ### Matrix streams -/

/-- A stream runs to an operand whose translation resolves to PAGE_FAULT or FIRST_TOUCH, and stops there (R244). -/
def stopAtOperand (s : State) (die core k : Nat) : State :=
  let s' := runHead s die core k .clean
  match engOf s' die core k .clean with
  | none => s
  | some e => match e.o.await with
    | none => s
    | some (va, src) => match walkLeaf s' die (groupPasid s' e.g) va with
      | .error (.trap t) =>
        if t.cause = .pageFault ∨ t.cause = .firstTouch then
          stopStream (modCore s' die core fun c => { c with missQ := c.missQ.filter fun m => !(m.mat && m.gid == e.o.gid && m.va == va) })
            die core k e.o t.cause va src
        else s
      | _ => s

/-- MATRIX_STREAM_STOP (R244, R245): with the vendor walker, which gives the outcome of the walk. -/
def execMatrixStreamStop (die core strm : Nat) (s : State) : Host.Outcome State Fault Refusal :=
  .next (if ((die? s die).bind fun d => d.walker).isSome then s else stopAtOperand s die core strm)

/-- Whether a path stands where MATRIX_FAULT may be delivered (R247): at a boundary, or in a `twait`, which is withdrawn. Other waits
hold it. -/
def matrixBoundary (p : Path) : Bool :=
  match p.wait with
  | .run | .twait _ _ _ _ _ => !p.atHdr
  | _ => false

/-- Whether a path is parked in `twait`, in a slot or spilled. -/
def inTwait (p : Path) : Bool := match p.wait with
  | .twait _ _ _ _ _ => true
  | _ => false

/-- MATRIX_FAULT is raised at a path's boundary outside handler mode, lowest stream first (R247). -/
def deliverMatrix (s : State) (g : Group) (p : Path) : State :=
  match g.mfault with
  | [] => s
  | (k, va, c) :: rest =>
    let s := { s with waiters := s.waiters.filter fun w => !(w.2.2.2.1 == g.gid && w.2.2.2.2.1 == p.pid) }
    let s := modGrp s g.gid fun g => { g.modPid p.pid (fun p => { p with wait := .run }) with mfault := rest }
    match grp? s g.gid with
    | none => s
    | some g => raiseGroup s g { p with wait := .run }
        { cause := .matrixFault, va, aux := c ||| BitVec.ofNat 64 (256 * k), lanes := some p.mask } p.pc

/-- MATRIX_FAULT (R247). -/
def execMatrixFault (gid pid : Nat) (s : State) : Host.Outcome State Fault Refusal :=
  .next (match grp? s gid with
    | none => s
    | some g => if !g.frames.isEmpty then s else match (g.stack.a.toList ++ g.stack.b.toList ++ g.stack.paths.filter inTwait).find? fun p => p.pid == pid with
      | some p => if matrixBoundary p then deliverMatrix s g p else s
      | none => s)

/-- MATRIX_OP_COMPLETE (R234, R239, R240). -/
def execMatrixOpComplete (die core strm : Nat) (ecc : Ecc) (s : State) : Host.Outcome State Fault Refusal :=
  .next (runHead s die core strm ecc)

/-! ### Threads -/

/-- QSLEEP_WAKE (R278). -/
def execQsleepWake (die t : Nat) (s : State) : Host.Outcome State Fault Refusal :=
  .next (match qt? s die t, exOf s (.qthr die t) with
    | some q, some x => (match q.asleep with
      | some sd => if q.arrived = 0 then s else wakeThread s x q sd
      | none => s)
    | _, _ => s)

/-! ### The host's answers -/

/-- A PRI response (R289): the parked paths issue again, or the requester's path takes PAGE_FAULT with TRAPAUX 5. -/
def answerPri (s : State) (id : Nat) (ok : Bool) : State :=
  match s.pris.find? fun p => p.id == id with
  | none => s
  | some r =>
    let s := { s with pris := s.pris.filter fun p => p.id != id }
    let s := modGrp s r.gid fun g => g.allPaths.foldl (fun (g : Group) p =>
      if p.wait = .pri id then g.modPid p.pid fun p => { p with wait := .run } else g) g
    if ok then s
    else match grp? s r.gid with
      | none => s
      | some g => match g.path? r.pid with
        | none => s
        | some p => raiseGroup s g p { cause := .pageFault, va := r.va, aux := 5 } p.pc

/-- PRI_RESPONSE (R289, R335). -/
def execPriResponse (id : Nat) (ok : Bool) (s : State) : Host.Outcome State Fault Refusal := .next (answerPri s id ok)

/-- The leaf that an ATS answer gives: MT = 3, or 0 (R288). -/
def atsLeaf (status : Nat) (leaf : W64) : W64 := if status = 0 then leaf ||| 0x1800000000000000#64 else 0

/-- The vendor walker's request ends (R294). -/
def walkerIdle (s : State) (die core : Nat) : State := modCore s die core fun c => { c with walk := none }

/-- What the vendor walker does with an ATS status (R294). -/
def walkerAts (s : State) (r : AtsReq) (core status : Nat) (leaf : W64) : State :=
  match (core? s r.die core).bind fun c => c.walk with
  | none => s
  | some m =>
    let s := walkerIdle s r.die core
    match status with
    | 0 =>
      if tlbLeafOk leaf 0 then installTlb s r.die core (tlbEntry s r.die r.va leaf r.pasid false 0)
      else answerMiss s m { cause := .doubleFault, va := 0, aux := 1 }
    | 1 => (sendPri s r.pasid r.va r.write m.gid m.pid).getD s
    | 2 => answerWalk s m (prot r.va 6)
    | _ => answerWalk s m { cause := .pageFault, va := r.va, aux := 6 }

/-- A translation that handler entry waits for is refused: its read failed, which is DOUBLE_FAULT (R304, R365). -/
def handlerAts (s : State) (r : AtsReq) (t : Trap) (gid : Nat) : State :=
  match grp? s gid with
  | none => s
  | some g => match (g.path? r.pid).bind fun p => p.pend with
    | some d => doubleFault s g d.pc t.cause.code r.va
    | none => s

/-- The answer to a request made for a Q or C program, a copy operation or a handler's entry: its range is translated, or its access
faults (R281, R294). An access of a copy program's own ends the program (R67, R270); one of an operation stops the operation. -/
def accessAts (s : State) (r : AtsReq) (status : Nat) (leaf : W64) : State :=
  let own := (pathOf s r.who).any fun p => p.pid == r.pid && p.wait == .ats r.id
  let s := modPath s r.who r.pid fun p => { p with wait := if p.wait = .ats r.id then .run else p.wait }
  if status = 0 then modDie s r.die fun d => { d with cache := tlbEntry s r.die r.va leaf r.pasid false 0 :: d.cache }
  else
    let t : Trap := if status = 2 then prot r.va 6 else { cause := .pageFault, va := r.va, aux := 6 }
    match r.who with
    | .copyc d k => match cc? s d k with
      | some c => if own then raiseOn s r.who t (copyPc c) else stopCopy s c t (copyPc c)
      | none => s
    | .grp gid _ => handlerAts s r t gid
    | e => match exOf s e with
      | some x => if x.p.pid = r.pid then raiseOn s e t x.p.pc else s
      | none => s

/-- An ATS answer (R288). -/
def answerAts (s : State) (id status : Nat) (leaf : W64) : State :=
  match s.ats.find? fun a => a.id == id with
  | none => s
  | some r =>
    let s := { s with ats := s.ats.filter fun a => a.id != id }
    let leaf := atsLeaf status leaf
    match r.use with
    | .walker core => walkerAts s r core status leaf
    | .access => accessAts s r status leaf
    | .instr op sd => match s.ops.find? fun o => o.id == op with
      | none => s
      | some o => finishAlu s o [] [(sd, leaf), (sd + 1, BitVec.ofNat 64 status)] 0

/-- ATS_COMPLETION (R288): statuses 0 to 2. -/
def execAtsCompletion (id : Nat) (status : Nat) (leaf : W64) (s : State) : Host.Outcome State Fault Refusal :=
  .next (if status < 3 then answerAts s id status leaf else s)

/-- ATS_TIMEOUT (R288): 100 µs have passed. -/
def execAtsTimeout (id : Nat) (s : State) : Host.Outcome State Fault Refusal :=
  .next (match s.ats.find? fun a => a.id == id with
    | some r => if s.now < r.since + 100 * Config.usCycles then s else answerAts s id 3 0
    | none => s)

end Sys2Proof.Machine
end

