-- ==== Sys2Proof/Machine/Teams.lean ====
section
/-! DEFINITION. Teams: admission (R25 to R29, R50, R261, R262), retirement (R26, R249), pre-emption, saving and resumption
(R312 to R316). -/
namespace Sys2Proof.Machine

/-- Whether a team holds cores. -/
def Team.onCores (t : Team) : Bool :=
  match t.st with
  | .saved _ => false
  | _ => true

/-- A team's share of a core (R27). -/
def shareOn (s : State) (d c : Nat) (t : Team) : Share :=
  match t.cores.findIdx? fun k => k == c, launch? s t.launch with
  | some j, some l => if t.die = d && t.onCores then teamShare l.pk j else {}
  | _, _ => {}

/-- What the resident teams reserve on a core (R27). -/
def coreUse (s : State) (d c : Nat) : Share := s.teams.foldl (fun a t => a.add (shareOn s d c t)) {}

/-- Barrier sets in use in a cluster (R262). -/
def setsUsed (s : State) (d k : Nat) : Nat :=
  (s.teams.filter fun t => t.onCores && t.die == d && t.cores.head?.any fun c => clusterOf c == k).length

/-- Whether a core takes core j of a team of a launch (R27, R232, R262, R317). -/
def coreTakes (s : State) (l : Launch) (d c j : Nat) : Bool :=
  ((core? s d c).any fun x => x.st == .inService) && ((coreUse s d c).add (teamShare l.pk j)).fits &&
  !(l.pk.cosched && usesEngine l.pk && s.teams.any fun t => t.launch == l.lid && t.onCores && t.die == d && t.cores.contains c)

/-- Whether a list of cores is one team's place: CORES cores of one cluster, ascending. -/
def coresShape (p : Packet46) (cores : List Nat) : Bool :=
  cores.length == p.cores && (cores.zip (cores.drop 1)).all (fun e => decide (e.1 < e.2)) &&
  cores.all fun c => decide (c < Config.cores) && cores.head?.any fun h => clusterOf h == clusterOf c

/-- Whether a team of a launch may be placed (R25 to R27, R261, R262). -/
def placeOk (s : State) (l : Launch) (d : Nat) (cores : List Nat) : Bool :=
  (namedDies s l.pk).contains d && coresShape l.pk cores && (cores.zipIdx.all fun e => coreTakes s l d e.1 e.2) &&
  decide (setsUsed s d (clusterOf (cores.head?.getD 0)) < 64)

/-- Cores of a list that take a team's cores from number j on, each the first that does. -/
def takeCores (s : State) (l : Launch) (d : Nat) : List Nat → Nat → List Nat
  | [], _ => []
  | c :: cs, j =>
    if l.pk.cores ≤ j then [] else if coreTakes s l d c j then c :: takeCores s l d cs (j + 1) else takeCores s l d cs j

/-- Cores of a die that hold a team of a launch, if any do. -/
def findPlace (s : State) (l : Launch) (d : Nat) : Option (List Nat) :=
  (List.range 8).findSome? fun k =>
    let cs := takeCores s l d ((List.range Config.cores).filter fun c => clusterOf c == k) 0
    if cs.length = l.pk.cores ∧ setsUsed s d k < 64 then some cs else none

/-! ### Placing a team -/

/-- The group at a place of a team's numbering (R25): role and number within the role. -/
def groupPlan (p : Packet46) : List (Nat × Nat) := (List.range 4).flatMap fun r => (List.range (nth p.counts r)).map fun k => (r, k)

/-- The role of a number. -/
def roleOf : Nat → Role
  | 0 => .general
  | 1 => .feed
  | 2 => .matrix
  | _ => .vector

/-- Groups of a core other than the walker. -/
def groupsOn (s : State) (d c : Nat) : Nat := (s.groups.filter fun g => g.die == d && g.core == c && !g.isWalker).length

/-- The issue column and first sector of the n-th group on a core (R21): any such run is allowed. -/
def columnOf (n : Nat) : Nat := n % 4
/-- The first sector of the n-th group's run (R21). -/
def sectorOf (n w : Nat) : Nat := n / 4 * (w / 8) % 8

/-- A launch group at its start (R20 to R25, R50). -/
def startGroup (s : State) (l : Launch) (t : Team) (gidx r k gid pid : Nat) : Group :=
  let c := nth t.cores (k % t.cores.length)
  let n := groupsOn s t.die c
  let e := (l.ds.entries[r]?).getD 0
  let p := { newPath pid e (fullMask l.pk.width) (clk s t.die) with view := sset 0 [] 0 l.pk.arg }
  let g : Group :=
    { gid, team := t.tid, role := some (roleOf r), width := l.pk.width, gidx, gser := BitVec.ofNat 64 gid, die := t.die, core := c,
      tcore := k % t.cores.length, entry := freeEntry s t.die c, ehdr := e, column := columnOf n, sector := sectorOf n l.pk.width,
      rank := l.ds.ranks / 4 ^ r % 4, spawned := none, vbud := nth l.pk.vbud r, sbud := nth l.pk.sbud r, exited := 0,
      stack := { a := some p, b := none, rest := [] }, frames := [], vregs := [], vpois := [], masks := [], gstat := 0, fpfl := 0,
      barst := 0, mstat := 0, mrp := [], htb := 0, regs := {}, late := [], mfault := [], issued := 0 }
  { g with htb := tableBase s g }

/-- Adding one launch group of a team. -/
def addGroup (l : Launch) (t : Team) (s : State) (e : (Nat × Nat) × Nat) : State :=
  let (gid, s) := fresh s
  let (pid, s) := fresh s
  { s with groups := s.groups ++ [startGroup s l t e.2 e.1.1 e.1.2 gid pid] }

/-- The next team index that a launch offers (R261, R313). -/
def nextIndex (l : Launch) : Nat := ((l.redo.map fun e => e.1).min?).getD l.next

/-- The launch after it has offered a team. -/
def offered (l : Launch) : Launch :=
  if l.redo = [] then { l with next := l.next + 1, held := false } else { l with redo := l.redo.filter fun e => e.1 != nextIndex l, held := false }

/-- Admitting the next team of a launch (R25, R26, R50, R168, R261): its groups see what came before the launch and the completions that it
waited for (R274, R276). -/
def placeTeam (s : State) (l : Launch) (d : Nat) (cores : List Nat) : State :=
  let (tid, s) := fresh s
  let i := nextIndex l
  let t : Team :=
    { tid, launch := l.lid, x := BitVec.ofNat 32 (i % l.pk.gx), y := BitVec.ofNat 32 (i / l.pk.gx % l.pk.gy),
      z := BitVec.ofNat 32 (i / l.pk.gx / l.pk.gy), die := d, cores, groups := l.pk.groups, pool := l.pk.pool, scratch := l.pk.scratch,
      smem := [], spois := [], rings := [], bars := [], killed := [], st := .resident, faulted := false, image := [], mat := [],
      tiles := [], tpois := [], pinned := teamPin l.pk }
  let s := modLaunch { s with teams := s.teams ++ [t] } l.lid offered
  let s := cores.foldl (fun s c => acquireAt s d c .sys) s
  (groupPlan l.pk).zipIdx.foldl (addGroup l t) s

/-! ### The order of admission -/

/-- Teams of a launch that are still to be admitted (R261). -/
def pendingTeams (l : Launch) : Nat := if l.reported then 0 else l.redo.length + (gridTeams l - l.next)

/-- The rank of a launch (R261): priority, then the order in which launches started. -/
def ranksAbove (a b : Launch) : Bool := decide (b.prio < a.prio) || (a.prio == b.prio && decide (a.lid < b.lid))

/-- Placing teams of a launch one after another wherever they fit first, up to a number; none if one fits nowhere. -/
def placeAll (lid : Nat) : Nat → State → Option State
  | 0, s => some s
  | n + 1, s => match launch? s lid with
    | none => none
    | some l => match (namedDies s l.pk).findSome? fun d => (findPlace s l d).map fun cs => (d, cs) with
      | none => none
      | some e => placeAll lid n (placeTeam s l e.1 e.2)

/-- Saved teams of a launch, which wait to be resumed (R316). -/
def savedTeams (s : State) (l : Launch) : List Team := s.teams.filter fun t => t.launch == l.lid && !t.onCores

/-- Teams of a launch that wait for a place (R261, R316). -/
def waiting (s : State) (l : Launch) : Nat := pendingTeams l + (savedTeams s l).length

/-- Whether a team of a launch is on its way off its cores, to be dropped or saved (R312). -/
def leaving (s : State) (l : Launch) : Bool :=
  s.teams.any fun t => t.launch == l.lid && (t.st == .dropping || t.st == .stopping)

/-- The module as it stands, for the teams of a grid: a team that held an engine comes back where none is bound (R232). -/
def floorOf (s : State) (l : Launch) : Floor :=
  let bound := (savedTeams s l).any fun t => !t.mat.isEmpty
  { use := coreUse s, sets := setsUsed s, ok := fun d c => (core? s d c).any fun x => x.st == .inService && !(bound && x.bind.isSome) }

/-- The index of a team in its grid (R261). -/
def teamIndex (l : Launch) (t : Team) : Nat := t.x.toNat + l.pk.gx * (t.y.toNat + l.pk.gy * t.z.toNat)

/-- Whether the engines that a saved team held are unbound on its new cores (R232). -/
def enginesFree (s : State) (t : Team) (d : Nat) (cores : List Nat) : Bool :=
  t.mat.all fun e => (core? s d (nth cores e.1)).any fun c => c.bind.isNone

/-- Whether a saved team could come back on a die now (R232, R261, R316). -/
def couldReturn (s : State) (l : Launch) (d : Nat) (t : Team) : Bool :=
  (placesOf s l.pk).any fun e => e.1 == d && placeOk s l d e.2 && enginesFree s t d e.2

/-- Whether a waiting launch could be admitted or resumed on a die now (R29, R261, R316): a COSCHED grid once all of it waits. -/
def couldAdmit (s : State) (l : Launch) (d : Nat) : Bool :=
  let n := waiting s l
  (namedDies s l.pk).contains d &&
  if l.pk.cosched then
    decide (0 < n) && !leaving s l && decide (n ≤ maxTeams) && (floorOf s l).packs l.pk (placesOf s l.pk) (min n maxTeams) []
  else (decide (0 < pendingTeams l) && (findPlace s l d).isSome) || (savedTeams s l).any (couldReturn s l d)

/-- Whether 10 ms have passed since a time (R261). -/
def longAgo (s : State) (since : Nat) : Bool := decide (since + 10000 * Config.usCycles ≤ s.now)

/-- Whether a team to be admitted, of those whose index `p` holds of, has waited 10 ms: from the start of its launch, or from its drop
(R261, R313). -/
def newLong (s : State) (h : Launch) (p : Nat → Bool) : Bool :=
  !h.reported && ((h.redo.any fun e => p e.1 && longAgo s e.2) || (decide (h.next < gridTeams h) && p h.next && longAgo s h.since))

/-- Whether a team of a launch, new or saved, has waited 10 ms (R261). -/
def waitedLong (s : State) (h : Launch) : Bool :=
  h.held || newLong s h (fun _ => true) || (savedTeams s h).any fun t => longAgo s t.since

/-- Whether a team of lower index of its own launch keeps a team off a die (R261): a new or a saved one that fits there, or that has
waited 10 ms. The teams of a COSCHED grid come together. -/
def lowerFirst (s : State) (l : Launch) (i d : Nat) : Bool :=
  !l.pk.cosched &&
    ((decide (0 < pendingTeams l) && decide (nextIndex l < i) && (findPlace s l d).isSome) || newLong s l (fun j => decide (j < i)) ||
     (savedTeams s l).any fun t => decide (teamIndex l t < i) && (couldReturn s l d t || longAgo s t.since))

/-- Whether another pending team keeps team i of a launch off a die (R261): one of a launch of higher rank that fits there, one of a
launch that has waited 10 ms and does not rank below it, or one of lower index of the launch. -/
def keptOff (s : State) (l : Launch) (i d : Nat) : Bool :=
  lowerFirst s l i d || s.launches.any fun h => h.lid != l.lid && decide (0 < waiting s h) && (namedDies s h.pk).contains d &&
    ((ranksAbove h l && couldAdmit s h d) || (waitedLong s h && !ranksAbove l h))

/-- Admitting the next team of a launch at a place, if it may stand there. -/
def admitAt (lid : Nat) (s : Option State) (pl : Nat × List Nat) : Option State :=
  s.bind fun s => (launch? s lid).bind fun l => if placeOk s l pl.1 pl.2 then some (placeTeam s l pl.1 pl.2) else none

/-- Admission at places that the work distributor has chosen (R26, R29, R261): of a COSCHED grid, not before every team that is to be
offered again has gone. -/
def admitTeams (s : State) (lid : Nat) (places : List (Nat × List Nat)) : State :=
  match launch? s lid with
  | none => s
  | some l =>
    let count := if l.pk.cosched then pendingTeams l else min 1 (pendingTeams l)
    if count = 0 ∨ places.length ≠ count ∨ (l.pk.cosched && leaving s l) ∨ places.any (fun e => keptOff s l (nextIndex l) e.1) then s
    else (places.foldl (admitAt lid) (some s)).getD s

/-- TEAM_ADMIT (R261). -/
def execTeamAdmit (launch : Nat) (places : List (Nat × List Nat)) (s : State) : Host.Outcome State Fault Refusal :=
  .next (admitTeams s launch places)

/-- ADMISSION_WAIT_EXPIRE (R261): 10 ms have passed. -/
def execAdmissionWaitExpire (launch : Nat) (s : State) : Host.Outcome State Fault Refusal :=
  .next (match launch? s launch with
    | none => s
    | some l => if !newLong s l (fun _ => true) then s
      else modLaunch s launch fun l => { l with held := true })

/-! ### Retirement -/

/-- Every such report of a team's cores. -/
def reportStopped (s : State) (t : Team) : State :=
  (s.cores.filter fun c => c.bind == some t.tid).foldl (fun s c => (List.range 4).foldl (fun s k => reportStream s c k) s) s

/-- The groups of a team. -/
def groupsOf (s : State) (tid : Nat) : List Nat := (s.groups.filter fun g => g.team == tid).map fun g => g.gid

/-- Whether nothing of a list of groups is outstanding: memory and bulk operations (R217). -/
def countersZero (s : State) (gs : List Nat) : Bool :=
  !(s.ops.any fun o => o.who.gid?.any fun g => gs.contains g) && !(s.bulks.any fun b => gs.contains b.gid)

/-- Whether no stream holds an operation of a list of groups. -/
def streamsEmpty (s : State) (gs : List Nat) : Bool :=
  !(s.cores.any fun c => c.strm.any fun e => e.2.any fun o => gs.contains o.gid)

/-- A team retires once its groups have exited and all their work is performed (R26, R249, R311). -/
def retire (s : State) (tid : Nat) : State :=
  match team? s tid with
  | none => s
  | some t =>
    if !t.onCores || !(s.groups.all fun g => g.team != tid || g.ended) then s
    else
      let s := reportStopped s t
      let gs := groupsOf s tid
      if !countersZero s gs || !streamsEmpty s gs then s
      else
        let bad := (team? s tid).any fun t => t.faulted
        gridEnd (modLaunch (dropTeam s tid) t.launch fun l => { l with ended := l.ended + 1, faulted := l.faulted || bad }) t.launch

/-- TEAM_RETIRE (R26). -/
def execTeamRetire (team : Nat) (s : State) : Host.Outcome State Fault Refusal := .next (retire s team)

/-! ### Pre-emption -/

/-- The teams that a request for cores of a die takes: those, of a context if it names one, with a group on one of them, and the rest
of their COSCHED grids (R29, R312). -/
def affected (s : State) (die : Nat) (cores : List Nat) (ctx : Option Nat) : List Team :=
  let named := s.teams.filter fun t => t.onCores && (ctx.all fun c => (launch? s t.launch).any fun l => l.pasid == c) && s.groups.any fun g => g.team == t.tid && g.die == die && cores.contains g.core
  s.teams.filter fun t => t.onCores && named.any fun u => u.tid == t.tid || (u.launch == t.launch &&
    (launch? s t.launch).any fun l => l.pk.cosched)

/-- A team is removed as though dropped: no record is written, and what is outstanding is performed or not (R309, R313). -/
def removeTeam (s : State) (tid : Nat) : State := dropTeam (haltOps s tid true) tid

/-- A team is dropped and offered again (R313). -/
def dropAgain (s : State) (l : Launch) (t : Team) : State :=
  modLaunch (removeTeam s t.tid) l.lid fun l =>
    { l with redo := (teamIndex l t, s.now) :: l.redo }

/-- Whether nothing of a team is outstanding, nor a delivery to it by another team's `ldm` (R217, R224). -/
def quiet (s : State) (tid : Nat) : Bool :=
  countersZero s (groupsOf s tid) && !s.bulks.any fun b => b.dests.any fun d => d.1 == tid

/-- What a pre-emption does to a team, by the mode of its context (R312); one to be dropped stops until its counters are zero
(R217). -/
def preemptTeam (s : State) (t : Team) : State :=
  match launch? s t.launch with
  | none => s
  | some l => match ctx? s l.pasid with
    | none => s
    | some c => match c.mode with
      | .none => s
      | .discard =>
        if l.pk.flags / 8 % 2 = 1 then
          (if quiet s t.tid then dropAgain s l t
           else modTeam s t.tid fun t => { t with st := if t.st = .resident then .dropping else t.st })
        else s
      | .save => modTeam s t.tid fun t => { t with st := if t.st = .resident then .stopping else t.st }

/-- The guests that hold a context are asked to quiesce (R344, R357). -/
def askQuiesce (s : State) (pasid : Nat) : State :=
  s.guests.foldl (fun s g =>
    if g.up && !g.fenced && g.bound.contains pasid && !g.quiesce.any (fun e => e.1 == pasid) then
      emit (modGuest s g.socket fun g => { g with quiesce := g.quiesce ++ [(pasid, s.now)] }) (.guest g.socket [BitVec.ofNat 64 pasid])
    else s) s

/-- A request names cores of a die: the die kernel's for a context, a Pavane drain's for every one (R312). -/
def preempt (s : State) (die : Nat) (cores : List Nat) (ctx : Option Nat) : State :=
  let ts := affected s die cores ctx
  let ctxs := (ts.filterMap fun t => (launch? s t.launch).map fun l => l.pasid).dedup
  ctxs.foldl askQuiesce (ts.foldl preemptTeam s)

/-- PREEMPT_REQUEST (R312). -/
def execPreemptRequest (die : Nat) (cores : Cleared) (s : State) : Host.Outcome State Fault Refusal :=
  .next (preempt s die cores.cores cores.ctx)

/-! ### Saving -/

/-- Whether a matrix operation has not reached the boundary at which a pre-emption ends it: a step of `mloop`, else a row
(R249, R314). -/
def beforeBoundary (o : MatOp) : Bool :=
  o.aseg.isSome || match o.kind with
    | .mloop _ _ _ => decide (o.row ≠ 0)
    | _ => false

/-- A stream runs to the boundary, or, where a step cannot end, to its next row. -/
def stopStreamAt (s : State) (die core k : Nat) : State :=
  match engOf s die core k .clean with
  | none => s
  | some e => streamRun die core k e.o.num beforeBoundary .clean (66 * 70) s

/-- The streams of a team's bound core come to a stop. -/
def stopStreams (s : State) (t : Team) : State :=
  (s.cores.filter fun c => c.bind == some t.tid).foldl (fun s c => (List.range 4).foldl (fun s k => stopStreamAt s c.die c.core k) s) s

/-- A path as the image keeps it (R229, R314): `twait`, `racq`, `rrel` and an access parked on a page request are issued again, and so
is `wchg`, which then reads and ends with status 2. -/
def imagePath (p : Path) : Path :=
  match p.wait with
  | .twait _ _ _ _ _ | .racq _ _ _ _ _ _ | .rrel _ _ _ | .pri _ => { p with wait := .run }
  | .wchg _ _ _ _ _ _ _ _ => { p with wait := .run, cut := true }
  | _ => p

/-- A group as the image keeps it. -/
def imageGroup (g : Group) : Group := g.allPaths.foldl (fun g p => g.modPid p.pid imagePath) g

/-- The engine's part of the image of a team, by team core (R315). -/
def imageMatrix (s : State) (t : Team) : List (Nat × List (List MatOp)) × List (Nat × SMap W32) × List (Nat × List Nat) :=
  let held := t.cores.zipIdx.filterMap fun e => match core? s t.die e.1 with
    | some c => if c.bind = some t.tid then some (e.2, c) else none
    | none => none
  (held.map fun e => (e.1, (List.range 4).map fun k => (sget [] e.2.strm k).map fun o => { o with await := none }),
   held.map fun e => (e.1, e.2.tiles), held.map fun e => (e.1, e.2.tpois))

/-- Releasing what a saved team held: its groups, engines, requests, the walker's among them, and lines. -/
def clearSaved (s : State) (t : Team) (gs : List Nat) : State :=
  let s := (s.groups.filter fun g => g.isWalker && (walkOf s g).any fun m => gs.contains m.gid).foldl walkerDone s
  { s with groups := s.groups.filter fun g => g.team != t.tid,
           ats := s.ats.filter fun a => !(a.who.gid?.any fun g => gs.contains g), waiters := s.waiters.filter fun w => w.1 != t.tid,
           pris := orphanPris s gs,
           cores := s.cores.map fun c =>
             let mine := c.bind == some t.tid
             { c with bind := if mine then none else c.bind, tiles := if mine then [] else c.tiles, tpois := if mine then [] else c.tpois,
                      strm := if mine then [] else c.strm, missQ := c.missQ.filter fun m => !gs.contains m.gid,
                      walk := if c.walk.any (fun m => gs.contains m.gid) then none else c.walk,
                      lpr := c.lpr.filter fun e => !gs.contains e.1 } }

/-- Writing a team's image (R314, R315): a release at PKG scope (R209). -/
def saveTeam (s : State) (tid : Nat) : State :=
  match team? s tid with
  | none => s
  | some t =>
    if t.st = .dropping then (match launch? s t.launch with
      | some l => if quiet s tid then dropAgain s l t else s
      | none => s)
    else if t.st ≠ .stopping then s
    else
      let gs := groupsOf s tid
      if !quiet s tid then s
      else
        let s := releaseBy (stopStreams s t) t.die .pkg
        if !countersZero s gs || !(team? s tid).any (fun t => t.st == .stopping) then s
        else
          let (mat, tiles, tpois) := imageMatrix s t
          let image := (s.groups.filter fun g => g.team == tid).map imageGroup
          modTeam (clearSaved s t gs) tid fun t => { t with st := .saved t.die, since := s.now, image, mat, tiles, tpois }

/-- PREEMPT_SAVE (R313, R315): a team that has stopped is saved, or dropped. -/
def execPreemptSave (team : Nat) (s : State) : Host.Outcome State Fault Refusal := .next (saveTeam s team)

/-! ### Resumption -/

/-- Renumbering the handler frames of a group that comes back, lowest free numbers first (R306); none if too few are free. -/
def renumber (used : List Nat) : List Frame → Option (List Frame × List Nat)
  | [] => some ([], used)
  | f :: fs => match renumber used fs with
    | none => none
    | some (fs, used) =>
      let first := if fs = [] then 8 else 1
      match ((List.range 64).filter fun n => decide (first ≤ n) && !used.contains n).head? with
      | none => none
      | some n => some ({ f with num := n } :: fs, n :: used)

/-- A path that comes back: its rotation counts start again. -/
def comeBack (now : Nat) (p : Path) : Path := { p with slotAt := now, spinAt := now }

/-- Adding a group of an image on its new core (R316). -/
def restoreGroup (d d0 : Nat) (cores : List Nat) (s : Option State) (g : Group) : Option State :=
  s.bind fun s =>
    let c := nth cores g.tcore
    (renumber (framesUsed s d c) g.frames).map fun r =>
      let n := groupsOn s d c
      let g := { g with die := d, core := c, entry := freeEntry s d c, column := columnOf n, sector := sectorOf n g.width,
                        frames := r.1, gstat := if d = d0 then g.gstat else g.gstat ||| 4 }
      let g := g.allPaths.foldl (fun (g : Group) p => g.modPid p.pid (comeBack (clk s d))) g
      { s with groups := s.groups ++ [g] }

/-- The operations of a stream are numbered anew (R234). -/
def renumberOps (n : Nat) (l : List MatOp) : List MatOp := l.zipIdx.map fun e => { e.1 with num := n + 1 + e.2 }

/-- A core's engine is bound again, with its tiles and streams (R232, R234). -/
def restoreEngine (t : Team) (d : Nat) (cores : List Nat) (s : State) (e : Nat × List (List MatOp)) : State :=
  modCore s d (nth cores e.1) fun c =>
    let tiles := ((t.tiles.find? fun x => x.1 == e.1).map fun x => x.2).getD []
    let bad := ((t.tpois.find? fun x => x.1 == e.1).map fun x => x.2).getD []
    let c := { c with bind := some t.tid, tiles, tpois := bad, strm := [] }
    e.2.zipIdx.foldl (fun (c : Core) x =>
      { c with strm := sset [] c.strm x.2 (renumberOps (sget 0 c.count x.2) x.1),
               count := sset 0 c.count x.2 (sget 0 c.count x.2 + x.1.length) }) c

/-- Restoring an image (R316): an acquire at PKG scope (R209). -/
def resumeOn (s : State) (t : Team) (d0 d : Nat) (cores : List Nat) : Option State :=
  (t.image.foldl (restoreGroup d d0 cores) (some s)).map fun s =>
    let s := t.mat.foldl (restoreEngine t d cores) s
    let s := modTeam s t.tid fun t => { t with die := d, cores, st := .resident, image := [], mat := [], tiles := [], tpois := [] }
    cores.foldl (fun s c => acquireAt s d c .pkg) s

/-- A saved team comes back, if it may (R261, R262, R316). -/
def resumeTeam (s : State) (tid d : Nat) (cores : List Nat) : Option State :=
  (team? s tid).bind fun t => match t.st, launch? s t.launch with
    | .saved d0, some l =>
      if placeOk s l d cores && enginesFree s t d cores && !keptOff s l (teamIndex l t) d then resumeOn s t d0 d cores else none
    | _, _ => none

/-- Whether a request to resume names what comes back at once: one team, or every team of a COSCHED grid, all of them saved (R29). -/
def resumeWhole (s : State) (tid : Nat) (others : List Nat) : Bool :=
  match (team? s tid).bind fun t => (launch? s t.launch) with
  | none => false
  | some l =>
    if l.pk.cosched then
      !leaving s l && ((savedTeams s l).filter fun t => t.tid != tid).all (fun t => others.contains t.tid) &&
        others.all fun o => (team? s o).any fun t => t.launch == l.lid
    else others.isEmpty

/-- TEAM_RESUME (R29, R316): all that it names comes back, or nothing. -/
def execTeamResume (team die : Nat) (cores : Seats) (s : State) : Host.Outcome State Fault Refusal :=
  .next (if resumeWhole s team (cores.rest.map fun e => e.1) then
    (cores.rest.foldl (fun r e => r.bind fun s => resumeTeam s e.1 e.2.1 e.2.2) (resumeTeam s team die cores.cores)).getD s else s)

end Sys2Proof.Machine
end

