-- ==== Sys2Proof/Machine/Quadrille.lean ====
section
/-! DEFINITION. Quadrille and the die kernels: messages and their effects at each die (R346 to R348), replicas and shoot-down
(R294, R298 to R300), first touch by the owner's die kernel (R295), the loss of a die (R327 to R329), circuits and routes
(R350 to R353). -/
namespace Sys2Proof.Machine

/-! ### The next message of a die -/

/-- KIND of a message (R348). -/
def msgKind (m : List W64) : Nat := (word m 0).toNat % 256
/-- Bits [15:8] of word 0: level, phase or index (R348). -/
def msgByte (m : List W64) : Nat := (word m 0).toNat / 2 ^ 8 % 256
/-- Bits [35:16] of word 0: a PASID (R348). -/
def msgPasid (m : List W64) : Nat := (word m 0).toNat / 2 ^ 16 % 2 ^ 20
/-- Bits [39:36] of word 0: a die (R348). -/
def msgDie (m : List W64) : Nat := (word m 0).toNat / 2 ^ 36 % 16

/-- Word 0 of a message (R348). -/
def msgHead (kind byte pasid die : Nat) : W64 := BitVec.ofNat 64 (kind + byte * 2 ^ 8 + pasid % 2 ^ 20 * 2 ^ 16 + die % 16 * 2 ^ 36)

/-- Whether a message stands after the DIE_DOWN of its sender, and so is discarded (R347). -/
def discarded (s : State) (i sender : Nat) : Bool :=
  (s.quad.take i).any fun m => msgKind m.2 == 6 && msgDie m.2 == sender

/-- The next message that a die is to take, with its place in the order and its sender: none from its own DIE_DOWN on (R347). -/
def nextMsg (s : State) (die : Nat) : Option (Nat × Nat × List W64) :=
  match die? s die with
  | none => none
  | some d =>
    if d.lost || (s.quad.take (d.qpos + 1)).any (fun m => msgKind m.2 == 6 && msgDie m.2 == die) then none
    else (s.quad[d.qpos]?).map fun m => (d.qpos, m.1, m.2)

/-- Taking the next message of one of some kinds: it is an acquire at PKG scope of its sender's release (R346). -/
def takeMsg (s : State) (die : Nat) (ok : Nat → Bool) (f : State → Nat → Nat → List W64 → State) : State :=
  match nextMsg s die with
  | none => s
  | some (i, from', m) =>
    if !ok (msgKind m) then s
    else
      let taken := acquirePkg (modDie s die fun d => { d with qpos := i + 1 }) die
      if discarded s i from' then taken else f taken i from' m

/-- A message that a die kernel sends waits for room in the rings (R346): an event that finds none changes nothing. -/
def sendOr (s0 : State) (r : Option State) : State := r.getD s0

/-! ### Replicas -/

/-- A fresh table frame of a die's handler region (log entry 10). -/
def newTable (s : State) (die : Nat) : Nat × State :=
  match die? s die with
  | some d => (fabAddr die (0x1F00000000 + 4096 * d.tables), modDie s die fun d => { d with tables := d.tables + 1 })
  | none => (0, s)

/-- Writing an 8-byte table entry. -/
def putPte (s : State) (a : Nat) (e : W64) : State := { s with mem := ssetN 0 s.mem a (toBytes 8 e.toNat) }

/-- Writing an entry at a level of a die's tables: a missing table on the way is made (R298; log entry 10). -/
def writeEntry (die va : Nat) (e : W64) (level : Nat) : List Nat → Nat → State → State
  | [], _, s => s
  | lvl :: lower, table, s =>
    let ea := table + 8 * (va / levelBytes lvl % 512)
    if lvl ≤ level then putPte s ea e
    else
      let old := pte s ea
      if old.getLsbD 0 && !old.getLsbD 1 then writeEntry die va e level lower (pfnAddr old) s
      else
        let (t, s) := newTable s die
        writeEntry die va e level lower t (putPte s ea (BitVec.ofNat 64 (t + 1)))

/-- Writing a mapping into a die's replica (R298). -/
def writeReplica (s : State) (die pasid level : Nat) (va e : W64) : State :=
  writeEntry die (va.toNat % 2 ^ 57) e level levels (rootOf s die pasid va) s

/-! ### Shoot-down -/

/-- Guests that hold a context and take part in its shoot-down (R299, R357). -/
def holders (s : State) (pasid : Nat) : List Nat :=
  (s.guests.filter fun g => g.up && !g.fenced && g.bound.contains pasid).map fun g => g.socket

/-- A guest is told of a phase and has 10 µs to acknowledge it (R299). -/
def tellGuest (id : Nat) (words : List W64) (s : State) (socket : Nat) : State :=
  emit (modGuest s socket fun g => { g with waits := g.waits ++ [(id, s.now)] }) (.guest socket words)

/-- The message of a phase (R348). -/
def shootMsg (h : Shoot) : List W64 := msg8 (msgHead h.phase 0 h.pasid 0) h.va h.len (BitVec.ofNat 64 h.id)

/-- A shoot-down begins at its first PREPARE: the guests that hold the context are told too (R299). -/
def openShootDown (s : State) (h : Shoot) : State :=
  if s.shoots.any fun x => x.id == h.id then s
  else (holders s h.pasid).foldl (tellGuest h.id (shootMsg h)) { s with shoots := s.shoots ++ [h] }

/-- A die kernel starts a shoot-down (R299); none while the rings are full. -/
def startShoot (s : State) (die pasid : Nat) (va len : W64) (ats : Option Nat) : Option (Nat × State) :=
  let (id, s) := fresh s
  let h : Shoot := { id, pasid, va, len, phase := 2, sender := die, done := [], acks := [], gacks := [], since := s.now, fromAts := ats }
  (quadSend s die (shootMsg h)).map fun s => (id, openShootDown s h)

/-- Changing a shoot-down. -/
def modShoot (s : State) (id : Nat) (f : Shoot → Shoot) : State := { s with shoots := modWhere s.shoots (fun h => h.id == id) f }

/-- Whether every die in service, as the sender knows it, and every guest that holds the context has acknowledged a phase (R299). -/
def phaseAcked (s : State) (h : Shoot) : Bool :=
  (s.dies.all fun d => knownLost s h.sender d.die || h.acks.contains d.die) && (holders s h.pasid).all fun g => h.gacks.contains g

/-- Quarantine begins: TEAR completes with its interrupt, whatever the IRQ flag holds (R344). -/
def tearEnds (s : State) (t : Tear) : State :=
  let s := { s with tears := s.tears.filter fun x => x.pasid != t.pasid, quarantine := s.quarantine ++ [(t.pasid, s.now)] }
  if t.seq = 0 then s
  else
    let s := threadEvent (modPacket s t.die t.qid t.seq fun p => { p with closed := true, done := true }) t.die t.qid 1
    irqQueue (settleQueue s t.die t.qid) t.die t.qid (BitVec.ofNat 64 t.seq)

/-- A complete shoot-down: an ATS Invalidation Request gets its completion, a teardown goes on (R294, R344). -/
def shootEnds (s : State) (h : Shoot) : State :=
  let s := { s with shoots := s.shoots.filter fun x => x.id != h.id }
  let s := match h.fromAts with
    | some p => emit s (.invalidationCompletion p)
    | none => s
  match s.tears.find? fun t => t.step == 4 && t.shoot == h.id with
  | some t => tearEnds s t
  | none => s

/-- The phase of a shoot-down completes once every participant has acknowledged (R299). -/
def shootCheck (s : State) (id : Nat) : State :=
  match s.shoots.find? fun h => h.id == id with
  | none => s
  | some h =>
    if !phaseAcked s h then s
    else if h.phase = 2 then
      let h := { h with phase := 3, done := [], acks := [], gacks := [] }
      sendOr s ((quadSend s h.sender (shootMsg h)).map fun s =>
        (holders s h.pasid).foldl (tellGuest id (shootMsg h)) (modShoot s id fun _ => h))
    else shootEnds s h

/-- Every shoot-down whose phase may complete. -/
def checkShoots (s : State) : State := (s.shoots.map fun h => h.id).foldl shootCheck s

/-- Changing every translation that a die caches (R292). -/
def mapTlbs (s : State) (die : Nat) (f : Tlb → Option Tlb) : State :=
  let s := modDie s die fun d => { d with cache := d.cache.filterMap f }
  { s with cores := modWhere s.cores (fun c => c.die == die) fun c =>
      { c with tlb := c.tlb.filterMap f, lpr := c.lpr.filterMap fun e => (f e.2.2).map fun t => (e.1, e.2.1, t) } }

/-- Every translation that a die caches. -/
def allTlbs (s : State) (die : Nat) : List Tlb :=
  ((die? s die).toList.flatMap fun d => d.cache) ++
  (s.cores.filter fun c => c.die == die).flatMap fun c => c.tlb ++ c.lpr.map fun e => e.2.2

/-- An acknowledgement (R348). -/
def ackMsg (die phase id : Nat) : List W64 := msg8 (msgHead 4 phase 0 die) 0 0 (BitVec.ofNat 64 id)

/-- PREPARE at a die: the held entries are written, the matching translations are marked, and the die acknowledges (R299). -/
def prepareAt (s : State) (die sender : Nat) (m : List W64) : State :=
  let id := (word m 3).toNat
  let pasid := msgPasid m
  let s := openShootDown s { id, pasid, va := word m 1, len := word m 2, phase := 2, sender, done := [], acks := [], gacks := [],
                             since := s.now, fromAts := none }
  let held := ((die? s die).toList.flatMap fun d => d.held).filter fun e => e.1 == id
  let s := held.foldl (fun s e => writeReplica s die e.2.1 e.2.2.1 e.2.2.2.1 e.2.2.2.2) s
  let s := modDie s die fun d => { d with held := d.held.filter fun e => e.1 != id }
  let s := mapTlbs s die fun t => some (if inShoot pasid (word m 1) (word m 2) t then { t with marks := (id :: t.marks).dedup } else t)
  modShoot s id fun h => { h with done := die :: h.done }

/-- A path of a context that waits on a place which removed translations gave issues its word again, under the new ones (R299, R300; log
entry 62). -/
def endWatch (pasid : Nat) (gone : List Tlb) (p : Path) : Path :=
  if gone.any fun t => watchUses pasid t p.wait then { p with wait := .run } else p

/-- The waits of a group's paths. -/
def endWatches (pasid : Group → Nat) (gone : List Tlb) (g : Group) : Group :=
  g.allPaths.foldl (fun (g : Group) p => g.modPid p.pid (endWatch (pasid g) gone)) g

/-- COMMIT at a die: the marked translations go once no access that used one is still to be performed, and the die
acknowledges (R299, R300). -/
def commitAt (s : State) (die id : Nat) : State :=
  let gone := (allTlbs s die).filter fun t => t.marks.contains id
  let s := { s with groups := modWhere s.groups (fun g => g.die == die) (endWatches (fun g => groupPasid s g) gone),
                    qthreads := modWhere s.qthreads (fun t => t.die == die) fun t => { t with path := t.path.map (endWatch t.pasid gone) },
                    copies := modWhere s.copies (fun c => c.die == die) fun c => { c with prog := c.prog.map (endWatch c.pasid gone) } }
  modShoot (mapTlbs s die fun t => if t.marks.contains id then none else some t) id fun h => { h with done := die :: h.done }

/-- PREPARE and its acknowledgement, if there is room for it. -/
def prepareMsg (die : Nat) (s : State) : State :=
  takeMsg s die (fun k => k == 2) fun s' _ from' m =>
    sendOr s (quadSend (prepareAt s' die from' m) die (ackMsg die 2 (word m 3).toNat))

/-- COMMIT and its acknowledgement. -/
def commitMsg (die : Nat) (s : State) : State :=
  takeMsg s die (fun k => k == 3) fun s' _ _ m =>
    let id := (word m 3).toNat
    if entryInUse s' die none (fun t => t.marks.contains id) (allTlbs s' die) then s
    else sendOr s (quadSend (commitAt s' die id) die (ackMsg die 3 id))

/-- PREPARE (R299). -/
def execPrepare (die : Nat) (s : State) : Host.Outcome State Fault Refusal := .next (prepareMsg die s)
/-- COMMIT (R299). -/
def execCommit (die : Nat) (s : State) : Host.Outcome State Fault Refusal := .next (commitMsg die s)

/-- ACK (R348): the die that runs the shoot-down counts it. -/
def execAck (die : Nat) (s : State) : Host.Outcome State Fault Refusal :=
  .next (takeMsg s die (fun k => k == 4) fun s _ _ m =>
    let id := (word m 3).toNat
    shootCheck (modShoot s id fun h =>
      if h.sender = die ∧ h.phase = msgByte m then { h with acks := (msgDie m :: h.acks).dedup } else h) id)

/-- MAP (R348): with id 0 the entry is written at once, else it is held for PREPARE. -/
def execMap (die : Nat) (s : State) : Host.Outcome State Fault Refusal :=
  .next (takeMsg s die (fun k => k == 1) fun s _ _ m =>
    let id := (word m 3).toNat
    if id = 0 then
      modDie (writeReplica s die (msgPasid m) (msgByte m) (word m 1) (word m 2)) die fun d =>
        { d with given := d.given.filter fun p => p != (msgPasid m, (word m 1).toNat / levelBytes (msgByte m)) }
    else modDie s die fun d => { d with held := d.held ++ [(id, msgPasid m, msgByte m, word m 1, word m 2)] })

/-- ATS_INVALIDATION_REQUEST (R294): a shoot-down of its range, which the die kernel owes while the rings are full (R346). -/
def execAtsInvalidationRequest (pasid : Nat) (va len : W64) (s : State) : Host.Outcome State Fault Refusal :=
  .next (let die := (fnDie s (fnOf s pasid)).getD 0
         match startShoot s die pasid va len (some pasid) with
         | some r => r.2
         | none => modDie s die fun x => { x with owed := x.owed ++ [(pasid, va, len, some pasid)] })

/-! ### First touch -/

/-- The leaf that the owner's die kernel announces: the frame, GRN and CCL of the entry, and a readable, writable user page
(log entry 10). -/
def firstLeaf (e : W64) (frame : Nat) : W64 :=
  BitVec.ofNat 64 frame ||| (e &&& 0x0700000000000300#64) ||| 0x17#64

/-- A frame of a pool class, taken as `pgrab` takes it (R295, R297), through the die's handler region. -/
def poolTake (s : State) (die cls : Nat) : Option (Nat × State) :=
  let base := (match die? s die with | some d => d.poolbase | none => 0) + BitVec.ofNat 64 (64 * cls)
  let k := { devKind s 0 true 8 with user := false, secure := true }
  let rd := fun (va : W64) (n : Nat) => match agentRead s die 0 va n k with
    | .ok (b, _) => some (ofBytes (b.map fun e => e.1))
    | .error _ => none
  match rd base 8, rd (base + 8) 8, rd (base + 16) 8, rd (base + 24) 4 with
  | some head, some tail, some ring, some n =>
    if head = tail then none
    else match rd (BitVec.ofNat 64 (ring + 8 * (head % n))) 8, agentWrite s die 0 base (cleanBytes (toBytes 8 (head + 1))) k with
      | some f, .ok s => some (f, s)
      | _, _ => none
  | _, _, _, _ => none

/-- A request for a frame at the owner die (R295): a frame of the entry's class, announced with MAP; nothing for a page that is mapped, or
announced already; none while the class is empty or a ring is full. -/
def allocPage (s : State) (die pasid : Nat) (va : W64) : Option State :=
  match walkFrom s (va.toNat % 2 ^ 57) levels (rootOf s die pasid va) with
  | .absent lvl _ e =>
    let page := (pasid, va.toNat / levelBytes lvl)
    if e.getLsbD 1 && !e.getLsbD 2 && decide (lvl < 3) && (e.extractLsb' 3 4).toNat == die &&
        !(die? s die).any fun d => d.given.contains page then
      (poolTake s die (5 * (2 * lvl) + (e.extractLsb' 56 3).toNat)).bind fun (r : Nat × State) =>
        (quadSend r.2 die (msg8 (msgHead 1 lvl pasid 0) va (firstLeaf e r.1) 0)).map fun s =>
          modDie s die fun d => { d with given := page :: d.given }
    else some s
  | _ => some s

/-- A request that cannot be served yet waits at the owner (R295). -/
def allocAt (s : State) (die pasid : Nat) (va : W64) : State :=
  (allocPage s die pasid va).getD (modDie s die fun d => { d with allocs := d.allocs ++ [(pasid, va)] })

/-- The requests for frames that wait at a die are tried again, in their order (R295). -/
def payAllocs (s : State) (die : Nat) : State :=
  ((die? s die).toList.flatMap fun d => d.allocs).foldl (fun s r => match allocPage s die r.1 r.2 with
    | some s => modDie s die fun d => { d with allocs := d.allocs.erase r }
    | none => s) s

/-- ALLOC (R295). -/
def execAlloc (die : Nat) (s : State) : Host.Outcome State Fault Refusal :=
  .next (takeMsg s die (fun k => k == 5) fun s _ _ m => allocAt s die (msgPasid m) (word m 1))

/-! ### The loss of a die -/

/-- Whether a survivor moves a die's replicated pages to its neighbour (R328): not when that is lost too. -/
def mirrorUp (s : State) (die d : Nat) : Bool := !knownLost s die (Nat.xor d 1)

/-- The replicated pages' outstanding accesses go to the new home, if there is one (R328). -/
def rehomePlace (d : Nat) (up : Bool) (p : Place) : Place :=
  match p with
  | .fab x mt ccl g true => if fabDie x = d && up then .fab (mirrorOf x) mt ccl g false else p
  | _ => p

/-- An access of an outstanding operation at its page's new home (R328). -/
def rehome (d : Nat) (up : Bool) (a : Acc) : Acc := { a with place := rehomePlace d up a.place }

/-- A die's queue is mapped to a survivor, where it receives DIE_LOST and halts (R329); none takes it where the number is in
use. -/
def moveQueue (to' : Nat) (s : State) (q : Queue) : State :=
  let gone := { s with queues := s.queues.filter fun x => !(x.die == q.die && x.qid == q.qid) }
  if (queue? s to' q.qid).isSome then gone
  else
    let s := { gone with queues := gone.queues ++ [{ q with die := to', bound := none, halted := true }],
                         launches := modWhere gone.launches (fun l => l.die == q.die && l.qid == q.qid) fun l => { l with die := to' } }
    queueRecord s to' q.qid 0x36 0 0 0

/-- The teams of a lost die end with it, and the grids they belong to do not complete (R311, R327, R329). -/
def loseTeam (d : Nat) (s : State) (t : Team) : State :=
  modLaunch (dropTeam s t.tid) t.launch fun l => { l with faulted := true, lostOn := (d :: l.lostOn).dedup }

/-- The queues of a survivor that own a grid with a team on a lost die receive DIE_LOST, one record each, and halt (R329). -/
def lostGrids (s : State) (die d : Nat) : State :=
  let own := s.launches.filter fun l => l.die == die && l.lostOn.contains d
  ((own.map fun l => l.qid).dedup).foldl (fun s q =>
    let seq := ((own.find? fun l => l.qid == q).map fun l => l.seq).getD 0
    if (queue? s die q).isSome then haltQueue (queueRecord s die q 0x36 seq 0 0) die q else s) s

/-- Dirty remote lines of a lost home: those of replicated pages are written to the new home, the others are discarded
(R328). -/
def loseLine (d : Nat) (up : Bool) (s : State) (l : Line) : State :=
  if fabDie l.addr = d ∧ l.repl ∧ up then writeBackLine s { l with addr := mirrorOf l.addr, repl := false } else s

/-- Lines under a lease that a lost die held get the value they had before it, the mirror's too (R178, R328). -/
def loseLease (s : State) (l : Lease) : State :=
  let s := { s with mem := ssetN 0 s.mem l.line l.old }
  if l.repl && dieUp s (fabDie (mirrorOf l.line)) then { s with mem := ssetN 0 s.mem (mirrorOf l.line) l.old } else s

/-- A path that waits on a lost die goes on, and its instruction meets HOME_LOST or the page's new home (R328, R329). -/
def wakeLost (d : Nat) (p : Path) : Path :=
  match p.wait with
  | .twait x _ _ _ _ => if x = d then { p with wait := .run } else p
  | .wchg pl _ _ _ _ _ _ _ => if pl.home = some d then { p with wait := .run } else p
  | _ => p

/-- What ends with a die when it is lost: its teams, programs, copy work, timelines, remote lines and leases (R178, R327). -/
def stopDie (s : State) (d : Nat) : State :=
  let s := (s.teams.filter fun t => t.die == d && t.onCores).foldl (loseTeam d) s
  { s with ops := s.ops.filter fun o => (placeOf s o.who).1 != d,
           groups := s.groups.filter fun g => g.die != d,
           remote := s.remote.filter fun l => l.die != d,
           l1 := s.l1.filter fun l => l.die != d,
           leases := s.leases.filter fun l => fabDie l.line != d && !(l.die == d && !dieUp s (fabDie l.line)),
           qthreads := modWhere s.qthreads (fun q => q.die == d) (fun q => QThread.reset q.die q.t),
           copies := modWhere s.copies (fun c => c.die == d) (fun c => CopyCtx.reset c.die c.k),
           ats := s.ats.filter fun a => a.die != d,
           tl := sclear (tlKey d 0) 4096 s.tl, tldisc := sclear (tlKey d 0) 4096 s.tldisc,
           guests := modWhere s.guests (fun g => (if g.socket = 0 then 3 else 8) == d) (fun g => { g with up := false }),
           dies := modWhere s.dies (fun x => x.die == d) fun x => { x with lost := true } }

/-- The survivor that takes over a lost die's queues: its neighbour, or the first in service (R329; log entry 63). -/
def heirOf (s : State) (die d : Nat) : Nat :=
  if mirrorUp s die d then Nat.xor d 1 else ((List.range Config.dies).find? fun x => !knownLost s die x).getD 0

/-- An atomic performed under a lease of a lost home, and not acknowledged: on a replicated page it stands at the new home, on another it
meets HOME_LOST (R328, R329). -/
def loseAtomic (s : State) (d : Nat) (up : Bool) (o : MemOp) : State :=
  match o.leased.find? fun l => fabDie l.1 == d && !(l.2.2 && up) with
  | none => s
  | some l =>
    let t : Trap := { cause := .homeLost, va := l.2.1, aux := 1 }
    match o.who with
    | .grp gid _ => noteLate s gid o.pid o.pc t
    | _ => raiseOp s o t

/-- What a survivor's own agents, lines and leases see of a loss when it acts on it (R178, R328, R329). -/
def actOnLoss (s : State) (die d : Nat) : State :=
  let s := modDie s die fun x => { x with down := (d :: x.down).dedup }
  let up := mirrorUp s die d
  let near := fun (e : Issuer) => (placeOf s e).1 == die
  let back := s.leases.filter fun l => l.die == d && fabDie l.line == die
  let lines := s.remote.filter fun l => l.die == die && fabDie l.addr == d
  let s := { back.foldl loseLease s with leases := s.leases.filter fun l => !back.contains l }
  let s := lines.foldl (loseLine d up) s
  let s := (s.ops.filter fun o => near o.who).foldl (fun s o => loseAtomic s d up o) s
  { s with remote := s.remote.filter fun l => !(l.die == die && fabDie l.addr == d),
           l1 := s.l1.filter fun l => !(l.die == die && fabDie l.addr == d),
           ops := s.ops.map fun o =>
             if near o.who then { o with todo := o.todo.map (rehome d up), leased := o.leased.filter fun l => fabDie l.1 != d } else o,
           bulks := s.bulks.map fun b =>
             if near (.grp b.gid 0) then { b with src := b.src.map fun p => { p with place := rehomePlace d up p.place } } else b,
           groups := modWhere s.groups (fun g => g.die == die) fun g =>
             g.allPaths.foldl (fun g p => g.modPid p.pid (wakeLost d)) g,
           qthreads := modWhere s.qthreads (fun q => q.die == die) fun q => { q with path := q.path.map (wakeLost d) },
           copies := modWhere s.copies (fun c => c.die == die) fun c => { c with prog := c.prog.map (wakeLost d) },
           shoots := if heirOf s die d = die then modWhere s.shoots (fun h => h.sender == d) fun h => { h with sender := die } else s.shoots }

/-- An entry after the loss of a die: a REPL leaf of this module homed there names the new home (R328). -/
def rehomeEntry (modid d : Nat) (e : W64) : W64 :=
  let a := pfnAddr e
  if e.getLsbD 63 && e.extractLsb' 59 2 == 0#2 && fabMod a == modid && fabDie a == d && regionOf (fabOff a) == .hbm then
    (e &&& ~~~ BitVec.ofNat 64 (2 ^ 63)) ^^^ BitVec.ofNat 64 (2 ^ 39)
  else e

/-- The canonical address of 57 bits (R155). -/
def canon57 (va : Nat) : W64 := (BitVec.ofNat 57 va).signExtend 64

/-- Rewriting the REPL leaves of a table and the tables below it, with the ranges that they translate (R328). -/
def rehomeTable (d : Nat) : List Nat → Nat → Nat → State × List (W64 × W64) → State × List (W64 × W64)
  | [], _, _, r => r
  | lvl :: lower, table, base, r => (List.range 512).foldl (fun r i =>
      let a := table + 8 * i
      let e := pte r.1 a
      let va := base + i * levelBytes lvl
      if !e.getLsbD 0 then r
      else if e.getLsbD 1 then
        let e' := rehomeEntry r.1.modid.toNat d e
        if e' = e then r else (putPte r.1 a e', r.2 ++ [(canon57 va, BitVec.ofNat 64 (levelBytes lvl))])
      else rehomeTable d lower (pfnAddr e) va r) r

/-- A survivor rewrites its replicas and owes a shoot-down of every leaf it changed (R328). -/
def rehomeReplicas (s : State) (die d : Nat) : State :=
  let roots := (die? s die).toList.flatMap fun x => (0, x.hroot.toNat) :: x.ptbase.map fun e => (e.1, e.2.toNat)
  roots.foldl (fun s r =>
    let (s, l) := rehomeTable d levels r.2 0 (s, [])
    modDie s die fun x => { x with owed := x.owed ++ l.map fun e => (r.1, e.1, e.2, none) }) s

/-- The shoot-downs that a die kernel owes start as long as the rings take their messages (R328, R346). -/
def payShoots (s : State) (die : Nat) : State :=
  ((die? s die).toList.flatMap fun x => x.owed).foldl (fun s e =>
    match startShoot s die e.1 e.2.1 e.2.2.1 e.2.2.2 with
    | some r => modDie r.2 die fun x => { x with owed := x.owed.erase e }
    | none => s) s

/-- What waited for a home that no longer answers goes on: the ends of grids and the completions of packets (R327, R366). -/
def settleLost (s : State) : State := settleAll ((s.launches.map fun l => l.lid).foldl gridEnd s)

/-- A survivor acts on DIE_DOWN (R327 to R329): its accesses, lines and waits, its queues and those it takes over, its replicas, and
the record of the event; a message that repeats one changes nothing. -/
def dieDownAt (s : State) (die i d : Nat) : State :=
  if knownLost s die d then s
  else
    let s := lostGrids (actOnLoss (if dieUp s d then stopDie s d else s) die d) die d
    let s := if heirOf s die d = die then (s.queues.filter fun q => q.die == d).foldl (moveQueue die) s else s
    let s := if mirrorUp s die d then rehomeReplicas s die d else s
    settleLost (checkShoots (payShoots (finishOps (finishBulks (logFlight s die 0x30 7 0 d i))) die))

/-- DIE_DOWN (R327, R328). -/
def execDieDown (die : Nat) (s : State) : Host.Outcome State Fault Refusal :=
  .next (takeMsg s die (fun k => k == 6) fun s i _ m => if msgDie m = die then s else dieDownAt s die i (msgDie m))

/-- A DIE_DOWN message (R348). -/
def downMsg (d : Nat) : List W64 := msg8 (msgHead 6 0 0 d) 0 0 0

/-- A die is declared lost, and stops at once: it takes no message at or after its DIE_DOWN (R327, R347). While the rings are full the
message is kept (R346). -/
def declareLost (s : State) (sender d : Nat) : State := quadKeep (stopDie s d) sender (downMsg d)

/-- What a die kernel has to tell Quadrille is sent as long as the rings take it, oldest first (R346). -/
def sendUnsent (s : State) (die : Nat) : State :=
  ((die? s die).toList.flatMap fun x => x.unsent).foldl (fun s m =>
    match quadSend s die m with
    | some t => modDie t die fun x => { x with unsent := x.unsent.drop 1 }
    | none => s) s

/-- DIE_FATAL_ERROR (R327): the die reports it to Quadrille. -/
def execDieFatalError (die : Nat) (s : State) : Host.Outcome State Fault Refusal :=
  .next (if dieUp s die then declareLost s die die else s)

/-- HEARTBEAT (R347): the sender is alive. -/
def execHeartbeat (die : Nat) (s : State) : Host.Outcome State Fault Refusal :=
  .next (takeMsg s die (fun k => k == 7) fun s _ _ m => modDie s die fun d => { d with beats := sset 0 d.beats (msgDie m) s.now })

/-- HEARTBEAT_SEND (R347): 1 ms after the one before. -/
def execHeartbeatSend (die : Nat) (s : State) : Host.Outcome State Fault Refusal :=
  .next (match die? s die with
    | none => s
    | some d =>
      if d.lost || decide (s.now < sget 0 d.beats (16 + die) + 1000 * Config.usCycles) then s
      else sendOr s ((quadSend s die (msg8 (msgHead 7 0 0 die) 0 0 0)).map fun s =>
        modDie s die fun d => { d with beats := sset 0 d.beats (16 + die) s.now }))

/-- HEARTBEAT_TIMEOUT (R347): a die from which none has arrived for 10 ms is declared lost. -/
def execHeartbeatTimeout (die silent : Nat) (s : State) : Host.Outcome State Fault Refusal :=
  .next (match die? s die with
    | none => s
    | some d =>
      if d.lost || die == silent || !dieUp s silent || decide (s.now < sget 0 d.beats silent + 10000 * Config.usCycles) then s
      else declareLost s die silent)

/-! ### Circuits and routes -/

/-- Whether a pair of dies has a route: a circuit, or a relay in service (R326, R352). -/
def routed (s : State) (t : SMap W64) (a b : Nat) : Bool :=
  hasCircuit t a b || t.any fun e => joins a b e.2 && dieUp s (connRelay e.2) && hasCircuit t a (connRelay e.2) && hasCircuit t (connRelay e.2) b

/-- Whether a pair keeps a circuit or a valid relay (R352). -/
def connected (s : State) (die : Nat) (t : SMap W64) (a b : Nat) : Bool :=
  hasCircuit t a b || t.any fun e => joins a b e.2 && !knownLost s die (connRelay e.2) && decide (connRelay e.2 < Config.dies) && hasCircuit t a (connRelay e.2) && hasCircuit t (connRelay e.2) b

/-- The four conditions on a table (R352), with the dies in service at the die's place in the order. -/
def connOk (s : State) (die : Nat) (t : SMap W64) : Bool :=
  let live := connLive t
  ((List.range Config.dies).all fun d => decide (((live.filter (endsOn d)).map connWaves).sum ≤ 40)) &&
  (live.zipIdx.all fun a => live.zipIdx.all fun b =>
    a.2 == b.2 || a.1.extractLsb' 40 8 != b.1.extractLsb' 40 8 || (a.1 &&& b.1 &&& 0xFFFFFFFF#64) == 0) &&
  ((List.range 64).all fun p => (live.filter fun e => connOpt e && connDst e == p).length == 1) &&
  diePairs.all fun p => knownLost s die p.1 || knownLost s die p.2 || connected s die t p.1 p.2

/-- CONN (R352): the entry is written if the resulting table keeps the limits. -/
def execConn (die : Nat) (s : State) : Host.Outcome State Fault Refusal :=
  .next (takeMsg s die (fun k => k == 8) fun s _ _ m =>
    match die? s die with
    | none => s
    | some d =>
      let t := sset 0 d.conn (msgByte m) (word m 1 &&& ~~~ 0xFF00000000#64)
      if connOk s die t then modDie s die fun d => { d with conn := t } else s)

/-- ROUTE (R353). -/
def execRoute (die : Nat) (s : State) : Host.Outcome State Fault Refusal :=
  .next (takeMsg s die (fun k => k == 9) fun s _ _ m =>
    modDie s die fun d => { d with routes := sset 0 d.routes ((word m 1).toNat % 8192) (word m 2) })

/-- DIE_KERNEL_MESSAGE (R348): the die kernels define the kinds from 0x80, and an unnamed kind below is ignored; the state
that the spec gives does not change. -/
def execDieKernelMessage (die : Nat) (s : State) : Host.Outcome State Fault Refusal :=
  .next (takeMsg s die (fun k => k == 0 || decide (9 < k)) fun s _ _ _ => s)

end Sys2Proof.Machine
end

