-- ==== Sys2Proof/Machine/HostEvents.lean ====
section
/-! DEFINITION. What software on the host and the die kernels does to queues, contexts and device registers (R255 to R258, R268
to R273, R333 to R344, R356), and what reaches device memory through the host ports and the supervisor cores (R176, R198). -/
namespace Sys2Proof.Machine

/-- What a read gave goes to its reader, with its poison (R183). -/
def answerRead (s : State) (b : List PByte) : State := emit s (.readData (b.map fun e => e.1) (b.any fun e => e.2))

/-! ### Device registers -/

/-- KICK (R255, R340). -/
def execKick (die qid : Nat) (v : W64) (s : State) : Host.Outcome State Fault Refusal := .next (kickQueue s die qid v.toNat)
/-- SUSPACK (R322, R340). -/
def execSuspack (die qid : Nat) (v : W64) (s : State) : Host.Outcome State Fault Refusal := .next (suspack s die qid v.toNat)

/-- MBPOP (R337): the value goes to its reader. -/
def execMbpop (die : Nat) (s : State) : Host.Outcome State Fault Refusal :=
  .next (let (v, s) := devRead s die 0x6000000100
         answerRead s (cleanBytes (toBytes 8 v.toNat)))

/-- MINIMAL_CLEAR (R362). -/
def execMinimalClear (s : State) : Host.Outcome State Fault Refusal := .next (clearMinimalBit s)

/-- DEVICE_REGISTER_WRITE (R6, R336): blocks of b64 registers take no other size. -/
def execDeviceRegisterWrite (die off : Nat) (wide : Bool) (v : W64) (s : State) : Host.Outcome State Fault Refusal :=
  .next (if devSizeOk off (if wide then 8 else 4) then devWrite s die off wide v else s)

/-! ### Queues -/

/-- Whether a context's program could write a word (R338), in whichever world the queue will be served (R358). -/
def writableVa (s : State) (die pasid : Nat) (va : W64) : Bool :=
  match agentPlace s die pasid va { devKind s pasid true 8 with secure := true } with
  | .ok _ => true
  | .error _ => false

/-- Whether an address is a timeline of a context, of this module or another (R177, R338). -/
def timelineVa (s : State) (die pasid : Nat) (va : W64) : Bool :=
  va.toNat % 8 == 0 && match agentPlace s die pasid va { devKind s pasid false 8 with tline := true, secure := true } with
    | .ok (.fab _ mt _ _ _, _) | .ok (.far _ _ mt _, _) => mt == 1
    | _ => false

/-- Bits of a descriptor's word. -/
def bitsOf (w : W64) (lo n : Nat) : Nat := w.toNat / 2 ^ lo % 2 ^ n

/-- Whether a size is one that a queue may have (R338). -/
def queueSizeOk (n : Nat) : Bool := (List.range 17).any fun k => n == 16 * 2 ^ k

/-- The limits of a queue descriptor (R338). -/
def descriptorOk (s : State) (die pasid : Nat) (w : List W64) : Bool :=
  (word w 0).toNat % 4096 == 0 && queueSizeOk (bitsOf (word w 1) 0 32) && decide (bitsOf (word w 1) 32 8 ≤ 7) &&
  bitsOf (word w 1) 40 24 == 0 && (word w 2).toNat % 8 == 0 && writableVa s die pasid (word w 2) && (word w 3).toNat % 64 == 0 &&
  timelineVa s die pasid (word w 4) && timelineVa s die pasid (word w 5) && decide (bitsOf (word w 6) 0 16 < Config.msixTable) &&
  decide (bitsOf (word w 6) 16 16 < Config.msixTable) && bitsOf (word w 6) 32 32 == 0 && (word w 7).toNat % 8 == 0 &&
  writableVa s die pasid (word w 7)

/-- A queue as its descriptor creates it (R255, R338). -/
def newQueue (die qid pasid : Nat) (w : List W64) : Queue :=
  { die, qid, pasid, ring := word w 0, size := bitsOf (word w 1) 0 32, prio := bitsOf (word w 1) 32 8, ridxva := word w 2, fqva := word w 3,
    doneva := word w 4, vouchva := word w 5, irqvec := bitsOf (word w 6) 0 16, faultvec := bitsOf (word w 6) 16 16, irqvalva := word w 7,
    w := 0, r := 0, halted := false, kicked := false, bound := none, cap := 0, packets := [], done := 0, vouched := 0, suspects := [] }

/-- Whether a PASID is being torn down or is in quarantine (R334, R344). -/
def goingAway (s : State) (pasid : Nat) : Bool :=
  (s.tears.any fun t => t.pasid == pasid) || s.quarantine.any fun q => q.1 == pasid

/-- QUEUE_CREATE (R338). -/
def execQueueCreate (die qid pasid : Nat) (desc : List W64) (s : State) : Host.Outcome State Fault Refusal :=
  .next (if !dieUp s die || decide (65536 ≤ qid) || (queue? s die qid).isSome || (ctx? s pasid).isNone || goingAway s pasid ||
            desc.length != 8 || !descriptorOk s die pasid desc then s
         else { s with queues := s.queues ++ [newQueue die qid pasid desc] })

/-- Whether a copy context may be assigned to a queue of a context: it serves that context already, or holds no work (R273). -/
def ccxFree (s : State) (die ccx pasid : Nat) : Bool := (cc? s die ccx).any fun c => c.pasid == pasid || c.ops.isEmpty

/-- The copy context of a binding serves the queue's context (R273); one that another context leaves is discarded with it (R343). -/
def assignCcx (s : State) (die ccx pasid : Nat) : State :=
  modCc s die ccx fun c => { c with pasid, deadOp := if c.pasid = pasid then c.deadOp else none }

/-- A bound thread (R257, R270, R272): its program goes on, or the dispatch program begins. -/
def boundThread (q : Queue) (t : QThread) (cap ccx : Nat) (fresh : Path) : QThread :=
  let kick : W64 := if q.kicked then 1 else 0
  let t := { t with bound := some q.qid, cap, pasid := q.pasid, ccx, sleepm := 0b0011, popped := none }
  match t.path with
  | some _ => { t with events := t.events ||| 0x80#64 ||| kick }
  | none => { t with path := some fresh, ret := none, qprog := none, events := kick, asleep := none }

/-- Whether a thread is idle: it runs no program, or sleeps (R257). -/
def QThread.idle (t : QThread) : Bool := t.bound.isNone && (t.path.isNone || t.asleep.isSome)

/-- QUEUE_BIND (R257, R260). -/
def execQueueBind (die t qid cap ccx : Nat) (header : W64) (s : State) : Host.Outcome State Fault Refusal :=
  .next (match queue? s die qid, qt? s die t with
    | some q, some th =>
      if !dieUp s die || q.bound.isSome || !th.idle || decide (q.prio < cap) || !ccxFree s die ccx q.pasid || goingAway s q.pasid then s
      else
        let (pid, s) := fresh s
        let p := { newPath pid header 1 (clk s die) with sys := true }
        let s := modQueue (assignCcx s die ccx q.pasid) die qid fun q => { q with bound := some t, cap }
        modQt s die t fun th => boundThread q th cap ccx p
    | _, _ => s)

/-- A thread leaves its queue; a sleeping one is woken with UNBIND (R257, R278). -/
def unbind (s : State) (die t : Nat) : State :=
  match (qt? s die t).bind fun th => th.bound with
  | none => s
  | some b => modQt (modQueue s die b fun q => { q with bound := none }) die t fun th =>
      { th with bound := none, popped := none, events := th.events ||| 0x80#64 }

/-- QUEUE_UNBIND (R257). -/
def execQueueUnbind (die t : Nat) (s : State) : Host.Outcome State Fault Refusal := .next (unbind s die t)

/-- A packet that the die kernel has passed over never completes (R343). -/
def skipped (seq : Nat) : Packet :=
  { seq, typ := 0, flags := 0, tlva := 0, tlval := 0, closed := true, done := false, acked := none, status := 0, ran := [],
    vouched := false, waitTl := none, guest := none, data := [], never := true }

/-- QUEUE_RESTART (R343): R_q may be set past the faulting packet. -/
def execQueueRestart (die qid ridx : Nat) (s : State) : Host.Outcome State Fault Refusal :=
  .next (match queue? s die qid with
    | none => s
    | some q =>
      if !q.halted || decide (ridx < q.r) || decide (q.w < ridx) || goingAway s q.pasid then s
      else
        let s := modQueue s die qid fun x =>
          { x with halted := false, r := ridx, packets := x.packets ++ (if q.r < ridx then [skipped (q.r + 1)] else []) }
        let s := if q.r < ridx then (tryWrite s q q.ridxva (toBytes 8 ridx)).getD s else s
        if ridx = q.w then s
        else if q.bound.isSome then threadEvent s die qid 0 else emit s (.supervisorInterrupt die))

/-- A consumed packet of a type that has not been closed. -/
def openOf (s : State) (die qid seq typ : Nat) : Option (Queue × Packet) :=
  (queue? s die qid).bind fun q => (q.packets.find? fun p => p.seq == seq && p.typ == typ && !p.closed).map fun p => (q, p)

/-- Word k of a GUEST packet's payload, from byte 24 on (R339). -/
def payload (p : Packet) : List W64 := (p.data.drop 1).take 6

/-- GUEST_PACKET (R339, R356): the payload goes to the socket with its PASID and sequence number. -/
def execGuestPacket (die qid seq : Nat) (s : State) : Host.Outcome State Fault Refusal :=
  .next (match openOf s die qid seq 6 with
    | none => s
    | some (q, p) =>
      let k := (word p.data 0).toNat
      match guest? s k with
      | none => s
      | some g =>
        if !g.up || g.fenced || p.guest.isSome then s
        else
          let s := modPacket s die qid seq fun p => { p with guest := some k }
          let s := modGuest s k fun g => { g with packets := g.packets ++ [(die, qid, seq)] }
          emit s (.guest k ([BitVec.ofNat 64 q.pasid, BitVec.ofNat 64 seq] ++ payload p)))

/-! ### Contexts and their end -/

/-- Whether nothing that carries a PASID is still to complete (R344). -/
def pasidIdle (s : State) (pasid : Nat) : Bool :=
  !(s.ops.any fun o => pasidOf s o.who == pasid) && !(s.ats.any fun a => a.pasid == pasid) &&
  !(s.guests.any fun g => !g.fenced && g.packets.any fun p => (queue? s p.1 p.2.1).any fun q => q.pasid == pasid)

/-- The teams of a context. -/
def teamsOf (s : State) (pasid : Nat) : List Nat :=
  (s.teams.filter fun t => (launch? s t.launch).any fun l => l.pasid == pasid).map fun t => t.tid

/-- A queue of a context that ends: it halts, what it has begun does not complete, and its packets are open to no further work (R344). -/
def endQueue (q : Queue) : Queue :=
  { q with halted := true, packets := q.packets.map fun p => { p with closed := true, never := p.never || !p.done } }

/-- A copy context of a context that ends is aborted (R343, R344). -/
def abortCopies (c : CopyCtx) : CopyCtx :=
  { c with ops := [], prog := none, inner := none, ret := none, deadOp := c.deadOp <|> c.ops.head?.map fun o => o.num }

/-- The last step before quarantine: a shoot-down of the whole context (R344). -/
def tearShoot (s : State) (t : Tear) : State :=
  match startShoot s t.die t.pasid 0 (BitVec.ofNat 64 (2 ^ 57)) none with
  | none => s
  | some (id, s) => { s with tears := modWhere s.tears (fun x => x.pasid == t.pasid) fun x => { x with step := 4, shoot := id } }

/-- The wait of step 3 ends once everything has completed, or after 1 s (R344). -/
def tearGoesOn (s : State) (pasid : Nat) : State :=
  match s.tears.find? fun t => t.pasid == pasid && t.step == 3 with
  | none => s
  | some t => if pasidIdle s pasid || decide (t.since + 1000000 * Config.usCycles ≤ s.now) then tearShoot s t else s

/-- The end of a context, steps 1 to 3 (R344). -/
def tearContext (s : State) (die qid pasid seq : Nat) : State :=
  if goingAway s pasid || (ctx? s pasid).isNone then s
  else
    let s := { s with queues := modWhere s.queues (fun q => q.pasid == pasid) endQueue }
    let s := (teamsOf s pasid).foldl removeTeam s
    let s := { s with launches := s.launches.filter fun l => l.pasid != pasid,
                      copies := modWhere s.copies (fun c => c.pasid == pasid) abortCopies }
    let s := askQuiesce s pasid
    let t : Tear := { pasid, die, qid, seq, step := 3, since := s.now, shoot := 0 }
    tearGoesOn { s with tears := s.tears ++ [t] } pasid

/-- TEAR (R344): packets start in order, so every earlier packet has started. -/
def execTear (die qid seq : Nat) (s : State) : Host.Outcome State Fault Refusal :=
  .next (match openOf s die qid seq 7 with
    | none => s
    | some (q, _) => tearContext s die qid q.pasid seq)

/-- TEAR_DRAIN_TIMEOUT (R344). -/
def execTearDrainTimeout (pasid : Nat) (s : State) : Host.Outcome State Fault Refusal := .next (tearGoesOn s pasid)

/-- What a context leaves when its quarantine is over: its queues, its tables and its places at guests (R334, R344). -/
def forget (s : State) (pasid : Nat) : State :=
  let s := (s.qthreads.filter fun t => t.pasid == pasid && t.bound.isSome).foldl (fun s t => unbind s t.die t.t) s
  { s with quarantine := s.quarantine.filter fun q => q.1 != pasid, queues := s.queues.filter fun q => q.pasid != pasid,
           contexts := s.contexts.filter fun c => c.pasid != pasid,
           dies := s.dies.map fun d => { d with ptbase := sset 0 d.ptbase pasid 0 },
           guests := s.guests.map fun g => { g with bound := g.bound.filter fun p => p != pasid } }

/-- QUARANTINE_END (R344): after 1 s. -/
def execQuarantineEnd (pasid : Nat) (s : State) : Host.Outcome State Fault Refusal :=
  .next (match s.quarantine.find? fun q => q.1 == pasid with
    | none => s
    | some q => if s.now < q.2 + 1000000 * Config.usCycles then s else forget s pasid)

/-- The pre-emption mode of a number (R312). -/
def modeOf : Nat → Option PreMode
  | 0 => some .none
  | 1 => some .discard
  | 2 => some .save
  | _ => none

/-- CONTEXT_CREATE (R9, R73, R121, R312, R334): refused for a PASID in use or in quarantine, or for a function that is not
enabled. -/
def execContextCreate (pasid fn mode : Nat) (htb : W64) (s : State) : Host.Outcome State Fault Refusal :=
  .next (match modeOf mode with
    | none => s
    | some m =>
      if decide (2 ^ 20 ≤ pasid) || (ctx? s pasid).isSome || goingAway s pasid || !(fnDie s fn).any (dieUp s) then s
      else { s with contexts := s.contexts ++
        [{ pasid, fn, mode := m, feat0 := 0xFFF, feat1 := 0, htb, retcnt := 0, retlast := 0 }] })

/-- FUNCTION_LEVEL_RESET (R334, R335): the outstanding page requests of the function fail, and every context of it is torn down. -/
def execFunctionLevelReset (fn : Nat) (s : State) : Host.Outcome State Fault Refusal :=
  .next (let die := (fnDie s fn).getD 0
         let s := ((s.pris.filter fun p => p.fn == fn).map fun p => p.id).foldl (fun s id => answerPri s id false) s
         ((s.contexts.filter fun c => c.fn == fn).map fun c => c.pasid).foldl (fun s p => tearContext s die 0 p 0) s)

/-- VIRTUAL_FUNCTION_ASSIGN (R337): the function's late-write registers start at zero. -/
def execVirtualFunctionAssign (v port : Nat) (s : State) : Host.Outcome State Fault Refusal :=
  .next (if 64 ≤ v ∨ 2 ≤ port ∨ sget 0 s.vfPort v ≠ 0 then s
         else { s with vfPort := sset 0 s.vfPort v (port + 1), late := sclear (3 * (v + 2)) 3 s.late })

/-! ### Accesses that arrive from outside -/

/-- The place of a fabric address for an agent that reaches it without a leaf. -/
def homePlace (s : State) (a : Nat) : Option Place :=
  if fabMod a ≠ s.modid.toNat ∨ !dieUp s (fabDie (a % 2 ^ 43)) then none
  else
    let a := a % 2 ^ 43
    match regionOf (fabOff a) with
    | .hbm => some (.fab a 0 2 (granOf s a) false)
    | .vault => some (.fab a 0 2 0 false)
    | .tline => some (.fab a 1 2 0 false)
    | .dev => some (.fab a 2 2 0 false)
    | .hole => none

/-- A read that completes with poison: its bytes are free values (R183; log entry 5). -/
def poisonedData (s : State) (n : Nat) : State :=
  let (b, s) := freeBytes s Config.poisonByte true n
  answerRead s b

/-- The 64-byte lines that a range of bytes touches. -/
def lines64 (a n : Nat) : List Nat := (List.range ((a + n + 63) / 64 - a / 64)).map fun k => a / 64 + k

/-- Performing a request of a port's host at a place as a SYS-scope agent (R209, R333), which may cache the lines that it reads; what it
writes, the other port's host holds no longer. -/
def performReq (s : State) (port : Nat) (p : Place) (req : LinkReq) : State :=
  let mine := (lines64 (placeAddr p) req.len).map fun l => (port, l)
  if req.write then writeHome { s with hostHeld := s.hostHeld.filter fun x => !mine.contains x } p (cleanBytes (req.data.take req.len))
  else
    let (b, s) := readHome s p req.len
    answerRead { s with hostHeld := (mine ++ s.hostHeld).dedup } b

/-- Whether a device register is one of a kick page, which the host reaches through a BAR (R336, R340). -/
def isKick (p : Place) : Bool := isDev p && decide (0x6100000000 ≤ fabOff (placeAddr p)) && decide (fabOff (placeAddr p) < 0x6110000000)

/-- A host access to a device register (R340): the kick pages take no other size than b64. -/
def devReq (s : State) (p : Place) (req : LinkReq) : State :=
  if !devSizeOk (fabOff (placeAddr p)) req.len || !(req.len == 4 || req.len == 8) then s
  else if req.write then writePlace s (fabDie (placeAddr p)) 64 p (cleanBytes (req.data.take req.len)) .sys 0 plainChoice
  else
    let (b, s) := readPlace s (fabDie (placeAddr p)) 64 p req.len .sys 0 plainChoice
    answerRead s b

/-- Whether a die lends the line of an address (R178). -/
def lent (s : State) (a : Nat) : Bool := s.leases.any fun l => l.line == a / 64 * 64

/-- A host access to HBM at its home (R333) or to a kick page (R336); one to a line on lease waits for it (R178), one to a lost die has
no home. -/
def hostHome (s : State) (port : Nat) (req : LinkReq) : State :=
  match homePlace s req.addr with
  | some p =>
    if isKick p then devReq s p req
    else if isHbm p && !lent s (placeAddr p) then performReq s port p req else s
  | none => if req.write then s else poisonedData s req.len

/-- Whether a table of a context's tree maps the frame of an address, over the levels left (R156, R157). -/
def frameMapped (s : State) (a : Nat) : List Nat → Nat → Bool
  | [], _ => false
  | lvl :: lower, table => (List.range 512).any fun i =>
    let e := pte s (table + 8 * i)
    let first := pte s (table + 8 * (i / 16 * 16))
    e.getLsbD 0 && (
      if e.getLsbD 1 then
        leafOk e lvl && (
          if e.getLsbD 62 then runOk s table i lvl && decide (pfnAddr first ≤ a) && decide (a < pfnAddr first + 16 * levelBytes lvl)
          else decide (pfnAddr e ≤ a) && decide (a < pfnAddr e + levelBytes lvl))
      else frameMapped s a lower (pfnAddr e))

/-- An access that carries a PASID and a translated address goes to its home if the context's mapping of the moment still names the
frame; else it faults, and the fault goes to the context's fault queue (R300, R344; log entry 89). -/
def hostXlat (s : State) (die port pasid : Nat) (req : LinkReq) : State :=
  if frameMapped s req.addr levels (((die? s die).map fun d => (sget 0 d.ptbase pasid).toNat).getD 0) then hostHome s port req
  else match lowestQueue s die pasid with
    | some q => queueRecord s die q Cause.pageFault.code 0 (BitVec.ofNat 64 req.addr) 0
    | none => s

/-- An access that carries a PASID and an address of its context: it uses the mapping of the moment or faults (R300), and waits for a home
that no longer answers (R327). -/
def hostDma (s : State) (die pasid : Nat) (req : LinkReq) : State :=
  let va := BitVec.ofNat 64 req.addr
  let note := fun (t : Trap) => match lowestQueue s die pasid with
    | some q => queueRecord s die q t.cause.code 0 va t.aux
    | none => s
  let failed := fun (f : XFail) => match f with
    | .trap t => note t
    | .ats => note (prot va 6)
    | .silent => s
  let k := devKind s pasid req.write req.len
  match agentPlace s die pasid va k with
  | .error f => failed f
  | .ok (p, t) =>
    if isDev p then devReq t p req
    else if req.write then
      match agentWrite s die pasid va (cleanBytes (req.data.take req.len)) k with
      | .ok s => s
      | .error f => failed f
    else match agentRead s die pasid va req.len k with
      | .ok (b, s) => answerRead s b
      | .error f => failed f

/-- HOST_CXL_ACCESS (R333, R337, R344): an access with a quarantined PASID is dropped and counted, or reads poison. -/
def execHostCxlAccess (fn : Nat) (pasid : Option Nat) (req : HostReq) (s : State) : Host.Outcome State Fault Refusal :=
  .next (match (fnDie s fn).filter (dieUp s) with
    | none => s
    | some die =>
      let port := if die = 0 then 0 else 1
      match pasid with
      | none => hostHome s port req.req
      | some p =>
        if s.quarantine.any fun q => q.1 == p then
          (if req.req.write then lateDrop s fn p req.xlat (BitVec.ofNat 64 req.req.addr) else poisonedData s req.req.len)
        else if req.xlat then hostXlat s die port p req.req
        else hostDma s die p req.req)

/-- HOST_SNOOP (R176): a host agent reads or writes a line of host memory. The device's copy of an SC line, which holds what was last
written, answers; the agent's store invalidates it and is performed. -/
def execHostSnoop (line : Nat) (act : Snoop) (s : State) : Host.Outcome State Fault Refusal :=
  .next (
    let s := if s.hostCache.contains line then
        emit (if act = .read then s else { s with hostCache := s.hostCache.filter fun l => l != line }) (.snoopData line)
      else s
    match act with
    | .write data => { s with hostMem := ssetN 0 s.hostMem (line * 64) (data.take 64) }
    | .read | .invalidate => s)

/-! ### Supervisor cores -/

/-- A supervisor core's access (R191, R198): it is an agent of its die. -/
def supAccess (s : State) (die : Nat) (write : Bool) (addr : Nat) (data : List Byte) (len : Nat) : State :=
  match homePlace s addr with
  | none => s
  | some p =>
    let p := match p with
      | .fab a mt _ g r => .fab a mt 1 g r
      | p => p
    if leasedAway s die p || (isDev p && !(mtAdmits 2 { devKind s 0 write len with die } && devSizeOk (fabOff (placeAddr p)) len)) then s
    else if write then writePlace s die 64 p (cleanBytes data) .weak 0 plainChoice
    else
      let (b, s) := readPlace s die 64 p len .weak 0 plainChoice
      answerRead s b

/-- The 32 bytes of a flight record (R331). -/
def FlightRec.bytes (r : FlightRec) : List Byte :=
  toBytes 8 r.seq ++ toBytes 8 r.mcyc ++ toBytes 1 r.event ++ toBytes 1 r.src ++ toBytes 2 r.unit ++ toBytes 4 r.auxa ++ toBytes 8 r.auxb

/-- Up to a number of a die's records, from a sequence number on (R330). -/
def flightFrom (s : State) (die seq n : Nat) : List FlightRec :=
  (((die? s die).toList.flatMap fun d => d.flight).filter fun r => decide (seq ≤ r.seq)).take n

/-- What the die kernel does from a supervisor core (R198, R293, R297, R298, R330, R345, R346). -/
def supOp (s : State) (die : Nat) : SupOp → State
  | .read a n => supAccess s die false a [] n
  | .write a d => supAccess s die true a d d.length
  | .fence => acquirePkg (releaseBy s die .pkg) die
  | .setPtbase p v => modDie s die fun d => { d with ptbase := sset 0 d.ptbase p v }
  | .setHroot v => modDie s die fun d => { d with hroot := v }
  | .setPoolbase v => modDie s die fun d => { d with poolbase := v }
  | .setWalker h => modDie s die fun d => { d with walker := h }
  | .setReplBase v => modDie s die fun d => { d with replBase := v }
  | .record e u a b =>
    if 0x80 ≤ e ∧ e < 0x100 then logFlight s die e 7 (u % 2 ^ 16) (a % 2 ^ 32) (b % 2 ^ 64) else s
  | .readFr seq n => answerRead s (cleanBytes ((flightFrom s die seq n).flatMap FlightRec.bytes))
  | .send words => if words.length = 8 then (quadSend (releaseBy s die .pkg) die words).getD s else s

/-- SUPERVISOR_CORE_ACCESS (R198). -/
def execSupervisorCoreAccess (die core : Nat) (op : SupOp) (s : State) : Host.Outcome State Fault Refusal :=
  .next (if dieUp s die && decide (core < 64) then supOp s die op else s)

end Sys2Proof.Machine
end

