-- ==== Sys2Proof/Machine/Links.lean ====
section
/-! DEFINITION. Links between dies and modules (R325, R326, R350 to R353) and the guest sockets (R10, R354 to R357). -/
namespace Sys2Proof.Machine

/-! ### Circuits -/

/-- The valid circuit of a pair of dies in a die's copy of the table (R350). -/
def circuitOf (s : State) (a b : Nat) : Option Nat :=
  (die? s b).bind fun d => (d.conn.find? fun e => connV e.2 && joins a b e.2).map fun e => e.1

/-- The far end of a circuit as a die sees it. -/
def farEnd (e : W64) (die : Nat) : Nat := if connSrc e = die then connDst e else connSrc e

/-- Whether a relay die carries the traffic of a pair (R326, R350). -/
def relayOk (s : State) (t : SMap W64) (e : W64) : Bool :=
  !connOpt e && dieUp s (connRelay e) && hasCircuit t (connSrc e) (connRelay e) && hasCircuit t (connRelay e) (connDst e)

/-- A die's copy of the connection table. -/
def connTable (s : State) (die : Nat) : SMap W64 := ((die? s die).map fun d => d.conn).getD []

/-- The die that a pair loses with its last route, as the die that tears the circuit down sees it: the other end of its own pair, else
the end that stands on the circuit (log entry 32). -/
def cutOff (die : Nat) (e : W64) (p : Nat × Nat) : Nat :=
  if p.1 = die then p.2 else if p.2 = die then p.1 else if endsOn p.1 e then p.1 else p.2

/-- A pair of dies in service that a torn circuit leaves without a route loses a die (R326, R327). -/
def losePair (die : Nat) (e : W64) (s : State) (p : Nat × Nat) : State :=
  if dieUp s p.1 && dieUp s p.2 then declareLost s die (cutOff die e p) else s

/-- A circuit is torn down (R326): the traffic of every pair that it carried, its own or one that it relays, goes over another route; a
pair left without one loses a die (R327). -/
def tearCircuit (s : State) (die circuit : Nat) : State :=
  let t0 := connTable s die
  let e := sget 0 t0 circuit
  if !connV e then s
  else
    let off := e &&& ~~~ BitVec.ofNat 64 (2 ^ 63)
    let s := { s with dies := s.dies.map fun d => { d with conn := sset 0 d.conn circuit off },
                      circuits := sset 0 (sclear (linkKey 0 0 circuit) 1 s.circuits) (linkKey 2 0 circuit) s.freshId }
    let t := connTable s die
    let s := if relayOk s t e then logFlight s die 0x22 4 circuit circuit (connRelay e) else s
    (diePairs.filter fun p => routed s t0 p.1 p.2 && !routed s t p.1 p.2).foldl (losePair die e) s

/-- Counting a failure on a circuit; the circuit goes at the limit. -/
def countFailure (s : State) (die circuit key limit : Nat) (log : State → State) : State :=
  let n := sget 0 s.circuits key + 1
  if n < limit then { s with circuits := sset 0 s.circuits key n }
  else tearCircuit (log { s with circuits := sset 0 s.circuits key 0 }) die circuit

/-- The circuit by which a transaction arrives at a die: the optical one that it names, else that of the two dies (R325, R353). -/
def arrivesBy (s : State) (src dst : Nat) (via : Option Nat) : Option Nat :=
  match via with
  | some c => if connV (sget 0 (connTable s dst) c) && connOpt (sget 0 (connTable s dst) c) then some c else none
  | none => circuitOf s src dst

/-- What a die received with a CRC mismatch is discarded and asked for again (R325, R332); the eighth in a row tears the circuit that
carried it down (R326). -/
def badCrc (s : State) (c : Option Nat) (src dst tag : Nat) : State :=
  let s := emit (logFlight s dst 0x21 4 (c.getD 0) src tag) (.linkAgain tag)
  match c with
  | some c => countFailure s dst c (linkKey 1 0 c) 8 id
  | none => s

/-- What a die received with a matching CRC ends the mismatches in a row on the circuit that carried it (R326). -/
def goodCrc (s : State) (c : Option Nat) : State :=
  match c with
  | some c => { s with circuits := sset 0 s.circuits (linkKey 1 0 c) 0 }
  | none => s

/-- The new value that an atomic of another module gives (R177, R220). -/
def rmwNew (req : LinkReq) (old : Nat) : Option Nat :=
  match req.rmw with
  | some (.atom op) => some (atomNew op (8 * req.len) old (ofBytes req.data))
  | some (.cas cmp) => if old = ofBytes cmp then some (ofBytes req.data) else none
  | none => none

/-- Performing a transaction at its home, at SYS scope (R177, R209): what it read, with poison. An atomic on a poisoned operand changes
nothing (R215). -/
def transact (s : State) (dst : Nat) (p : Place) (req : LinkReq) : List PByte × State :=
  if req.write then ([], writePlace s dst 64 p (cleanBytes (req.data.take req.len)) .sys 0 plainChoice)
  else
    let (b, s) := readPlace s dst 64 p req.len .sys 0 plainChoice
    if b.any fun e => e.2 then (b, s)
    else match rmwNew req (ofBytes (b.map fun e => e.1)) with
      | some v => (b, writePlace s dst 64 p (cleanBytes (toBytes req.len v)) .sys 0 plainChoice)
      | none => (b, s)

/-- Whether a device register takes no access of a request's size or kind (R167, R337, R340): none is made. -/
def devRefuses (p : Place) (req : LinkReq) : Bool :=
  isDev p && (req.rmw.isSome || !(req.len == 4 || req.len == 8) || !devSizeOk (fabOff (placeAddr p)) req.len)

/-- The die that serves a socket (R10). -/
def socketDie (k : Nat) : Nat := if k = 0 then 3 else 8

/-- The place that a transaction names: at a die, or in the memory of an occupied guest socket (R166, R167). -/
def linkPlace (s : State) (a : Nat) : Option Place :=
  let d := fabDie (a % 2 ^ 43)
  if fabMod a = s.modid.toNat ∧ 12 ≤ d ∧ d < 14 then
    (if (guest? s (d - 12)).any fun g => g.up && dieUp s (socketDie (d - 12)) then some (.fab (a % 2 ^ 43) 0 2 0 false) else none)
  else homePlace s a

/-- The die at which a transaction to a place is performed. -/
def servingDie (p : Place) : Nat :=
  let d := fabDie (placeAddr p)
  if 12 ≤ d then socketDie (d - 12) else d

/-- Whose tags a transaction's is one of: a die's, or another module's. -/
def linkSource (src : Nat) (req : LinkReq) : Nat := if req.via.isSome then 16 + src else src

/-- A transaction of another die or module at its home (R325): a repeat is acknowledged and not performed again. One whose address fails
the checks of R166 and R167 is refused with the TRAPAUX of the PROT that its access raises; one to a line on lease waits to be sent again
(R178). -/
def goodTransaction (s : State) (src dst tag : Nat) (req : LinkReq) : State :=
  let s := goodCrc s (arrivesBy s src dst req.via)
  let who := linkSource src req
  match s.linkDone.find? fun e => e.1 == who && e.2.1 == tag with
  | some e => emit s (.linkAck tag e.2.2.1 e.2.2.2)
  | none => match linkPlace s req.addr with
    | none => emit s (.linkRefuse tag 1)
    | some p =>
      if devRefuses p req then emit s (.linkRefuse tag 0)
      else if servingDie p ≠ dst ∨ lent s (placeAddr p) then s
      else
        let (b, s) := transact s dst p req
        let bad := b.any fun e => e.2
        let data := b.map fun e => e.1
        emit (if req.write || req.rmw.isSome then { s with linkDone := (who, tag, data, bad) :: s.linkDone } else s) (.linkAck tag data bad)

/-- LINK_TRANSACTION (R325). -/
def execLinkTransaction (src dst tag : Nat) (req : LinkReq) (crcOk : Bool) (s : State) : Host.Outcome State Fault Refusal :=
  .next (if !dieUp s dst then s else if crcOk then goodTransaction s src dst tag req
    else badCrc s (arrivesBy s src dst req.via) src dst tag)

/-- The answer to an access that waits for another module (R177, R215, R325): what it read is written, and it is done; poison that an
atomic met is its cause. -/
def farDone (s : State) (o : MemOp) (a : Acc) (data : List Byte) (bad : Bool) : State :=
  let rmw := o.kind.reads && o.kind.writes
  let s := accDone s o a
  if rmw && bad then raiseOp s o { cause := .poison, va := a.va }
  else
    let (d, k) := placeOf s o.who
    let s := if o.kind.reads then setDest s o a (data.map fun b => (b, bad)) else s
    finishOps (if ordAcq o.ord then acquireAt s d k o.scope else s)

/-- A transaction ends: the source gives up its copy, and the access that waited for it is done with what came back (R325). -/
def endTx (s : State) (t : LinkTx) (data : List Byte) (bad : Bool) : State :=
  let s := { s with links := s.links.filter fun x => x.tag != t.tag }
  match t.acc.bind fun c => (s.ops.find? fun o => o.id == c.1).bind fun o =>
      (o.todo.find? fun a => a.lane == c.2.1 && a.va == c.2.2).map fun a => (o, a) with
  | some (o, a) => farDone s o a data bad
  | none => s

/-- What waits for a work's writes to other modules goes on with the last of them: a packet or a grid completes (R206, R258, R276). -/
def workDone (s : State) (w : Option TxWork) : State :=
  match w with
  | some (.packet die qid _) => settleQueue s die qid
  | some (.grid lid) => gridEnd s lid
  | _ => s

/-- TRANSACTION_ACK (R325); a read of a torn circuit takes no answer any more (R326), and an answer with a CRC mismatch is asked for
again. -/
def execTransactionAck (tag : Nat) (data : Reply) (s : State) : Host.Outcome State Fault Refusal :=
  .next (match s.links.find? fun t => t.tag == tag with
    | none => s
    | some t =>
      if t.torn s then s
      else if !data.crcOk then badCrc s t.circuit t.dst t.die tag
      else workDone (endTx (goodCrc s t.circuit) t data.data data.bad) t.work)

/-- A kept transaction is sent again, over the circuit that carries its die's traffic now (R325, R326): not a read of a torn one. -/
def resend (s : State) (tag : Nat) : State :=
  match s.links.find? fun t => t.tag == tag with
  | none => s
  | some t =>
    if t.torn s then s
    else
      let circuit := farCircuit s t.die t.req.addr
      let s := { s with links := modWhere s.links (fun x => x.tag == tag) fun x => { x with circuit } }
      match circuit with
      | some c => emit s (.offModule t.dst c tag t.req)
      | none => s

/-- The failures of a flit at a hop are counted from its first one on (R326). -/
def flitSeen (s : State) (die circuit flit : Nat) : State :=
  if sget 0 s.circuits (linkKey 3 die circuit) = flit + 1 then s
  else { s with circuits := sset 0 (sset 0 s.circuits (linkKey 3 die circuit) (flit + 1)) (linkKey 0 die circuit) 0 }

/-- FLIT_REPLAY (R326, R332): a hop has failed to carry a flit; the ninth failure of one flit is REPLAY_LIMIT. -/
def execFlitReplay (die : Nat) (f : LinkFlit) (s : State) : Host.Outcome State Fault Refusal :=
  .next (if dieUp s die && (die? s die).any (fun d => connV (sget 0 d.conn f.circuit)) then
      countFailure (flitSeen s die f.circuit f.flit) die f.circuit (linkKey 0 die f.circuit) 9 fun s =>
        logFlight s die 0x20 4 f.circuit f.circuit 0
    else s)

/-- A read outstanding on a failed path completes with poison (R326); POISON follows on use. -/
def poisonRead (id : Nat) (s : State) (a : Acc) : State :=
  match s.ops.find? fun o => o.id == id with
  | none => s
  | some o =>
    let (b, s) := freeBytes s Config.poisonByte true o.bytes
    let s := setDest s o a b
    { s with ops := modWhere s.ops (fun x => x.id == id) fun x => { x with todo := x.todo.filter fun y => y != a } }

/-- The source bytes of an outstanding bulk copy that come from a die or a guest are poisoned (R326, R357). -/
def poisonBulk (far : Nat) (s : State) (b : BulkOp) : State :=
  let from' := fun (i : Nat) => (List.range ((chunkReads b i).2 / 16)).any fun k =>
    (spanPlace b.src ((chunkReads b i).1 + 16 * k)).any fun p => p.endpoint == some far
  if !b.todo.any from' || b.buf.isSome then s
  else if b.multi then
    let (l, s) := freeBytes s Config.poisonByte true b.count
    { s with bulks := modWhere s.bulks (fun x => x.id == b.id) fun b => { b with buf := some l } }
  else (b.todo.filter from').foldl (fun s i => match s.bulks.find? fun x => x.id == b.id with
    | some b =>
      let (l, s) := freeBytes s Config.poisonByte true (chunkLen b.count i)
      landBytes s b i l
    | none => s) s

/-- The source that a copy operation in progress is reading from a die is poisoned (R281, R326). -/
def poisonCopy (far before : Nat) (s : State) (x : CopyCtx) : State :=
  match copyOf s x.die x.k with
  | none => s
  | some o =>
    if before ≤ o.since ∨ o.buf.isSome ∨ o.total ≤ o.pos then s
    else match o.kind with
      | .cpy | .cpy2d | .cpyg | .cpys => match copyAct s { copOf s x .clean with far := some far } o with
        | .ok s => s
        | .error _ => s
      | _ => s

/-- An operand that a matrix operation is reading from a die is poisoned (R244, R326). -/
def poisonMatrix (die core far before : Nat) (s : State) (k : Nat) : State :=
  match engOf s die core k .clean with
  | none => s
  | some e =>
    if before ≤ e.o.since then s
    else match Eng.act s { e with far := some far } with
      | .error (.fail s t) => if t.cause = .poison then matFailed s die core k e.o t else s
      | _ => s

/-- The outstanding reads of a die's agents that were made before an identifier, at homes on another die or at a guest (R326, R357). -/
def poisonReads (s : State) (die far before : Nat) : State :=
  let mine := s.ops.filter fun o => decide (o.id < before) && (placeOf s o.who).1 == die && o.kind == .ld
  let s := mine.foldl (fun s o => (o.todo.filter fun a => a.place.endpoint == some far).foldl (poisonRead o.id) s) s
  let s := (s.bulks.filter fun b => decide (b.id < before) && (placeOf s (.grp b.gid 0)).1 == die).foldl (poisonBulk far) s
  let s := (s.copies.filter fun c => c.die == die).foldl (poisonCopy far before) s
  let s := (s.cores.filter fun c => c.die == die).foldl (fun s c => (List.range 4).foldl (poisonMatrix die c.core far before) s) s
  finishOps (finishBulks s)

/-- A read outstanding on a torn optical circuit completes with poison (R326). -/
def poisonTx (s : State) (t : LinkTx) : State :=
  let (b, s) := freeBytes s Config.poisonByte true t.req.len
  endTx s t (b.map fun e => e.1) true

/-- The dies whose reads by a die ran over a circuit between dies: its far end, and those that it relays (R326, R350). -/
def farDies (t : SMap W64) (die : Nat) (e : W64) : List Nat :=
  (if endsOn die e then [farEnd e die] else []) ++
  (List.range Config.dies).filter fun b => b != die && relayedOver t die b (connSrc e) (connDst e)

/-- REROUTE_READ_TIMEOUT (R326). -/
def execRerouteReadTimeout (die circuit : Nat) (s : State) : Host.Outcome State Fault Refusal :=
  .next (let t := connTable s die
         let e := sget 0 t circuit
         let before := sget 0 s.circuits (linkKey 2 0 circuit)
         if before = 0 then s
         else if connOpt e then (s.links.filter fun x => x.die == die && x.circuit == some circuit && x.torn s).foldl poisonTx s
         else (farDies t die e).foldl (fun s far => poisonReads s die far before) s)

/-! ### Guests -/

/-- Whether the device listens to a socket's guest (R355, R357). -/
def Guest.heard (g : Guest) : Bool := g.up && !g.fenced && !g.held

/-- A packet for a fenced socket does not complete (R259, R357). -/
def losePacket (s : State) (e : Nat × Nat × Nat) : State := modPacket s e.1 e.2.1 e.2.2 fun p => { p with never := true }

/-- A queue with an outstanding packet for a fenced socket, halted already or not, receives GUEST_FENCED with the first one's number and
halts (R357). -/
def fenceQueue (die : Nat) (packets : List (Nat × Nat × Nat)) (s : State) (q : Nat × Nat) : State :=
  let seq := ((packets.find? fun e => e.1 == q.1 && e.2.1 == q.2).map fun e => e.2.2).getD 0
  haltQueue (writeRecord s q.1 q.2 { source := 4, cause := 0x37, die, unit := 0, seq }) q.1 q.2

/-- What the device's agents have outstanding at a guest completes with poison, an atomic with its cause (R215, R357). -/
def poisonGuest (s : State) (k : Nat) : State :=
  let s := (List.range Config.dies).foldl (fun s d => poisonReads s d (12 + k) s.freshId) s
  let rmw := s.ops.filter fun o => o.kind.reads && o.kind.writes && o.todo.any fun a => a.place.endpoint == some (12 + k)
  rmw.foldl (fun s o => match o.todo.find? fun a => a.place.endpoint == some (12 + k) with
    | some a => farDone s o a [] true
    | none => s) s

/-- A breach fences a socket (R357). -/
def fenceGuest (s : State) (k duty : Nat) : State :=
  match guest? s k with
  | none => s
  | some g =>
    let s := modGuest s k fun g => { g with fenced := true, packets := [], waits := [], quiesce := [], retrained := false }
    let s := poisonGuest s k
    let s := logFlight s (socketDie k) 0x50 4 k k duty
    let s := g.packets.foldl losePacket s
    checkShoots (((g.packets.map fun e => (e.1, e.2.1)).dedup).foldl (fenceQueue (socketDie k) g.packets) s)

/-- A message of a guest that the device listens to. -/
def fromGuest (s : State) (k : Nat) (f : Guest → State) : State :=
  match guest? s k with
  | some g => if g.heard then f g else s
  | none => s

/-- A guest of another duty version is held in reset, and the die kernel logs it under a code of its own (R330, R355; log
entry 5). -/
def logHeld (s : State) (k : Nat) : State :=
  let (b, s) := freeBytes s Config.freeByte false 13
  let v := ofBytes (b.map fun e => e.1)
  logFlight s (socketDie k) (0x80 + v % 128) 7 0 (v / 128 % 2 ^ 32) (v / 2 ^ 39 % 2 ^ 64)

/-- A link trains: the guest is bound to no context yet (R355). -/
def linkUp (s : State) (k vendor engines atc duty : Nat) : State :=
  let s := modGuest s k fun g =>
    { g with up := true, held := duty != 1, vendor, engines, atc, bound := [], packets := [], waits := [], quiesce := [], retrained := true }
  if duty = 1 then s else logHeld s k

/-- GUEST_LINK_UP (R355). -/
def execGuestLinkUp (socket vendor engines atc duty : Nat) (s : State) : Host.Outcome State Fault Refusal :=
  .next (match guest? s socket with
    | none => s
    | some g => if dieUp s (socketDie socket) && !g.heard then linkUp s socket vendor engines atc duty else s)

/-- GUEST_CONTEXT_BIND (R355). -/
def execGuestContextBind (socket pasid : Nat) (s : State) : Host.Outcome State Fault Refusal :=
  .next (fromGuest s socket fun g =>
    if (ctx? s pasid).isNone || goingAway s pasid || g.bound.contains pasid then s
    else modGuest s socket fun g => { g with bound := g.bound ++ [pasid] })

/-- The kind of a guest's access. -/
def guestKind (s : State) (k pasid : Nat) (write : Bool) (size : Nat) : AccKind :=
  { devKind s pasid write size with secure := s.secure.contains (.guestPort k) }

/-- The device's own translation of a guest's access, and the state after it (R355). -/
def guestPlace (s : State) (k pasid : Nat) (va : W64) (req : LinkReq) : Option (Place × State) :=
  match agentPlace s (socketDie k) pasid va (guestKind s k pasid req.write req.len) with
  | .ok (.fab a mt ccl g r, s) => if a = req.addr then some (.fab a mt ccl g r, s) else none
  | .ok (.host f a c, s) => if a = req.addr then some (.host f a c, s) else none
  | .ok (.far d a mt ccl, s) => if a = req.addr then some (.far d a mt ccl, s) else none
  | _ => none

/-- A guest's access at its home. -/
def guestPerform (s : State) (k : Nat) (p : Place) (req : LinkReq) : State :=
  if req.write then writePlace s (socketDie k) 64 p (cleanBytes (req.data.take req.len)) .sys 0 plainChoice
  else
    let (b, s) := readPlace s (socketDie k) 64 p req.len .sys 0 plainChoice
    answerRead s b

/-- GUEST_ACCESS (R344, R355, R357). -/
def execGuestAccess (socket pasid : Nat) (va : W64) (translated : Bool) (req : LinkReq) (s : State) : Host.Outcome State Fault Refusal :=
  .next (fromGuest s socket fun g =>
    if s.quarantine.any fun q => q.1 == pasid then
      (if req.write then lateDrop s (fnOf s pasid) pasid translated (if translated then BitVec.ofNat 64 req.addr else va)
       else poisonedData s req.len)
    else if !translated || !g.bound.contains pasid then fenceGuest s socket 1
    else match guestPlace s socket pasid va req with
      | none => fenceGuest s socket 1
      | some (p, s') => if lent s (placeAddr p) || homeSilent s (socketDie socket) p then s else guestPerform s' socket p req)

/-- The answer to a guest's translation request: the leaf and a status (R157, R288, R355). -/
def guestTranslation (s : State) (k pasid : Nat) (va : W64) (w : Bool) : W64 × W64 × State :=
  match agentPlace s (socketDie k) pasid va (guestKind s k pasid w 8), walkLeaf s (socketDie k) pasid va with
  | .ok (_, s), .ok (_, t) => (t.leaf, 0, s)
  | .error (.trap t), _ => (0, if t.cause = .pageFault ∨ t.cause = .firstTouch then 1 else 2, s)
  | _, _ => (0, 2, s)

/-- GUEST_ATS_REQUEST (R355). -/
def execGuestAtsRequest (socket pasid : Nat) (va : W64) (w : Bool) (s : State) : Host.Outcome State Fault Refusal :=
  .next (fromGuest s socket fun g =>
    if !g.bound.contains pasid || goingAway s pasid then emit s (.atsAnswer socket 0 2)
    else
      let (leaf, status, s) := guestTranslation s socket pasid va w
      emit s (.atsAnswer socket leaf status))

/-- A reported packet completes under R258, with the timeline and the interrupt that its header names (R356). -/
def guestDone (s : State) (k die qid seq : Nat) : State :=
  let s := modGuest s k fun g => { g with packets := g.packets.erase (die, qid, seq) }
  let s := modPacket s die qid seq fun p => { p with closed := true, acked := some (p.tlva, p.tlval, p.flags / 2 % 2 == 1) }
  settleQueue s die qid

/-- GDONE (R356): an unknown number is a breach of duty 5. -/
def execGdone (socket seq : Nat) (s : State) : Host.Outcome State Fault Refusal :=
  .next (fromGuest s socket fun g => match g.packets.find? fun p => p.2.2 == seq with
    | some p => guestDone s socket p.1 p.2.1 seq
    | none => fenceGuest s socket 5)

/-- Whether a guest's record has the layout of R271 with SOURCE 4. -/
def reportOk (r : List W64) : Bool :=
  r.length == 8 && bitsOf (word r 0) 0 8 == 4 && bitsOf (word r 0) 18 14 == 0 && bitsOf (word r 0) 36 4 == 0 &&
  bitsOf (word r 0) 48 16 == 0 && word r 5 == 0 && word r 7 == 0

/-- The queue that a guest's record is for: the one that started the work, else the named one, if its context is bound. -/
def reportQueue (s : State) (g : Guest) (r : List W64) : Option (Nat × Nat) :=
  let qid := (word r 6).toNat
  let die := match g.packets.find? fun p => p.2.1 == qid && p.2.2 == (word r 4).toNat with
    | some p => p.1
    | none => bitsOf (word r 0) 32 4
  if (queue? s die qid).any fun q => g.bound.contains q.pasid then some (die, qid) else none

/-- The fields of a guest's record (R271). -/
def reportOf (r : List W64) : Record :=
  { source := 4, cause := bitsOf (word r 0) 8 8, flags := bitsOf (word r 0) 16 2, die := bitsOf (word r 0) 32 4,
    unit := bitsOf (word r 0) 40 8, pc := word r 1, va := word r 2, aux := word r 3, seq := (word r 4).toNat }

/-- GUEST_FAULT_REPORT (R341, R357). -/
def execGuestFaultReport (socket : Nat) (rec : List W64) (s : State) : Host.Outcome State Fault Refusal :=
  .next (fromGuest s socket fun g => match (if reportOk rec then reportQueue s g rec else none) with
    | some (die, qid) => writeRecord s die qid (reportOf rec)
    | none => fenceGuest s socket 3)

/-- A malformed message of a guest is a breach of duty 5 (R357). -/
def badGuestMessage (s : State) (socket : Nat) : State :=
  match guest? s socket with
  | some g => if g.heard then fenceGuest s socket 5 else s
  | none => s

/-- GUEST_ATC_ACK (R299): it counts for the phase that the guest was told of. -/
def execGuestAtcAck (socket id : Nat) (s : State) : Host.Outcome State Fault Refusal :=
  .next (fromGuest s socket fun g =>
    if !g.waits.any fun w => w.1 == id then s
    else
      let s := modGuest s socket fun g => { g with waits := g.waits.filter fun w => w.1 != id }
      shootCheck (modShoot s id fun h => { h with gacks := (socket :: h.gacks).dedup }) id)

/-- GUEST_ATC_TIMEOUT (R357): duty 2. -/
def execGuestAtcTimeout (socket : Nat) (s : State) : Host.Outcome State Fault Refusal :=
  .next (fromGuest s socket fun g =>
    if g.waits.any fun w => decide (w.2 + 10 * Config.usCycles ≤ s.now) then fenceGuest s socket 2 else s)

/-- GUEST_QUIESCE_REPORT (R357): SAVED or DISCARDED. -/
def execGuestQuiesceReport (socket : Nat) (_saved : Bool) (s : State) : Host.Outcome State Fault Refusal :=
  .next (fromGuest s socket fun _ => modGuest s socket fun g => { g with quiesce := g.quiesce.drop 1 })

/-- GUEST_QUIESCE_TIMEOUT (R357): duty 4. -/
def execGuestQuiesceTimeout (socket : Nat) (s : State) : Host.Outcome State Fault Refusal :=
  .next (fromGuest s socket fun g =>
    if g.quiesce.any fun t => decide (t.2 + 100 * Config.usCycles ≤ s.now) then fenceGuest s socket 4 else s)

/-- GUEST_FENCE_LIFT (R357): after the guest has been reset and its link retrained. -/
def execGuestFenceLift (socket : Nat) (s : State) : Host.Outcome State Fault Refusal :=
  .next (modGuest s socket fun g => if g.retrained then { g with fenced := false } else g)

end Sys2Proof.Machine
end

