-- ==== Sys2Proof/Machine/Matrix.lean ====
section
/-! DEFINITION. The matrix instructions: the checks at issue (R235 to R238), the binding (R232), the queueing of operations
(R233, R234) and `mresume` (R248). -/
namespace Sys2Proof.Machine

/-- The rule of the matrix instructions (R66). -/
def matRule : Rule := ruleGrp .matrix

/-- The registers of a triple. -/
def triple (r : SReg) : List Nat := (List.range 3).map fun k => r.toNat + k

/-- The registers of a triple that an instruction names but does not read (R236). -/
def unread (r : SReg) (l : List Nat) : List Nat := l.map fun k => r.toNat + k

/-- The words of a triple. -/
def tripleWords (p : Path) (r : SReg) : List W64 := (List.range 3).map fun k => rdSk p r k

/-- Binding an unbound engine to a team (R232). -/
def bindEngine (s : State) (g : Group) : State :=
  let s := modCore s g.die g.core fun c => { c with bind := some g.team, tiles := [], tpois := [], strm := [] }
  { s with groups := modWhere s.groups (fun x => x.team == g.team && x.die == g.die && x.core == g.core)
             fun x => { x with mstat := 0, mrp := [], mfault := [] } }

/-- A new operation of a stream, numbered in issue order (R234). -/
def newOp (x : Ex) (g : Group) (since num : Nat) (kind : MatKind) (zd : BitVec 5) (a b k : List W64) : MatOp :=
  { num, gid := g.gid, pid := x.p.pid, team := g.team, pc := x.p.pc, kind, zd := zd.toNat, a, b, k, step := 0, row := 0, col := 0,
    sys := !x.user, bseg := none, aseg := none, flags := 0, await := none, stopped := false, halt := none, since }

/-- Queueing an operation behind a stream's others (R233, R234). -/
def pushOp (s : State) (x : Ex) (g : Group) (strm : Nat) (kind : MatKind) (zd : BitVec 5) (a b k : List W64) : State :=
  modCore s g.die g.core fun c =>
    let num := sget 0 c.count strm + 1
    { c with count := sset 0 c.count strm num, strm := sset [] c.strm strm (sget [] c.strm strm ++ [newOp x g s.freshId num kind zd a b k]) }

/-- The first value that misses its alignment (R238). -/
def misaligned (l : List (W64 × Nat)) : Option Trap :=
  (l.find? fun (e : W64 × Nat) => e.1.toNat % e.2 != 0).map fun e => { cause := .misalign, va := e.1 }

/-- The wait for the binding (R232): `some` once the team holds it. -/
def binding (s : State) (g : Group) : Option State :=
  match core? s g.die g.core with
  | none => none
  | some c => match c.bind with
    | none => some (bindEngine s g)
    | some t => if t = g.team then some s else none

/-- Operations that a stream holds (R233). -/
def streamLen (s : State) (g : Group) (strm : Nat) : Nat :=
  match core? s g.die g.core with
  | some c => (sget [] c.strm strm).length
  | none => 0

/-- Whether a tile of the team's engine has met an uncorrectable error (R324). -/
def tileBad (s : State) (g : Group) (zd : BitVec 5) : Bool :=
  match core? s g.die g.core with
  | some c => c.bind == some g.team && c.tpois.contains zd.toNat
  | none => false

/-- A data operation's body: MISALIGN, then the binding and capacity waits, then the queue (R233, R235). -/
def matBody (s : State) (strm : BitVec 2) (zd : BitVec 5) (kind : MatKind) (bad : Ex → Group → Bool)
    (vals : Path → List (W64 × Nat)) (a b k : Path → List W64) : Body := withGroup fun x g =>
  match misaligned (vals x.p) with
  | some t => .error (.trap t)
  | none =>
    if bad x g then .error (.trap { cause := .poison })
    else match binding s g with
      | none => .error (.hold s)
      | some s =>
        if 8 ≤ streamLen s g strm.toNat then .error (.hold s)
        else .ok (advance (pushOp s x g strm.toNat kind zd (a x.p) (b x.p) (k x.p)) x)

/-- No tile check. -/
def anyTile : Ex → Group → Bool := fun _ _ => false

/-- No operand words. -/
def noWords : Path → List W64 := fun _ => []

/-- `mzero` (R236, R240). -/
def execMzero (zd : BitVec 5) (strm : BitVec 2) (s : State) : Host.Outcome State Fault Refusal :=
  issue s matRule {} none (matBody s strm zd .mzero anyTile (fun _ => []) noWords noWords noWords)

/-- `mld` (R236, R240). -/
def execMld (zd : BitVec 5) (sa : SReg) (strm : BitVec 2) (ty : MatTy) (s : State) : Host.Outcome State Fault Refusal :=
  issue s matRule { ss := unread sa [0, 1], sd := unread sa [2] } none
    (matBody s strm zd (.mld ty) anyTile (fun p => [(rdSk p sa 0, 64), (rdSk p sa 1, 64)]) (fun p => tripleWords p sa) noWords noWords)

/-- The alignment of a format's segments (R238). -/
def segAlign (t : MatTy) : Nat := if sixBit t then 4 else 16

/-- `mma` (R236, R239). -/
def execMma (zd : BitVec 5) (sa sb sk : SReg) (strm : BitVec 2) (ta tb : MatTy) (mx : Bool) (s : State) :
    Host.Outcome State Fault Refusal :=
  issue s matRule { ss := unread sa [0, 1] ++ unread sb [0, 1] ++ (if mx then unread sk [1, 2] else []),
                    sd := unread sa [2] ++ unread sb [2] ++ (if mx then unread sk [0] else []) } none
    (matBody s strm zd (.mma ta tb mx) anyTile
      (fun p => [(rdSk p sa 0, segAlign ta), (rdSk p sa 1, segAlign ta), (rdSk p sb 0, segAlign tb), (rdSk p sb 1, segAlign tb)])
      (fun p => tripleWords p sa) (fun p => tripleWords p sb) (fun p => if mx then tripleWords p sk else []))

/-- The TRAPAUX of the ILLEGAL that an `mloop` count raises (R236). -/
def loopIll (s : State) (sk : SReg) : Option W64 :=
  match curEx s with
  | some x => if 2 ^ 24 ≤ (rdS x.p sk).toNat then some 2 else none
  | none => none

/-- `mloop` (R236, R239). -/
def execMloop (zd : BitVec 5) (sa sb sk : SReg) (strm : BitVec 2) (ta tb : MatTy) (mx : Bool) (s : State) :
    Host.Outcome State Fault Refusal :=
  issue s { matRule with ill := loopIll s sk } { ss := triple sa ++ triple sb ++ (if mx then triple sk else [sk.toNat]) } none
    (matBody s strm zd (.mloop ta tb mx) anyTile
      (fun p => ((List.range 3).map fun k => (rdSk p sa k, segAlign ta)) ++ (List.range 3).map fun k => (rdSk p sb k, segAlign tb))
      (fun p => tripleWords p sa) (fun p => tripleWords p sb) (fun p => if mx then tripleWords p sk else [rdS p sk]))

/-- `mst` (R236, R240). -/
def execMst (zd : BitVec 5) (sa sb sk : SReg) (strm : BitVec 2) (ty : MatTy) (rm : RoundMode) (ovf scale sig : Bool) (s : State) :
    Host.Outcome State Fault Refusal :=
  issue s matRule { ss := unread sa [0, 1] ++ (if sig then unread sb [0, 1] else []) ++ (if scale then [sk.toNat] else []),
                    sd := unread sa [2] ++ (if sig then unread sb [2] else []) } none
    (matBody s strm zd (.mst ty rm ovf scale sig) (fun _ g => tileBad s g zd)
      (fun p => [(rdSk p sa 0, 64), (rdSk p sa 1, 64)] ++ (if sig then [(rdS p sb, 8)] else []))
      (fun p => tripleWords p sa) (fun p => if sig then tripleWords p sb else []) (fun p => if scale then [rdS p sk] else []))

/-! ### Resuming a stopped stream -/

/-- The stopped operation goes on at the point that MRPn names (R245, R248). -/
def resumeOp (m : W64) (o : MatOp) : MatOp :=
  let step := (m.extractLsb' 32 24).toNat
  let row := (m.extractLsb' 8 6).toNat
  let sig := match o.kind with
    | .mst _ _ _ _ _ => m.extractLsb' 0 3 == 6#3
    | _ => false
  let o := { o with stopped := false, await := none, halt := none }
  if sig then { o with row := 64, col := 0, aseg := none }
  else if step = o.step ∧ row = o.row then o
  else { o with step, row, col := 0, bseg := none, aseg := none, flags := 0 }

/-- The stopped operation and every later one of the group on the stream are removed (R248). -/
def discardFrom (gid : Nat) : List MatOp → List MatOp
  | [] => []
  | o :: l => if o.stopped then l.filter (fun p => p.gid != gid) else o :: discardFrom gid l

/-- Whether the stream's stopped operation is the group's. -/
def stoppedOf (gid : Nat) (l : List MatOp) : Bool := l.head?.any fun o => o.stopped && o.gid == gid

/-- What `mresume` does to a stream and its record (R248). A MATRIX_FAULT of the stream that is not delivered yet is withdrawn with the
record (log entry 82). -/
def resumeStream (s : State) (g : Group) (k : Nat) (discard : Bool) : State :=
  let m := sget 0 g.mrp k
  if !m.getLsbD 63 then s
  else
    let s := modGrp s g.gid fun g => { g with mrp := sset 0 g.mrp k (m &&& ~~~ BitVec.ofNat 64 (2 ^ 63)),
                                              mfault := g.mfault.filter fun e => e.1 != k }
    let (since, s) := fresh s
    modCore s g.die g.core fun c =>
      let l := sget [] c.strm k
      if !stoppedOf g.gid l then c
      else { c with strm := sset [] c.strm k (if discard then discardFrom g.gid l else l.modifyHead fun o => { resumeOp m o with since }) }

/-- `mresume` (R248). -/
def execMresume (strm : BitVec 2) (discard : Bool) (s : State) : Host.Outcome State Fault Refusal :=
  issue s matRule {} none (withGroup fun x g =>
    match binding s g with
    | none => .error (.hold s)
    | some s => .ok (advance (resumeStream s ((grp? s g.gid).getD g) strm.toNat discard) x))

end Sys2Proof.Machine
end

