-- ==== Sys2Proof/Machine/Crypto.lean ====
section
/-! DEFINITION. SHAKE256 (FIPS 202) and the verification of an Ed448 signature (RFC 8032), which the boot names (R360; log entry 76). -/
namespace Sys2Proof.Machine

/-! ### SHAKE256 -/

/-- Lane x, y of a Keccak state, its 25 lanes in the order x + 5y; coordinates count modulo 5. -/
def lane (a : List W64) (x y : Nat) : W64 := (a[x % 5 + 5 * (y % 5)]?).getD 0

/-- A state from its lanes. -/
def lanes (f : Nat → Nat → W64) : List W64 := (List.range 25).map fun i => f (i % 5) (i / 5)

/-- The rotation of each lane in step ρ, in the order of the lanes. -/
def keccakRot : List Nat := [0, 1, 62, 28, 27, 36, 44, 6, 55, 20, 3, 10, 43, 25, 39, 41, 45, 15, 21, 8, 18, 2, 61, 56, 14]

/-- The round constants of step ι. -/
def keccakRound : List W64 :=
  [0x0000000000000001, 0x0000000000008082, 0x800000000000808A, 0x8000000080008000, 0x000000000000808B, 0x0000000080000001] ++
  [0x8000000080008081, 0x8000000000008009, 0x000000000000008A, 0x0000000000000088, 0x0000000080008009, 0x000000008000000A] ++
  [0x000000008000808B, 0x800000000000008B, 0x8000000000008089, 0x8000000000008003, 0x8000000000008002, 0x8000000000000080] ++
  [0x000000000000800A, 0x800000008000000A, 0x8000000080008081, 0x8000000000008080, 0x0000000080000001, 0x8000000080008008]

/-- Step θ: each lane takes the parity of two columns. -/
def keccakTheta (a : List W64) : List W64 :=
  let col := (List.range 5).map fun x => (List.range 5).foldl (fun v y => v ^^^ lane a x y) 0
  let at' := fun (x : Nat) => (col[x % 5]?).getD 0
  lanes fun x y => lane a x y ^^^ at' (x + 4) ^^^ (at' (x + 1)).rotateLeft 1

/-- Steps ρ and π: lane y, 2x + 3y is lane x, y rotated; so lane x, y comes from lane x + 3y, x. -/
def keccakRhoPi (a : List W64) : List W64 :=
  lanes fun x y => (lane a (x + 3 * y) x).rotateLeft ((keccakRot[(x + 3 * y) % 5 + 5 * x]?).getD 0)

/-- Step χ: each lane combines with the two to its right. -/
def keccakChi (a : List W64) : List W64 := lanes fun x y => lane a x y ^^^ (~~~ lane a (x + 1) y &&& lane a (x + 2) y)

/-- Step ι: the round constant goes into lane 0, 0. -/
def keccakIota (rc : W64) (a : List W64) : List W64 := a.modifyHead fun v => v ^^^ rc

/-- Keccak-f[1600]. -/
def keccakF (a : List W64) : List W64 := keccakRound.foldl (fun a rc => keccakIota rc (keccakChi (keccakRhoPi (keccakTheta a)))) a

/-- Bytes of a block of SHAKE256. -/
def shakeRate : Nat := 136

/-- Absorbing one block. -/
def keccakAbsorb (a : List W64) (block : List Byte) : List W64 :=
  keccakF (a.zipIdx.map fun e => e.1 ^^^ BitVec.ofNat 64 (ofBytes ((block.drop (8 * e.2)).take 8)))

/-- The padded message: the suffix 1111 and pad10*1. -/
def shakePad (m : List Byte) : List Byte :=
  let n := shakeRate - m.length % shakeRate
  if n = 1 then m ++ [0x9F] else m ++ [0x1F] ++ List.replicate (n - 2) 0 ++ [0x80]

/-- The blocks of a padded message. -/
def shakeBlocks (m : List Byte) : List (List Byte) := (List.range (m.length / shakeRate)).map fun k => (m.drop (shakeRate * k)).take shakeRate

/-- Bytes squeezed out of a state, in up to a number of blocks. -/
def shakeSqueeze : Nat → List W64 → List Byte
  | 0, _ => []
  | n + 1, a => ((a.flatMap fun v => toBytes 8 v.toNat).take shakeRate) ++ shakeSqueeze n (keccakF a)

/-- SHAKE256 of a message, with an output of `n` bytes (R360). -/
@[irreducible] def shake256 (n : Nat) (m : List Byte) : List Byte :=
  (shakeSqueeze (n / shakeRate + 1) ((shakeBlocks (shakePad m)).foldl keccakAbsorb (List.replicate 25 0))).take n

/-! ### Ed448 -/

/-- The prime of the field. -/
def edP : Nat := 2 ^ 448 - 2 ^ 224 - 1
/-- The order of the base point. -/
def edL : Nat := 2 ^ 446 - 13818066809895115352007386748515426880336692474882178609894547503885
/-- The constant of the curve x² + y² = 1 + d x² y². -/
def edD : Nat := edP - 39081

/-- A difference in the field. -/
def edSub (a b : Nat) : Nat := (a + edP - b % edP) % edP

/-- A power in the field, by squaring; `fuel` bounds the bits of the exponent. -/
def edPow : Nat → Nat → Nat → Nat
  | 0, _, _ => 1
  | f + 1, a, e => if e = 0 then 1 else
    let h := edPow f (a * a % edP) (e / 2)
    if e % 2 = 1 then a * h % edP else h

/-- A point in projective coordinates. -/
structure EdPoint where
  x : Nat
  y : Nat
  z : Nat

/-- The sum of two points, equal ones too. -/
def EdPoint.add (p q : EdPoint) : EdPoint :=
  let a := p.z * q.z % edP
  let b := a * a % edP
  let c := p.x * q.x % edP
  let d := p.y * q.y % edP
  let e := edD * c % edP * d % edP
  let f := edSub b e
  let g := (b + e) % edP
  let h := (p.x + p.y) * (q.x + q.y) % edP
  { x := a * f % edP * edSub h (c + d) % edP, y := a * g % edP * edSub d c % edP, z := f * g % edP }

/-- A multiple of a point; `fuel` bounds the bits of the factor. -/
def EdPoint.mul : Nat → Nat → EdPoint → EdPoint
  | 0, _, _ => { x := 0, y := 1, z := 1 }
  | f + 1, n, p =>
    let h := EdPoint.mul f (n / 2) (p.add p)
    if n % 2 = 1 then p.add h else h

/-- Whether two points are one. -/
def EdPoint.same (p q : EdPoint) : Bool := p.x * q.z % edP == q.x * p.z % edP && p.y * q.z % edP == q.y * p.z % edP

/-- The base point. -/
def edBase : EdPoint :=
  { x := 224580040295924300187604334099896036246789641632564134246125461686950415467406032909029192869357953282578032075146446173674602635247710
    y := 298819210078481492676017930443930673437544040154080242095928241372331506189835876003536878655418784733982303233503462500531545062832660
    z := 1 }

/-- The point that 57 bytes encode, if they do. -/
def edDecode (b : List Byte) : Option EdPoint :=
  let w := ofBytes b
  let y := w % 2 ^ 455
  let sign := w / 2 ^ 455 % 2
  let u := edSub (y * y % edP) 1
  let v := edSub (edD * (y * y % edP) % edP) 1
  let u3v := u * u % edP * u % edP * v % edP
  let u5v3 := u3v * u % edP * u % edP * v % edP * v % edP
  let x := u3v * edPow 450 u5v3 ((edP - 3) / 4) % edP
  if b.length ≠ 57 ∨ edP ≤ y ∨ v * x % edP * x % edP ≠ u ∨ (x = 0 ∧ sign = 1) then none
  else some { x := if x % 2 = sign then x else edP - x, y, z := 1 }

/-- Whether a signature of 114 bytes is one of a message under a key, with no context (R360). -/
@[irreducible] def ed448Verify (key message signature : List Byte) : Bool :=
  match edDecode key, edDecode (signature.take 57) with
  | some a, some r =>
    let s := ofBytes (signature.drop 57)
    let dom : List Byte := [0x53, 0x69, 0x67, 0x45, 0x64, 0x34, 0x34, 0x38, 0, 0]
    let k := ofBytes (shake256 114 (dom ++ signature.take 57 ++ key ++ message)) % edL
    signature.length == 114 && decide (s < edL) &&
      (EdPoint.mul 3 4 (EdPoint.mul 450 s edBase)).same (EdPoint.mul 3 4 (r.add (EdPoint.mul 450 k a)))
  | _, _ => false

end Sys2Proof.Machine
end

