-- ==== Sys2Proof/Machine/Platform.lean ====
section
/-! DEFINITION. Worlds (R358), Pavane (R317 to R323), power and temperature (R17, R18), resets, boot (R360, R362), fuses and
the management interface (R359, R361). -/
namespace Sys2Proof.Machine

/-! ### Worlds -/

/-- A group that a world change stops: SECURE at its next word (R303). -/
def secureOf (g : Group) : Raised := { gid := g.gid, code := 0x22, pc := slotPc g.stack.a, va := 0, aux := 0 }

/-- The resident teams on a core take SECURE (R303, R309). -/
def secureTeams (s : State) (d c : Nat) : State :=
  (s.teams.filter fun t => t.onCores && t.die == d && t.cores.contains c).foldl (fun s t =>
    haltTeam s t.tid ((s.groups.filter fun g => g.team == t.tid && g.core == c).map secureOf)) s

/-- A queue with an outstanding packet at a guest port that changes worlds receives SECURE and halts; the packet does not complete
(R303; log entry 64). -/
def secureQueue (k : Nat) (s : State) (e : Nat × Nat × Nat) : State :=
  let s := modPacket s e.1 e.2.1 e.2.2 fun p => { p with never := true }
  haltQueue (writeRecord s e.1 e.2.1 { source := 4, cause := 0x22, die := socketDie k, unit := 0, seq := e.2.2 }) e.1 e.2.1

/-- What runs on a block takes SECURE (R303). -/
def stopBlock (s : State) : Block → State
  | .core d c => secureTeams s d c
  | .copyEngine d e => (s.copies.filter fun c => c.die == d && c.k / 4 == e && !c.ops.isEmpty).foldl (fun s c =>
      stopCopy s c { cause := .secure } (slotPc c.prog)) s
  | .qthread d t => match qt? s d t with
    | some q => (match q.path with
      | some p => stopThread s q 0x22 p.pc 0 0
      | none => s)
    | none => s
  | .guestPort k => match guest? s k with
    | some g => g.packets.foldl (secureQueue k) s
    | none => s

/-- WORLD_CHANGE (R358). -/
def execWorldChange (b : Block) (secure : Bool) (s : State) : Host.Outcome State Fault Refusal :=
  .next (if s.secure.contains b = secure then s
    else
      let s := stopBlock s b
      { s with secure := if secure then b :: s.secure else s.secure.filter fun x => x != b })

/-! ### Pavane -/

/-- The core that a die's Pavane visits next: the first in service from a number on, or from 0 (R317). -/
def nextVisit (s : State) (die k : Nat) : Option Nat :=
  let ok := fun (c : Nat) => (core? s die c).any fun x => x.st == .inService
  ((List.range Config.cores).find? fun c => decide (k ≤ c) && ok c) <|> (List.range Config.cores).find? ok

/-- Changing the service state of a core. -/
def setCore (s : State) (die c : Nat) (st : CoreSt) : State := modCore s die c fun x => { x with st }

/-- Pavane goes on to a phase at the present time. -/
def setPavane (s : State) (die c : Nat) (ph : PavPhase) : State :=
  modDie s die fun d => { d with pavCore := c, pavPhase := ph, pavAt := s.now }

/-- The die whose Pavane is in one of some phases. -/
def pavDie (s : State) (die : Nat) (ok : PavPhase → Bool) : Option Die := (die? s die).filter fun d => !d.lost && ok d.pavPhase

/-- PAVANE_DRAIN_START (R317). -/
def execPavaneDrainStart (die : Nat) (s : State) : Host.Outcome State Fault Refusal :=
  .next (match pavDie s die fun p => p == .idle with
    | none => s
    | some d => match nextVisit s die d.pavCore with
      | none => s
      | some c => setPavane (setCore s die c .draining) die c .drain)

/-- Whether a core holds no group but the walker (R317). -/
def coreEmpty (s : State) (die c : Nat) : Bool := !s.groups.any fun g => g.die == die && g.core == c && !g.isWalker

/-- PAVANE_DRAIN_TIMEOUT (R317): after 4 ms the teams still resident are asked to leave. -/
def execPavaneDrainTimeout (die : Nat) (s : State) : Host.Outcome State Fault Refusal :=
  .next (match pavDie s die fun p => p == .drain with
    | none => s
    | some d =>
      if s.now < d.pavAt + 4000 * Config.usCycles ∨ coreEmpty s die d.pavCore then s
      else setPavane (preempt s die [d.pavCore] none) die d.pavCore .asked)

/-- The scan number of a core. -/
def scanOf (s : State) (die c : Nat) : Nat := match core? s die c with
  | some x => x.scan
  | none => 0

/-- The visit of a core ends. -/
def leaveCore (s : State) (die c : Nat) (st : CoreSt) : State := setPavane (setCore s die c st) die ((c + 1) % Config.cores) .idle

/-- PAVANE_SKIP (R318): 100 ms after the request. -/
def execPavaneSkip (die : Nat) (s : State) : Host.Outcome State Fault Refusal :=
  .next (match pavDie s die fun p => p == .asked with
    | none => s
    | some d =>
      if s.now < d.pavAt + 100000 * Config.usCycles ∨ coreEmpty s die d.pavCore then s
      else leaveCore (logFlight s die 0x03 0 d.pavCore (scanOf s die d.pavCore) 0) die d.pavCore .inService)

/-- PAVANE_SCAN_START (R317, R320). -/
def execPavaneScanStart (die : Nat) (s : State) : Host.Outcome State Fault Refusal :=
  .next (match pavDie s die fun p => p == .drain || p == .asked with
    | none => s
    | some d =>
      if !coreEmpty s die d.pavCore then s
      else setPavane (modCore s die d.pavCore fun c => { c with st := .scanning, scan := c.scan + 1 }) die d.pavCore .scan)

/-- The packets of a queue that a failed scan of a core makes suspect (R322). -/
def suspectsOn (s : State) (q : Queue) (c : Core) : List Nat :=
  (q.packets.filter fun p => !p.vouched && !ranVouched s p && p.ran.any fun r => r.1 == c.die * 64 + c.core && decide (c.pass < r.2)).map fun p => p.seq

/-- SUSPECT in one queue (R322): the range from the lowest to the highest suspect number, and the suspect packets themselves. -/
def suspectQueue (c : Core) (s : State) (q : Queue) : State :=
  match (suspectsOn s q c).min?, (suspectsOn s q c).max? with
  | some lo, some hi =>
    let s := writeRecord s q.die q.qid { source := 3, cause := 0x35, die := c.die, unit := c.core, seq := lo, aux := BitVec.ofNat 64 hi }
    modQueue s q.die q.qid fun x =>
      { x with suspects := x.suspects ++ [(lo, hi)],
               packets := modWhere x.packets (fun p => (suspectsOn s q c).contains p.seq) fun p => { p with suspect := true } }
  | _, _ => s

/-- SUSPECT reporting after a failed scan (R322). -/
def suspectAll (s : State) (c : Core) : State := s.queues.foldl (suspectQueue c) s

/-- A scan passes (R319 to R321): work is vouched, and grids that waited for it complete. -/
def scanPass (s : State) (c : Core) (fold : Option Nat) : State :=
  let s := modCore s c.die c.core fun c => { c with pass := c.scan, passes := c.passes + 1, fold }
  let s := logFlight s c.die 0x01 0 c.core c.scan 0
  settleAll ((s.launches.map fun l => l.lid).foldl gridEnd s)

/-- A scan fails (R319, R322): suspects are reported, and the core is folded or goes out of service. -/
def scanFail (s : State) (c : Core) (lane : Option Nat) (fold : Bool) : State :=
  let s := suspectAll (logFlight s c.die 0x02 0 c.core c.scan (lane.getD 0xFFFFFFFF)) c
  if fold then logFlight (modCore s c.die c.core fun c => { c with fold := lane }) c.die 0x04 0 c.core (lane.getD 0) 0
  else logFlight s c.die 0x05 0 c.core 0 0

/-- What a scan's result does, and the service state that follows (R319, R323): on a folded core the lane that is still unsound
is no new failure. -/
def scanEnd (s : State) (c : Core) : ScanResult → State × CoreSt
  | .pass => (scanPass s c none, .inService)
  | .failLane p =>
    if c.fold = some p then (scanPass s c c.fold, .inService)
    else if c.fold.isSome then (scanFail s c (some p) false, .out)
    else (scanFail s c (some p) true, .inService)
  | .failOther => (scanFail s c none false, .out)

/-- PAVANE_SCAN_RESULT (R12, R319): lanes are physical, 0 to 255. -/
def execPavaneScanResult (die : Nat) (r : ScanResult) (s : State) : Host.Outcome State Fault Refusal :=
  .next (match pavDie s die fun p => p == .scan with
    | none => s
    | some d => match core? s die d.pavCore with
      | none => s
      | some c =>
        let (s, st) := scanEnd s c r
        leaveCore s die d.pavCore st)

/-- CORE_RETURN (R319). -/
def execCoreReturn (die core : Nat) (s : State) : Host.Outcome State Fault Refusal :=
  .next (if (core? s die core).any fun c => c.st == .out then setCore s die core .inService else s)

/-! ### Power and temperature -/

/-- Another sixteenth of a die's cycles is gated, and the step is logged (R17, R332); a sixteenth is left clocked, where the spec names no
greatest value (log entry 65). -/
def gateMore (s : State) (die : Nat) : State :=
  match die? s die with
  | none => s
  | some d =>
    if d.lost ∨ 15 ≤ d.gate then s
    else logFlight (modDie s die fun d => { d with gate := d.gate + 1 }) die 0x40 8 0 (d.gate + 1) s.limit

/-- A sixteenth of a die's cycles is clocked again, once the draw and the temperature allow it (R17, R18; log entry 65). -/
def gateLess (s : State) (die : Nat) : State :=
  match die? s die with
  | none => s
  | some d =>
    if d.lost ∨ d.gate = 0 then s
    else logFlight (modDie s die fun d => { d with gate := d.gate - 1 }) die 0x40 8 0 (d.gate - 1) s.limit

/-- GATE_STEP (R17). -/
def execGateStep (die : Nat) (s : State) : Host.Outcome State Fault Refusal := .next (gateMore s die)
/-- THERMAL_GATE (R18). -/
def execThermalGate (die : Nat) (s : State) : Host.Outcome State Fault Refusal := .next (gateMore s die)

/-- THERMAL_TRIP (R18, R332): at 115 °C on any die, every die logs it and all clocks stop. -/
def execThermalTrip (die temp : Nat) (s : State) : Host.Outcome State Fault Refusal :=
  .next (if temp < 115 ∨ 12 ≤ die ∨ s.stopped then s
    else
      let s := (s.dies.filter fun d => !d.lost).foldl (fun s d => logFlight s d.die 0x41 8 0 temp 0) s
      emit { s with stopped := true } .thermalTrip)

/-! ### Resets -/

/-- MINIMAL (R362). -/
def minimal (s : State) : Bool := s.bootwhy.getLsbD 0

/-- What is outside the module's reset, or survives it (R360, R362; log entry 2). -/
def carry (s r : State) : State :=
  { r with hostMem := s.hostMem, guestMem := s.guestMem, modid := s.modid, bootwhy := s.bootwhy, startRec := s.startRec, fuses := s.fuses,
           agenda := s.agenda, freeCtr := s.freeCtr, freshId := s.freshId, outbox := s.outbox }

/-- A module in minimal mode: only die 0 is in service, and it knows that (R362). -/
def onlyDie0 (s : State) : State :=
  { s with die0Only := true, dies := s.dies.map fun d =>
      if d.die = 0 then { d with down := (List.range Config.dies).filter fun k => k != 0 } else { d with lost := true } }

/-- A cold reset (R182, R330, R362): every die starts, until the start record tells die 0 that the module is in minimal mode. -/
def coldState (s : State) : State := carry s State.reset

/-- COLD_RESET (R182, R330, R362). -/
def execColdReset (s : State) : Host.Outcome State Fault Refusal := .next (coldState s)

/-- A die after a warm reset (R6, R18, R330, R337): the recorder and the source of the last mailbox entry stay, and a lost die
stays lost. -/
def warmDie (d : Die) : Die :=
  { Die.reset d.die with lost := d.lost, down := d.down, failed := d.failed, flight := d.flight, fseq := d.fseq, mbsrc := d.mbsrc }

/-- A core after a warm reset (R323): its fold stays, and one that is out of service stays out. -/
def warmCore (c : Core) : Core :=
  { Core.reset c.die c.core with fold := c.fold, st := if c.st = .out then .out else .inService }

/-- A warm reset (R18, R182, R362): contexts, queues and teams end; HBM, vaults, formats and timelines stay, and so does minimal mode,
which the next cold reset ends. -/
def warmState (s : State) : State :=
  { carry s State.reset with mem := s.mem, pois := s.pois, l2bad := s.l2bad, fmt := s.fmt, tl := s.tl, limit := s.limit, die0Only := s.die0Only, dies := s.dies.map warmDie,
                             cores := s.cores.map warmCore }

/-- WARM_RESET (R18, R182, R323, R330). -/
def execWarmReset (s : State) : Host.Outcome State Fault Refusal := .next (warmState s)

/-! ### Boot -/

/-- The STAGE that a die's boot has reached (R362): an image is refused at the stage it belongs to. -/
def bootStage : BootSt → Nat
  | .rom => 0
  | .firmware => 1
  | _ => 2

/-- BOOTWHY after a failed start (R362): MINIMAL is cleared by software alone. -/
def failWord (s : State) (die stage reason : Nat) : W64 :=
  let n := min 15 (bitsOf s.bootwhy 4 4 + 1)
  BitVec.ofNat 64 (die % 16 * 2 ^ 28 + stage * 2 ^ 16 + reason * 2 ^ 8 + n * 2 ^ 4 + (minimal s || decide (3 ≤ n)).toNat)

/-- The requests that a die's boot ROM is to make next; none is sent yet (R359). -/
def wantNext (s : State) (die : Nat) (l : List BootReq) : State :=
  modDie s die fun d => { d with want := l, asks := 0, bootAt := s.now }

/-- A start fails (R362): its outcome is to be stored; after three in a row the module starts in minimal mode. -/
def startFails (s : State) (die stage reason : Nat) : State :=
  let s := { s with bootwhy := failWord s die stage reason }
  if minimal s then
    let s := coldState s
    wantNext s 0 (.putRecord :: ((die? s 0).toList.flatMap fun d => d.want))
  else wantNext { s with dies := s.dies.map fun d => { d with boot := .failed, want := [] } } 0 [.putRecord]

/-- Whether a key of a hash is accepted (R360, R362): none, or the reason of the refusal. -/
def keyFails (f : Fuses) (h : List Byte) : Option Nat :=
  if h = f.vendor then (if f.ownerOnly then some 1 else none)
  else match [1, 2].find? fun k => !(sget [] f.owners k).isEmpty && sget [] f.owners k == h with
    | some k => if f.revoked.contains k then some 7 else none
    | none => some 1

/-- Why an image is refused (R360, R362): the STAGE and the REASON. -/
def imageFails (f : Fuses) (st : BootSt) (image : List Byte) (img : BootImage) : Option (Nat × Nat) :=
  if st = .rom ∧ !img.selfTest then some (0, 5)
  else if st = .rom ∧ !img.linkTrain then some (0, 6)
  else
    let stage := bootStage st + 1
    if img.hash ≠ shake256 64 image then some (stage, 2)
    else match keyFails f (shake256 64 img.key) with
      | some r => some (stage, r)
      | none =>
        if !ed448Verify img.key image img.signature then some (stage, 1)
        else if img.version < f.version then some (stage, 3)
        else none

/-- The next stage of a die's boot. -/
def bootNext : BootSt → BootSt
  | .rom => .firmware
  | .firmware => .kernel
  | st => st

/-- An image is accepted (R360): its hash goes to the measurement log, and the next stage reads the image that it verifies in turn:
image 1 is the secure firmware and image 2 the die kernel (log entry 75). -/
def acceptImage (s : State) (d : Die) : State :=
  modDie { s with measured := s.measured ++ [shake256 64 d.image] } d.die fun x =>
    { x with boot := bootNext x.boot, want := if x.boot = .rom then [.readImage 2 0] else [], image := [], whole := false, asks := 0,
             bootAt := s.now }

/-- BOOT_ROM_START (R360): the ROM verifies the secure firmware, which verifies the die kernel in the same way, once the image has been
read whole. -/
def execBootRomStart (die : Nat) (img : BootImage) (s : State) : Host.Outcome State Fault Refusal :=
  .next (match (die? s die).filter fun d => !d.lost && d.whole && (d.boot == .rom || d.boot == .firmware) with
    | none => s
    | some d =>
      if img.stage ≠ bootStage d.boot + 1 then s
      else match imageFails s.fuses d.boot d.image img with
        | some (stage, r) => startFails s die stage r
        | none => acceptImage s d)

/-- A boot ROM sends the first of its requests (R359); one to store the record carries BOOTWHY (R362). -/
def askBoot (s : State) (die : Nat) : State :=
  match (die? s die).filter fun d => !d.lost with
  | none => s
  | some d => match d.want with
    | [] => s
    | r :: _ => emit (modDie s die fun d => { d with asks := d.asks + 1, bootAt := s.now }) (.bootRequest die r s.bootwhy)

/-- A request that no answer has come to, sent four times in all, fails the start (R359); a start that has failed already stays failed. -/
def bootSilent (s : State) (d : Die) : State :=
  if d.boot = .failed then wantNext s d.die (d.want.drop 1) else startFails s d.die (bootStage d.boot) 4

/-- BOOT_REQUEST_TIMEOUT (R359): a request unanswered for 1 s is sent again, three times at most. -/
def execBootRequestTimeout (die : Nat) (s : State) : Host.Outcome State Fault Refusal :=
  .next (match (die? s die).filter fun d => !d.lost && d.asks != 0 with
    | none => s
    | some d =>
      if s.now < d.bootAt + 1000000 * Config.usCycles then s
      else if d.asks < 4 then askBoot s die
      else bootSilent s d)

/-- BOOT_READY_TIMEOUT (R362): 30 s after the release of reset. -/
def execBootReadyTimeout (die : Nat) (s : State) : Host.Outcome State Fault Refusal :=
  .next (if s.now < 30000000 * Config.usCycles then s
    else match (die? s die).filter fun d => !d.lost && d.boot != .ready && d.boot != .failed with
      | none => s
      | some _ => startFails s die 2 4)

/-- A start completes (R361, R362): the count is cleared, the attestation key is derived, and the outcome is to be stored. -/
def startDone (s : State) : State :=
  wantNext { s with bootwhy := s.bootwhy &&& ~~~ 0xF0#64, attKey := Config.deriveKey s.fuses.identity s.measured } 0 [.putRecord]

/-- DIE_KERNEL_READY (R362). -/
def execDieKernelReady (die : Nat) (s : State) : Host.Outcome State Fault Refusal :=
  .next (if !(die? s die).any fun d => !d.lost && d.boot == .kernel then s
    else
      let s := modDie s die fun d => { d with boot := .ready }
      if s.dies.all fun d => d.lost || d.boot == .ready then startDone s else s)

/-- Whether a die's boot ROM waits for the answer to a request (R359). -/
def asked (s : State) (die : Nat) (r : BootReq) : Bool :=
  (die? s die).any fun d => !d.lost && d.asks != 0 && d.want.head? == some r

/-- The first request of a die's boot ROM is answered; the next is to be sent (R359). -/
def bootAnswered (s : State) (die : Nat) : State := wantNext s die ((die? s die).toList.flatMap fun d => d.want.drop 1)

/-- READ_IMAGE (R359, R360): the reply to a boot ROM's request. A reply of 4096 bytes is followed by a request for the bytes behind it, a
shorter one ends the image (log entry 75). -/
def execReadImage (die image offset : Nat) (bytes : List Byte) (s : State) : Host.Outcome State Fault Refusal :=
  .next (if 4096 < bytes.length || !asked s die (.readImage image offset) then s
    else
      let s := modDie s die fun d => { d with image := d.image ++ bytes, whole := decide (bytes.length < 4096) }
      if bytes.length < 4096 then bootAnswered s die else wantNext s die [.readImage image (offset + 4096)])

/-- GET_START_RECORD (R359, R362): the reply is loaded into BOOTWHY, whose reserved bits read zero; with MINIMAL set the module starts in
minimal mode, with it clear in the mode that the reset left (log entry 75). -/
def execGetStartRecord (rec : W64) (s : State) : Host.Outcome State Fault Refusal :=
  .next (if !asked s 0 .getRecord then s
    else
      let s := { bootAnswered s 0 with bootwhy := rec &&& 0xF0FFFFF1#64 }
      if minimal s then onlyDie0 s else s)

/-- PUT_START_RECORD (R359, R362). -/
def execPutStartRecord (s : State) : Host.Outcome State Fault Refusal :=
  .next (if asked s 0 .putRecord then { bootAnswered s 0 with startRec := s.bootwhy } else s)

/-- FUSE_BLOW (R360): a fuse once blown stays. -/
def execFuseBlow (f : Fuse) (s : State) : Host.Outcome State Fault Refusal :=
  .next { s with fuses := match f with
    | .ownerOnly => { s.fuses with ownerOnly := true }
    | .ownerKey slot h =>
      if slot = 0 ∨ 2 < slot ∨ sget [] s.fuses.owners slot ≠ [] then s.fuses else { s.fuses with owners := sset [] s.fuses.owners slot h }
    | .revoke slot => { s.fuses with revoked := (slot :: s.fuses.revoked).dedup }
    | .rollback v => { s.fuses with version := max v s.fuses.version } }

/-! ### Management -/

/-- An answer of the management interface. -/
def answer (s : State) (b : List Byte) : State := emit s (.mctp b)

/-- An answer whose bytes other standards and the module's keys decide (R359, R361; log entry 5). -/
def openAnswer (s : State) : State :=
  let (n, s) := draw s
  answer s (Config.attest n)

/-- MCTP_CONTROL (R359). -/
def execMctpControl (_msg : List Byte) (s : State) : Host.Outcome State Fault Refusal := .next (openAnswer s)
/-- PLDM_REQUEST (R359): kind 2 is the sensor of the power limit, whose reading the module holds. -/
def execPldmRequest (kind _die : Nat) (s : State) : Host.Outcome State Fault Refusal :=
  .next (if kind = 2 then answer s (toBytes 4 s.limit) else openAnswer s)
/-- SPDM_REQUEST (R361): of the attestation key, the certificate chain and the measurements. -/
def execSpdmRequest (msg : List Byte) (s : State) : Host.Outcome State Fault Refusal :=
  .next (let (n, s) := draw s
         answer s (Config.spdm s.attKey s.fuses.chain s.measured msg n))

/-- GET_LIMIT (R359). -/
def execGetLimit (s : State) : Host.Outcome State Fault Refusal := .next (answer s (0 :: toBytes 4 s.limit))
/-- SET_LIMIT (R17, R359). -/
def execSetLimit (watts : Nat) (s : State) : Host.Outcome State Fault Refusal :=
  .next (if 4000 ≤ watts ∧ watts ≤ 8200 then answer { s with limit := watts } [0] else answer s [1])

/-- READ_FR (R359). -/
def execReadFr (die seq count : Nat) (s : State) : Host.Outcome State Fault Refusal :=
  .next (match die? s die with
    | none => answer s [1]
    | some d =>
      if count = 0 ∨ 16 < count then answer s [1]
      else answer s (0 :: (flightFrom s d.die seq count).flatMap FlightRec.bytes))

/-- READ_BOOTWHY (R359). -/
def execReadBootwhy (s : State) : Host.Outcome State Fault Refusal := .next (answer s (0 :: toBytes 8 s.bootwhy.toNat))
/-- CLEAR_MINIMAL (R359). -/
def execClearMinimal (s : State) : Host.Outcome State Fault Refusal := .next (answer (clearMinimalBit s) [0])

end Sys2Proof.Machine
end

