-- ==== Sys2Proof/Machine/VectorInt.lean ====
section
/-! DEFINITION. Vector integer, move and mask instructions (R122 to R134). -/
namespace Sys2Proof.Machine

/-- The rule of the vector instructions (R22, R66). -/
def vecRule : Rule := ruleGrp .vector

/-- Register numbers as naturals. -/
def nums (l : List VReg) : List Nat := l.map BitVec.toNat

/-- A lane-wise instruction of single registers (R122). -/
def vecOp (s : State) (h : Head) (vs : List VReg) (vd : VReg) (f : Group → Path → Nat → List (Nat × W32)) :
    Host.Outcome State Fault Refusal :=
  issue s vecRule { vs := nums vs, vd := [vd.toNat] } (some h) (vecBody s h f)

/-- A two-source arithmetic row of R126: exact, then narrowed (R127). -/
def vecArith (s : State) (h : Head) (ty : IntTy) (vd va vb : VReg) (sat : Bool) (f : Int → Int → Int) :
    Host.Outcome State Fault Refusal :=
  vecOp s h [va, vb] vd fun g _ i =>
    intWrites ty vd.toNat i (narrow ty sat (f (laneInt g ty va.toNat i) (laneInt g ty vb.toNat i)))

/-- A two-source bitwise row of R126. -/
def vecBits (s : State) (h : Head) (ty : IntTy) (vd va vb : VReg) (f : Nat → Nat → Nat) : Host.Outcome State Fault Refusal :=
  vecOp s h [va, vb] vd fun g _ i => intWrites ty vd.toNat i (f (laneBits g ty va.toNat i) (laneBits g ty vb.toNat i))

/-- A one-source bitwise row. -/
def vecBit1 (s : State) (h : Head) (ty : IntTy) (vd va : VReg) (f : Nat → Nat) : Host.Outcome State Fault Refusal :=
  vecOp s h [va] vd fun g _ i => intWrites ty vd.toNat i (f (laneBits g ty va.toNat i))

/-- A count row: an unsigned 32-bit integer (R127). -/
def vecCnt (s : State) (h : Head) (ty : IntTy) (vd va : VReg) (f : Nat → Nat) : Host.Outcome State Fault Refusal :=
  vecOp s h [va] vd fun g _ i => [(vd.toNat * 64 + i, BitVec.ofNat 32 (f (laneBits g ty va.toNat i)))]

/-- A shift row (R86). -/
def vecShift (s : State) (h : Head) (ty : IntTy) (vd va vb : VReg) (f : Nat → Nat → Nat → Nat) :
    Host.Outcome State Fault Refusal :=
  vecBits s h ty vd va vb fun a b => f ty.width a (shiftCount ty.width b)

/-- The immediate of the VI format: sign-extended, its low n bits (R131). -/
def immBits (imm : BitVec 25) : Nat := (imm.signExtend 32).toNat

/-- An arithmetic immediate form (R131). -/
def vecArithImm (s : State) (h : Head) (ty : IntTy) (vd va : VReg) (imm : BitVec 25) (f : Int → Int → Int) :
    Host.Outcome State Fault Refusal :=
  vecOp s h [va] vd fun g _ i =>
    intWrites ty vd.toNat i (narrow ty false (f (laneInt g ty va.toNat i) (readInt ty (immBits imm))))

/-- A bitwise immediate form (R131). -/
def vecBitsImm (s : State) (h : Head) (ty : IntTy) (vd va : VReg) (imm : BitVec 25) (f : Nat → Nat → Nat) :
    Host.Outcome State Fault Refusal :=
  vecOp s h [va] vd fun g _ i => intWrites ty vd.toNat i (f (laneBits g ty va.toNat i) (lowBits ty.width (immBits imm)))

/-- A shift immediate form (R131). -/
def vecShiftImm (s : State) (h : Head) (ty : IntTy) (vd va : VReg) (imm : BitVec 25) (f : Nat → Nat → Nat → Nat) :
    Host.Outcome State Fault Refusal :=
  vecBitsImm s h ty vd va imm fun a b => f ty.width a (shiftCount ty.width b)

/-- `vadd` (R126, R127). -/
def execVadd (h : Head) (ty : IntTy) (vd va vb : VReg) (sat : Bool) (s : State) : Host.Outcome State Fault Refusal :=
  vecArith s h ty vd va vb sat fun a b => a + b
/-- `vsub` (R126, R127). -/
def execVsub (h : Head) (ty : IntTy) (vd va vb : VReg) (sat : Bool) (s : State) : Host.Outcome State Fault Refusal :=
  vecArith s h ty vd va vb sat fun a b => a - b
/-- `vmul` (R126, R127). -/
def execVmul (h : Head) (ty : IntTy) (vd va vb : VReg) (sat : Bool) (s : State) : Host.Outcome State Fault Refusal :=
  vecArith s h ty vd va vb sat fun a b => a * b
/-- `vmulh`: the upper n bits of the exact product (R126). -/
def execVmulh (h : Head) (ty : IntTy) (vd va vb : VReg) (s : State) : Host.Outcome State Fault Refusal :=
  vecArith s h ty vd va vb false fun a b => a * b / (2 ^ ty.width : Nat)
/-- `vmad`: a × b + c, computed exactly (R126, R127). -/
def execVmad (h : Head) (ty : IntTy) (vd va vb vc : VReg) (sat : Bool) (s : State) : Host.Outcome State Fault Refusal :=
  vecOp s h [va, vb, vc] vd fun g _ i =>
    intWrites ty vd.toNat i
      (narrow ty sat (laneInt g ty va.toNat i * laneInt g ty vb.toNat i + laneInt g ty vc.toNat i))
/-- `vand` (R126). -/
def execVand (h : Head) (ty : IntTy) (vd va vb : VReg) (s : State) : Host.Outcome State Fault Refusal :=
  vecBits s h ty vd va vb Nat.land
/-- `vor` (R126). -/
def execVor (h : Head) (ty : IntTy) (vd va vb : VReg) (s : State) : Host.Outcome State Fault Refusal :=
  vecBits s h ty vd va vb Nat.lor
/-- `vxor` (R126). -/
def execVxor (h : Head) (ty : IntTy) (vd va vb : VReg) (s : State) : Host.Outcome State Fault Refusal :=
  vecBits s h ty vd va vb Nat.xor
/-- `vandn` (R126). -/
def execVandn (h : Head) (ty : IntTy) (vd va vb : VReg) (s : State) : Host.Outcome State Fault Refusal :=
  vecBits s h ty vd va vb fun a b => a - Nat.land a b
/-- `vnot` (R126). -/
def execVnot (h : Head) (ty : IntTy) (vd va : VReg) (s : State) : Host.Outcome State Fault Refusal :=
  vecBit1 s h ty vd va fun a => 2 ^ ty.width - 1 - a
/-- `vshl` (R86, R126). -/
def execVshl (h : Head) (ty : IntTy) (vd va vb : VReg) (s : State) : Host.Outcome State Fault Refusal :=
  vecShift s h ty vd va vb shlN
/-- `vshr` (R86, R126). -/
def execVshr (h : Head) (ty : IntTy) (vd va vb : VReg) (s : State) : Host.Outcome State Fault Refusal :=
  vecShift s h ty vd va vb fun _ a c => shrN a c
/-- `vsra` (R86, R126). -/
def execVsra (h : Head) (ty : IntTy) (vd va vb : VReg) (s : State) : Host.Outcome State Fault Refusal :=
  vecShift s h ty vd va vb sraN
/-- `vmin` (R126). -/
def execVmin (h : Head) (ty : IntTy) (vd va vb : VReg) (s : State) : Host.Outcome State Fault Refusal :=
  vecArith s h ty vd va vb false min
/-- `vmax` (R126). -/
def execVmax (h : Head) (ty : IntTy) (vd va vb : VReg) (s : State) : Host.Outcome State Fault Refusal :=
  vecArith s h ty vd va vb false max
/-- `vabs` (R126, R127). -/
def execVabs (h : Head) (ty : IntTy) (vd va : VReg) (sat : Bool) (s : State) : Host.Outcome State Fault Refusal :=
  vecOp s h [va] vd fun g _ i => intWrites ty vd.toNat i (narrow ty sat (laneInt g ty va.toNat i).natAbs)
/-- `vneg` (R126, R127). -/
def execVneg (h : Head) (ty : IntTy) (vd va : VReg) (sat : Bool) (s : State) : Host.Outcome State Fault Refusal :=
  vecOp s h [va] vd fun g _ i => intWrites ty vd.toNat i (narrow ty sat (-(laneInt g ty va.toNat i)))
/-- `vclz` (R126). -/
def execVclz (h : Head) (ty : IntTy) (vd va : VReg) (s : State) :
    Host.Outcome State Fault Refusal := vecCnt s h ty vd va (clzN ty.width)
/-- `vpopc` (R126). -/
def execVpopc (h : Head) (ty : IntTy) (vd va : VReg) (s : State) :
    Host.Outcome State Fault Refusal := vecCnt s h ty vd va (popcN ty.width)
/-- `vbrev` (R126). -/
def execVbrev (h : Head) (ty : IntTy) (vd va : VReg) (s : State) :
    Host.Outcome State Fault Refusal := vecBit1 s h ty vd va (brevN ty.width)

/-- The position and length of a control word, shortened at bit 31 (R128). -/
def fieldCtl (c : W32) : Nat × Nat :=
  let pos := c.toNat % 32
  (pos, min (c.toNat / 256 % 64) (32 - pos))

/-- `vbfe` (R128). -/
def execVbfe (h : Head) (ty : IntTy) (vd va vc : VReg) (s : State) : Host.Outcome State Fault Refusal :=
  vecOp s h [va, vc] vd fun g _ i =>
    let c := fieldCtl (rdV g vc.toNat i)
    [(vd.toNat * 64 + i, BitVec.ofInt 32 (signField ty.isI (fieldN (rdV g va.toNat i).toNat c.1 c.2) c.2))]
/-- `vbfi` (R128). -/
def execVbfi (h : Head) (vd va vb vc : VReg) (s : State) : Host.Outcome State Fault Refusal :=
  vecOp s h [va, vb, vc] vd fun g _ i =>
    let c := fieldCtl (rdV g vc.toNat i)
    [(vd.toNat * 64 + i, BitVec.ofNat 32 (insertN (rdV g va.toNat i).toNat (rdV g vb.toNat i).toNat c.1 c.2))]

/-- `vaddc` and `vsubb`: the carry or borrow of each lane goes through mask register K (R129). -/
def carryOp (s : State) (h : Head) (vd va vb : VReg) (k : MReg) (f : Nat → Nat → Nat → Nat × Bool) :
    Host.Outcome State Fault Refusal :=
  issue s vecRule { vs := nums [va, vb], vd := [vd.toNat] } (some h) (laneBody s h fun g p act =>
    let cin := rdM g p k
    let r := (lanesOf act).map fun i => (i, f (rdV g va.toNat i).toNat (rdV g vb.toNat i).toNat (cin.getLsbD i).toNat)
    let g := aluVec g (r.map fun e => (vd.toNat * 64 + e.1, BitVec.ofNat 32 e.2.1))
    if act = 0 then g else wrM g k.toNat act (maskOf ((r.filter fun e => e.2.2).map fun e => e.1)))

/-- `vaddc` (R129). -/
def execVaddc (h : Head) (vd va vb : VReg) (k : MReg) (s : State) : Host.Outcome State Fault Refusal :=
  carryOp s h vd va vb k fun a b c => (a + b + c, decide (2 ^ 32 ≤ a + b + c))
/-- `vsubb` (R129). -/
def execVsubb (h : Head) (vd va vb : VReg) (k : MReg) (s : State) : Host.Outcome State Fault Refusal :=
  carryOp s h vd va vb k fun a b c => (a + 2 ^ 33 - b - c, decide (a < b + c))
/-- `vclmul` (R130). -/
def execVclmul (h : Head) (vd va vb vc : VReg) (hi xacc : Bool) (s : State) : Host.Outcome State Fault Refusal :=
  vecOp s h (if xacc then [va, vb, vc] else [va, vb]) vd fun g _ i =>
    let p := clmul (rdV g va.toNat i).toNat (rdV g vb.toNat i).toNat
    let x := BitVec.ofNat 32 (if hi then p / 2 ^ 32 else p)
    [(vd.toNat * 64 + i, if xacc then x ^^^ rdV g vc.toNat i else x)]

/-! ### Moves and set-up -/

/-- The writes of a 32-bit register or of a pair from another. -/
def moveWrites (g : Group) (ty : IntTy) (vd va i : Nat) : List (Nat × W32) :=
  if ty.width = 64 then [(vd * 64 + i, rdV g va i), ((vd + 1) * 64 + i, rdV g (va + 1) i)] else [(vd * 64 + i, rdV g va i)]

/-- `vmov` (R126). -/
def execVmov (h : Head) (ty : IntTy) (vd va : VReg) (s : State) : Host.Outcome State Fault Refusal :=
  issue s vecRule { vs := intRegs ty va, vd := intRegs ty vd } (some h)
    (vecBody s h fun g _ i => moveWrites g ty vd.toNat va.toNat i)
/-- `vli` (R132). -/
def execVli (h : Head) (vd : VReg) (imm : W32) (s : State) : Host.Outcome State Fault Refusal :=
  vecOp s h [] vd fun _ _ i => [(vd.toNat * 64 + i, imm)]
/-- `vsel` (R132). -/
def execVsel (h : Head) (ty : IntTy) (vd va vb : VReg) (k : MReg) (s : State) : Host.Outcome State Fault Refusal :=
  issue s vecRule { vs := intRegs ty va ++ intRegs ty vb, vd := intRegs ty vd } (some h)
    (vecBody s h fun g p i => moveWrites g ty vd.toNat (if (rdM g p k).getLsbD i then va.toNat else vb.toNat) i)
/-- `vbcast` (R125, R132). -/
def execVbcast (h : Head) (ty : IntTy) (vd : VReg) (ss : SReg) (s : State) : Host.Outcome State Fault Refusal :=
  issue s vecRule { vd := intRegs ty vd, ss := [ss.toNat] } (some h)
    (vecBody s h fun _ p i => intWrites ty vd.toNat i (rdS p ss).toNat)
/-- `vlane` (R132). -/
def execVlane (h : Head) (vd : VReg) (s : State) : Host.Outcome State Fault Refusal :=
  vecOp s h [] vd fun _ _ i => [(vd.toNat * 64 + i, BitVec.ofNat 32 i)]

/-! ### Immediate forms (R131) -/

/-- `vadd` with an immediate (R131). -/
def execVaddImm (h : Head) (ty : IntTy) (vd va : VReg) (imm : BitVec 25) (s : State) : Host.Outcome State Fault Refusal :=
  vecArithImm s h ty vd va imm fun a b => a + b
/-- `vsub` with an immediate (R131). -/
def execVsubImm (h : Head) (ty : IntTy) (vd va : VReg) (imm : BitVec 25) (s : State) : Host.Outcome State Fault Refusal :=
  vecArithImm s h ty vd va imm fun a b => a - b
/-- `vmul` with an immediate (R131). -/
def execVmulImm (h : Head) (ty : IntTy) (vd va : VReg) (imm : BitVec 25) (s : State) : Host.Outcome State Fault Refusal :=
  vecArithImm s h ty vd va imm fun a b => a * b
/-- `vand` with an immediate (R131). -/
def execVandImm (h : Head) (ty : IntTy) (vd va : VReg) (imm : BitVec 25) (s : State) : Host.Outcome State Fault Refusal :=
  vecBitsImm s h ty vd va imm Nat.land
/-- `vor` with an immediate (R131). -/
def execVorImm (h : Head) (ty : IntTy) (vd va : VReg) (imm : BitVec 25) (s : State) : Host.Outcome State Fault Refusal :=
  vecBitsImm s h ty vd va imm Nat.lor
/-- `vxor` with an immediate (R131). -/
def execVxorImm (h : Head) (ty : IntTy) (vd va : VReg) (imm : BitVec 25) (s : State) : Host.Outcome State Fault Refusal :=
  vecBitsImm s h ty vd va imm Nat.xor
/-- `vshl` with an immediate (R131). -/
def execVshlImm (h : Head) (ty : IntTy) (vd va : VReg) (imm : BitVec 25) (s : State) : Host.Outcome State Fault Refusal :=
  vecShiftImm s h ty vd va imm shlN
/-- `vshr` with an immediate (R131). -/
def execVshrImm (h : Head) (ty : IntTy) (vd va : VReg) (imm : BitVec 25) (s : State) : Host.Outcome State Fault Refusal :=
  vecShiftImm s h ty vd va imm fun _ a c => shrN a c
/-- `vsra` with an immediate (R131). -/
def execVsraImm (h : Head) (ty : IntTy) (vd va : VReg) (imm : BitVec 25) (s : State) : Host.Outcome State Fault Refusal :=
  vecShiftImm s h ty vd va imm sraN
/-- `vmin` with an immediate (R131). -/
def execVminImm (h : Head) (ty : IntTy) (vd va : VReg) (imm : BitVec 25) (s : State) : Host.Outcome State Fault Refusal :=
  vecArithImm s h ty vd va imm min
/-- `vmax` with an immediate (R131). -/
def execVmaxImm (h : Head) (ty : IntTy) (vd va : VReg) (imm : BitVec 25) (s : State) : Host.Outcome State Fault Refusal :=
  vecArithImm s h ty vd va imm max

/-! ### Masks -/

/-- `vcmp` (R133). -/
def execVcmp (h : Head) (ty : IntTy) (cnd : Cnd) (md : MReg) (va vb : VReg) (s : State) : Host.Outcome State Fault Refusal :=
  issue s vecRule { vs := nums [va, vb] } (some h) (maskBody s h md fun g p =>
    maskOf ((lanesOf (activeOf g p h)).filter fun i => cndHolds cnd (laneInt g ty va.toNat i) (laneInt g ty vb.toNat i)))

/-- A mask instruction that writes a mask register (R134). -/
def maskOp (s : State) (h : Head) (md : MReg) (f : Group → Path → Mask) : Host.Outcome State Fault Refusal :=
  issue s vecRule {} (some h) (maskBody s h md f)

/-- A mask instruction that writes a scalar register from m[MA] and the active set (R134). -/
def maskScalar (s : State) (h : Head) (sd : SReg) (ma : MReg) (f : Mask → W64) : Host.Outcome State Fault Refusal :=
  issue s vecRule { sd := [sd.toNat] } (some h) (withGroup fun x g =>
    .ok (advance (setS s x sd (f (rdM g x.p ma &&& activeOf g x.p h))) x))

/-- `mand` (R134). -/
def execMand (h : Head) (md ma mb : MReg) (s : State) : Host.Outcome State Fault Refusal :=
  maskOp s h md fun g p => rdM g p ma &&& rdM g p mb
/-- `mor` (R134). -/
def execMor (h : Head) (md ma mb : MReg) (s : State) : Host.Outcome State Fault Refusal :=
  maskOp s h md fun g p => rdM g p ma ||| rdM g p mb
/-- `mxor` (R134). -/
def execMxor (h : Head) (md ma mb : MReg) (s : State) : Host.Outcome State Fault Refusal :=
  maskOp s h md fun g p => rdM g p ma ^^^ rdM g p mb
/-- `mandn` (R134). -/
def execMandn (h : Head) (md ma mb : MReg) (s : State) : Host.Outcome State Fault Refusal :=
  maskOp s h md fun g p => rdM g p ma &&& ~~~ (rdM g p mb)
/-- `mnot` (R134). -/
def execMnot (h : Head) (md ma : MReg) (s : State) :
    Host.Outcome State Fault Refusal := maskOp s h md fun g p => ~~~ (rdM g p ma)
/-- `mmov` (R134). -/
def execMmov (h : Head) (md ma : MReg) (s : State) : Host.Outcome State Fault Refusal := maskOp s h md fun g p => rdM g p ma
/-- `mpopc` (R134). -/
def execMpopc (h : Head) (sd : SReg) (ma : MReg) (s : State) : Host.Outcome State Fault Refusal :=
  maskScalar s h sd ma fun m => BitVec.ofNat 64 (popcount m)
/-- `mffs`: the lowest lane, 64 if none (R134). -/
def execMffs (h : Head) (sd : SReg) (ma : MReg) (s : State) : Host.Outcome State Fault Refusal :=
  maskScalar s h sd ma fun m => BitVec.ofNat 64 ((lanesOf m).head?.getD 64)
/-- `mfls`: the highest lane, 64 if none (R134). -/
def execMfls (h : Head) (sd : SReg) (ma : MReg) (s : State) : Host.Outcome State Fault Refusal :=
  maskScalar s h sd ma fun m => BitVec.ofNat 64 ((lanesOf m).getLast?.getD 64)
/-- `mfroms` (R134). -/
def execMfroms (h : Head) (md : MReg) (ss : SReg) (s : State) : Host.Outcome State Fault Refusal :=
  issue s vecRule { ss := [ss.toNat] } (some h) (maskBody s h md fun _ p => rdS p ss)
/-- `mtos` (R134). -/
def execMtos (h : Head) (sd : SReg) (ma : MReg) (s : State) : Host.Outcome State Fault Refusal := maskScalar s h sd ma id

end Sys2Proof.Machine
end

