-- ==== Sys2Proof/Machine/VectorFp.lean ====
section
/-! DEFINITION. Vector floating point, conversion, packing and the dot product (R135 to R145). -/
namespace Sys2Proof.Machine

/-- The write of a lane's floating result with its flags (R122). -/
def fpRes (ty : FpTy) (vd : VReg) (i : Nat) (r : Nat × Flags) : List (Nat × W32) × Flags := (fpWrites ty vd.toNat i r.1, r.2)

/-- A one-source floating row of R135. -/
def fpOp1 (s : State) (h : Head) (ty : FpTy) (vd va : VReg) (f : Nat → Nat × Flags) : Host.Outcome State Fault Refusal :=
  issue s vecRule { vs := fpRegs ty va, vd := fpRegs ty vd } (some h)
    (fpBody s h fun g i => fpRes ty vd i (f (laneFp g ty va.toNat i)))

/-- A two-source floating row of R135. -/
def fpOp2 (s : State) (h : Head) (ty : FpTy) (vd va vb : VReg) (f : Nat → Nat → Nat × Flags) :
    Host.Outcome State Fault Refusal :=
  issue s vecRule { vs := fpRegs ty va ++ fpRegs ty vb, vd := fpRegs ty vd } (some h)
    (fpBody s h fun g i => fpRes ty vd i (f (laneFp g ty va.toNat i) (laneFp g ty vb.toNat i)))

/-- A long-latency one-source row of R135. -/
def fpLong1 (s : State) (h : Head) (ty : FpTy) (vd va : VReg) (f : Nat → Nat × Flags) : Host.Outcome State Fault Refusal :=
  issue s vecRule { vs := fpRegs ty va, vd := fpRegs ty vd } (some h)
    (longFpBody s h (fpRegs ty vd) fun g i => fpRes ty vd i (f (laneFp g ty va.toNat i)))

/-- `vfadd` (R135, R136). -/
def execVfadd (h : Head) (ty : FpTy) (vd va vb : VReg) (rm : RoundMode) (s : State) : Host.Outcome State Fault Refusal :=
  fpOp2 s h ty vd va vb (fpAdd ty rm)
/-- `vfsub` (R135, R136). -/
def execVfsub (h : Head) (ty : FpTy) (vd va vb : VReg) (rm : RoundMode) (s : State) : Host.Outcome State Fault Refusal :=
  fpOp2 s h ty vd va vb (fpSub ty rm)
/-- `vfmul` (R135, R136). -/
def execVfmul (h : Head) (ty : FpTy) (vd va vb : VReg) (rm : RoundMode) (s : State) : Host.Outcome State Fault Refusal :=
  fpOp2 s h ty vd va vb (fpMul ty rm)
/-- `vffma` (R135, R136). -/
def execVffma (h : Head) (ty : FpTy) (vd va vb vc : VReg) (rm : RoundMode) (s : State) : Host.Outcome State Fault Refusal :=
  issue s vecRule { vs := fpRegs ty va ++ fpRegs ty vb ++ fpRegs ty vc, vd := fpRegs ty vd } (some h)
    (fpBody s h fun g i =>
      fpRes ty vd i (fpFma ty rm (laneFp g ty va.toNat i) (laneFp g ty vb.toNat i) (laneFp g ty vc.toNat i)))
/-- `vfmin` (R137). -/
def execVfmin (h : Head) (ty : FpTy) (vd va vb : VReg) (s : State) :
    Host.Outcome State Fault Refusal := fpOp2 s h ty vd va vb (fpMinMax false ty)
/-- `vfmax` (R137). -/
def execVfmax (h : Head) (ty : FpTy) (vd va vb : VReg) (s : State) :
    Host.Outcome State Fault Refusal := fpOp2 s h ty vd va vb (fpMinMax true ty)
/-- `vfabs` (R137). -/
def execVfabs (h : Head) (ty : FpTy) (vd va : VReg) (s : State) :
    Host.Outcome State Fault Refusal := fpOp1 s h ty vd va fun a => fpSetSign ty a false 0
/-- `vfneg` (R137). -/
def execVfneg (h : Head) (ty : FpTy) (vd va : VReg) (s : State) :
    Host.Outcome State Fault Refusal := fpOp1 s h ty vd va fun a => fpSetSign ty a (!signOf ty a) 0
/-- `vfsgn`: a's magnitude with b's sign bit (R137). -/
def execVfsgn (h : Head) (ty : FpTy) (vd va vb : VReg) (s : State) : Host.Outcome State Fault Refusal :=
  fpOp2 s h ty vd va vb fun a b => fpSetSign ty a (signOf ty b) (sigFlag (readFp ty b))
/-- `vfrcp` (R138). -/
def execVfrcp (h : Head) (vd va : VReg) (s : State) : Host.Outcome State Fault Refusal :=
  fpLong1 s h .f32 vd va (fpRcp)
/-- `vfrsq` (R138). -/
def execVfrsq (h : Head) (vd va : VReg) (s : State) : Host.Outcome State Fault Refusal :=
  fpLong1 s h .f32 vd va (fpRsq)
/-- `vfexp2` (R138). -/
def execVfexp2 (h : Head) (vd va : VReg) (s : State) : Host.Outcome State Fault Refusal :=
  fpLong1 s h .f32 vd va (fpExp2)
/-- `vflog2` (R138). -/
def execVflog2 (h : Head) (vd va : VReg) (s : State) : Host.Outcome State Fault Refusal :=
  fpLong1 s h .f32 vd va (fpLog2)
/-- `vfsin` (R138). -/
def execVfsin (h : Head) (vd va : VReg) (s : State) : Host.Outcome State Fault Refusal :=
  fpLong1 s h .f32 vd va (fpTrig false)
/-- `vfcos` (R138). -/
def execVfcos (h : Head) (vd va : VReg) (s : State) : Host.Outcome State Fault Refusal :=
  fpLong1 s h .f32 vd va (fpTrig true)
/-- `vfsqrt` (R135, R136). -/
def execVfsqrt (h : Head) (ty : FpTy) (vd va : VReg) (rm : RoundMode) (s : State) :
    Host.Outcome State Fault Refusal := fpLong1 s h ty vd va (fpSqrt ty rm)
/-- `vffract` (R139). -/
def execVffract (h : Head) (ty : FpTy) (vd va : VReg) (rm : RoundMode) (s : State) :
    Host.Outcome State Fault Refusal := fpOp1 s h ty vd va (fpFract ty rm)
/-- `vfround` (R139). -/
def execVfround (h : Head) (ty : FpTy) (vd va : VReg) (rm : RoundMode) (s : State) :
    Host.Outcome State Fault Refusal := fpOp1 s h ty vd va (fpRound ty rm)
/-- `vfclass`: one class bit, no flag (R139). -/
def execVfclass (h : Head) (ty : FpTy) (vd va : VReg) (s : State) : Host.Outcome State Fault Refusal :=
  issue s vecRule { vs := fpRegs ty va, vd := [vd.toNat] } (some h)
    (vecBody s h fun g _ i => [(vd.toNat * 64 + i, BitVec.ofNat 32 (2 ^ fpClass ty (laneFp g ty va.toNat i)))])
/-- `vfcmp` (R140). -/
def execVfcmp (h : Head) (ty : FpTy) (cnd : FCnd) (md : MReg) (va vb : VReg) (s : State) : Host.Outcome State Fault Refusal :=
  issue s vecRule { vs := fpRegs ty va ++ fpRegs ty vb } (some h) (laneBody s h fun g _ act =>
    let r := (lanesOf act).map fun i => (i, fpCmp ty cnd (laneFp g ty va.toNat i) (laneFp g ty vb.toNat i))
    let fl := gatherFlags (r.map fun e => e.2.2)
    if act = 0 then g
    else { wrM g md.toNat act (maskOf ((r.filter fun e => e.2.1).map fun e => e.1)) with fpfl := g.fpfl ||| flagWord fl })

/-! ### Conversion and packing -/

/-- A conversion's source value (R141). -/
def cvtVal (g : Group) (src : CvtSrc) (va i : Nat) : FVal :=
  match src with
  | .fp t => readFp t (laneFp g t va i)
  | .int t => intVal (laneInt g t va i)

/-- The registers of a conversion's source (R123). -/
def cvtRegs (src : CvtSrc) (va : VReg) : List Nat :=
  match src with
  | .fp t => fpRegs t va
  | .int t => intRegs t va

/-- `vfcvt` (R93, R141). -/
def execVfcvt (h : Head) (dst : FpTy) (src : CvtSrc) (vd va : VReg) (rm : RoundMode) (ovf : Bool) (s : State) :
    Host.Outcome State Fault Refusal :=
  issue s vecRule { vs := cvtRegs src va, vd := fpRegs dst vd } (some h)
    (fpBody s h fun g i => fpRes dst vd i (fpCvt (cvtVal g src va.toNat i) dst rm ovf))
/-- `vicvt` (R93, R141). -/
def execVicvt (h : Head) (dst : IntTy) (src : FpTy) (vd va : VReg) (rm : RoundMode) (s : State) :
    Host.Outcome State Fault Refusal :=
  issue s vecRule { vs := fpRegs src va, vd := intRegs dst vd } (some h)
    (fpBody s h fun g i =>
      let r := cvti (readFp src (laneFp g src va.toNat i)) dst rm
      (intWrites dst vd.toNat i (narrow dst false r.1), r.2))
/-- `vfscale` (R135, R136). -/
def execVfscale (h : Head) (ty : FpTy) (vd va vb : VReg) (rm : RoundMode) (s : State) : Host.Outcome State Fault Refusal :=
  issue s vecRule { vs := vb.toNat :: fpRegs ty va, vd := fpRegs ty vd } (some h)
    (fpBody s h fun g i => fpRes ty vd i (fpScale ty rm (laneFp g ty va.toNat i) (rdV g vb.toNat i).toInt))

/-- `vpack` (R142). -/
def execVpack (h : Head) (ty : FpTy) (vd va : VReg) (rm : RoundMode) (ovf : Bool) (s : State) :
    Host.Outcome State Fault Refusal :=
  let k := ty.perReg
  issue s vecRule { vs := runRegs va k, vd := [vd.toNat] } (some h) (fpBody s h fun g i =>
    let r := (List.range k).map fun j => (j, fpCvt (readFp .f32 (rdV g (va.toNat + j) i).toNat) ty rm ovf)
    let x := r.foldl (fun a e => a + e.2.1 * 2 ^ (32 / k * e.1)) 0
    ([(vd.toNat * 64 + i, BitVec.ofNat 32 x)], gatherFlags (r.map fun e => e.2.2)))
/-- `vunpack` (R142). -/
def execVunpack (h : Head) (ty : FpTy) (vd va : VReg) (s : State) : Host.Outcome State Fault Refusal :=
  let k := ty.perReg
  issue s vecRule { vs := [va.toNat], vd := runRegs vd k } (some h) (fpBody s h fun g i =>
    let r := (List.range k).map fun j => (j, fpCvt (readFp ty (packedAt ty (rdV g va.toNat i).toNat j)) .f32 .rne false)
    (r.map fun e => ((vd.toNat + e.1) * 64 + i, BitVec.ofNat 32 e.2.1), gatherFlags (r.map fun e => e.2.2)))

/-- A run of registers of a lane as one number, the first lowest. -/
def runValue (g : Group) (r k i : Nat) : Nat := (List.range k).foldl (fun a j => a + (rdV g (r + j) i).toNat * 2 ^ (32 * j)) 0

/-- The writes of a number to a run of registers of a lane. -/
def runWrites (r k i x : Nat) : List (Nat × W32) :=
  (List.range k).map fun j => ((r + j) * 64 + i, BitVec.ofNat 32 (x / 2 ^ (32 * j)))

/-- `vpack.dense`: sixteen bytes to sixteen six-bit elements (R143). -/
def execVpackDense (h : Head) (_ty : FpTy) (vd va : VReg) (s : State) : Host.Outcome State Fault Refusal :=
  issue s vecRule { vs := runRegs va 4, vd := runRegs vd 3 } (some h) (vecBody s h fun g _ i =>
    let x := runValue g va.toNat 4 i
    runWrites vd.toNat 3 i ((List.range 16).foldl (fun a j => a + x / 2 ^ (8 * j) % 64 * 2 ^ (6 * j)) 0))
/-- `vunpack.dense` (R143). -/
def execVunpackDense (h : Head) (_ty : FpTy) (vd va : VReg) (s : State) : Host.Outcome State Fault Refusal :=
  issue s vecRule { vs := runRegs va 3, vd := runRegs vd 4 } (some h) (vecBody s h fun g _ i =>
    let x := runValue g va.toNat 3 i
    runWrites vd.toNat 4 i ((List.range 16).foldl (fun a j => a + x / 2 ^ (6 * j) % 64 * 2 ^ (8 * j)) 0))

/-! ### Dot product -/

/-- The terms of a quad (R142, R144). -/
def quadTerms (g : Group) (ty : FpTy) (r i : Nat) : List FVal :=
  (List.range 4).flatMap fun q => (List.range ty.perReg).map fun j => readFp ty (packedAt ty (rdV g (r + q) i).toNat j)

/-- One lane of `vdot` (R97, R98, R145). -/
def dotLane (g : Group) (ta tb : FpTy) (vd va vb vc i : Nat) (mx : Bool) : Nat × Flags :=
  let sc := (rdV g vc i).toNat
  let ea := sc % 256
  let eb := sc / 256 % 256
  if mx && (ea == 255 || eb == 255) then (0x7FC00000, fIV)
  else dotstep (rdV g vd i).toNat (quadTerms g ta va i) (quadTerms g tb vb i) (dotWindow ta)
    (if mx then (ea : Int) - 127 + ((eb : Int) - 127) else 0)

/-- `vdot` (R144, R145). -/
def execVdot (h : Head) (ta tb : FpTy) (vd va vb vc : VReg) (mx : Bool) (s : State) : Host.Outcome State Fault Refusal :=
  issue s vecRule { vs := vd.toNat :: (runRegs va 4 ++ runRegs vb 4 ++ (if mx then [vc.toNat] else [])), vd := [vd.toNat] } (some h)
    (longFpBody s h [vd.toNat] fun g i => fpRes .f32 vd i (dotLane g ta tb vd.toNat va.toNat vb.toNat vc.toNat i mx))

end Sys2Proof.Machine
end

