-- ==== Sys2Proof/Machine/Retired.lean ====
section
/-! DEFINITION. The retired encodings (R71 to R73) and the words that are no instruction (R67). -/
namespace Sys2Proof.Machine

/-- Counting a microcoded or trapped execution in the context's RETCNT and RETLAST (R73). -/
def countRet (s : State) (pasid : Nat) (opc : W64) : State :=
  modCtx s pasid fun c => { c with retcnt := if c.retcnt = BitVec.allOnes 64 then c.retcnt else c.retcnt + 1, retlast := opc }

/-- A body that counts its execution (R73); with no active lane nothing is executed (R57). -/
def counted (s : State) (h : Head) (opc : W64) (body : State → Body) : Body := fun x =>
  body (if x.active (some h) = 0 then s else countRet s x.pasid opc) x

/-- The terms of four E4M3 bytes of a register, the other twelve zero (R72). -/
def dp4Terms (g : Group) (r i : Nat) : List FVal :=
  (List.range 16).map fun j => if j < 4 then readFp .e4m3 (packedAt .e4m3 (rdV g r i).toNat j) else .fin false 0 0

/-- `vdp4.e4m3` (R72). -/
def execVdp4E4m3 (h : Head) (vd va vb : VReg) (s : State) : Host.Outcome State Fault Refusal :=
  issue s vecRule { vs := [vd.toNat, va.toNat, vb.toNat], vd := [vd.toNat] } (some h)
    (counted s h 0xF0 fun s => longFpBody s h [vd.toNat] fun g i =>
      fpRes .f32 vd i (dotstep (rdV g vd.toNat i).toNat (dp4Terms g va.toNat i) (dp4Terms g vb.toNat i) (dotWindow .e4m3) 0))

/-- a times an approximate reciprocal of b, with the flags of both steps (R72). -/
def fastDiv (a b : Nat) : Nat × Flags :=
  let r := fpRcp b
  let q := fpMul .f32 .rne a r.1
  (q.1, r.2 ||| q.2)

/-- `vfdiv.f32.fast` (R72). -/
def execVfdivF32Fast (h : Head) (vd va vb : VReg) (s : State) : Host.Outcome State Fault Refusal :=
  issue s vecRule { vs := [va.toNat, vb.toNat], vd := [vd.toNat] } (some h)
    (counted s h 0xF1 fun s => longFpBody s h [vd.toNat] fun g i =>
      fpRes .f32 vd i (fastDiv (laneFp g .f32 va.toNat i) (laneFp g .f32 vb.toNat i)))

/-- A trapped encoding: RETIRED after its replacement's checks, and counted when it is raised (R68, R71, R73). With no active
lane it has no effect. -/
def trapped (s : State) (r : Rule) (u : Use) (h : Option Head) (opc : W64) : Host.Outcome State Fault Refusal :=
  let r := { r with gone := true }
  let raises := (curEx s).any fun x => !x.held && (checks r u h x).any fun t => t.cause == .retired
  let s := if raises then (match curEx s with
    | some x => countRet s x.pasid opc
    | none => s) else s
  issue s r u h fun x => .ok (advance s x)

/-- Whether the issuing group is a launch group outside handler mode, which `bar` requires (R230). -/
def barAdmits (s : State) : Bool := (curEx s).any fun x => x.user && x.g.any fun g => g.spawned.isNone

/-- `bar.all` (R72): its RETIRED does not depend on the phase that is open, whose roles R230 checks for `bar` (log entry 48). -/
def execBarAll (_b : BitVec 3) (s : State) : Host.Outcome State Fault Refusal :=
  trapped s { syncGrp with g := barAdmits s } {} none 0xF2

/-- `ldcst` (R72). -/
def execLdcst (h : Head) (m : MemArg) (s : State) : Host.Outcome State Fault Refusal :=
  trapped s memRule { vs := indexRegs m, vd := dataRegs m, ss := [m.base.toNat] } (some h) 0xF3

/-- A word that is no instruction raises ILLEGAL for every executor (R67). -/
def noInstruction (s : State) : Host.Outcome State Fault Refusal :=
  issue s { g := false, q := false, c := false, cls := .control } {} none fun _ => bad .illegal

/-- `txfetch`, removed (R72). -/
def execTxfetch (_body : BitVec 56) (s : State) : Host.Outcome State Fault Refusal := noInstruction s
/-- `mma.t8`, removed (R72). -/
def execMmaT8 (_body : BitVec 56) (s : State) : Host.Outcome State Fault Refusal := noInstruction s
/-- A word whose opcode is unassigned or reserved (R67). -/
def execUnassignedOpcode (_word : W64) (s : State) : Host.Outcome State Fault Refusal := noInstruction s

end Sys2Proof.Machine
end

