-- ==== Sys2Proof/Machine/Dispatch.lean ====
section
/-! DEFINITION. The meaning of every operation and event: one arm for each row of the opcode table. -/
namespace Sys2Proof.Machine

/-- What an instruction or event does. -/
def exec (i : Instr) (s : State) : Host.Outcome State Fault Refusal :=
  match i with
  | .br cc disp => Sys2Proof.Machine.execBr cc disp s
  | .brm inv ma disp => Sys2Proof.Machine.execBrm inv ma disp s
  | .jmpi sa => Sys2Proof.Machine.execJmpi sa s
  | .call link disp => Sys2Proof.Machine.execCall link disp s
  | .calli link sa => Sys2Proof.Machine.execCalli link sa s
  | .ret sa => Sys2Proof.Machine.execRet sa s
  | .exit => Sys2Proof.Machine.execExit s
  | .spawn sd se sb nm1 argc => Sys2Proof.Machine.execSpawn sd se sb nm1 argc s
  | .yield => Sys2Proof.Machine.execYield s
  | .nop => Sys2Proof.Machine.execNop s
  | .trap imm => Sys2Proof.Machine.execTrap imm s
  | .brk imm => Sys2Proof.Machine.execBrk imm s
  | .mfs sd reg => Sys2Proof.Machine.execMfs sd reg s
  | .mts reg sa => Sys2Proof.Machine.execMts reg sa s
  | .sadd ty sd sa sb sat => Sys2Proof.Machine.execSadd ty sd sa sb sat s
  | .ssub ty sd sa sb sat => Sys2Proof.Machine.execSsub ty sd sa sb sat s
  | .smul ty sd sa sb sat => Sys2Proof.Machine.execSmul ty sd sa sb sat s
  | .smulh ty sd sa sb => Sys2Proof.Machine.execSmulh ty sd sa sb s
  | .sdiv la ty sd sa sb => Sys2Proof.Machine.execSdiv la ty sd sa sb s
  | .srem la ty sd sa sb => Sys2Proof.Machine.execSrem la ty sd sa sb s
  | .sand ty sd sa sb => Sys2Proof.Machine.execSand ty sd sa sb s
  | .sor ty sd sa sb => Sys2Proof.Machine.execSor ty sd sa sb s
  | .sxor ty sd sa sb => Sys2Proof.Machine.execSxor ty sd sa sb s
  | .sandn ty sd sa sb => Sys2Proof.Machine.execSandn ty sd sa sb s
  | .sshl ty sd sa sb => Sys2Proof.Machine.execSshl ty sd sa sb s
  | .sshr ty sd sa sb => Sys2Proof.Machine.execSshr ty sd sa sb s
  | .ssra ty sd sa sb => Sys2Proof.Machine.execSsra ty sd sa sb s
  | .srot ty sd sa sb => Sys2Proof.Machine.execSrot ty sd sa sb s
  | .smin ty sd sa sb => Sys2Proof.Machine.execSmin ty sd sa sb s
  | .smax ty sd sa sb => Sys2Proof.Machine.execSmax ty sd sa sb s
  | .sclz ty sd sa => Sys2Proof.Machine.execSclz ty sd sa s
  | .spopc ty sd sa => Sys2Proof.Machine.execSpopc ty sd sa s
  | .sbfe ty sd sa pos lenm1 => Sys2Proof.Machine.execSbfe ty sd sa pos lenm1 s
  | .sbfi ty sd sa sb pos lenm1 => Sys2Proof.Machine.execSbfi ty sd sa sb pos lenm1 s
  | .ssel sd sa sb sc => Sys2Proof.Machine.execSsel sd sa sb sc s
  | .scmp ty cnd sd sa sb => Sys2Proof.Machine.execScmp ty cnd sd sa sb s
  | .smov sd sa => Sys2Proof.Machine.execSmov sd sa s
  | .sli sd imm => Sys2Proof.Machine.execSli sd imm s
  | .sliHi sd imm => Sys2Proof.Machine.execSliHi sd imm s
  | .saddImm sd sa imm => Sys2Proof.Machine.execSaddImm sd sa imm s
  | .smulImm sd sa imm => Sys2Proof.Machine.execSmulImm sd sa imm s
  | .sandImm sd sa imm => Sys2Proof.Machine.execSandImm sd sa imm s
  | .sorImm sd sa imm => Sys2Proof.Machine.execSorImm sd sa imm s
  | .sxorImm sd sa imm => Sys2Proof.Machine.execSxorImm sd sa imm s
  | .sshlImm sd sa imm => Sys2Proof.Machine.execSshlImm sd sa imm s
  | .sshrImm sd sa imm => Sys2Proof.Machine.execSshrImm sd sa imm s
  | .ssraImm sd sa imm => Sys2Proof.Machine.execSsraImm sd sa imm s
  | .vadd h ty vd va vb sat => Sys2Proof.Machine.execVadd h ty vd va vb sat s
  | .vsub h ty vd va vb sat => Sys2Proof.Machine.execVsub h ty vd va vb sat s
  | .vmul h ty vd va vb sat => Sys2Proof.Machine.execVmul h ty vd va vb sat s
  | .vmulh h ty vd va vb => Sys2Proof.Machine.execVmulh h ty vd va vb s
  | .vmad h ty vd va vb vc sat => Sys2Proof.Machine.execVmad h ty vd va vb vc sat s
  | .vand h ty vd va vb => Sys2Proof.Machine.execVand h ty vd va vb s
  | .vor h ty vd va vb => Sys2Proof.Machine.execVor h ty vd va vb s
  | .vxor h ty vd va vb => Sys2Proof.Machine.execVxor h ty vd va vb s
  | .vandn h ty vd va vb => Sys2Proof.Machine.execVandn h ty vd va vb s
  | .vnot h ty vd va => Sys2Proof.Machine.execVnot h ty vd va s
  | .vshl h ty vd va vb => Sys2Proof.Machine.execVshl h ty vd va vb s
  | .vshr h ty vd va vb => Sys2Proof.Machine.execVshr h ty vd va vb s
  | .vsra h ty vd va vb => Sys2Proof.Machine.execVsra h ty vd va vb s
  | .vmin h ty vd va vb => Sys2Proof.Machine.execVmin h ty vd va vb s
  | .vmax h ty vd va vb => Sys2Proof.Machine.execVmax h ty vd va vb s
  | .vabs h ty vd va sat => Sys2Proof.Machine.execVabs h ty vd va sat s
  | .vneg h ty vd va sat => Sys2Proof.Machine.execVneg h ty vd va sat s
  | .vclz h ty vd va => Sys2Proof.Machine.execVclz h ty vd va s
  | .vpopc h ty vd va => Sys2Proof.Machine.execVpopc h ty vd va s
  | .vbrev h ty vd va => Sys2Proof.Machine.execVbrev h ty vd va s
  | .vbfe h ty vd va vc => Sys2Proof.Machine.execVbfe h ty vd va vc s
  | .vbfi h vd va vb vc => Sys2Proof.Machine.execVbfi h vd va vb vc s
  | .vaddc h vd va vb k => Sys2Proof.Machine.execVaddc h vd va vb k s
  | .vsubb h vd va vb k => Sys2Proof.Machine.execVsubb h vd va vb k s
  | .vclmul h vd va vb vc hi xacc => Sys2Proof.Machine.execVclmul h vd va vb vc hi xacc s
  | .vmov h ty vd va => Sys2Proof.Machine.execVmov h ty vd va s
  | .vli h vd imm => Sys2Proof.Machine.execVli h vd imm s
  | .vsel h ty vd va vb k => Sys2Proof.Machine.execVsel h ty vd va vb k s
  | .vbcast h ty vd ss => Sys2Proof.Machine.execVbcast h ty vd ss s
  | .vlane h vd => Sys2Proof.Machine.execVlane h vd s
  | .vaddImm h ty vd va imm => Sys2Proof.Machine.execVaddImm h ty vd va imm s
  | .vsubImm h ty vd va imm => Sys2Proof.Machine.execVsubImm h ty vd va imm s
  | .vmulImm h ty vd va imm => Sys2Proof.Machine.execVmulImm h ty vd va imm s
  | .vandImm h ty vd va imm => Sys2Proof.Machine.execVandImm h ty vd va imm s
  | .vorImm h ty vd va imm => Sys2Proof.Machine.execVorImm h ty vd va imm s
  | .vxorImm h ty vd va imm => Sys2Proof.Machine.execVxorImm h ty vd va imm s
  | .vshlImm h ty vd va imm => Sys2Proof.Machine.execVshlImm h ty vd va imm s
  | .vshrImm h ty vd va imm => Sys2Proof.Machine.execVshrImm h ty vd va imm s
  | .vsraImm h ty vd va imm => Sys2Proof.Machine.execVsraImm h ty vd va imm s
  | .vminImm h ty vd va imm => Sys2Proof.Machine.execVminImm h ty vd va imm s
  | .vmaxImm h ty vd va imm => Sys2Proof.Machine.execVmaxImm h ty vd va imm s
  | .vfadd h ty vd va vb rm => Sys2Proof.Machine.execVfadd h ty vd va vb rm s
  | .vfsub h ty vd va vb rm => Sys2Proof.Machine.execVfsub h ty vd va vb rm s
  | .vfmul h ty vd va vb rm => Sys2Proof.Machine.execVfmul h ty vd va vb rm s
  | .vffma h ty vd va vb vc rm => Sys2Proof.Machine.execVffma h ty vd va vb vc rm s
  | .vfmin h ty vd va vb => Sys2Proof.Machine.execVfmin h ty vd va vb s
  | .vfmax h ty vd va vb => Sys2Proof.Machine.execVfmax h ty vd va vb s
  | .vfabs h ty vd va => Sys2Proof.Machine.execVfabs h ty vd va s
  | .vfneg h ty vd va => Sys2Proof.Machine.execVfneg h ty vd va s
  | .vfsgn h ty vd va vb => Sys2Proof.Machine.execVfsgn h ty vd va vb s
  | .vfrcp h vd va => Sys2Proof.Machine.execVfrcp h vd va s
  | .vfrsq h vd va => Sys2Proof.Machine.execVfrsq h vd va s
  | .vfsqrt h ty vd va rm => Sys2Proof.Machine.execVfsqrt h ty vd va rm s
  | .vfexp2 h vd va => Sys2Proof.Machine.execVfexp2 h vd va s
  | .vflog2 h vd va => Sys2Proof.Machine.execVflog2 h vd va s
  | .vfsin h vd va => Sys2Proof.Machine.execVfsin h vd va s
  | .vfcos h vd va => Sys2Proof.Machine.execVfcos h vd va s
  | .vffract h ty vd va rm => Sys2Proof.Machine.execVffract h ty vd va rm s
  | .vfround h ty vd va rm => Sys2Proof.Machine.execVfround h ty vd va rm s
  | .vfclass h ty vd va => Sys2Proof.Machine.execVfclass h ty vd va s
  | .vfcmp h ty cnd md va vb => Sys2Proof.Machine.execVfcmp h ty cnd md va vb s
  | .vfcvt h dst src vd va rm ovf => Sys2Proof.Machine.execVfcvt h dst src vd va rm ovf s
  | .vicvt h dst src vd va rm => Sys2Proof.Machine.execVicvt h dst src vd va rm s
  | .vfscale h ty vd va vb rm => Sys2Proof.Machine.execVfscale h ty vd va vb rm s
  | .vpack h ty vd va rm ovf => Sys2Proof.Machine.execVpack h ty vd va rm ovf s
  | .vunpack h ty vd va => Sys2Proof.Machine.execVunpack h ty vd va s
  | .vpackDense h ty vd va => Sys2Proof.Machine.execVpackDense h ty vd va s
  | .vunpackDense h ty vd va => Sys2Proof.Machine.execVunpackDense h ty vd va s
  | .vdot h ta tb vd va vb vc mx => Sys2Proof.Machine.execVdot h ta tb vd va vb vc mx s
  | .vcmp h ty cnd md va vb => Sys2Proof.Machine.execVcmp h ty cnd md va vb s
  | .mand h md ma mb => Sys2Proof.Machine.execMand h md ma mb s
  | .mor h md ma mb => Sys2Proof.Machine.execMor h md ma mb s
  | .mxor h md ma mb => Sys2Proof.Machine.execMxor h md ma mb s
  | .mandn h md ma mb => Sys2Proof.Machine.execMandn h md ma mb s
  | .mnot h md ma => Sys2Proof.Machine.execMnot h md ma s
  | .mmov h md ma => Sys2Proof.Machine.execMmov h md ma s
  | .mpopc h sd ma => Sys2Proof.Machine.execMpopc h sd ma s
  | .mffs h sd ma => Sys2Proof.Machine.execMffs h sd ma s
  | .mfls h sd ma => Sys2Proof.Machine.execMfls h sd ma s
  | .mfroms h md ss => Sys2Proof.Machine.execMfroms h md ss s
  | .mtos h sd ma => Sys2Proof.Machine.execMtos h sd ma s
  | .voteAny md mm mb => Sys2Proof.Machine.execVoteAny md mm mb s
  | .voteAll md mm mb => Sys2Proof.Machine.execVoteAll md mm mb s
  | .voteBallot md mm mb => Sys2Proof.Machine.execVoteBallot md mm mb s
  | .voteUni hold md mm va => Sys2Proof.Machine.execVoteUni hold md mm va s
  | .shflIdx hold vd vs mm => Sys2Proof.Machine.execShflIdx hold vd vs mm s
  | .shflUp hold vd vs mm k => Sys2Proof.Machine.execShflUp hold vd vs mm k s
  | .shflDown hold vd vs mm k => Sys2Proof.Machine.execShflDown hold vd vs mm k s
  | .shflXor hold vd vs mm k => Sys2Proof.Machine.execShflXor hold vd vs mm k s
  | .vscan hold op ty vd vs mm excl => Sys2Proof.Machine.execVscan hold op ty vd vs mm excl s
  | .vred hold op ty vd vs mm => Sys2Proof.Machine.execVred hold op ty vd vs mm s
  | .vappend hold vd vs mm sb => Sys2Proof.Machine.execVappend hold vd vs mm sb s
  | .vreadl hold sd vs mm lane => Sys2Proof.Machine.execVreadl hold sd vs mm lane s
  | .vwritel vd ss mm lane => Sys2Proof.Machine.execVwritel vd ss mm lane s
  | .ld h m => Sys2Proof.Machine.execLd h m s
  | .ldx h m => Sys2Proof.Machine.execLdx h m s
  | .st h m => Sys2Proof.Machine.execSt h m s
  | .stx h m => Sys2Proof.Machine.execStx h m s
  | .lds la m => Sys2Proof.Machine.execLds la m s
  | .sts m => Sys2Proof.Machine.execSts m s
  | .ldm m => Sys2Proof.Machine.execLdm m s
  | .bcp m => Sys2Proof.Machine.execBcp m s
  | .pf h m => Sys2Proof.Machine.execPf h m s
  | .atom h op m => Sys2Proof.Machine.execAtom h op m s
  | .cas h m => Sys2Proof.Machine.execCas h m s
  | .satom la op m => Sys2Proof.Machine.execSatom la op m s
  | .wchg m => Sys2Proof.Machine.execWchg m s
  | .cwb m => Sys2Proof.Machine.execCwb m s
  | .cinv m => Sys2Proof.Machine.execCinv m s
  | .fence scope pred succ => Sys2Proof.Machine.execFence scope pred succ s
  | .fenceSc scope => Sys2Proof.Machine.execFenceSc scope s
  | .tsig scope sa sb => Sys2Proof.Machine.execTsig scope sa sb s
  | .twait scope sd sa sb => Sys2Proof.Machine.execTwait scope sd sa sb s
  | .tread la sd sa => Sys2Proof.Machine.execTread la sd sa s
  | .bar b roles => Sys2Proof.Machine.execBar b roles s
  | .barr b roles => Sys2Proof.Machine.execBarr b roles s
  | .barw b roles => Sys2Proof.Machine.execBarw b roles s
  | .mzero zd strm => Sys2Proof.Machine.execMzero zd strm s
  | .mld zd sa strm ty => Sys2Proof.Machine.execMld zd sa strm ty s
  | .mma zd sa sb sk strm ta tb mx => Sys2Proof.Machine.execMma zd sa sb sk strm ta tb mx s
  | .mloop zd sa sb sk strm ta tb mx => Sys2Proof.Machine.execMloop zd sa sb sk strm ta tb mx s
  | .mst zd sa sb sk strm ty rm ovf scale sig => Sys2Proof.Machine.execMst zd sa sb sk strm ty rm ovf scale sig s
  | .mresume strm discard => Sys2Proof.Machine.execMresume strm discard s
  | .rinit k stagesm1 sa sb => Sys2Proof.Machine.execRinit k stagesm1 sa sb s
  | .racq sd k sa cons => Sys2Proof.Machine.execRacq sd k sa cons s
  | .rrel k sa => Sys2Proof.Machine.execRrel k sa s
  | .rstat sd k sa => Sys2Proof.Machine.execRstat sd k sa s
  | .qpop sd sb => Sys2Proof.Machine.execQpop sd sb s
  | .qack sa sb cause irq => Sys2Proof.Machine.execQack sa sb cause irq s
  | .launch sd sa sb => Sys2Proof.Machine.execLaunch sd sa sb s
  | .irqHost sa => Sys2Proof.Machine.execIrqHost sa s
  | .irqKern sa => Sys2Proof.Machine.execIrqKern sa s
  | .qsleep sd => Sys2Proof.Machine.execQsleep sd s
  | .cpy sd sa sb => Sys2Proof.Machine.execCpy sd sa sb s
  | .cpyProg sd sa sb => Sys2Proof.Machine.execCpyProg sd sa sb s
  | .cpy2d sd sa sb => Sys2Proof.Machine.execCpy2d sd sa sb s
  | .cpyg sd sa sb => Sys2Proof.Machine.execCpyg sd sa sb s
  | .cpys sd sa sb => Sys2Proof.Machine.execCpys sd sa sb s
  | .cfill sd sa sb => Sys2Proof.Machine.execCfill sd sa sb s
  | .reform sa gran frame => Sys2Proof.Machine.execReform sa gran frame s
  | .tret => Sys2Proof.Machine.execTret s
  | .tlbw sa size => Sys2Proof.Machine.execTlbw sa size s
  | .tlbinv sa mode die => Sys2Proof.Machine.execTlbinv sa mode die s
  | .lprinv sa mode => Sys2Proof.Machine.execLprinv sa mode s
  | .ovld sa sb frame => Sys2Proof.Machine.execOvld sa sb frame s
  | .pgrab sd gran size => Sys2Proof.Machine.execPgrab sd gran size s
  | .ats la sd sa w => Sys2Proof.Machine.execAts la sd sa w s
  | .pri sa w => Sys2Proof.Machine.execPri sa w s
  | .dmsg sd sa => Sys2Proof.Machine.execDmsg sd sa s
  | .hlt sa => Sys2Proof.Machine.execHlt sa s
  | .vdp4E4m3 h vd va vb => Sys2Proof.Machine.execVdp4E4m3 h vd va vb s
  | .vfdivF32Fast h vd va vb => Sys2Proof.Machine.execVfdivF32Fast h vd va vb s
  | .barAll b => Sys2Proof.Machine.execBarAll b s
  | .ldcst h m => Sys2Proof.Machine.execLdcst h m s
  | .txfetch body => Sys2Proof.Machine.execTxfetch body s
  | .mmaT8 body => Sys2Proof.Machine.execMmaT8 body s
  | .unassignedOpcode word => Sys2Proof.Machine.execUnassignedOpcode word s
  | .memoryAccessComplete op lanes c => Sys2Proof.Machine.execMemoryAccessComplete op lanes c s
  | .impreciseFault gid => Sys2Proof.Machine.execImpreciseFault gid s
  | .bulkCopyLand op lines ecc => Sys2Proof.Machine.execBulkCopyLand op lines ecc s
  | .twaitWake die t => Sys2Proof.Machine.execTwaitWake die t s
  | .waitgeComplete die qid => Sys2Proof.Machine.execWaitgeComplete die qid s
  | .wchgWake gid pid => Sys2Proof.Machine.execWchgWake gid pid s
  | .wchgTimeout gid pid => Sys2Proof.Machine.execWchgTimeout gid pid s
  | .barrierPhaseComplete team b => Sys2Proof.Machine.execBarrierPhaseComplete team b s
  | .racqGrant team k j => Sys2Proof.Machine.execRacqGrant team k j s
  | .rrelComplete gid pid => Sys2Proof.Machine.execRrelComplete gid pid s
  | .spinRotation gid => Sys2Proof.Machine.execSpinRotation gid s
  | .spillExchange gid => Sys2Proof.Machine.execSpillExchange gid s
  | .trapEntry gid pid => Sys2Proof.Machine.execTrapEntry gid pid s
  | .walkerRequest die core => Sys2Proof.Machine.execWalkerRequest die core s
  | .matrixStreamStop die core strm => Sys2Proof.Machine.execMatrixStreamStop die core strm s
  | .matrixFault gid pid => Sys2Proof.Machine.execMatrixFault gid pid s
  | .matrixOpComplete die core strm ecc => Sys2Proof.Machine.execMatrixOpComplete die core strm ecc s
  | .copyOpComplete die k ecc => Sys2Proof.Machine.execCopyOpComplete die k ecc s
  | .copyFaultStop die k => Sys2Proof.Machine.execCopyFaultStop die k s
  | .kick die qid v => Sys2Proof.Machine.execKick die qid v s
  | .suspack die qid v => Sys2Proof.Machine.execSuspack die qid v s
  | .mbpop die => Sys2Proof.Machine.execMbpop die s
  | .minimalClear => Sys2Proof.Machine.execMinimalClear s
  | .deviceRegisterWrite die off wide v => Sys2Proof.Machine.execDeviceRegisterWrite die off wide v s
  | .qsleepWake die t => Sys2Proof.Machine.execQsleepWake die t s
  | .queueCreate die qid pasid desc => Sys2Proof.Machine.execQueueCreate die qid pasid desc s
  | .queueBind die t qid cap ccx header => Sys2Proof.Machine.execQueueBind die t qid cap ccx header s
  | .queueRestart die qid ridx => Sys2Proof.Machine.execQueueRestart die qid ridx s
  | .copyContextResume die k => Sys2Proof.Machine.execCopyContextResume die k s
  | .copyContextAbort die k => Sys2Proof.Machine.execCopyContextAbort die k s
  | .guestPacket die qid seq => Sys2Proof.Machine.execGuestPacket die qid seq s
  | .tear die qid seq => Sys2Proof.Machine.execTear die qid seq s
  | .tearDrainTimeout pasid => Sys2Proof.Machine.execTearDrainTimeout pasid s
  | .quarantineEnd pasid => Sys2Proof.Machine.execQuarantineEnd pasid s
  | .teamAdmit launch places => Sys2Proof.Machine.execTeamAdmit launch places s
  | .admissionWaitExpire launch => Sys2Proof.Machine.execAdmissionWaitExpire launch s
  | .teamRetire team => Sys2Proof.Machine.execTeamRetire team s
  | .preemptRequest die cores => Sys2Proof.Machine.execPreemptRequest die cores s
  | .preemptSave team => Sys2Proof.Machine.execPreemptSave team s
  | .teamResume team die cores => Sys2Proof.Machine.execTeamResume team die cores s
  | .leaseExpire line => Sys2Proof.Machine.execLeaseExpire line s
  | .priResponse id ok => Sys2Proof.Machine.execPriResponse id ok s
  | .atsCompletion id status leaf => Sys2Proof.Machine.execAtsCompletion id status leaf s
  | .atsTimeout id => Sys2Proof.Machine.execAtsTimeout id s
  | .atsInvalidationRequest pasid va len => Sys2Proof.Machine.execAtsInvalidationRequest pasid va len s
  | .hostCxlAccess fn pasid req => Sys2Proof.Machine.execHostCxlAccess fn pasid req s
  | .functionLevelReset fn => Sys2Proof.Machine.execFunctionLevelReset fn s
  | .map die => Sys2Proof.Machine.execMap die s
  | .prepare die => Sys2Proof.Machine.execPrepare die s
  | .commit die => Sys2Proof.Machine.execCommit die s
  | .ack die => Sys2Proof.Machine.execAck die s
  | .alloc die => Sys2Proof.Machine.execAlloc die s
  | .dieDown die => Sys2Proof.Machine.execDieDown die s
  | .heartbeat die => Sys2Proof.Machine.execHeartbeat die s
  | .heartbeatSend die => Sys2Proof.Machine.execHeartbeatSend die s
  | .heartbeatTimeout die silent => Sys2Proof.Machine.execHeartbeatTimeout die silent s
  | .dieFatalError die => Sys2Proof.Machine.execDieFatalError die s
  | .conn die => Sys2Proof.Machine.execConn die s
  | .route die => Sys2Proof.Machine.execRoute die s
  | .dieKernelMessage die => Sys2Proof.Machine.execDieKernelMessage die s
  | .linkTransaction src dst tag req crcOk => Sys2Proof.Machine.execLinkTransaction src dst tag req crcOk s
  | .transactionAck tag data => Sys2Proof.Machine.execTransactionAck tag data s
  | .flitReplay die f => Sys2Proof.Machine.execFlitReplay die f s
  | .rerouteReadTimeout die circuit => Sys2Proof.Machine.execRerouteReadTimeout die circuit s
  | .guestLinkUp socket vendor engines atc duty => Sys2Proof.Machine.execGuestLinkUp socket vendor engines atc duty s
  | .guestAccess socket pasid va translated req => Sys2Proof.Machine.execGuestAccess socket pasid va translated req s
  | .gdone socket seq => Sys2Proof.Machine.execGdone socket seq s
  | .guestFaultReport socket rec => Sys2Proof.Machine.execGuestFaultReport socket rec s
  | .guestAtcTimeout socket => Sys2Proof.Machine.execGuestAtcTimeout socket s
  | .guestQuiesceTimeout socket => Sys2Proof.Machine.execGuestQuiesceTimeout socket s
  | .worldChange b secure => Sys2Proof.Machine.execWorldChange b secure s
  | .pavaneDrainStart die => Sys2Proof.Machine.execPavaneDrainStart die s
  | .pavaneDrainTimeout die => Sys2Proof.Machine.execPavaneDrainTimeout die s
  | .pavaneSkip die => Sys2Proof.Machine.execPavaneSkip die s
  | .pavaneScanStart die => Sys2Proof.Machine.execPavaneScanStart die s
  | .pavaneScanResult die r => Sys2Proof.Machine.execPavaneScanResult die r s
  | .coreReturn die core => Sys2Proof.Machine.execCoreReturn die core s
  | .gateStep die => Sys2Proof.Machine.execGateStep die s
  | .thermalGate die => Sys2Proof.Machine.execThermalGate die s
  | .thermalTrip die temp => Sys2Proof.Machine.execThermalTrip die temp s
  | .coldReset => Sys2Proof.Machine.execColdReset s
  | .warmReset => Sys2Proof.Machine.execWarmReset s
  | .bootRomStart die img => Sys2Proof.Machine.execBootRomStart die img s
  | .bootRequestTimeout die => Sys2Proof.Machine.execBootRequestTimeout die s
  | .bootReadyTimeout die => Sys2Proof.Machine.execBootReadyTimeout die s
  | .dieKernelReady die => Sys2Proof.Machine.execDieKernelReady die s
  | .mctpControl msg => Sys2Proof.Machine.execMctpControl msg s
  | .pldmRequest kind die => Sys2Proof.Machine.execPldmRequest kind die s
  | .spdmRequest msg => Sys2Proof.Machine.execSpdmRequest msg s
  | .getLimit => Sys2Proof.Machine.execGetLimit s
  | .setLimit watts => Sys2Proof.Machine.execSetLimit watts s
  | .readFr die seq count => Sys2Proof.Machine.execReadFr die seq count s
  | .readBootwhy => Sys2Proof.Machine.execReadBootwhy s
  | .clearMinimal => Sys2Proof.Machine.execClearMinimal s
  | .readImage die image offset bytes => Sys2Proof.Machine.execReadImage die image offset bytes s
  | .getStartRecord rec => Sys2Proof.Machine.execGetStartRecord rec s
  | .putStartRecord => Sys2Proof.Machine.execPutStartRecord s
  | .contextCreate pasid fn mode htb => Sys2Proof.Machine.execContextCreate pasid fn mode htb s
  | .supervisorCoreAccess die core op => Sys2Proof.Machine.execSupervisorCoreAccess die core op s
  | .queueUnbind die t => Sys2Proof.Machine.execQueueUnbind die t s
  | .guestAtcAck socket id => Sys2Proof.Machine.execGuestAtcAck socket id s
  | .guestQuiesceReport socket saved => Sys2Proof.Machine.execGuestQuiesceReport socket saved s
  | .guestAtsRequest socket pasid va w => Sys2Proof.Machine.execGuestAtsRequest socket pasid va w s
  | .guestContextBind socket pasid => Sys2Proof.Machine.execGuestContextBind socket pasid s
  | .guestFenceLift socket => Sys2Proof.Machine.execGuestFenceLift socket s
  | .hostSnoop line act => Sys2Proof.Machine.execHostSnoop line act s
  | .virtualFunctionAssign v port => Sys2Proof.Machine.execVirtualFunctionAssign v port s
  | .fuseBlow f => Sys2Proof.Machine.execFuseBlow f s

end Sys2Proof.Machine
end

