-- ==== Sys2Proof/Machine/Schedule.lean ====
section
/-! DEFINITION. The schedule (log entry 2): which executor may issue, the boundary before an instruction, the selection of an
issue column (R37 to R39, R263, R264), what the machine may do unasked (R169, R175, R242, R281, R292, R301, R324), and the
default schedule. -/
namespace Sys2Proof.Machine

/-! ### Who may issue -/

/-- Whether a group's team is where its groups issue: resident, with the rest of a COSCHED grid (R29, R314). -/
def teamRuns (s : State) (tid : Nat) : Bool :=
  match team? s tid with
  | none => false
  | some t => t.st == .resident &&
    !((launch? s t.launch).any (fun l => l.pk.cosched) && s.teams.any fun u => u.launch == t.launch && u.st != .resident)

/-- Whether an executor may issue now, its waits and windows apart (R257, R270, R278, R280, R315). -/
def mayIssue (s : State) (x : Ex) : Bool :=
  !s.stopped && dieUp s x.die && match x.who with
    | .grp _ _ => x.g.any fun g => g.isWalker || teamRuns s g.team
    | .qthr d t => (qt? s d t).any fun q => q.asleep.isNone
    | .copyc d k => (cc? s d k).any fun c => c.inner.isNone && !c.ops.head?.any fun o => o.stop.isSome

/-- Whether an executor's next instruction would leave its path and the cores as they stand: it waits in its place. -/
def waitsHere (s : State) (x : Ex) : Bool :=
  match fetchWord s x with
  | .error _ => false
  | .ok (w, _) => match decode w with
    | .error _ => false
    | .ok i => match exec i { s with cur := some x.who } with
      | .next t => pathOf t x.who == some x.p && t.cores == s.cores
      | _ => false

/-- Whether MATRIX_FAULT may be delivered at a path: it is parked in `twait`, or at a boundary whose instruction has not begun to wait
as a fence or barrier does (R247; log entry 17). -/
def mayFault (x : Ex) : Bool := matrixBoundary x.p && !x.p.began

/-- What is delivered at a group's boundary before its next instruction: imprecise causes (R216), then MATRIX_FAULT (R247). -/
def boundary (s : State) (x : Ex) : Option State :=
  match x.g with
  | none => none
  | some g =>
    if g.late ≠ [] then some (deliverImprecise s g)
    else if g.mfault ≠ [] ∧ x.user ∧ !g.isWalker ∧ mayFault x then some (deliverMatrix s g x.p)
    else none

/-! ### Selection -/

/-- The execution class of an opcode (R37): scalar and control, vector ALU, memory, matrix and ring. The retired opcodes, which the
table of classes leaves out, count as scalar and control (log entry 77). -/
def opcClass (opc : Nat) : Nat :=
  if 0x30 ≤ opc ∧ opc ≤ 0x8F then 1
  else if 0x90 ≤ opc ∧ opc ≤ 0xAF ∨ 0xD0 ≤ opc ∧ opc ≤ 0xDF then 2
  else if 0xC0 ≤ opc ∧ opc ≤ 0xCF then 3
  else 0

/-- The class of a path's next instruction. -/
def nextClass (s : State) (x : Ex) : Nat :=
  match fetchWord s x with
  | .ok (w, _) => opcClass (field w 56 8).toNat
  | .error _ => 0

/-- Whether a path's next instruction waits in its place: for an operand, an in-flight limit, the binding, a watch entry, a window, a
translation, or as a fence or barrier does (R58, R217, R232, R233, R263, R265; log entry 51). -/
def limited (s : State) (x : Ex) : Bool := (boundary s x).isNone && waitsHere s x

/-- A path is eligible: neither parked nor held back (R263), nor waiting for room in its core's miss queue (R293). Its unit counts as free
(log entry 51). -/
def eligible (s : State) (x : Ex) : Bool := mayIssue s x && !x.held && !limited s x && !(x.p.full && missFull s x.die x.core)

/-- The live paths of the groups of an issue column. -/
def columnPaths (s : State) (d c k : Nat) : List Ex :=
  (s.groups.filter fun g => g.die == d && g.core == c && g.column == k).flatMap fun g =>
    [exOf s (.grp g.gid 0), exOf s (.grp g.gid 1)].reduceOption

/-- Whether a block is a SPIN block. -/
def inSpin (p : Path) : Bool := match p.blk with
  | some b => b.spin
  | none => false

/-- The keys of the selection order (R38, R264), the first first. -/
def selectKey (x : Ex) : List Nat :=
  match x.g, x.who with
  | some g, .grp _ slot =>
    [if g.isWalker then 0 else 1, if 32 ≤ x.p.age then 0 else 1, if 32 ≤ x.p.age then 2 ^ 64 - x.p.age else 0, g.rank,
     (inSpin x.p).toNat, x.p.lastAt, g.entry, slot]
  | _, _ => []

/-- The lexicographic order. -/
def lexLt : List Nat → List Nat → Bool
  | a :: as, b :: bs => decide (a < b) || (a == b && lexLt as bs)
  | [], _ :: _ => true
  | _, [] => false

/-- Inserting by key. -/
def insertEx (x : Ex) : List Ex → List Ex
  | [] => [x]
  | y :: ys => if lexLt (selectKey y) (selectKey x) then y :: insertEx x ys else x :: y :: ys

/-- Paths in selection order. -/
def sortEx (l : List Ex) : List Ex := l.foldr insertEx []

/-- Lane pairs that a mask holds a lane of (R38). -/
def lanePairs (m : Mask) : List Nat := (lanesOf m).map fun i => i / 2

/-- The sectors of a group (R21). -/
def sectorsOf (g : Group) : List Nat := (List.range (g.width / 8)).map fun k => g.sector + k

/-- Whether the sector of the folded lane of a core is among a group's, in its column (R12, R323). -/
def foldedRun (s : State) (g : Group) : Bool :=
  match (core? s g.die g.core).bind fun c => c.fold with
  | some p => p / 64 == g.column && (sectorsOf g).contains (p % 64 / 8)
  | none => false

/-- Whether the second path of a group issues with the first (R38, R323). -/
def coIssues (s : State) (x y : Ex) : Bool :=
  nextClass s x == nextClass s y && nextClass s x != 3 && x.g.any (fun g => !foldedRun s g) &&
  !(lanePairs x.p.mask).any fun k => (lanePairs y.p.mask).contains k

/-- The issues of a group whose first path is chosen: with its second path if they co-issue, slot A first (R38). -/
def groupIssues (s : State) (elig : List Ex) (x : Ex) : List Ex :=
  match elig.find? fun y => y.who.gid? == x.who.gid? && y.p.pid != x.p.pid with
  | some y => if coIssues s x y then (if selectSlot x then [x, y] else [y, x]) else [x]
  | none => [x]
where
  /-- Slot A. -/
  selectSlot (x : Ex) : Bool := match x.who with
    | .grp _ slot => slot == 0
    | _ => true

/-- Packing (R39): further groups with disjoint sectors and the same class, in selection order. -/
def packFrom (s : State) (elig : List Ex) (cls : Nat) : List Ex → List Nat → List Nat → List Ex
  | [], _, _ => []
  | x :: xs, sectors, gids => match x.g with
    | none => packFrom s elig cls xs sectors gids
    | some g =>
      if gids.contains g.gid || nextClass s x != cls || (sectorsOf g).any (fun k => sectors.contains k) then packFrom s elig cls xs sectors gids
      else groupIssues s elig x ++ packFrom s elig cls xs (sectorsOf g ++ sectors) (g.gid :: gids)

/-- The items of the chosen paths: a path that follows the other of its group is the second of the pair (R307). -/
def issueItems : List Ex → List Sched
  | x :: y :: l =>
    if x.who.gid? = y.who.gid? then .issue x.who :: .second y.who :: issueItems l else .issue x.who :: issueItems (y :: l)
  | [x] => [.issue x.who]
  | [] => []

/-- The issues of a column in one cycle (R264). -/
def selectIssues (s : State) (elig : List Ex) : List Ex :=
  match sortEx elig with
  | [] => []
  | x :: xs =>
    let cls := nextClass s x
    let first := groupIssues s elig x
    match x.g with
    | some g => if cls = 3 then first else first ++ packFrom s elig cls xs (sectorsOf g) [g.gid]
    | none => first

/-- Eligible paths that do not issue age (R263). -/
def agePath (s : State) (x : Ex) : State := modPath s x.who x.p.pid fun p => { p with age := p.age + 1 }

/-- A cycle of an issue column: paths at a header go on to their blocks, then the selection issues (R263, R264). -/
def columnCycle (s : State) (d c k : Nat) : State :=
  let all := (columnPaths s d c k).filter (mayIssue s)
  let heads := all.filter fun x => x.p.atHdr && x.p.wait == .run && x.p.wins.isEmpty
  if heads ≠ [] then { s with agenda := heads.map (fun x => .issue x.who) ++ .cycle d c k :: s.agenda }
  else
    let elig := all.filter (eligible s)
    let go := selectIssues s elig
    let s := (elig.filter fun x => !go.any fun y => y.who == x.who).foldl agePath s
    { s with agenda := issueItems go ++ s.agenda }

/-! ### Time -/

/-- Cycles pass; a die's gated cycles are not clocked (R5, R17). -/
def passTime (s : State) (n : Nat) : State :=
  { s with now := s.now + n,
           dies := if s.stopped then s.dies else s.dies.map fun d => if d.lost then d else { d with cyc := d.cyc + n * (16 - d.gate) } }

/-- Whether an event may happen: after a thermal trip only a reset does (R18), and a path whose next instruction waits holds
MATRIX_FAULT (R247). -/
def eventOk (s : State) (i : Instr) : Bool :=
  (!s.stopped || i == .coldReset || i == .warmReset) && match i with
    | .matrixFault gid pid => [exOf s (.grp gid 0), exOf s (.grp gid 1)].reduceOption.all fun x => x.p.pid != pid || mayFault x
    | _ => true

/-! ### What the machine does unasked -/

/-- A translation is lost, if no access that used it is outstanding and no path of the die waits on a place that it gave (R292, R299). -/
def loseTlb (s : State) (die core : Nat) : State :=
  let watched := fun (t : Tlb) =>
    (s.groups.any fun g => g.die == die && g.allPaths.any fun p => watchUses (groupPasid s g) t p.wait) ||
    (s.qthreads.any fun q => q.die == die && q.path.any fun p => watchUses q.pasid t p.wait) ||
    s.copies.any fun c => c.die == die && c.prog.any fun p => watchUses c.pasid t p.wait
  let free := fun (t : Tlb) (c : Option Nat) => !entryInUse s die c (fun _ => true) [t] && !watched t
  if core = 64 then modDie s die fun d => { d with cache := match d.cache with
    | t :: rest => if free t none then rest else t :: rest
    | [] => [] }
  else modCore s die core fun c => match c.tlb, c.lpr with
    | t :: rest, _ => if free t (some core) then { c with tlb := rest } else c
    | [], e :: rest => if free e.2.2 (some core) then { c with lpr := rest } else c
    | [], [] => c

/-- Whether an overlay is to be staged for a group: the PF of a path's header or PRESTAGE names it (R48, R53, R302). -/
def prestaged (s : State) (g : Group) (h : W64) : Bool :=
  codeBase h == codeBase g.ehdr &&
  ((g.stack.paths.any fun p => match p.blk with
      | some b => b.pf != 0 && decide ((overlayOf p.hdr : Int) + b.pf.toInt = overlayOf h)
      | none => false) ||
   ((team? s g.team).bind fun t => launch? s t.launch).any fun l => l.ds.prest && (List.range 4).any fun r =>
      nth l.pk.counts r != 0 && overlayOf ((l.ds.entries[r]?).getD 0) == overlayOf h)

/-- The bytes of an overlay image, read with X (R286, R301). -/
def imageOf (s : State) (die pasid : Nat) (h : W64) : Option (List W64 × State) :=
  let k := { devKind s pasid false 16 with user := false, fetch := true }
  match agentRead s die pasid (BitVec.ofNat 64 (h.toNat / 16384 * 16384)) 16384 k with
  | .ok (b, s) => some (wordsOf (b.map fun e => e.1), s)
  | .error _ => none

/-- A frame that holds no tag is loaded: handler code by the die kernel, or an overlay that is staged ahead (R301, R302). -/
def loadFrame (s : State) (die core frame gid : Nat) (h : W64) : State :=
  match core? s die core with
  | none => s
  | some c =>
    if 32 ≤ frame ∨ (sget none c.tags frame).isSome then s
    else
      let stage := fun (pasid : Nat) => match imageOf s die pasid h with
        | some (ws, s) => stageFrame s die core frame { pasid, base := codeBase h, ovl := overlayOf h } ws
        | none => s
      if negHalf h then stage 0
      else match grp? s gid with
        | some g => if frame ≠ 0 ∧ g.die = die ∧ g.core = core ∧ prestaged s g h then stage (groupPasid s g) else s
        | none => s

/-- An uncorrectable word in a vault or a dirty home L2 line poisons its sector alone, whose bytes are then free values (R183, R324). -/
def poisonSector (s : State) (a : Nat) : State :=
  let a := a % 2 ^ 43 / 32 * 32
  let mark := fun (s : State) (src unit : Nat) =>
    let (b, s) := freeBytes s Config.poisonByte true 32
    logFlight { s with mem := ssetN 0 s.mem a (b.map fun e => e.1), pois := sset false s.pois (a / 32) true } (fabDie a) 0x11 src unit 0 a
  let s := taintFab s a 32
  if !dieUp s (fabDie a) then s
  else match regionOf (fabOff a) with
    | .hbm => mark { s with l2bad := (a / 32 :: s.l2bad).dedup } 1 (l2Slice (fabOff a))
    | .vault => mark s 2 ((fabOff a - 0x4000000000) / 0x1000000)
    | _ => s

/-- A unit of HBM is found uncorrectable (R180, R183). -/
def upsetHbm (s : State) (a : Nat) : State :=
  let a := a % 2 ^ 43
  if dieUp s (fabDie a) && regionOf (fabOff a) == .hbm then spoilUnit s a else s

/-- An uncorrectable error in a store of the die (R324). -/
def upsetAt (s : State) : Upset → State
  | .vector gid r lane =>
    if 256 ≤ r ∨ 64 ≤ lane then s
    else modGrp s gid fun g => match g.frames with
      | f :: fs => if 248 ≤ r then { g with frames := { f with vpois := sset 0 f.vpois r (putBit (sget 0 f.vpois r) lane true) } :: fs }
        else { g with vpois := sset 0 g.vpois r (putBit (sget 0 g.vpois r) lane true) }
      | [] => { g with vpois := sset 0 g.vpois r (putBit (sget 0 g.vpois r) lane true) }
  | .scalar gid pid r => if 64 ≤ r then s else modPath s (.grp gid 0) pid fun p => { p with spois := putBit p.spois r true }
  | .scratch t core off => modTeam (taintScratch s t core off 1) t fun x =>
      if off < x.scratch ∧ core < x.cores.length then { x with spois := sset false x.spois (scrKey core off / 32) true } else x
  | .tile d c zd => if 32 ≤ zd then s else modCore s d c fun x => if x.bind.isSome then { x with tpois := (zd :: x.tpois).dedup } else x
  | .sector a => poisonSector s a
  | .remoteLine d a => match s.remote.find? fun l => l.die == d && l.has a with
    | none => s
    | some l =>
      if !l.dirty.isEmpty then
        let s := taintFab s a 32
        logFlight { s with remote := modWhere s.remote (fun x => x.isAt d a) fun x => { x with bad := (a % 128 / 32 :: x.bad).dedup } }
          d 0x11 1 (l2Slice (fabOff a)) 0 a
      else { s with remote := modWhere s.remote (fun x => x.isAt d a) fun x =>
        { x with valid := x.valid.filter (fun k => k != a % 128 / 32), bad := x.bad.filter fun k => k != a % 128 / 32 } }
  | .l1Line d c a => { s with l1 := s.l1.filter fun l => !(l.die == d && l.core == c && l.addr == lineOf a) }
  | .hbm a => upsetHbm s a
  | .corrected d src unit a => if dieUp s d && decide (src < 3) then logFlight s d 0x10 src unit 1 a else s

/-- A pseudo-channel is marked failed, and the event is logged (R180, R332). -/
def failPch (s : State) (die pch : Nat) : State :=
  if !dieUp s die || decide (128 ≤ pch) || (die? s die).any (fun d => d.failed.contains pch) then s
  else logFlight (modDie s die fun d => { d with failed := pch :: d.failed }) die 0x12 3 (pch / 64) (pch % 64) 0

/-- A choice of the machine. -/
def choice (s : State) : Sched → State
  | .evictL1 d c a => { s with l1 := s.l1.filter fun l => !(l.die == d && l.core == c && l.addr == lineOf a) }
  | .writeBack d a => if fabDie a = d then writeBackHome s a else flushRemote s d a
  | .evictTlb d c => loseTlb s d c
  | .frameLoad d c f g h => loadFrame s d c f g h
  | .matRows d c k n => match engOf s d c k .clean with
    | some e => streamRun d c k e.o.num (fun _ => true) .clean n s
    | none => s
  | .copyPart d k n => if copyTurn s d k then partCopy (serveTurn s d k) d k n else s
  | .upset u => upsetAt s u
  | .failChannel d p => failPch s d p
  | .resend t => resend s t
  | .ungate d => gateLess s d
  | .retry =>
    let s := s.dies.foldl (fun s d => sendUnsent s d.die) s
    checkShoots ((s.dies.filter fun d => !d.lost).foldl (fun s d => payAllocs (payShoots s d.die) d.die) s)
  | .bootAsk d => if (die? s d).any fun x => x.asks == 0 then askBoot s d else s
  | .badGuestMessage k => badGuestMessage s k
  | .tick _ | .issue _ | .second _ | .cycle _ _ _ | .event _ | .message _ => s

/-! ### The default schedule -/

/-- A performance of an access with no cached copy. -/
def allLanes : Mask := BitVec.allOnes 64

/-- Events of memory and bulk operations. -/
def memEvents (s : State) : List Instr :=
  s.ops.map (fun o => .memoryAccessComplete o.id allLanes plainChoice) ++ s.bulks.map (fun b => .bulkCopyLand b.id b.todo {}) ++
  s.leases.map fun l => .leaseExpire l.line

/-- The event that a path's wait is for. -/
def waitEvent (g : Group) (p : Path) : List Instr :=
  match p.wait with
  | .barrier b => [.barrierPhaseComplete g.team b]
  | .wchg _ _ _ _ _ _ _ _ => [.wchgWake g.gid p.pid, .wchgTimeout g.gid p.pid]
  | .twait d t _ _ _ => [.twaitWake d t]
  | .racq t k j _ _ _ => [.racqGrant t k j]
  | .rrel _ _ _ => [.rrelComplete g.gid p.pid]
  | .trapping => [.trapEntry g.gid p.pid]
  | _ => []

/-- Events of groups. -/
def groupEvents (s : State) : List Instr :=
  s.groups.flatMap fun g => (g.stack.paths.flatMap (waitEvent g)) ++
    (if g.late ≠ [] then [.impreciseFault g.gid] else []) ++
    (if g.mfault ≠ [] then g.stack.paths.map fun p => .matrixFault g.gid p.pid else []) ++
    (if g.stack.rest ≠ [] then [.spinRotation g.gid, .spillExchange g.gid] else [])

/-- Events of cores. -/
def coreEvents (s : State) : List Instr :=
  s.cores.flatMap fun c => (if c.missQ ≠ [] then [.walkerRequest c.die c.core] else []) ++
    c.strm.flatMap fun e => [.matrixOpComplete c.die c.core e.1 .clean, .matrixStreamStop c.die c.core e.1]

/-- Events of Q threads, queues and copy contexts. -/
def unitEvents (s : State) : List Instr :=
  (s.qthreads.flatMap fun q => (if q.asleep.isSome then [.qsleepWake q.die q.t] else []) ++ match q.path with
    | some p => (match p.wait with
      | .twait d t _ _ _ => [.twaitWake d t]
      | _ => [])
    | none => []) ++
  (s.queues.filter fun q => q.packets.any fun p => p.waitTl.isSome).map (fun q => .waitgeComplete q.die q.qid) ++
  (s.copies.filter fun c => c.current.isSome).flatMap fun c => [.copyOpComplete c.die c.k .clean, .copyFaultStop c.die c.k]

/-- Places for a launch's next teams, if there are any: for a COSCHED grid, of every team (R29, R261). -/
def placesFor (s : State) (l : Launch) : List (Nat × List Nat) :=
  if l.pk.cosched then
    match if pendingTeams l ≤ 64 * 8 * Config.dies then placeAll l.lid (pendingTeams l) s else none with
    | some u => (u.teams.filter fun t => !s.teams.any fun x => x.tid == t.tid).map fun t => (t.die, t.cores)
    | none => []
  else ((namedDies s l.pk).findSome? fun d => (findPlace s l d).map fun cs => (d, cs)).toList

/-- Events of teams and launches. -/
def teamEvents (s : State) : List Instr :=
  s.teams.map (fun t => if t.st == .stopping || t.st == .dropping then .preemptSave t.tid else .teamRetire t.tid) ++
  s.launches.filterMap fun l => match placesFor s l with
    | [] => none
    | ps => if pendingTeams l = 0 then none else some (.teamAdmit l.lid ps)

/-- A die acts on its next Quadrille message, by its kind (R348). -/
def actOnMessage (s : State) (die : Nat) : Host.Outcome State Fault Refusal :=
  match nextMsg s die with
  | none => .next s
  | some m => match msgKind m.2.2 with
    | 1 => execMap die s
    | 2 => execPrepare die s
    | 3 => execCommit die s
    | 4 => execAck die s
    | 5 => execAlloc die s
    | 6 => execDieDown die s
    | 7 => execHeartbeat die s
    | 8 => execConn die s
    | 9 => execRoute die s
    | _ => execDieKernelMessage die s

/-- The dies that have a message to act on. -/
def messageDies (s : State) : List Nat := (s.dies.filter fun d => (nextMsg s d.die).isSome).map fun d => d.die

/-- The columns that hold groups; those of a core in their order, in which spawns of one cycle are served (R42). -/
def columns (s : State) : List (Nat × Nat × Nat) :=
  let all := (s.groups.map fun g => (g.die, g.core, g.column)).dedup
  (List.range 4).flatMap fun k => all.filter fun c => c.2.2 % 4 == k

/-- The programs of Q threads and copy contexts. -/
def programs (s : State) : List Issuer :=
  (s.qthreads.filter fun q => q.path.isSome).map (fun q => .qthr q.die q.t) ++
  (s.copies.filter fun c => c.prog.isSome).map fun c => .copyc c.die c.k

/-- One round of the default schedule: what is outstanding is performed, each column and program takes a turn, and a cycle
passes. -/
def defaultAgenda (s : State) : List Sched :=
  (memEvents s ++ groupEvents s ++ coreEvents s ++ unitEvents s ++ teamEvents s).map .event ++ (messageDies s).map .message ++
  (columns s).map (fun c => .cycle c.1 c.2.1 c.2.2) ++ (programs s).map .issue ++
  (if s.shoots ≠ [] ∨ s.dies.any (fun d => d.owed ≠ [] || d.unsent ≠ [] || d.allocs ≠ []) then [.retry] else []) ++
  (s.dies.filter fun d => !d.lost && d.asks == 0 && d.want ≠ []).map (fun d => .bootAsk d.die) ++ [.tick 1]

end Sys2Proof.Machine
end

