-- ==== Sys2Proof/Machine/Step.lean ====
section
/-! DEFINITION. One step of the module: the next item of the schedule (log entry 2), and the placing of a word where the
next step fetches it. -/
namespace Sys2Proof.Machine

/-- Whether an operation is an event of the table, not an instruction word. -/
def isEvent (i : Instr) : Bool := (encode i).isNone

/-- Issuing the word at an executor's path: it is fetched, decoded and executed; a word that is no instruction is ILLEGAL
(R52, R67, R68). -/
def issueWord (s : State) (x : Ex) : Host.Outcome State Fault Refusal :=
  match fetchWord s x with
  | .error (.trap t) => .next (raiseOn s x.who t x.p.pc)
  | .error (.hold s) => .next s
  | .ok (w, s) => match decode w with
    | .error _ => .next (raiseOn s x.who { cause := .illegal } x.p.pc)
    | .ok i => exec i { s with cur := some x.who }

/-- The next thing an executor does: a cause that waits for the boundary, the header it stands at, or its next word. -/
def runExecutor (s : State) (e : Issuer) : Host.Outcome State Fault Refusal :=
  match exOf s e with
  | none => .next s
  | some x =>
    if !mayIssue s x then .next s
    else match boundary s x with
      | some s => .next s
      | none =>
        if x.p.atHdr then .next (headerStep s x)
        else if x.held then .next s
        else issueWord s x

/-- Whether the first path of a pair has trapped and waits for its handler, so that the second does not issue (R307). -/
def pairStopped (s : State) (e : Issuer) : Bool :=
  match e with
  | .grp gid slot => (grp? s gid).any fun g => (if slot = 0 then g.stack.b else g.stack.a).any fun p => p.wait == .trapping
  | _ => false

/-- One step: the head of the schedule, or the default schedule when it is empty (log entry 2). -/
def step (s : State) : Host.Outcome State Fault Refusal :=
  match s.agenda with
  | [] => .next { s with agenda := defaultAgenda s }
  | .issue e :: rest => runExecutor { s with agenda := rest } e
  | .second e :: rest => if pairStopped s e then .next { s with agenda := rest } else runExecutor { s with agenda := rest } e
  | .event i :: rest => if isEvent i && eventOk s i then exec i { s with agenda := rest } else .next { s with agenda := rest }
  | .message d :: rest => if s.stopped then .next { s with agenda := rest } else actOnMessage { s with agenda := rest } d
  | .tick n :: rest => .next (passTime { s with agenda := rest } n)
  | .cycle d c k :: rest => .next (columnCycle { s with agenda := rest } d c k)
  | c :: rest => .next (if s.stopped then { s with agenda := rest } else choice { s with agenda := rest } c)

/-! ### Placing a word -/

/-- Whether a word's opcode is one of the queue processor's (R66). -/
def forQueue (w : W64) : Bool := decide (0xD0 ≤ (field w 56 8).toNat) && decide ((field w 56 8).toNat < 0xDA)
/-- Whether a word's opcode is only a copy context's (R66). -/
def forCopy (w : W64) : Bool := field w 56 8 == 0xDA#8
/-- Whether a word's opcode is only admitted in handler mode (R66). -/
def forHandler (w : W64) : Bool := decide (0xE0 ≤ (field w 56 8).toNat) && decide ((field w 56 8).toNat < 0xEA)

/-- The address that a placed word stands at, behind a one-word block's header. -/
def placedAt : W64 := 0x1008#64

/-- A path whose next word is `w`, the last of its block. -/
def placedPath (w : W64) (sys : Bool) : Path :=
  { newPath 1 0x1000#64 0xFF#64 0 with
    pc := placedAt, blk := some { len := 1, live := 0, entry := true, handler := sys, loop := false, spin := false, reconv := 0, pf := 0 },
    code := [w], left := 1, atHdr := false, start := false, sys }

/-- The handler frame of a placed group in handler mode (R305). -/
def placedFrame (p : Path) : Frame :=
  { num := 8, saved := { a := some { p with pid := 2 }, b := none, rest := [] }, old := {}, pid := 2, cause := 0x15, pc := placedAt,
    resume := placedAt + 8, entry := 0x1000#64, lanes := 0xFF#64, v := [], vpois := [] }

/-- A GENERAL group of eight lanes whose next word is `w`, in handler mode at level 1 if asked. -/
def placedGroup (w : W64) (handler : Bool) : Group :=
  let p := placedPath w handler
  { gid := 768, team := 769, role := some .general, width := 8, gidx := 0, gser := 768, die := 0, core := 0, tcore := 0, entry := 0,
    ehdr := 0x1000#64, column := 0, sector := 0, rank := 0, spawned := none, vbud := 256, sbud := 64, exited := 0,
    stack := { a := some p, b := none, rest := [] }, frames := if handler then [placedFrame p] else [], vregs := [], vpois := [],
    masks := [], gstat := 0, fpfl := 0, barst := 0, mstat := 0, mrp := [], htb := 0, regs := {}, late := [], mfault := [],
    issued := 0 }

/-- The team of a placed group. -/
def placedTeam : Team :=
  { tid := 769, launch := 770, x := 0, y := 0, z := 0, die := 0, cores := [0], groups := 1, pool := 0, scratch := 0, smem := [],
    spois := [], rings := [], bars := [], killed := [], st := .resident, faulted := false, image := [],
    mat := [], tiles := [], tpois := [] }

/-- A translation of the placed page for a Q or C program: executable, readable, at fabric address 0x1000 of die 0. -/
def placedLeaf : Tlb :=
  { pasid := 0, hroot := false, base := 0x1000, bytes := 4096, leaf := 0x040000000000111B#64, marks := [] }

/-- The state with the instruction whose bits are `w` placed where the next step fetches: a group's block, or the code page
of a Q thread or copy program, and the schedule's next item issues it (log entry 13). -/
def State.withFetchWord (s : State) (nbits w : Nat) : State :=
  let w := BitVec.ofNat 64 (w % 2 ^ nbits)
  if forQueue w then
    { s with mem := ssetN 0 s.mem 0x1008 (wordBytes w), agenda := [.issue (.qthr 0 0)],
             dies := modWhere s.dies (fun d => d.die == 0) (fun d => { d with cache := placedLeaf :: d.cache }),
             qthreads := modWhere s.qthreads (fun q => q.die == 0 && q.t == 0) fun q => { q with path := some (placedPath w true) } }
  else if forCopy w then
    { s with mem := ssetN 0 s.mem 0x1008 (wordBytes w), agenda := [.issue (.copyc 0 0)],
             dies := modWhere s.dies (fun d => d.die == 0) (fun d => { d with cache := placedLeaf :: d.cache }),
             copies := modWhere s.copies (fun c => c.die == 0 && c.k == 0) fun c =>
               { c with prog := some (placedPath w true), count := 1,
                        ops := [{ num := 1, kind := .prog, args := [0, 0, 0x1000#64, 0], qid := 0, seq := 0, pos := 0, buf := none, stop := none }] } }
  else
    { s with groups := placedGroup w (forHandler w) :: s.groups, teams := placedTeam :: s.teams, agenda := [.issue (.grp 768 0)] }

end Sys2Proof.Machine
end

