-- ==== Sys2Proof/Safety.lean ====
section
/-! DEFINITION. The words in which the statements speak: when an instruction can issue and has its own effect (R66 to R68), what
a program can read, which parts of the state an instruction leaves alone, and what a safe step is. -/
namespace Sys2Proof.Machine

/-- An executor stands at an instruction that none of the checks of R68, R58 and R215 turns away: the executor is the one that
issues, its path neither waits nor stands at a header, and the rule of the opcode map and the registers named fit it. -/
structure Ready (s : State) (x : Ex) (r : Rule) (u : Use) (h : Option Head) : Prop where
  cur    : s.cur = some x.who
  here   : exOf s x.who = some x
  free   : x.held = false
  listed : r.admits x.who = true
  budget : u.fits x = true
  last   : r.ctl = true → x.p.left = 1
  legal  : r.ill = none
  mode   : r.privOk x = true
  role   : r.roleFits x = true
  whole  : r.unsplit x = true
  kept   : r.gone = true → x.active h = 0
  clear  : r.hint = false → u.hazard x.p = false
  clean  : r.hint = false → u.poisoned x (x.active h) = false

/-- A byte of HBM or of a vault. -/
def byteAt (s : State) (a : Nat) : Byte := sget 0 s.mem a

/-- A byte of host memory. -/
def hostByteAt (s : State) (a : Nat) : Byte := sget 0 s.hostMem a

/-- A byte of a guest's memory. -/
def guestByteAt (s : State) (a : Nat) : Byte := sget 0 s.guestMem a

/-- A byte of a team's scratchpad (R168). -/
def scratchAt (s : State) (team off : Nat) : Byte := match team? s team with
  | some t => sget 0 t.smem off
  | none => 0

/-- A timeline of a die (R186). -/
def timelineAt (s : State) (k : Nat) : W64 := sget 0 s.tl k

/-- Every byte of memory of `t`, scratchpads included, reads as in `s`. -/
structure SameMemory (s t : State) : Prop where
  fabric  : ∀ a, byteAt t a = byteAt s a
  host    : ∀ a, hostByteAt t a = hostByteAt s a
  guest   : ∀ a, guestByteAt t a = guestByteAt s a
  scratch : ∀ n a, scratchAt t n a = scratchAt s n a

/-- Only executors have changed, with what their packets are charged for (R320) and the long-latency results that are to come
(R58): every other field of the state is as it was. -/
def OnlyExecutors (s t : State) : Prop :=
  t = { s with groups := t.groups, qthreads := t.qthreads, copies := t.copies, queues := t.queues, ops := t.ops,
               freshId := t.freshId }

/-- A handler level without the stack it saved. -/
def Frame.kept (f : Frame) : Frame := { f with saved := { a := none, b := none, rest := [] } }

/-- The registers of a group that only instructions of other kinds write: the special, accumulator and trap registers, the
handler levels and the lanes that have exited (R33, R117, R245, R305). -/
structure SameSpecials (g g' : Group) : Prop where
  barst  : g'.barst = g.barst
  mstat  : g'.mstat = g.mstat
  mrp    : g'.mrp = g.mrp
  htb    : g'.htb = g.htb
  regs   : g'.regs = g.regs
  exited : g'.exited = g.exited
  gstat  : g'.gstat &&& ~~~1#64 = g.gstat &&& ~~~1#64

/-- Vector registers, marks and masks of the group as they were (R122, R124, R215). -/
structure SameLanes (g g' : Group) : Prop where
  vregs  : g'.vregs = g.vregs
  vpois  : g'.vpois = g.vpois
  masks  : g'.masks = g.masks
  levels : g'.frames.map Frame.kept = g.frames.map Frame.kept

/-- The state after a lane-wise word: in each active lane `i` the registers that `f` lists for it are written, and the path goes
to the next word (R57, R122). -/
def lanesWritten (s : State) (x : Ex) (h : Head) (f : Group → Nat → List (Nat × W32)) : State :=
  advance (onGroup s x fun g => mapLanes g (x.active (some h)) (f g)) x

/-- The state after a floating lane-wise word: as `lanesWritten`, and the flags of the active lanes are gathered into FPFL (R95). -/
def floatsWritten (s : State) (x : Ex) (h : Head) (f : Group → Nat → List (Nat × W32) × Flags) : State :=
  advance (onGroup s x fun g => takeFp g (fpLanes (x.active (some h)) (f g))) x

/-- The state after a word that writes mask register `md` in the active lanes (R124). -/
def maskWritten (s : State) (x : Ex) (h : Head) (md : MReg) (f : Group → Mask) : State :=
  advance (onGroup s x fun g => if x.active (some h) = 0 then g else wrM g md.toNat (x.active (some h)) (f g)) x

/-- The state after a long-latency word, floating or not, with lookahead (R58): the results are outstanding, and a window of `la` words opens in which
the registers `vds` and `sds` are pending. -/
def resultsPending (s : State) (x : Ex) (fp : Bool) (la : BitVec 4) (vds sds : List Nat) (wv : List (Nat × W32)) (ws : List (Nat × W64))
    (flags : Flags) : State :=
  let op : MemOp := { id := s.freshId, who := x.who, pid := x.p.pid, anc := x.p.anc, pc := x.p.pc,
                      kind := .alu wv ws (flagWord flags), size := 0, scope := .weak, ord := .plain, ch := 0, dest := .nowhere,
                      todo := [], begun := false, since := s.now, counted := false, leased := [] }
  advance (openWindow { s with freshId := s.freshId + 1, ops := s.ops ++ [op] } x s.freshId fp la.toNat vds sds) x

/-- What a word of the register families names: its registers, its head, the masks it writes, whether it sets FPFL and whether
it is long-latency (R101 to R105, R126 to R145). -/
structure Form where
  use  : Use
  head : Option Head := none
  md   : List Nat := []
  fp   : Bool := false
  long : Option (BitVec 4) := none

/-- The scalar words (R101 to R105). -/
def scalarForm : Instr → Option Form
  | .sadd _ sd sa sb _ => some { use := { ss := [sa.toNat, sb.toNat], sd := [sd.toNat] } }
  | .ssub _ sd sa sb _ => some { use := { ss := [sa.toNat, sb.toNat], sd := [sd.toNat] } }
  | .smul _ sd sa sb _ => some { use := { ss := [sa.toNat, sb.toNat], sd := [sd.toNat] } }
  | .smulh _ sd sa sb => some { use := { ss := [sa.toNat, sb.toNat], sd := [sd.toNat] } }
  | .sand _ sd sa sb => some { use := { ss := [sa.toNat, sb.toNat], sd := [sd.toNat] } }
  | .sor _ sd sa sb => some { use := { ss := [sa.toNat, sb.toNat], sd := [sd.toNat] } }
  | .sxor _ sd sa sb => some { use := { ss := [sa.toNat, sb.toNat], sd := [sd.toNat] } }
  | .sandn _ sd sa sb => some { use := { ss := [sa.toNat, sb.toNat], sd := [sd.toNat] } }
  | .sshl _ sd sa sb => some { use := { ss := [sa.toNat, sb.toNat], sd := [sd.toNat] } }
  | .sshr _ sd sa sb => some { use := { ss := [sa.toNat, sb.toNat], sd := [sd.toNat] } }
  | .ssra _ sd sa sb => some { use := { ss := [sa.toNat, sb.toNat], sd := [sd.toNat] } }
  | .srot _ sd sa sb => some { use := { ss := [sa.toNat, sb.toNat], sd := [sd.toNat] } }
  | .smin _ sd sa sb => some { use := { ss := [sa.toNat, sb.toNat], sd := [sd.toNat] } }
  | .smax _ sd sa sb => some { use := { ss := [sa.toNat, sb.toNat], sd := [sd.toNat] } }
  | .sdiv la _ sd sa sb => some { use := { ss := [sa.toNat, sb.toNat], sd := [sd.toNat] }, long := some la }
  | .srem la _ sd sa sb => some { use := { ss := [sa.toNat, sb.toNat], sd := [sd.toNat] }, long := some la }
  | .sclz _ sd sa => some { use := { ss := [sa.toNat], sd := [sd.toNat] } }
  | .spopc _ sd sa => some { use := { ss := [sa.toNat], sd := [sd.toNat] } }
  | .sbfe _ sd sa _ _ => some { use := { ss := [sa.toNat], sd := [sd.toNat] } }
  | .sbfi _ sd sa sb _ _ => some { use := { ss := [sa.toNat, sb.toNat], sd := [sd.toNat] } }
  | .ssel sd sa sb sc => some { use := { ss := [sa.toNat, sb.toNat, sc.toNat], sd := [sd.toNat] } }
  | .scmp _ _ sd sa sb => some { use := { ss := [sa.toNat, sb.toNat], sd := [sd.toNat] } }
  | .smov sd sa => some { use := { ss := [sa.toNat], sd := [sd.toNat] } }
  | .sli sd _ => some { use := { sd := [sd.toNat] } }
  | .sliHi sd _ => some { use := { ss := [sd.toNat], sd := [sd.toNat] } }
  | .saddImm sd sa _ => some { use := { ss := [sa.toNat], sd := [sd.toNat] } }
  | .smulImm sd sa _ => some { use := { ss := [sa.toNat], sd := [sd.toNat] } }
  | .sandImm sd sa _ => some { use := { ss := [sa.toNat], sd := [sd.toNat] } }
  | .sorImm sd sa _ => some { use := { ss := [sa.toNat], sd := [sd.toNat] } }
  | .sxorImm sd sa _ => some { use := { ss := [sa.toNat], sd := [sd.toNat] } }
  | .sshlImm sd sa _ => some { use := { ss := [sa.toNat], sd := [sd.toNat] } }
  | .sshrImm sd sa _ => some { use := { ss := [sa.toNat], sd := [sd.toNat] } }
  | .ssraImm sd sa _ => some { use := { ss := [sa.toNat], sd := [sd.toNat] } }
  | _ => none

/-- The vector and mask words (R126 to R145). -/
def vectorForm : Instr → Option Form
  | .vadd h _ vd va vb _ => some { use := { vs := nums [va, vb], vd := [vd.toNat] }, head := some h }
  | .vsub h _ vd va vb _ => some { use := { vs := nums [va, vb], vd := [vd.toNat] }, head := some h }
  | .vmul h _ vd va vb _ => some { use := { vs := nums [va, vb], vd := [vd.toNat] }, head := some h }
  | .vmulh h _ vd va vb => some { use := { vs := nums [va, vb], vd := [vd.toNat] }, head := some h }
  | .vand h _ vd va vb => some { use := { vs := nums [va, vb], vd := [vd.toNat] }, head := some h }
  | .vor h _ vd va vb => some { use := { vs := nums [va, vb], vd := [vd.toNat] }, head := some h }
  | .vxor h _ vd va vb => some { use := { vs := nums [va, vb], vd := [vd.toNat] }, head := some h }
  | .vandn h _ vd va vb => some { use := { vs := nums [va, vb], vd := [vd.toNat] }, head := some h }
  | .vshl h _ vd va vb => some { use := { vs := nums [va, vb], vd := [vd.toNat] }, head := some h }
  | .vshr h _ vd va vb => some { use := { vs := nums [va, vb], vd := [vd.toNat] }, head := some h }
  | .vsra h _ vd va vb => some { use := { vs := nums [va, vb], vd := [vd.toNat] }, head := some h }
  | .vmin h _ vd va vb => some { use := { vs := nums [va, vb], vd := [vd.toNat] }, head := some h }
  | .vmax h _ vd va vb => some { use := { vs := nums [va, vb], vd := [vd.toNat] }, head := some h }
  | .vmad h _ vd va vb vc _ => some { use := { vs := nums [va, vb, vc], vd := [vd.toNat] }, head := some h }
  | .vabs h _ vd va _ => some { use := { vs := nums [va], vd := [vd.toNat] }, head := some h }
  | .vneg h _ vd va _ => some { use := { vs := nums [va], vd := [vd.toNat] }, head := some h }
  | .vnot h _ vd va => some { use := { vs := nums [va], vd := [vd.toNat] }, head := some h }
  | .vclz h _ vd va => some { use := { vs := nums [va], vd := [vd.toNat] }, head := some h }
  | .vpopc h _ vd va => some { use := { vs := nums [va], vd := [vd.toNat] }, head := some h }
  | .vbrev h _ vd va => some { use := { vs := nums [va], vd := [vd.toNat] }, head := some h }
  | .vbfe h _ vd va vc => some { use := { vs := nums [va, vc], vd := [vd.toNat] }, head := some h }
  | .vbfi h vd va vb vc => some { use := { vs := nums [va, vb, vc], vd := [vd.toNat] }, head := some h }
  | .vaddc h vd va vb k => some { use := { vs := nums [va, vb], vd := [vd.toNat] }, head := some h, md := [k.toNat] }
  | .vsubb h vd va vb k => some { use := { vs := nums [va, vb], vd := [vd.toNat] }, head := some h, md := [k.toNat] }
  | .vclmul h vd va vb vc _ xacc => some { use := { vs := nums (if xacc then [va, vb, vc] else [va, vb]), vd := [vd.toNat] }, head := some h }
  | .vmov h ty vd va => some { use := { vs := intRegs ty va, vd := intRegs ty vd }, head := some h }
  | .vli h vd _ => some { use := { vd := [vd.toNat] }, head := some h }
  | .vsel h ty vd va vb _ => some { use := { vs := intRegs ty va ++ intRegs ty vb, vd := intRegs ty vd }, head := some h }
  | .vbcast h ty vd ss => some { use := { vd := intRegs ty vd, ss := [ss.toNat] }, head := some h }
  | .vlane h vd => some { use := { vd := [vd.toNat] }, head := some h }
  | .vaddImm h _ vd va _ => some { use := { vs := nums [va], vd := [vd.toNat] }, head := some h }
  | .vsubImm h _ vd va _ => some { use := { vs := nums [va], vd := [vd.toNat] }, head := some h }
  | .vmulImm h _ vd va _ => some { use := { vs := nums [va], vd := [vd.toNat] }, head := some h }
  | .vandImm h _ vd va _ => some { use := { vs := nums [va], vd := [vd.toNat] }, head := some h }
  | .vorImm h _ vd va _ => some { use := { vs := nums [va], vd := [vd.toNat] }, head := some h }
  | .vxorImm h _ vd va _ => some { use := { vs := nums [va], vd := [vd.toNat] }, head := some h }
  | .vshlImm h _ vd va _ => some { use := { vs := nums [va], vd := [vd.toNat] }, head := some h }
  | .vshrImm h _ vd va _ => some { use := { vs := nums [va], vd := [vd.toNat] }, head := some h }
  | .vsraImm h _ vd va _ => some { use := { vs := nums [va], vd := [vd.toNat] }, head := some h }
  | .vminImm h _ vd va _ => some { use := { vs := nums [va], vd := [vd.toNat] }, head := some h }
  | .vmaxImm h _ vd va _ => some { use := { vs := nums [va], vd := [vd.toNat] }, head := some h }
  | .vfadd h ty vd va vb _ => some { use := { vs := fpRegs ty va ++ fpRegs ty vb, vd := fpRegs ty vd }, head := some h, fp := true }
  | .vfsub h ty vd va vb _ => some { use := { vs := fpRegs ty va ++ fpRegs ty vb, vd := fpRegs ty vd }, head := some h, fp := true }
  | .vfmul h ty vd va vb _ => some { use := { vs := fpRegs ty va ++ fpRegs ty vb, vd := fpRegs ty vd }, head := some h, fp := true }
  | .vffma h ty vd va vb vc _ => some { use := { vs := fpRegs ty va ++ fpRegs ty vb ++ fpRegs ty vc, vd := fpRegs ty vd }, head := some h, fp := true }
  | .vfmin h ty vd va vb => some { use := { vs := fpRegs ty va ++ fpRegs ty vb, vd := fpRegs ty vd }, head := some h, fp := true }
  | .vfmax h ty vd va vb => some { use := { vs := fpRegs ty va ++ fpRegs ty vb, vd := fpRegs ty vd }, head := some h, fp := true }
  | .vfsgn h ty vd va vb => some { use := { vs := fpRegs ty va ++ fpRegs ty vb, vd := fpRegs ty vd }, head := some h, fp := true }
  | .vfabs h ty vd va => some { use := { vs := fpRegs ty va, vd := fpRegs ty vd }, head := some h, fp := true }
  | .vfneg h ty vd va => some { use := { vs := fpRegs ty va, vd := fpRegs ty vd }, head := some h, fp := true }
  | .vfrcp h vd va => some { use := { vs := fpRegs .f32 va, vd := fpRegs .f32 vd }, head := some h, fp := true, long := some h.la }
  | .vfrsq h vd va => some { use := { vs := fpRegs .f32 va, vd := fpRegs .f32 vd }, head := some h, fp := true, long := some h.la }
  | .vfexp2 h vd va => some { use := { vs := fpRegs .f32 va, vd := fpRegs .f32 vd }, head := some h, fp := true, long := some h.la }
  | .vflog2 h vd va => some { use := { vs := fpRegs .f32 va, vd := fpRegs .f32 vd }, head := some h, fp := true, long := some h.la }
  | .vfsin h vd va => some { use := { vs := fpRegs .f32 va, vd := fpRegs .f32 vd }, head := some h, fp := true, long := some h.la }
  | .vfcos h vd va => some { use := { vs := fpRegs .f32 va, vd := fpRegs .f32 vd }, head := some h, fp := true, long := some h.la }
  | .vfsqrt h ty vd va _ => some { use := { vs := fpRegs ty va, vd := fpRegs ty vd }, head := some h, fp := true, long := some h.la }
  | .vffract h ty vd va _ => some { use := { vs := fpRegs ty va, vd := fpRegs ty vd }, head := some h, fp := true }
  | .vfround h ty vd va _ => some { use := { vs := fpRegs ty va, vd := fpRegs ty vd }, head := some h, fp := true }
  | .vfclass h ty vd va => some { use := { vs := fpRegs ty va, vd := [vd.toNat] }, head := some h }
  | .vfcmp h ty _ md va vb => some { use := { vs := fpRegs ty va ++ fpRegs ty vb }, head := some h, md := [md.toNat], fp := true }
  | .vfcvt h dst src vd va _ _ => some { use := { vs := cvtRegs src va, vd := fpRegs dst vd }, head := some h, fp := true }
  | .vicvt h dst src vd va _ => some { use := { vs := fpRegs src va, vd := intRegs dst vd }, head := some h, fp := true }
  | .vfscale h ty vd va vb _ => some { use := { vs := vb.toNat :: fpRegs ty va, vd := fpRegs ty vd }, head := some h, fp := true }
  | .vpack h ty vd va _ _ => some { use := { vs := runRegs va ty.perReg, vd := [vd.toNat] }, head := some h, fp := true }
  | .vunpack h ty vd va => some { use := { vs := [va.toNat], vd := runRegs vd ty.perReg }, head := some h, fp := true }
  | .vpackDense h _ vd va => some { use := { vs := runRegs va 4, vd := runRegs vd 3 }, head := some h }
  | .vunpackDense h _ vd va => some { use := { vs := runRegs va 3, vd := runRegs vd 4 }, head := some h }
  | .vdot h _ _ vd va vb vc mx => some { use := { vs := vd.toNat :: (runRegs va 4 ++ runRegs vb 4 ++ (if mx then [vc.toNat] else [])), vd := [vd.toNat] }, head := some h, fp := true, long := some h.la }
  | .vcmp h _ _ md va vb => some { use := { vs := nums [va, vb] }, head := some h, md := [md.toNat] }
  | .mand h md _ _ => some { use := {}, head := some h, md := [md.toNat] }
  | .mor h md _ _ => some { use := {}, head := some h, md := [md.toNat] }
  | .mxor h md _ _ => some { use := {}, head := some h, md := [md.toNat] }
  | .mandn h md _ _ => some { use := {}, head := some h, md := [md.toNat] }
  | .mnot h md _ => some { use := {}, head := some h, md := [md.toNat] }
  | .mmov h md _ => some { use := {}, head := some h, md := [md.toNat] }
  | .mpopc h sd _ => some { use := { sd := [sd.toNat] }, head := some h }
  | .mffs h sd _ => some { use := { sd := [sd.toNat] }, head := some h }
  | .mfls h sd _ => some { use := { sd := [sd.toNat] }, head := some h }
  | .mtos h sd _ => some { use := { sd := [sd.toNat] }, head := some h }
  | .mfroms h md ss => some { use := { ss := [ss.toNat] }, head := some h, md := [md.toNat] }
  | _ => none

/-- What a register word leaves alone (R57, R95, R99, R122, R124, R215): only the issuing executor changes; of its group only the
registers, marks and masks that the word names, in the active lanes, and FPFL where it is a floating word, whose flags are
sticky (R94); of its path only the scalar registers that the word names, and the place. -/
structure RegisterFrame (s t : State) (x : Ex) (f : Form) : Prop where
  only     : OnlyExecutors s t
  memory   : SameMemory s t
  pending  : (∀ la, f.long = some la → la = 0) → t.ops = s.ops
  groups   : ∀ gid, x.who.gid? ≠ some gid → grp? t gid = grp? s gid
  threads  : ∀ d k, x.who ≠ .qthr d k → qt? t d k = qt? s d k
  contexts : ∀ d k, x.who ≠ .copyc d k → cc? t d k = cc? s d k
  group    : ∀ g, x.g = some g → ∃ g', grp? t g.gid = some g' ∧ SameSpecials g g' ∧
    (∀ r i, i < 64 → (r ∈ f.use.vd → (x.active f.head).getLsbD i = false) →
      rdV g' r i = rdV g r i ∧ (vMarks g' r).getLsbD i = (vMarks g r).getLsbD i) ∧
    (∀ m i, i < 64 → (m ∈ f.md → (x.active f.head).getLsbD i = false) →
      (sget 0 g'.masks m).getLsbD i = (sget 0 g.masks m).getLsbD i) ∧
    (f.fp = false → g'.fpfl = g.fpfl) ∧ g.fpfl &&& ~~~ g'.fpfl = 0 ∧ (g.fpfl ^^^ g'.fpfl) &&& ~~~ fpflMask = 0
  path     : (1 < x.p.left ∨ x.p.reconv ≠ some (x.p.pc + 8)) → ∃ q, pathOf t x.who = some q ∧ q.pc = x.p.pc + 8 ∧
    q.mask = x.p.mask ∧ ∀ r : SReg, r.toNat ∉ f.use.sd → rdS q r = rdS x.p r ∧ q.spois.getLsbD r.toNat = x.p.spois.getLsbD r.toNat

/-- An agent of the memory model (R191): a group, QP thread or copy context, a supervisor core, the host at a port, the guest of a
socket, or another module. -/
inductive Agent
  | exec (e : Issuer) | supervisor (die core : Nat) | host (port : Nat) | guest (socket : Nat) | other (modid : Nat)
  deriving DecidableEq, Repr

/-- The die of an agent of the module. -/
def Agent.die? (s : State) : Agent → Option Nat
  | .exec e => some (placeOf s e).1
  | .supervisor die _ => some die
  | .host _ | .guest _ | .other _ => none

/-- Whether two names stand for one agent: the two slots of a group do. -/
def Agent.same : Agent → Agent → Bool
  | .exec a, .exec b => sameAgent a b
  | a, b => a == b

/-- The group that an agent is. -/
def Agent.group? (s : State) : Agent → Option Group
  | .exec e => e.gid?.bind (grp? s)
  | _ => none

/-- Whether the instance of a scope of one agent holds another (R198). -/
def covers (s : State) (sc : Scope) (a b : Agent) : Bool :=
  a.same b || match sc with
  | .weak | .grp => false
  | .team => match a.group? s, b.group? s with
    | some g, some h => g.team == h.team
    | _, _ => false
  | .die => (a.die? s).isSome && a.die? s == b.die? s
  | .pkg => (a.die? s).isSome && (b.die? s).isSome
  | .sys => true

/-- Whether two agents share a scope (R198). -/
def shareScope (s : State) (sc : Scope) (a b : Agent) : Bool := covers s sc a b && covers s sc b a

/-- The invariant of memory: the module's, the host's and the guests' stand in their canonical form. -/
structure Canonical (s : State) : Prop where
  mem      : Memory.wf s.mem = true
  hostMem  : Memory.wf s.hostMem = true
  guestMem : Memory.wf s.guestMem = true

/-- A step that stops neither with a fault nor with a refusal. -/
def SafeStep (s : State) : Prop := ∃ t, step s = .next t

end Sys2Proof.Machine
end

