-- ==== Sys2Proof/Certificates/Slice0/Obligations.lean ====
section
/-! DEFINITION. What the provers are asked to prove of the model: the rules of the spec as statements about `decode`, `exec` and
`step`. -/

open Sys2Proof Sys2Proof.Machine

/-! ### Scalar words -/

/-- R101 to R105: a scalar word that is not a division writes its result into the path's view and the path goes to the next
word. The operands are read under the type (R100), the exact result is narrowed (R85) and extended to the register (R100).
R58, R87, R101: a division with LA = 0 writes quotient or remainder at issue; with a lookahead it becomes an outstanding
operation that will write it, and a window of LA words opens in which the destination is pending. -/
def Obligations.ScalarWordsComplete : Prop :=
  (∀ (s : State) (x : Ex) (ty : IntTy) (cnd : Cnd) (sd sa sb sc : SReg) (sat : Bool) (pos len : BitVec 6) (imm : BitVec 33)
     (imm32 : W32),
     let done := fun (v : W64) => (Host.Outcome.next (advance (setS s x sd v) x) : Host.Outcome State Fault Refusal)
     let ia := scaInt ty x.p sa
     let ib := scaInt ty x.p sb
     let a := scaBits ty x.p sa
     let b := scaBits ty x.p sb
     let c := scaCount ty x.p sb
     let n := ty.width
     (Ready s x ruleAll { ss := [sa.toNat, sb.toNat], sd := [sd.toNat] } none →
       exec (.sadd ty sd sa sb sat) s = done (extend 64 ty (narrow ty sat (ia + ib))) ∧
       exec (.ssub ty sd sa sb sat) s = done (extend 64 ty (narrow ty sat (ia - ib))) ∧
       exec (.smul ty sd sa sb sat) s = done (extend 64 ty (narrow ty sat (ia * ib))) ∧
       exec (.smulh ty sd sa sb) s = done (extend 64 ty (narrow ty false (ia * ib / (2 ^ n : Nat)))) ∧
       exec (.smin ty sd sa sb) s = done (extend 64 ty (narrow ty false (min ia ib))) ∧
       exec (.smax ty sd sa sb) s = done (extend 64 ty (narrow ty false (max ia ib))) ∧
       exec (.sand ty sd sa sb) s = done (extend 64 ty (Nat.land a b)) ∧
       exec (.sor ty sd sa sb) s = done (extend 64 ty (Nat.lor a b)) ∧
       exec (.sxor ty sd sa sb) s = done (extend 64 ty (Nat.xor a b)) ∧
       exec (.sandn ty sd sa sb) s = done (extend 64 ty (a - Nat.land a b)) ∧
       exec (.sshl ty sd sa sb) s = done (extend 64 ty (shlN n a c)) ∧
       exec (.sshr ty sd sa sb) s = done (extend 64 ty (shrN a c)) ∧
       exec (.ssra ty sd sa sb) s = done (extend 64 ty (sraN n a c)) ∧
       exec (.srot ty sd sa sb) s = done (extend 64 ty (rotN n a c)) ∧
       exec (.scmp ty cnd sd sa sb) s = done (if cndHolds cnd ia ib then 1 else 0) ∧
       exec (.sbfi ty sd sa sb pos len) s = done (BitVec.ofNat 64 (insertN a b pos.toNat (len.toNat + 1)))) ∧
     (Ready s x ruleAll { ss := [sa.toNat], sd := [sd.toNat] } none →
       exec (.sclz ty sd sa) s = done (BitVec.ofNat 64 (clzN n a)) ∧
       exec (.spopc ty sd sa) s = done (BitVec.ofNat 64 (popcN n a)) ∧
       exec (.sbfe ty sd sa pos len) s =
         done (extend 64 ty (narrow ty false (signField ty.isI (fieldN a pos.toNat (len.toNat + 1)) (len.toNat + 1)))) ∧
       exec (.smov sd sa) s = done (rdS x.p sa) ∧
       exec (.saddImm sd sa imm) s = done (rdS x.p sa + imm.signExtend 64) ∧
       exec (.smulImm sd sa imm) s = done (rdS x.p sa * imm.signExtend 64) ∧
       exec (.sandImm sd sa imm) s = done (rdS x.p sa &&& imm.signExtend 64) ∧
       exec (.sorImm sd sa imm) s = done (rdS x.p sa ||| imm.signExtend 64) ∧
       exec (.sxorImm sd sa imm) s = done (rdS x.p sa ^^^ imm.signExtend 64) ∧
       exec (.sshlImm sd sa imm) s = done (rdS x.p sa <<< ((imm.signExtend 64).toNat % 64)) ∧
       exec (.sshrImm sd sa imm) s = done (rdS x.p sa >>> ((imm.signExtend 64).toNat % 64)) ∧
       exec (.ssraImm sd sa imm) s = done ((rdS x.p sa).sshiftRight ((imm.signExtend 64).toNat % 64))) ∧
     (Ready s x ruleAll { ss := [sa.toNat, sb.toNat, sc.toNat], sd := [sd.toNat] } none →
       exec (.ssel sd sa sb sc) s = done (if rdS x.p sc = 0 then rdS x.p sb else rdS x.p sa)) ∧
     (Ready s x ruleAll { sd := [sd.toNat] } none → exec (.sli sd imm32) s = done (imm32.signExtend 64)) ∧
     (Ready s x ruleAll { ss := [sd.toNat], sd := [sd.toNat] } none →
       exec (.sliHi sd imm32) s = done (imm32 ++ (rdS x.p sd).extractLsb' 0 32))) ∧
  (∀ (s : State) (x : Ex) (ty : IntTy) (sd sa sb : SReg) (la : BitVec 4),
     Ready s x ruleAll { ss := [sa.toNat, sb.toNat], sd := [sd.toNat] } none →
     let qr := divRem ty (scaInt ty x.p sa) (scaInt ty x.p sb)
     let q := extend 64 ty (narrow ty false qr.1)
     let m := extend 64 ty (narrow ty false qr.2)
     let late := fun (v : W64) => (Host.Outcome.next (resultsPending s x false la [] [sd.toNat] [] [(sd.toNat, v)] 0) :
       Host.Outcome State Fault Refusal)
     let done := fun (v : W64) => (Host.Outcome.next (advance (setS s x sd v) x) : Host.Outcome State Fault Refusal)
     (la = 0 → exec (.sdiv la ty sd sa sb) s = done q ∧ exec (.srem la ty sd sa sb) s = done m) ∧
     (la ≠ 0 → exec (.sdiv la ty sd sa sb) s = late q ∧ exec (.srem la ty sd sa sb) s = late m))

/-- R87: quotient and remainder of n bits, at every dividend and divisor. -/
def Obligations.DivisionRule : Prop :=
  ∀ (ty : IntTy) (a b : Int),
    (b = 0 → divRem ty a b = (((2 ^ ty.width : Nat) : Int) - 1, a)) ∧
    (ty.isI = true ∧ a = tyMin ty ∧ b = -1 → divRem ty a b = (tyMin ty, 0)) ∧
    (b ≠ 0 ∧ ¬(ty.isI = true ∧ a = tyMin ty ∧ b = -1) →
      let q := (divRem ty a b).1
      let m := (divRem ty a b).2
      a = b * q + m ∧ |m| < |b| ∧ (m ≠ 0 → (0 < m ↔ 0 < a)) ∧ |q| * |b| ≤ |a|)

/-- R86: the count of a shift, and each bit of the shifted or rotated value. -/
def Obligations.ShiftRule : Prop :=
  ∀ (n a b i : Nat), 0 < n → a < 2 ^ n → i < n →
    shiftCount n b = b % 2 ^ n % n ∧
    (let c := shiftCount n b
     (shlN n a c).testBit i = (decide (c ≤ i) && a.testBit (i - c)) ∧
     (shrN a c).testBit i = (decide (i + c < n) && a.testBit (i + c)) ∧
     (sraN n a c).testBit i = (if i + c < n then a.testBit (i + c) else a.testBit (n - 1)) ∧
     (rotN n a c).testBit i = a.testBit ((i + c) % n) ∧
     shlN n a c < 2 ^ n ∧ shrN a c < 2 ^ n ∧ sraN n a c < 2 ^ n ∧ rotN n a c < 2 ^ n)

/-- R84, R85: an exact result is kept modulo 2^n, or clamped under `.sat`; what is written and read again is that value. -/
def Obligations.NarrowingRule : Prop :=
  ∀ (ty : IntTy) (v : Int), ty.width ≤ 64 →
    (narrow ty false v : Int) = v % (2 ^ ty.width : Nat) ∧
    readInt ty (narrow ty true v) = min (max v (tyMin ty)) (tyMax ty) ∧
    (tyMin ty ≤ v ∧ v ≤ tyMax ty → readInt ty (narrow ty false v) = v) ∧
    readInt ty (extend 64 ty (narrow ty false v)).toNat = readInt ty (narrow ty false v)

/-! ### Vector words -/

/-- R126 to R131: a lane-wise integer word writes its result in each active lane: operands read under the type, the exact
result narrowed to the type's width (R85), and extended to the register or register pair (R122). -/
def Obligations.VectorIntegerWordsComplete : Prop :=
  ∀ (s : State) (x : Ex) (h : Head) (ty : IntTy) (vd va vb vc : VReg) (sat : Bool) (imm : BitVec 25),
    (Ready s x vecRule { vs := nums [va, vb], vd := [vd.toNat] } (some h) →
      exec (.vadd h ty vd va vb sat) s =
        .next (lanesWritten s x h fun g i => intWrites ty vd.toNat i (narrow ty sat (laneInt g ty va.toNat i + laneInt g ty vb.toNat i))) ∧
      exec (.vsub h ty vd va vb sat) s =
        .next (lanesWritten s x h fun g i => intWrites ty vd.toNat i (narrow ty sat (laneInt g ty va.toNat i - laneInt g ty vb.toNat i))) ∧
      exec (.vmul h ty vd va vb sat) s =
        .next (lanesWritten s x h fun g i => intWrites ty vd.toNat i (narrow ty sat (laneInt g ty va.toNat i * laneInt g ty vb.toNat i))) ∧
      exec (.vmulh h ty vd va vb) s =
        .next (lanesWritten s x h fun g i => intWrites ty vd.toNat i (narrow ty false (laneInt g ty va.toNat i * laneInt g ty vb.toNat i / (2 ^ ty.width : Nat)))) ∧
      exec (.vmin h ty vd va vb) s =
        .next (lanesWritten s x h fun g i => intWrites ty vd.toNat i (narrow ty false (min (laneInt g ty va.toNat i) (laneInt g ty vb.toNat i)))) ∧
      exec (.vmax h ty vd va vb) s =
        .next (lanesWritten s x h fun g i => intWrites ty vd.toNat i (narrow ty false (max (laneInt g ty va.toNat i) (laneInt g ty vb.toNat i)))) ∧
      exec (.vand h ty vd va vb) s =
        .next (lanesWritten s x h fun g i => intWrites ty vd.toNat i (Nat.land (laneBits g ty va.toNat i) (laneBits g ty vb.toNat i))) ∧
      exec (.vor h ty vd va vb) s =
        .next (lanesWritten s x h fun g i => intWrites ty vd.toNat i (Nat.lor (laneBits g ty va.toNat i) (laneBits g ty vb.toNat i))) ∧
      exec (.vxor h ty vd va vb) s =
        .next (lanesWritten s x h fun g i => intWrites ty vd.toNat i (Nat.xor (laneBits g ty va.toNat i) (laneBits g ty vb.toNat i))) ∧
      exec (.vandn h ty vd va vb) s =
        .next (lanesWritten s x h fun g i => intWrites ty vd.toNat i (laneBits g ty va.toNat i - Nat.land (laneBits g ty va.toNat i) (laneBits g ty vb.toNat i))) ∧
      exec (.vshl h ty vd va vb) s =
        .next (lanesWritten s x h fun g i => intWrites ty vd.toNat i (shlN ty.width (laneBits g ty va.toNat i) (shiftCount ty.width (laneBits g ty vb.toNat i)))) ∧
      exec (.vshr h ty vd va vb) s =
        .next (lanesWritten s x h fun g i => intWrites ty vd.toNat i (shrN (laneBits g ty va.toNat i) (shiftCount ty.width (laneBits g ty vb.toNat i)))) ∧
      exec (.vsra h ty vd va vb) s =
        .next (lanesWritten s x h fun g i => intWrites ty vd.toNat i (sraN ty.width (laneBits g ty va.toNat i) (shiftCount ty.width (laneBits g ty vb.toNat i))))) ∧
    (Ready s x vecRule { vs := nums [va], vd := [vd.toNat] } (some h) →
      exec (.vabs h ty vd va sat) s =
        .next (lanesWritten s x h fun g i => intWrites ty vd.toNat i (narrow ty sat ((laneInt g ty va.toNat i).natAbs))) ∧
      exec (.vneg h ty vd va sat) s =
        .next (lanesWritten s x h fun g i => intWrites ty vd.toNat i (narrow ty sat (-(laneInt g ty va.toNat i)))) ∧
      exec (.vnot h ty vd va) s =
        .next (lanesWritten s x h fun g i => intWrites ty vd.toNat i (2 ^ ty.width - 1 - laneBits g ty va.toNat i)) ∧
      exec (.vbrev h ty vd va) s =
        .next (lanesWritten s x h fun g i => intWrites ty vd.toNat i (brevN ty.width (laneBits g ty va.toNat i))) ∧
      exec (.vclz h ty vd va) s =
        .next (lanesWritten s x h fun g i => [(vd.toNat * 64 + i, BitVec.ofNat 32 (clzN ty.width (laneBits g ty va.toNat i)))]) ∧
      exec (.vpopc h ty vd va) s =
        .next (lanesWritten s x h fun g i => [(vd.toNat * 64 + i, BitVec.ofNat 32 (popcN ty.width (laneBits g ty va.toNat i)))]) ∧
      exec (.vaddImm h ty vd va imm) s =
        .next (lanesWritten s x h fun g i => intWrites ty vd.toNat i (narrow ty false (laneInt g ty va.toNat i + readInt ty (imm.signExtend 32).toNat))) ∧
      exec (.vsubImm h ty vd va imm) s =
        .next (lanesWritten s x h fun g i => intWrites ty vd.toNat i (narrow ty false (laneInt g ty va.toNat i - readInt ty (imm.signExtend 32).toNat))) ∧
      exec (.vmulImm h ty vd va imm) s =
        .next (lanesWritten s x h fun g i => intWrites ty vd.toNat i (narrow ty false (laneInt g ty va.toNat i * readInt ty (imm.signExtend 32).toNat))) ∧
      exec (.vminImm h ty vd va imm) s =
        .next (lanesWritten s x h fun g i => intWrites ty vd.toNat i (narrow ty false (min (laneInt g ty va.toNat i) (readInt ty (imm.signExtend 32).toNat)))) ∧
      exec (.vmaxImm h ty vd va imm) s =
        .next (lanesWritten s x h fun g i => intWrites ty vd.toNat i (narrow ty false (max (laneInt g ty va.toNat i) (readInt ty (imm.signExtend 32).toNat)))) ∧
      exec (.vandImm h ty vd va imm) s =
        .next (lanesWritten s x h fun g i => intWrites ty vd.toNat i (Nat.land (laneBits g ty va.toNat i) (lowBits ty.width (imm.signExtend 32).toNat))) ∧
      exec (.vorImm h ty vd va imm) s =
        .next (lanesWritten s x h fun g i => intWrites ty vd.toNat i (Nat.lor (laneBits g ty va.toNat i) (lowBits ty.width (imm.signExtend 32).toNat))) ∧
      exec (.vxorImm h ty vd va imm) s =
        .next (lanesWritten s x h fun g i => intWrites ty vd.toNat i (Nat.xor (laneBits g ty va.toNat i) (lowBits ty.width (imm.signExtend 32).toNat))) ∧
      exec (.vshlImm h ty vd va imm) s =
        .next (lanesWritten s x h fun g i => intWrites ty vd.toNat i (shlN ty.width (laneBits g ty va.toNat i) (shiftCount ty.width (lowBits ty.width (imm.signExtend 32).toNat)))) ∧
      exec (.vshrImm h ty vd va imm) s =
        .next (lanesWritten s x h fun g i => intWrites ty vd.toNat i (shrN (laneBits g ty va.toNat i) (shiftCount ty.width (lowBits ty.width (imm.signExtend 32).toNat)))) ∧
      exec (.vsraImm h ty vd va imm) s =
        .next (lanesWritten s x h fun g i => intWrites ty vd.toNat i (sraN ty.width (laneBits g ty va.toNat i) (shiftCount ty.width (lowBits ty.width (imm.signExtend 32).toNat))))) ∧
    (Ready s x vecRule { vs := nums [va, vb, vc], vd := [vd.toNat] } (some h) →
      exec (.vmad h ty vd va vb vc sat) s =
        .next (lanesWritten s x h fun g i => intWrites ty vd.toNat i (narrow ty sat (laneInt g ty va.toNat i * laneInt g ty vb.toNat i + laneInt g ty vc.toNat i))))

/-- R133, R134: `vcmp` and the mask words write their mask register in the active lanes; a count or a transfer of a mask
reads its active lanes and writes a scalar register: with no active lane too, where it writes 0, 64, 64 and 0, which is the model's choice
against the plain words of R57 (log entry 18). R128 to R130, R132: bit fields under a control word, carries and borrows
through a mask register, the carry-less product, moves and set-up. -/
def Obligations.MoveFieldAndMaskWordsComplete : Prop :=
  (∀ (s : State) (x : Ex) (h : Head) (ty : IntTy) (cnd : Cnd) (md ma mb : MReg) (va vb : VReg) (sd ss : SReg),
     (Ready s x vecRule { vs := nums [va, vb] } (some h) →
       exec (.vcmp h ty cnd md va vb) s = .next (maskWritten s x h md fun g => maskOf ((lanesOf (activeOf g x.p h)).filter fun i =>
         cndHolds cnd (laneInt g ty va.toNat i) (laneInt g ty vb.toNat i)))) ∧
     (Ready s x vecRule {} (some h) →
       exec (.mand h md ma mb) s = .next (maskWritten s x h md fun g => rdM g x.p ma &&& rdM g x.p mb) ∧
       exec (.mor h md ma mb) s = .next (maskWritten s x h md fun g => rdM g x.p ma ||| rdM g x.p mb) ∧
       exec (.mxor h md ma mb) s = .next (maskWritten s x h md fun g => rdM g x.p ma ^^^ rdM g x.p mb) ∧
       exec (.mandn h md ma mb) s = .next (maskWritten s x h md fun g => rdM g x.p ma &&& ~~~ (rdM g x.p mb)) ∧
       exec (.mnot h md ma) s = .next (maskWritten s x h md fun g => ~~~ (rdM g x.p ma)) ∧
       exec (.mmov h md ma) s = .next (maskWritten s x h md fun g => rdM g x.p ma)) ∧
     (Ready s x vecRule { ss := [ss.toNat] } (some h) →
       exec (.mfroms h md ss) s = .next (maskWritten s x h md fun _ => rdS x.p ss)) ∧
     (∀ g, x.g = some g → Ready s x vecRule { sd := [sd.toNat] } (some h) →
       let on := rdM g x.p ma &&& activeOf g x.p h
       exec (.mpopc h sd ma) s = .next (advance (setS s x sd (BitVec.ofNat 64 (popcount on))) x) ∧
       exec (.mffs h sd ma) s = .next (advance (setS s x sd (BitVec.ofNat 64 ((lanesOf on).head?.getD 64))) x) ∧
       exec (.mfls h sd ma) s = .next (advance (setS s x sd (BitVec.ofNat 64 ((lanesOf on).getLast?.getD 64))) x) ∧
       exec (.mtos h sd ma) s = .next (advance (setS s x sd on) x))) ∧
  (∀ (s : State) (x : Ex) (h : Head) (ty : IntTy) (vd va vb vc : VReg) (k : MReg) (ss : SReg) (hi xacc : Bool) (imm : W32),
     (Ready s x vecRule { vs := nums [va, vc], vd := [vd.toNat] } (some h) →
       exec (.vbfe h ty vd va vc) s = .next (lanesWritten s x h fun g i =>
         let pos := (rdV g vc.toNat i).toNat % 32
         let len := min ((rdV g vc.toNat i).toNat / 256 % 64) (32 - pos)
         [(vd.toNat * 64 + i, BitVec.ofInt 32 (signField ty.isI (fieldN (rdV g va.toNat i).toNat pos len) len))])) ∧
     (Ready s x vecRule { vs := nums [va, vb, vc], vd := [vd.toNat] } (some h) →
       exec (.vbfi h vd va vb vc) s = .next (lanesWritten s x h fun g i =>
         let pos := (rdV g vc.toNat i).toNat % 32
         let len := min ((rdV g vc.toNat i).toNat / 256 % 64) (32 - pos)
         [(vd.toNat * 64 + i, BitVec.ofNat 32 (insertN (rdV g va.toNat i).toNat (rdV g vb.toNat i).toNat pos len))])) ∧
     (Ready s x vecRule { vs := nums (if xacc then [va, vb, vc] else [va, vb]), vd := [vd.toNat] } (some h) →
       exec (.vclmul h vd va vb vc hi xacc) s = .next (lanesWritten s x h fun g i =>
         let p := clmul (rdV g va.toNat i).toNat (rdV g vb.toNat i).toNat
         let r := BitVec.ofNat 32 (if hi then p / 2 ^ 32 else p)
         [(vd.toNat * 64 + i, if xacc then r ^^^ rdV g vc.toNat i else r)])) ∧
     (Ready s x vecRule { vs := intRegs ty va, vd := intRegs ty vd } (some h) →
       exec (.vmov h ty vd va) s = .next (lanesWritten s x h fun g i => moveWrites g ty vd.toNat va.toNat i)) ∧
     (Ready s x vecRule { vs := intRegs ty va ++ intRegs ty vb, vd := intRegs ty vd } (some h) →
       exec (.vsel h ty vd va vb k) s = .next (lanesWritten s x h fun g i =>
         moveWrites g ty vd.toNat (if (rdM g x.p k).getLsbD i then va.toNat else vb.toNat) i)) ∧
     (Ready s x vecRule { vd := intRegs ty vd, ss := [ss.toNat] } (some h) →
       exec (.vbcast h ty vd ss) s = .next (lanesWritten s x h fun _ i => intWrites ty vd.toNat i (rdS x.p ss).toNat)) ∧
     (Ready s x vecRule { vd := [vd.toNat] } (some h) →
       exec (.vli h vd imm) s = .next (lanesWritten s x h fun _ i => [(vd.toNat * 64 + i, imm)]) ∧
       exec (.vlane h vd) s = .next (lanesWritten s x h fun _ i => [(vd.toNat * 64 + i, BitVec.ofNat 32 i)])) ∧
     (Ready s x vecRule { vs := nums [va, vb], vd := [vd.toNat] } (some h) →
       let sum := fun (g : Group) (i : Nat) =>
         (rdV g va.toNat i).toNat + (rdV g vb.toNat i).toNat + ((rdM g x.p k).getLsbD i).toNat
       let owed := fun (g : Group) (i : Nat) => (rdV g vb.toNat i).toNat + ((rdM g x.p k).getLsbD i).toNat
       let put := fun (v : Group → Nat → Nat) (out : Group → Nat → Bool) =>
         (Host.Outcome.next (advance (onGroup s x fun g =>
           let act := x.active (some h)
           let g' := mapLanes g act fun i => [(vd.toNat * 64 + i, BitVec.ofNat 32 (v g i))]
           if act = 0 then g' else wrM g' k.toNat act (maskOf ((lanesOf act).filter (out g)))) x) : Host.Outcome State Fault Refusal)
       exec (.vaddc h vd va vb k) s = put sum (fun g i => decide (2 ^ 32 ≤ sum g i)) ∧
       exec (.vsubb h vd va vb k) s =
         put (fun g i => (rdV g va.toNat i).toNat + 2 ^ 33 - owed g i) (fun g i => decide ((rdV g va.toNat i).toNat < owed g i))))

/-! ### Floating words -/

/-- R89: rounding ±m / 2^sh to an integer under each mode, and when it is inexact. R88, R90: a value that a format holds is
rounded to its own pattern with no flag, whatever the rounding mode. -/
def Obligations.RoundingRule : Prop :=
  (∀ (neg : Bool) (m sh : Nat),
     let sign : ℚ := if neg then -1 else 1
     let v : ℚ := sign * m / 2 ^ sh
     let r := fun (rm : RoundMode) => sign * ((rintMag neg m sh rm).1 : ℚ)
     (|v - r .rne| ≤ 1 / 2 ∧ (|v - r .rne| = 1 / 2 → (rintMag neg m sh .rne).1 % 2 = 0)) ∧
     (rintMag neg m sh .rtz).1 = ⌊|v|⌋ ∧
     r .rup = ⌈v⌉ ∧ r .rdn = ⌊v⌋ ∧
     (|v - r .rna| ≤ 1 / 2 ∧ (|v - r .rna| = 1 / 2 → |v| < |r .rna|)) ∧
     ∀ rm, ((rintMag neg m sh rm).2 = true ↔ r rm ≠ v)) ∧
  (∀ (t : FpTy) (p : Nat) (rm : RoundMode) (ovf n : Bool) (m : Nat) (e : Int),
     t ≠ .e8m0 → p < 2 ^ (fmtShape t).w → readFp t p = .fin n m e → rnd (.fin n m e) t rm ovf = (p, 0))

/-- R135 to R137, R139: a floating word whose result is known at issue writes, in each active lane, the exact result rounded
once, and gathers the flags of its active lanes into FPFL. R140 to R143: comparison, conversion and packing. -/
def Obligations.FloatWordsComplete : Prop :=
  (∀ (s : State) (x : Ex) (h : Head) (ty : FpTy) (vd va vb vc : VReg) (rm : RoundMode),
     (Ready s x vecRule { vs := fpRegs ty va ++ fpRegs ty vb, vd := fpRegs ty vd } (some h) →
       exec (.vfadd h ty vd va vb rm) s =
         .next (floatsWritten s x h fun g i => fpRes ty vd i (rndWith (fvAdd rm (readFp ty (laneFp g ty va.toNat i)) (readFp ty (laneFp g ty vb.toNat i))) ty rm false)) ∧
       exec (.vfsub h ty vd va vb rm) s =
         .next (floatsWritten s x h fun g i => fpRes ty vd i (rndWith (fvAdd rm (readFp ty (laneFp g ty va.toNat i)) (fvNeg (readFp ty (laneFp g ty vb.toNat i)))) ty rm false)) ∧
       exec (.vfmul h ty vd va vb rm) s =
         .next (floatsWritten s x h fun g i => fpRes ty vd i (rndWith (fvMul (readFp ty (laneFp g ty va.toNat i)) (readFp ty (laneFp g ty vb.toNat i))) ty rm false)) ∧
       exec (.vfmin h ty vd va vb) s =
         .next (floatsWritten s x h fun g i => fpRes ty vd i (fpMinMax false ty (laneFp g ty va.toNat i) (laneFp g ty vb.toNat i))) ∧
       exec (.vfmax h ty vd va vb) s =
         .next (floatsWritten s x h fun g i => fpRes ty vd i (fpMinMax true ty (laneFp g ty va.toNat i) (laneFp g ty vb.toNat i))) ∧
       exec (.vfsgn h ty vd va vb) s =
         .next (floatsWritten s x h fun g i => fpRes ty vd i (fpSetSign ty (laneFp g ty va.toNat i) (signOf ty (laneFp g ty vb.toNat i)) (sigFlag (readFp ty (laneFp g ty vb.toNat i)))))) ∧
     (Ready s x vecRule { vs := fpRegs ty va, vd := fpRegs ty vd } (some h) →
       exec (.vfabs h ty vd va) s =
         .next (floatsWritten s x h fun g i => fpRes ty vd i (fpSetSign ty (laneFp g ty va.toNat i) false 0)) ∧
       exec (.vfneg h ty vd va) s =
         .next (floatsWritten s x h fun g i => fpRes ty vd i (fpSetSign ty (laneFp g ty va.toNat i) (!signOf ty (laneFp g ty va.toNat i)) 0)) ∧
       exec (.vffract h ty vd va rm) s =
         .next (floatsWritten s x h fun g i => fpRes ty vd i (fpFract ty rm (laneFp g ty va.toNat i))) ∧
       exec (.vfround h ty vd va rm) s =
         .next (floatsWritten s x h fun g i => fpRes ty vd i (fpRound ty rm (laneFp g ty va.toNat i)))) ∧
     (Ready s x vecRule { vs := fpRegs ty va ++ fpRegs ty vb ++ fpRegs ty vc, vd := fpRegs ty vd } (some h) →
       exec (.vffma h ty vd va vb vc rm) s = .next (floatsWritten s x h fun g i =>
         let p := fvMul (readFp ty (laneFp g ty va.toNat i)) (readFp ty (laneFp g ty vb.toNat i))
         let q := fvAdd rm p.1 (readFp ty (laneFp g ty vc.toNat i))
         fpRes ty vd i (rndWith (q.1, p.2 ||| q.2) ty rm false))) ∧
     (Ready s x vecRule { vs := vb.toNat :: fpRegs ty va, vd := fpRegs ty vd } (some h) →
       exec (.vfscale h ty vd va vb rm) s =
         .next (floatsWritten s x h fun g i => fpRes ty vd i (fpScale ty rm (laneFp g ty va.toNat i) (rdV g vb.toNat i).toInt))) ∧
     (Ready s x vecRule { vs := fpRegs ty va, vd := [vd.toNat] } (some h) →
       exec (.vfclass h ty vd va) s = .next (lanesWritten s x h fun g i =>
         [(vd.toNat * 64 + i, BitVec.ofNat 32 (2 ^ fpClass ty (laneFp g ty va.toNat i)))]))) ∧
  (∀ (s : State) (x : Ex) (h : Head) (ty : FpTy) (src : CvtSrc) (ity : IntTy) (cnd : FCnd) (md : MReg) (vd va vb : VReg)
     (rm : RoundMode) (ovf : Bool),
     (Ready s x vecRule { vs := fpRegs ty va ++ fpRegs ty vb } (some h) →
       exec (.vfcmp h ty cnd md va vb) s = .next (advance (onGroup s x fun g =>
         let act := x.active (some h)
         let r := fun i => fpCmp ty cnd (laneFp g ty va.toNat i) (laneFp g ty vb.toNat i)
         if act = 0 then g
         else { wrM g md.toNat act (maskOf ((lanesOf act).filter fun i => (r i).1)) with
                fpfl := g.fpfl ||| flagWord (gatherFlags ((lanesOf act).map fun i => (r i).2)) }) x)) ∧
     (Ready s x vecRule { vs := cvtRegs src va, vd := fpRegs ty vd } (some h) →
       exec (.vfcvt h ty src vd va rm ovf) s = .next (floatsWritten s x h fun g i =>
         let v := match src with
           | .fp t => readFp t (laneFp g t va.toNat i)
           | .int t => intVal (laneInt g t va.toNat i)
         fpRes ty vd i (rndWith (v, sigFlag v) ty rm ovf))) ∧
     (Ready s x vecRule { vs := fpRegs ty va, vd := intRegs ity vd } (some h) →
       exec (.vicvt h ity ty vd va rm) s = .next (floatsWritten s x h fun g i =>
         let r := cvti (readFp ty (laneFp g ty va.toNat i)) ity rm
         (intWrites ity vd.toNat i (narrow ity false r.1), r.2))) ∧
     (Ready s x vecRule { vs := runRegs va ty.perReg, vd := [vd.toNat] } (some h) →
       exec (.vpack h ty vd va rm ovf) s = .next (floatsWritten s x h fun g i =>
         let k := ty.perReg
         let r := (List.range k).map fun j => (j, fpCvt (readFp .f32 (rdV g (va.toNat + j) i).toNat) ty rm ovf)
         ([(vd.toNat * 64 + i, BitVec.ofNat 32 (r.foldl (fun a e => a + e.2.1 * 2 ^ (32 / k * e.1)) 0))],
           gatherFlags (r.map fun e => e.2.2)))) ∧
     (Ready s x vecRule { vs := [va.toNat], vd := runRegs vd ty.perReg } (some h) →
       exec (.vunpack h ty vd va) s = .next (floatsWritten s x h fun g i =>
         let r := (List.range ty.perReg).map fun j => (j, fpCvt (readFp ty (packedAt ty (rdV g va.toNat i).toNat j)) .f32 .rne false)
         (r.map fun e => ((vd.toNat + e.1) * 64 + i, BitVec.ofNat 32 e.2.1), gatherFlags (r.map fun e => e.2.2)))) ∧
     (Ready s x vecRule { vs := runRegs va 4, vd := runRegs vd 3 } (some h) →
       exec (.vpackDense h ty vd va) s = .next (lanesWritten s x h fun g i =>
         let b := runValue g va.toNat 4 i
         runWrites vd.toNat 3 i ((List.range 16).foldl (fun a j => a + b / 2 ^ (8 * j) % 64 * 2 ^ (6 * j)) 0))) ∧
     (Ready s x vecRule { vs := runRegs va 3, vd := runRegs vd 4 } (some h) →
       exec (.vunpackDense h ty vd va) s = .next (lanesWritten s x h fun g i =>
         let b := runValue g va.toNat 3 i
         runWrites vd.toNat 4 i ((List.range 16).foldl (fun a j => a + b / 2 ^ (6 * j) % 64 * 2 ^ (8 * j)) 0))))

/-- R58, R95, R135, R138, R144: a long-latency floating word with no active lane only goes on; with LA = 0 it writes its
results and flags at issue; with a lookahead they are outstanding, behind a window in which the destination is pending. The model's choice:
within the bounds of R138 the values are free ones, but those of `vfexp2` at −256 and below and at integers and of `vfcos` at zeros (log
entry 5); and with LA = 0 completion, when R95 ORs the flags, is taken at issue (log entry 51). -/
def Obligations.LongFloatWordsComplete : Prop :=
  ∀ (s : State) (x : Ex) (g : Group) (h : Head) (ty ta tb : FpTy) (vd va vb vc : VReg) (rm : RoundMode) (mx : Bool),
    x.g = some g →
    let act := activeOf g x.p h
    let gives := fun (i : Instr) (vds : List Nat) (f : Nat → List (Nat × W32) × Flags) =>
      (act = 0 → exec i s = .next (advance s x)) ∧
      (act ≠ 0 → h.la = 0 → exec i s = .next (advance (onGroup s x fun g' => takeFp g' (fpLanes act f)) x)) ∧
      (act ≠ 0 → h.la ≠ 0 → exec i s = .next (resultsPending s x true h.la vds [] (fpLanes act f).1 [] (fpLanes act f).2))
    let one := fun (t : FpTy) (i : Instr) (f : Nat → Nat × Flags) =>
      gives i (fpRegs t vd) fun l => fpRes t vd l (f (laneFp g t va.toNat l))
    (Ready s x vecRule { vs := fpRegs .f32 va, vd := fpRegs .f32 vd } (some h) →
      one .f32 (.vfrcp h vd va) fpRcp ∧ one .f32 (.vfrsq h vd va) fpRsq ∧ one .f32 (.vfexp2 h vd va) fpExp2 ∧
      one .f32 (.vflog2 h vd va) fpLog2 ∧ one .f32 (.vfsin h vd va) (fpTrig false) ∧ one .f32 (.vfcos h vd va) (fpTrig true)) ∧
    (Ready s x vecRule { vs := fpRegs ty va, vd := fpRegs ty vd } (some h) → one ty (.vfsqrt h ty vd va rm) (fpSqrt ty rm)) ∧
    (Ready s x vecRule { vs := vd.toNat :: (runRegs va 4 ++ runRegs vb 4 ++ (if mx then [vc.toNat] else [])), vd := [vd.toNat] } (some h) →
      gives (.vdot h ta tb vd va vb vc mx) [vd.toNat] fun l =>
        fpRes .f32 vd l (dotLane g ta tb vd.toNat va.toNat vb.toNat vc.toNat l mx))

/-! ### What the register words leave alone -/

/-- R57, R94, R99, R122, R124: every scalar word and every vector or mask word that is ready answers a next state, in which
nothing has changed but the registers, masks and flags that it names, in the active lanes. -/
def Obligations.RegisterWordsFrame : Prop :=
  ∀ (i : Instr) (f : Form) (s : State) (x : Ex), ill i = none →
    (scalarForm i = some f ∧ Ready s x ruleAll f.use none) ∨ (vectorForm i = some f ∧ Ready s x vecRule f.use f.head) →
    ∃ t, exec i s = .next t ∧ RegisterFrame s t x f

/-- R52, R58: the end of an instruction that is not the last of its block moves the path to the next word and every window on
on by one; after the last one the path stands at the header that follows, and where that is the path's
reconvergence header it
has arrived. -/
def Obligations.PathStepRule : Prop :=
  ∀ (now : Nat) (header : Bool) (p : Path),
    let q := stepPath now header p
    q.pc = p.pc + 8 ∧ q.left = p.left - 1 ∧ q.view = p.view ∧ q.spois = p.spois ∧ q.mask = p.mask ∧ q.pid = p.pid ∧
    q.reconv = p.reconv ∧
    (1 < p.left → q.atHdr = p.atHdr ∧ q.wait = p.wait ∧ q.wins = p.wins.map fun w => { w with left := w.left - 1 }) ∧
    (p.left ≤ 1 → q.atHdr = true ∧ (∀ w ∈ q.wins, w.left = 0) ∧
      (p.reconv ≠ some (p.pc + 8) ∨ p.wins ≠ [] ∨ header = false → q.wait = p.wait) ∧
      (p.reconv = some (p.pc + 8) ∧ p.wins = [] ∧ header = true → q.wait = .arrived))

/-- R61, R122, R124: writing a lane of a vector register is read back there, and every other lane and register reads as
before; the same of a scalar register of a path's view and of the lanes of a mask register. -/
def Obligations.RegistersReadWhatWasWritten : Prop :=
  (∀ (g : Group) (r r' i i' : Nat) (v : W32), i < 64 → i' < 64 →
    rdV (wrV g r i v) r' i' = if r' = r ∧ i' = i then v else rdV g r' i') ∧
  (∀ (p : Path) (r r' : SReg) (v : W64), rdS (wrS p r.toNat v) r' = if r' = r then v else rdS p r') ∧
  (∀ (g : Group) (p : Path) (m m' : MReg) (on v : Mask), m ≠ 0 →
    rdM (wrM g m.toNat on v) p m' =
      if m' = m then ((sget 0 g.masks m.toNat &&& ~~~on) ||| (v &&& on)) &&& fullMask g.width else rdM g p m')

/-! ### Control -/

/-- R52, R55, R106, R107, R109: a branch that is not taken goes on; a taken branch, a call, a return and an indirect jump go
to their target, a call writing its link first and `calli` reading its target before that; a target that fails R55 is raised
instead. R106: the condition of each CC, and the target PC + sext(DISP32) × 8. R31, R107: a uniform `brm` goes on or goes to the target,
whose failed check is raised; one that splits checks both places, then RECONV and, in a handler, the room of its stack (R308), and leaves
slot A with the lanes that fall through and slot B with those taken. R268: the link that a `calli` of a Q or C program keeps. That a `brm`
does not act while its path has open lookahead windows is the model's choice: R58 lets the instructions of a window issue, and says of no
instruction but the first one behind it, and the next header, that it waits (log entry 80, DEDUCED). -/
def Obligations.BranchWordsComplete : Prop :=
  (∀ (s : State) (x : Ex) (cc : BrCond) (sa link : SReg) (disp : W32),
     let jump := fun (i : Instr) (to' : W64) (m : State) =>
       (targetCheck s x to' = none → exec i s = .next (transfer m x to')) ∧
       (∀ t, targetCheck s x to' = some t → exec i s = .next (raiseOn s x.who t x.p.pc))
     (Ready s x { ruleCtl with q := !condMasked cc, c := !condMasked cc } { ss := condReads cc } none →
       (brTaken x cc = false → exec (.br cc disp) s = .next (advance s x)) ∧
       (brTaken x cc = true → jump (.br cc disp) (target x.p disp) s)) ∧
     (Ready s x ruleCtl { ss := [sa.toNat] } none → jump (.jmpi sa) (rdS x.p sa) s ∧ jump (.ret sa) (rdS x.p sa) s) ∧
     (Ready s x ruleCtl { sd := [link.toNat] } none →
       jump (.call link disp) (target x.p disp) (setS s x link (x.p.pc + 8))) ∧
     (Ready s x ruleCtl { ss := [sa.toNat], sd := [link.toNat] } none →
       jump (.calli link sa) (rdS x.p sa) (setS (noteCall s x) x link (x.p.pc + 8)))) ∧
  (∀ (x : Ex) (g : Group) (sa : SReg) (ma : MReg) (disp : W32), x.g = some g →
     target x.p disp = x.p.pc + (disp.signExtend 64) * 8 ∧
     brTaken x .always = true ∧
     (brTaken x (.z sa) = true ↔ rdS x.p sa = 0) ∧ (brTaken x (.nz sa) = true ↔ rdS x.p sa ≠ 0) ∧
     (brTaken x (.lt sa) = true ↔ (rdS x.p sa).toInt < 0) ∧ (brTaken x (.ge sa) = true ↔ 0 ≤ (rdS x.p sa).toInt) ∧
     (brTaken x (.any ma) = true ↔ rdM g x.p 0 &&& rdM g x.p ma ≠ 0) ∧
     (brTaken x (.all ma) = true ↔ rdM g x.p 0 &&& ~~~ (rdM g x.p ma) = 0) ∧
     (brTaken x (.none ma) = true ↔ rdM g x.p 0 &&& rdM g x.p ma = 0)) ∧
  (∀ (s : State) (x : Ex) (g : Group) (inv : Bool) (ma : MReg) (disp : W32),
     x.g = some g → Ready s x { ruleGrp .control with ctl := true } {} none →
     let m := rdM g x.p 0
     let t := m &&& (if inv then ~~~ (rdM g x.p ma) else rdM g x.p ma)
     let to' := target x.p disp
     let fall := x.p.pc + 8
     let i := Instr.brm inv ma disp
     (x.p.wins ≠ [] → exec i s = .next s) ∧
     (x.p.wins = [] → m &&& ~~~ t = 0 → targetCheck s x to' = none → exec i s = .next (transfer s x to')) ∧
     (x.p.wins = [] → m &&& ~~~ t = 0 → ∀ c, targetCheck s x to' = some c → exec i s = .next (raiseOn s x.who c x.p.pc)) ∧
     (x.p.wins = [] → m &&& ~~~ t ≠ 0 → t = 0 → exec i s = .next (advance s x)) ∧
     (x.p.wins = [] → m &&& ~~~ t ≠ 0 → t ≠ 0 →
       (∀ c, targetCheck s x to' = some c → exec i s = .next (raiseOn s x.who c x.p.pc)) ∧
       (∀ c, targetCheck s x to' = none → targetCheck s x fall = some c → exec i s = .next (raiseOn s x.who c x.p.pc))) ∧
     (x.p.wins = [] → m &&& ~~~ t ≠ 0 → t ≠ 0 → targetCheck s x to' = none → targetCheck s x fall = none →
       ∀ b, x.p.blk = some b →
         (b.reconv = 0 → exec i s = .next (raiseOn s x.who { cause := .illegal } x.p.pc)) ∧
         (b.reconv ≠ 0 → g.frames ≠ [] → 34 < g.stack.entries + 2 → exec i s = .next (raiseOn s x.who { cause := .illegal } x.p.pc)) ∧
         (b.reconv ≠ 0 → (g.frames ≠ [] → g.stack.entries + 2 ≤ 34) →
           let n := noteIssue { s with freshId := s.freshId + 3 } x
           let cut := fun (a : Group) => splitStack (clk n a.die) s.freshId a.stack x.p t
             (x.p.hdr + (b.reconv.signExtend 64) * 8) fall to'
           exec i s = .next (settle (modGrp n g.gid fun a => { a with stack := cut a }) g.gid))))

/-- R55, R301: a transfer of a group checks that its target is aligned and canonical, lies in the half that its mode may use,
and, when the target's frame is resident, that it names a header. -/
def Obligations.TargetChecks : Prop :=
  ∀ (s : State) (x : Ex) (h : W64),
    (h.toNat % 8 ≠ 0 → targetCheck s x h = some { cause := .badTarget, va := h }) ∧
    (∀ g, x.g = some g → h.toNat % 8 = 0 →
      (canonical h = false → targetCheck s x h = some { cause := .badTarget, va := h }) ∧
      (canonical h = true → negHalf h = true → x.user = true → targetCheck s x h = some { cause := .priv, va := h }) ∧
      (canonical h = true → (negHalf h && x.user) = false →
        (codeWord s x.die x.core x.pasid h = none → targetCheck s x h = none) ∧
        (∀ w, codeWord s x.die x.core x.pasid h = some w →
          (headerOf w ≠ none → targetCheck s x h = none) ∧
          (headerOf w = none → targetCheck s x h = some { cause := .badTarget, va := h })))) ∧
    (x.g = none → h.toNat % 8 = 0 → targetCheck s x h = none)

/-- R33, R110, R112, R113, R114: `exit` ends the path once its long-latency instructions are complete, `yield` marks it,
`nop` does nothing but go on, and `trap` and `brk` raise their causes with the immediate. R42, R50, R111: `spawn` writes n
and creates n groups in the lowest free pool slots of the issuer's core when so many are free, and writes 0 and creates none
otherwise. R33, R110: the exit of a path marks its lanes exited in its group, for good, and leaves the registers of the
group. -/
def Obligations.PathWordsComplete : Prop :=
  (∀ (s : State) (x : Ex) (imm : BitVec 33),
     (Ready s x ruleAll {} none → exec .nop s = .next (advance s x)) ∧
     (Ready s x (ruleGrp .control) {} none →
       exec .yield s = .next (advance (modPath s x.who x.p.pid fun p => { p with yielded := true }) x) ∧
       exec (.trap imm) s = .next (raiseOn s x.who { cause := .trap, aux := imm.signExtend 64 } x.p.pc) ∧
       exec (.brk imm) s = .next (raiseOn s x.who { cause := .brk, aux := imm.signExtend 64 } x.p.pc)) ∧
     (Ready s x { ruleCtl with g := x.user } {} none →
       (x.p.wins ≠ [] → exec .exit s = .next s) ∧
       (x.p.wins = [] → (∀ g, x.g = some g → exec .exit s = .next (exitPath s x g)) ∧
         (x.g = none → exec .exit s = .next (exitProgram s x))))) ∧
  (∀ (s : State) (x : Ex) (g : Group) (t : Team) (sd se sb : SReg) (nm1 : BitVec 4) (argc : BitVec 3),
     x.g = some g → team? s g.team = some t →
     Ready s x { ruleGrp .control with g := x.user }
       { ss := se.toNat :: (List.range argc.toNat).map (fun k => sb.toNat + k), sd := [sd.toNat] } none →
     let n := nm1.toNat + 1
     let free := freeSlots s t g.tcore
     let args := (List.range argc.toNat).map fun k => rdSk x.p sb k
     let new := (free.take n).foldl (spawnOne x g t (rdS x.p se) args) s
     (free.length < n → exec (.spawn sd se sb nm1 argc) s = .next (advance (setS s x sd 0) x)) ∧
     (n ≤ free.length → exec (.spawn sd se sb nm1 argc) s = .next (advance (setS new x sd (BitVec.ofNat 64 n)) x)) ∧
     (n ≤ free.length → ∃ l : List Group, new.groups = s.groups ++ l ∧ l.length = n ∧
       ∀ a ∈ l, a.team = g.team ∧ a.role = g.role ∧ a.width = g.width ∧ a.ehdr = rdS x.p se ∧ a.fpfl = 0 ∧ a.exited = 0 ∧
         ∃ p, a.stack.a = some p ∧ a.stack.b = none ∧ p.pc = rdS x.p se ∧ p.atHdr = true ∧ p.mask = fullMask g.width)) ∧
  (∀ (s : State) (x : Ex) (gid slot : Nat), exOf s (.grp gid slot) = some x →
     ∀ g, x.g = some g →
       let m := modGrp (noteIssue s x) gid fun g =>
         { g with exited := g.exited ||| (x.p.mask &&& fullMask g.width), stack := removePath g.stack x.p }
       exitPath s x g = reportCore (exitCheck (barExit (settle m gid) gid) gid) g.die g.core ∧
       ∃ g', grp? (settle m gid) gid = some g' ∧ g'.exited = g.exited ||| (x.p.mask &&& fullMask g.width) ∧
         g'.vregs = g.vregs ∧ g'.masks = g.masks ∧ g'.fpfl = g.fpfl ∧ g'.frames = g.frames)

/-! ### System registers -/

/-- R96, R115, R116: `mfs` writes a register's value into the path's view and `mts` writes the register; FPFL waits for the path's
earlier floating instructions. -/
def Obligations.SystemRegisterWordsComplete : Prop :=
  ∀ (s : State) (x : Ex) (sd sa : SReg) (reg : BitVec 12),
    (Ready s x (sysRule x.user reg.toNat false) { sd := [sd.toNat] } none →
      (reg ≠ 0x18 ∨ (∀ w ∈ x.p.wins, w.fp = false) → exec (.mfs sd reg) s = .next (advance (setS s x sd (sysRead s x reg.toNat)) x)) ∧
      (reg = 0x18 ∧ (∃ w ∈ x.p.wins, w.fp = true) → exec (.mfs sd reg) s = .next s)) ∧
    (Ready s x (sysRule x.user reg.toNat true) { ss := [sa.toNat] } none →
      (reg ≠ 0x18 ∨ (∀ w ∈ x.p.wins, w.fp = false) → exec (.mts reg sa) s = .next (advance (sysWrite s x reg.toNat (rdS x.p sa)) x)) ∧
      (reg = 0x18 ∧ (∃ w ∈ x.p.wins, w.fp = true) → exec (.mts reg sa) s = .next s))

/-- R115, R117: which executors reach a register in a mode, for reading and for writing. R94, R117, R118, R231, R246: what
`mts` changes in the status registers of a group: the write-one-to-clear bits that are written as ones are cleared, FPFL
takes its five bits, and every other status register is left alone. R117, R119, R120: what `mfs` reads of the registers that
name the executor, its group and its traps. -/
def Obligations.SystemRegisterAccess : Prop :=
  (let open' := fun (who : Issuer) (user : Bool) (n : Nat) (w : Bool) =>
     (sysRule user n w).admits who && !(sysRule user n w).priv && !(sysRule user n w).sys
   ∀ (n gid slot d t k : Nat),
     let g := Issuer.grp gid slot
     let q := Issuer.qthr d t
     let c := Issuer.copyc d k
     (n ≤ 0x0E ∨ n = 0x10 ∨ n = 0x11 ∨ n = 0x18 ∨ n = 0x19 ∨ (0x20 ≤ n ∧ n ≤ 0x24) ∨ n = 0x30 ∨ n = 0x31 →
       open' g true n false = true ∧ open' g false n false = true) ∧
     (n = 0 ∨ n = 0x18 ∨ n = 0x19 ∨ n = 0x24 ↔ open' g true n true = true) ∧
     (0x400 ≤ n ∧ n ≤ 0x408 → (sysRule true n false).priv = true ∧ (sysRule true n true).priv = true ∧ open' g false n false = true ∧
       (open' g false n true = true ↔ n ≠ 0x406)) ∧
     (0x20 ≤ n ∧ n ≤ 0x23 → open' g true n true = false ∧ open' g false n true = true) ∧
     (open' q true n false = true ↔ (0xB ≤ n ∧ n ≤ 0xE) ∨ n = 0x10 ∨ n = 0x11 ∨ n = 0x30 ∨ n = 0x31 ∨ (0x800 ≤ n ∧ n ≤ 0x802)) ∧
     (open' c true n false = true ↔ (0xB ≤ n ∧ n ≤ 0xE) ∨ n = 0x10 ∨ n = 0x11 ∨ n = 0x30 ∨ n = 0x31 ∨ n = 0xC00) ∧
     (open' q false n true = true ↔ n = 0x800) ∧ open' c false n true = false) ∧
  (∀ (g : Group) (v : W64),
     let a := groupWrite g 0x00 v
     let f := groupWrite g 0x18 v
     let b := groupWrite g 0x19 v
     let m := groupWrite g 0x24 v
     (∀ k, a.gstat.getLsbD k = (g.gstat.getLsbD k && !(decide (k < 4) && v.getLsbD k))) ∧
     (∀ k, f.fpfl.getLsbD k = (decide (k < 5) && v.getLsbD k)) ∧
     (∀ k, b.barst.getLsbD k = (g.barst.getLsbD k && !(decide (16 ≤ k ∧ k < 24) && v.getLsbD k))) ∧
     (∀ k, m.mstat.getLsbD k = (g.mstat.getLsbD k && !(decide (k < 5) && v.getLsbD k))) ∧
     a = { g with gstat := a.gstat } ∧ f = { g with fpfl := f.fpfl } ∧ b = { g with barst := b.barst } ∧ m = { g with mstat := m.mstat }) ∧
  (∀ (s : State) (x : Ex) (g : Group) (t : Team), x.g = some g → team? s g.team = some t →
     sysRead s x 0x01 = BitVec.ofNat 64 g.gidx ∧ sysRead s x 0x02 = g.gser ∧
     sysRead s x 0x03 = t.x.setWidth 64 ∧ sysRead s x 0x04 = t.y.setWidth 64 ∧ sysRead s x 0x05 = t.z.setWidth 64 ∧
     sysRead s x 0x06 = BitVec.ofNat 64 (t.cores.length * 2 ^ 32 + t.pool * 2 ^ 16 + t.groups) ∧
     sysRead s x 0x07 = BitVec.ofNat 64 g.width ∧ (∀ r, g.role = some r → sysRead s x 0x08 = BitVec.ofNat 64 r.num) ∧
     sysRead s x 0x0B = BitVec.ofNat 64 x.die ∧ sysRead s x 0x0C = s.modid ∧ sysRead s x 0x0D = BitVec.ofNat 64 x.pasid ∧
     sysRead s x 0x18 = g.fpfl ∧ sysRead s x 0x19 = g.barst ∧ (∀ k, k < 4 → sysRead s x (0x20 + k) = sget 0 g.mrp k) ∧
     sysRead s x 0x400 = g.htb ∧ sysRead s x 0x401 = g.regs.trapc ∧ sysRead s x 0x402 = g.regs.trappc ∧
     sysRead s x 0x403 = g.regs.trapmask ∧ sysRead s x 0x404 = g.regs.trapva ∧ sysRead s x 0x405 = g.regs.trapaux ∧
     sysRead s x 0x406 = BitVec.ofNat 64 g.frames.length ∧
     (∀ d, die? s x.die = some d → sysRead s x 0x407 = sget 0 d.ptbase x.pasid ∧ sysRead s x 0x408 = d.poolbase) ∧
     (∀ d, die? s g.die = some d → sysRead s x 0x0E = BitVec.ofNat 64 (d.cyc / 16)) ∧
     (∀ c, ctx? s x.pasid = some c → sysRead s x 0x10 = c.feat0 ∧ sysRead s x 0x11 = c.feat1 ∧ sysRead s x 0x30 = c.retcnt ∧
       sysRead s x 0x31 = c.retlast))

/-! ### Traps -/

/-- R305: entering a handler level saves the group's paths and trap registers in a frame, sets the trap registers, and starts
one path at the entry header with the lanes that raised the cause and a copy of the interrupted path's scalar registers. -/
def Obligations.HandlerEntryRule : Prop :=
  ∀ (s : State) (g : Group) (p : Path) (t : Trap) (pc resume h : W64) (num gid : Nat), grp? s gid = some g →
    ∃ g' f q, grp? (enterAt s g p t pc resume h num) gid = some g' ∧ g'.frames = f :: g.frames ∧ g'.stack = { a := some q, b := none, rest := [] } ∧
      f.old = g.regs ∧ f.num = num ∧ f.resume = resume ∧ f.lanes = t.lanes.getD p.mask ∧ f.v = [] ∧
      f.saved = g.stack.modPid p.pid (fun p =>
        { p with pend := none, wait := (if p.wait = .trapping then .run else p.wait), denied := [], full := false, began := false }) ∧
      g'.regs = { trapc := BitVec.ofNat 64 t.cause.code, trappc := pc, trapmask := t.lanes.getD p.mask, trapva := t.va, trapaux := t.aux } ∧
      q.pc = h ∧ q.atHdr = true ∧ q.mask = t.lanes.getD p.mask ∧ q.wait = .run ∧ q.blk = none ∧
      (∀ r : SReg, r.toNat < g.sbud → rdS q r = rdS p r) ∧
      g'.vregs = g.vregs ∧ g'.masks = g.masks ∧ g'.gstat = g.gstat ∧ g'.fpfl = g.fpfl ∧ g'.exited = g.exited ∧ g'.htb = g.htb

/-- R283, R305, R308: the return from a handler level restores the trap registers and the frame below, gives the interrupted
path the handler's scalar registers, and sends it to the resume point; it is ILLEGAL when lanes are missing, when another
path or join exists, or when the resume point is not aligned. -/
def Obligations.HandlerReturnRule : Prop :=
  ∀ (s : State) (g : Group) (p : Path) (f : Frame) (fs : List Frame) (gid : Nat), grp? s gid = some g → g.frames = f :: fs →
    let whole := p.mask &&& f.lanes = f.lanes ∧ g.stack.paths.length = 1 ∧ g.stack.rest = []
    (¬(whole ∧ f.resume.toNat % 8 = 0) → ∃ e, leaveHandler s g p = .error e ∧ e.cause = .illegal) ∧
    (whole → f.resume.toNat % 8 = 0 → ∃ t g', leaveHandler s g p = .ok t ∧ grp? t gid = some g' ∧
      g'.regs = f.old ∧ g'.frames = fs ∧ g'.vregs = g.vregs ∧ g'.masks = g.masks ∧ g'.fpfl = g.fpfl ∧ OnlyExecutors s t ∧
      ∀ (now : Nat) (ok : Bool) (q : Path), (resumePath now ok f p q).view = p.view ∧
        (f.resume = q.pc ∨ f.resume ≠ f.pc + 8 ∨ q.atHdr = true ∨ q.pc = f.pc → (resumePath now ok f p q).pc = f.resume))

/-- R68, R225: the checks at issue in their order; the first that fails is raised, and nothing else of the instruction happens. A hint
raises none that comes after the order of R68. The model's choice, where the rules do not say it: ILLEGAL, PRIV, ROLE and LA_HAZARD are
raised with no active lane too (log entry 48, against the plain words of R57), and the ILLEGAL of an operand's value stands after PRIV, a
place that the order of R68 does not give (log entry 48). -/
def Obligations.IssueChecksInOrder : Prop :=
  ∀ (s : State) (x : Ex) (r : Rule) (u : Use) (h : Option Head) (body : Body),
    s.cur = some x.who → exOf s x.who = some x → x.held = false →
    let raised := fun (t : Trap) => issue s r u h body = .next (raiseOn s x.who t x.p.pc)
    let fits := r.admits x.who = true ∧ u.fits x = true ∧ (r.ctl = true → x.p.left = 1)
    (¬fits → raised { cause := .illegal }) ∧
    (fits → r.privOk x = false → raised { cause := .priv }) ∧
    (fits → r.privOk x = true →
      (∀ a, r.ill = some a → raised { cause := .illegal, aux := a }) ∧
      (r.ill = none →
        (r.roleFits x = false → raised { cause := .role }) ∧
        (r.roleFits x = true →
          (r.unsplit x = false → raised { cause := .divergedMatrix }) ∧
          (r.unsplit x = true →
            (r.gone = true → x.active h ≠ 0 → raised { cause := .retired, lanes := some (x.active h) }) ∧
            (r.gone = false ∨ x.active h = 0 → r.hint = false →
              (u.hazard x.p = true → raised { cause := .laHazard }) ∧
              (u.hazard x.p = false → u.poisoned x (x.active h) = true →
                raised { cause := .poison, lanes := some (x.active h) }))))))

/-! ### Collectives -/

/-- R146 to R149, R151 to R154: a collective word whose member mask holds the issuer's lanes, and all of whose members are at
the word, is one event for every participating path: each member lane (or each path) takes its result, and each path goes to
the next word. R35, R147, R148: where a collective word does not complete: ILLEGAL when the member mask leaves out a lane of
the issuer, overlaps another set that is parked at the word, or names a lane outside the handler level; it parks until its
other members come; and COLLECTIVE_EXITED when every member that is left has come and another has exited. -/
def Obligations.CollectivesComplete : Prop :=
  (∀ (s : State) (x : Ex) (g : Group) (mm md mb : MReg) (vd vs : VReg) (sd sb ss : SReg) (k lane : BitVec 6) (hold excl : Bool) (ty : IntTy)
     (op : ScanOp), x.g = some g →
     let P := rdM g x.p mm
     let here := g.stack.paths.filter fun q => q.parkedAt x.p.pc == some P
     let part := x.p :: here
     x.p.mask &&& ~~~ P = 0 → P &&& g.exited = 0 → P &&& ~~~ (lanesHeld part) = 0 → (∀ f ∈ g.frames, P &&& ~~~ f.lanes = 0) →
     (∀ q ∈ g.stack.paths, ∀ m, q.parkedAt x.p.pc = some m → m = P ∨ m &&& P = 0) →
     let met := fun (fg : Group → Group) (fp : Path → Path) => (Host.Outcome.next
       (settle (part.foldl (fun s q => modPath s x.who q.pid fun p => unpark (clkOf s x.who) (endsAtHeader s x) (fp p)) (modGrp (noteIssue s x) g.gid fg)) g.gid) :
       Host.Outcome State Fault Refusal)
     let vote := fun (v : Mask) => met (fun g' => wrM g' md.toNat P v) id
     let lanes := fun (v : Nat → W32) => met (fun g' => (lanesOf P).foldl (fun a i => wrV a vd.toNat i (v i)) g') id
     let B := (if mb = 0 then lanesHeld part else rdM g x.p mb) &&& P
     let at' := fun (i : Nat) => rdV g vs.toNat i
     let from' := fun (i : Nat) (j : Int) => if 0 ≤ j ∧ j < g.width ∧ P.getLsbD j.toNat then at' j.toNat else at' i
     (Ready s x collRule {} none →
       exec (.voteAny md mm mb) s = vote (if B = 0 then 0 else BitVec.allOnes 64) ∧
       exec (.voteAll md mm mb) s = vote (if B = P then BitVec.allOnes 64 else 0) ∧
       exec (.voteBallot md mm mb) s = vote B) ∧
     (Ready s x collRule { vs := [vs.toNat] } none →
       exec (.voteUni hold md mm vs) s = vote (if ∀ i ∈ lanesOf P, ∀ j ∈ lanesOf P, at' i = at' j then BitVec.allOnes 64 else 0)) ∧
     (Ready s x collRule { vs := [vs.toNat, vd.toNat], vd := [vd.toNat] } none →
       exec (.shflIdx hold vd vs mm) s = lanes fun i => from' i (rdV g vd.toNat i).toNat) ∧
     (Ready s x collRule { vs := [vs.toNat], vd := [vd.toNat] } none →
       exec (.shflUp hold vd vs mm k) s = lanes (fun i => from' i ((i : Int) - k.toNat)) ∧
       exec (.shflDown hold vd vs mm k) s = lanes (fun i => from' i ((i : Int) + k.toNat)) ∧
       exec (.shflXor hold vd vs mm k) s = lanes (fun i => from' i (Nat.xor i k.toNat : Nat)) ∧
       exec (.vred hold op ty vd vs mm) s = lanes (fun _ => scanOver g op ty vs (lanesOf P)) ∧
       exec (.vscan hold op ty vd vs mm excl) s =
         lanes (fun i => scanOver g op ty vs ((lanesOf P).filter fun j => decide (j < i) || (!excl && j == i)))) ∧
     (Ready s x collRule { vs := [vs.toNat], vd := [vd.toNat], ss := [sb.toNat], sd := [sb.toNat] } none →
       let base := heldScalar part ((lanesOf P).head?.getD 0) sb
       exec (.vappend hold vd vs mm sb) s =
         met (fun g' => (lanesOf P).foldl (fun a i =>
               wrV a vd.toNat i ((base + sumLanes g vs ((lanesOf P).filter fun j => decide (j < i))).setWidth 32)) g')
           (fun p => wrS p sb.toNat (base + sumLanes g vs (lanesOf P)))) ∧
     (Ready s x collRule { vs := [vs.toNat], sd := [sd.toNat] } none → P.getLsbD lane.toNat = true →
       exec (.vreadl hold sd vs mm lane) s = met id (fun p => wrS p sd.toNat ((at' lane.toNat).setWidth 64))) ∧
     (Ready s x collRule { vd := [vd.toNat], ss := [ss.toNat] } none → P.getLsbD lane.toNat = true →
       exec (.vwritel vd ss mm lane) s = met (fun g' => wrV g' vd.toNat lane.toNat ((heldScalar part lane.toNat ss).setWidth 32)) id)) ∧
  (∀ (s : State) (x : Ex) (g : Group) (mm md mb : MReg), x.g = some g → Ready s x collRule {} none →
     let P := rdM g x.p mm
     let part := x.p :: g.stack.paths.filter fun q => q.parkedAt x.p.pc == some P
     let left := (P &&& ~~~ g.exited) &&& ~~~ (lanesHeld part)
     let wrong := x.p.mask &&& ~~~ P ≠ 0 ∨ (∃ f ∈ g.frames, P &&& ~~~ f.lanes ≠ 0) ∨
       ∃ q ∈ g.stack.paths, ∃ m, q.parkedAt x.p.pc = some m ∧ m ≠ P ∧ m &&& P ≠ 0
     ∀ i ∈ [Instr.voteAny md mm mb, Instr.voteAll md mm mb, Instr.voteBallot md mm mb],
       (wrong → exec i s = .next (raiseOn s x.who { cause := .illegal } x.p.pc)) ∧
       (¬wrong → left = 0 → P &&& g.exited ≠ 0 →
         exec i s = .next (raiseOn s x.who { cause := .collectiveExited, lanes := some (lanesHeld part) } x.p.pc)) ∧
       (¬wrong → left ≠ 0 →
         exec i s = .next (deadlockCheck (parkAt (noteIssue { s with freshId := s.freshId + 1 } x) x (.collective P s.freshId)) g.gid)))

/-- R152: the combination of `vscan` and `vred` over lanes: the sum modulo 2^32, and the least and greatest member values in
the order of the type, the bits that all, some or an odd number of members have, with the identities of the rule for no
member. -/
def Obligations.ScanRule : Prop :=
  ∀ (g : Group) (ty : IntTy) (vs : VReg) (l : List Nat), ty.width = 32 →
    let v := fun (j : Nat) => rdV g vs.toNat j
    let num := fun (w : W32) => if ty.isI then w.toInt else (w.toNat : Int)
    scanOver g .add ty vs l = BitVec.ofNat 32 ((l.map fun j => (v j).toNat).sum) ∧
    (∀ k, k < 32 →
      ((scanOver g .and ty vs l).getLsbD k = true ↔ ∀ j ∈ l, (v j).getLsbD k = true) ∧
      ((scanOver g .or ty vs l).getLsbD k = true ↔ ∃ j ∈ l, (v j).getLsbD k = true) ∧
      ((scanOver g .xor ty vs l).getLsbD k = true ↔ (l.filter fun j => (v j).getLsbD k).length % 2 = 1)) ∧
    (∀ j ∈ l, num (scanOver g .min ty vs l) ≤ num (v j) ∧ num (v j) ≤ num (scanOver g .max ty vs l)) ∧
    (l ≠ [] → (∃ j ∈ l, scanOver g .min ty vs l = v j) ∧ ∃ j ∈ l, scanOver g .max ty vs l = v j) ∧
    (l = [] → scanOver g .min ty vs l = BitVec.ofInt 32 (tyMax ty) ∧ scanOver g .max ty vs l = BitVec.ofInt 32 (tyMin ty))

/-! ### Memory words -/

/-- R57, R211, R213, R217 to R221: a lane access with active lanes and a free entry of the counter, all of whose lanes have a
place, becomes an outstanding operation of those lanes' accesses, each at its lane's effective address with the bytes its
lane's registers hold; with no active lane it only goes on; with a full counter or a translation that is missing it waits;
and a failed check is raised. R217, R219, R220: an access made once for the path, by a group, a Q thread or a copy program.
-/
def Obligations.AccessWordsComplete : Prop :=
  (∀ (s : State) (x : Ex) (g : Group) (h : Head) (m : MemArg) (op : AtomOp), x.g = some g →
     let act := activeOf g x.p h
     let n := m.size.bytes
     let bytes := fun (r l : Nat) => ((List.range 4).flatMap fun j => toBytes 4 (rdV g (r + j) l).toNat).take n
     let none' := fun (_ : Nat) => (([], []) : List Byte × List Byte)
     let sound := fun (i : Instr) (u : Use) (kind : OpKind) (dest : Dest) (vds : List Nat) (scaled disp : Bool)
         (data : Nat → List Byte × List Byte) =>
       let places := groupPlaces s x g (memKind s x m kind.writes (kind.reads && kind.writes)) false
         ((lanesOf act).map fun l => (l, laneEa g x.p m scaled disp l))
       Ready s x memRule u (some h) →
         (act = 0 → exec i s = .next (advance s x)) ∧
         (act ≠ 0 → 64 ≤ memCount s x.who → exec i s = .next s) ∧
         (act ≠ 0 → memCount s x.who < 64 →
           (∀ got t, places = .ok (got, t) → exec i s = .next (startOp t x kind m dest
             (got.flatMap fun e => splitAcc n e.1 e.2.1 e.2.2 (data e.1).1 (data e.1).2) h.la.toNat vds [])) ∧
           (∀ t, places = .error (.hold t) → exec i s = .next t) ∧
           (∀ t, places = .error (.trap t) → exec i s = .next (raiseOn s x.who t x.p.pc)))
     let b := [m.base.toNat]
     let ix := indexRegs m
     let dt := dataRegs m
     let d := m.data.toNat
     let k := n / 4
     sound (.ld h m) { vs := ix, vd := dt, ss := b } .ld (.vec d) dt false true none' ∧
     sound (.ldx h m) { vs := ix, vd := dt, ss := b } .ld (.vec d) dt true true none' ∧
     sound (.st h m) { vs := ix ++ dt, ss := b } .st .nowhere [] false true (fun l => (bytes d l, [])) ∧
     sound (.stx h m) { vs := ix ++ dt, ss := b } .st .nowhere [] true true (fun l => (bytes d l, [])) ∧
     sound (.atom h op m) { vs := ix ++ dt, vd := dt, ss := b } (.atom op) (.vec d) dt false false (fun l => (bytes d l, [])) ∧
     sound (.cas h m) { vs := ix ++ dt ++ (List.range k).map (fun j => d + k + j), vd := dt, ss := b } .cas (.vec d) dt false true
       (fun l => (bytes (d + k) l, bytes d l))) ∧
  (∀ (s : State) (x : Ex) (la : BitVec 4) (m : MemArg) (op : AtomOp),
     let n := m.size.bytes
     let d := dataS m
     let sound := fun (i : Instr) (u : Use) (kind : OpKind) (dest : Dest) (sds : List Nat) (disp : Bool) (l : Nat) (data : List Byte) =>
       let va := pathEa x.p m disp
       let place := onePlace s x (memKind s x m kind.writes (kind.reads && kind.writes)) va
       Ready s x memRuleAll u none →
         (64 ≤ memCount s x.who → exec i s = .next s) ∧
         (memCount s x.who < 64 →
           (∀ pl t, place = .ok (pl, t) → exec i s = .next (startOp t x kind m dest (splitAcc n 0 va pl data []) l [] sds)) ∧
           (∀ t, place = .error (.hold t) → exec i s = .next t) ∧
           (∀ t, place = .error (.trap t) → exec i s = .next (raiseOn s x.who t x.p.pc)))
     sound (.lds la m) { ss := [m.base.toNat], sd := [d.toNat] } .ld (.scal d.toNat) [d.toNat] true la.toNat [] ∧
     sound (.sts m) { ss := [m.base.toNat, d.toNat] } .st .nowhere [] true 0 (toBytes n (rdS x.p d).toNat) ∧
     sound (.satom la op m) { ss := [m.base.toNat, d.toNat], sd := [d.toNat] } (.atom op) (.scal d.toNat) [d.toNat] false la.toNat
       (toBytes n (rdS x.p d).toNat))

/-- R212: the address of a lane, and of an access that is made once. -/
def Obligations.EffectiveAddressRule : Prop :=
  ∀ (g : Group) (p : Path) (m : MemArg) (lane : Nat),
    let base := (rdS p m.base).toInt
    let sz : Int := m.size.bytes
    let index : Int := if m.index = 0xFF then 0 else (rdV g m.index.toNat lane).toInt
    let off : Int := m.off.toInt * sz
    laneEa g p m false true lane = BitVec.ofInt 64 (base + index + off) ∧
    laneEa g p m true true lane = BitVec.ofInt 64 (base + index * sz + off) ∧
    laneEa g p m false false lane = BitVec.ofInt 64 (base + index) ∧
    pathEa p m true = BitVec.ofInt 64 (base + off) ∧ pathEa p m false = BitVec.ofInt 64 base

/-- R155, R161, R162: the checks of an access in their order: the halves, the alignment, the window, then the translation, which the
walker may have refused to the instruction, and the leaf. -/
def Obligations.AccessChecksInOrder : Prop :=
  ∀ (s : State) (x : Ex) (g : Group) (k : AccKind) (lane : Option Nat) (va : W64),
    let found := findLane s x g k lane va
    (∀ t, halfCheck va k.user true = some t → found = (.trap 1 t, s)) ∧
    (halfCheck va k.user true = none → va.toNat % k.size ≠ 0 → found = (.trap 2 { cause := .misalign, va }, s)) ∧
    (halfCheck va k.user true = none → va.toNat % k.size = 0 →
      (inWindow va = true → found = (windowPlace s g va k, s)) ∧
      (inWindow va = false → ∀ t, deniedAt x.p va = some t → found = (.trap 3 { t with va }, s)) ∧
      (inWindow va = false → deniedAt x.p va = none → lookup s x g.gid lane va (k.write || k.atomic) = none → found = (.miss, s)) ∧
      (inWindow va = false → deniedAt x.p va = none → ∀ e t, lookup s x g.gid lane va (k.write || k.atomic) = some (e, t) →
        (∀ r, permission e.leaf va k = some r → found = (.trap 3 r, t)) ∧
        (permission e.leaf va k = none →
          (∀ p, leafPlace t e va k = .ok p → found = (.place p, t)) ∧
          (∀ r, leafPlace t e va k = .error r → found = (.trap (rankOf r) r, t)))))

/-- R216 to R219: issuing a group's access changes no byte of memory, no vector or mask register and no special register: the
effect comes when the access is performed. -/
def Obligations.MemoryIssueFrame : Prop :=
  ∀ (s t : State) (x : Ex) (g : Group) (h : Head) (m : MemArg) (op : AtomOp) (la : BitVec 4), x.g = some g → grp? s g.gid = some g →
    let done := fun (i : Instr) => exec i s = .next t →
      SameMemory s t ∧ ∀ g', grp? t g.gid = some g' → SameLanes g g' ∧ SameSpecials g g' ∧ g'.fpfl = g.fpfl
    let lane := fun (i : Instr) (u : Use) (kind : OpKind) (scaled disp : Bool) =>
      Ready s x memRule u (some h) → (∃ r, groupPlaces s x g (memKind s x m kind.writes (kind.reads && kind.writes)) false
        ((lanesOf (activeOf g x.p h)).map fun l => (l, laneEa g x.p m scaled disp l)) = .ok r) → done i
    let once := fun (i : Instr) (u : Use) (kind : OpKind) (disp : Bool) =>
      Ready s x memRuleAll u none → (∃ r, onePlace s x (memKind s x m kind.writes (kind.reads && kind.writes)) (pathEa x.p m disp) = .ok r) →
        done i
    let b := [m.base.toNat]
    let ix := indexRegs m
    let dt := dataRegs m
    let d := (dataS m).toNat
    let new := (List.range (m.size.bytes / 4)).map fun j => m.data.toNat + m.size.bytes / 4 + j
    lane (.ld h m) { vs := ix, vd := dt, ss := b } .ld false true ∧ lane (.ldx h m) { vs := ix, vd := dt, ss := b } .ld true true ∧
    lane (.st h m) { vs := ix ++ dt, ss := b } .st false true ∧ lane (.stx h m) { vs := ix ++ dt, ss := b } .st true true ∧
    lane (.atom h op m) { vs := ix ++ dt, vd := dt, ss := b } (.atom op) false false ∧
    lane (.cas h m) { vs := ix ++ dt ++ new, vd := dt, ss := b } .cas false true ∧
    once (.lds la m) { ss := b, sd := [d] } .ld true ∧ once (.sts m) { ss := [m.base.toNat, d] } .st true ∧
    once (.satom la op m) { ss := [m.base.toNat, d], sd := [d] } (.atom op) false

/-- R171, R196, R213, R214: performing a store that may be performed writes the bytes it carries at the address of its place,
in the order of the bytes, and every other byte of memory stays as it was. R213, R215, R219: performing a plain load that may
be performed writes the bytes at its place, the first the least significant, and no byte of memory changes. -/
def Obligations.AccessPerformed : Prop :=
  (∀ (s : State) (id lane : Nat) (c : MemChoice) (o : MemOp) (a : Acc),
     s.ops.find? (fun o => o.id == id) = some o → o.kind = .st → ordRel o.ord = false → lane < 64 → laneAccs o c lane = [a] →
     canPerform s o a = true → placeLost s (placeOf s o.who).1 a.place = false → c.ecc = .clean → (∀ z, unitFailed s z = false) →
     (isHbm a.place = true → placeGran a.place = granOf s (placeAddr a.place)) → remotable (placeOf s o.who).1 a.place = false →
     let n := a.data.length
     ∃ t, exec (.memoryAccessComplete id (BitVec.ofNat 64 (2 ^ lane)) c) s = .next t ∧
       (∀ y mt ccl gr, a.place = .fab y mt ccl gr false → mt ≠ 2 → fabDie y < 12 → regionOf (fabOff y) = .hbm ∨ regionOf (fabOff y) = .vault →
         (∀ k, k < n → byteAt t (y + k) = (a.data[k]?).getD 0) ∧ (∀ z, z < y ∨ y + n ≤ z → byteAt t z = byteAt s z) ∧
         (∀ z, hostByteAt t z = hostByteAt s z) ∧ (∀ z, guestByteAt t z = guestByteAt s z) ∧ ∀ w z, scratchAt t w z = scratchAt s w z) ∧
       (∀ b y ccl, a.place = .host b y ccl →
         (∀ k, k < n → hostByteAt t (hostKey b y + k) = (a.data[k]?).getD 0) ∧
         (∀ z, z < hostKey b y ∨ hostKey b y + n ≤ z → hostByteAt t z = hostByteAt s z) ∧
         (∀ z, byteAt t z = byteAt s z) ∧ (∀ z, guestByteAt t z = guestByteAt s z) ∧ ∀ w z, scratchAt t w z = scratchAt s w z) ∧
       (∀ w j y, a.place = .scratch w j y → (∃ tm, team? s w = some tm) →
         (∀ k, k < n → scratchAt t w (scrKey j y + k) = (a.data[k]?).getD 0) ∧
         (∀ v z, v ≠ w ∨ z < scrKey j y ∨ scrKey j y + n ≤ z → scratchAt t v z = scratchAt s v z) ∧
         (∀ z, byteAt t z = byteAt s z) ∧ (∀ z, hostByteAt t z = hostByteAt s z) ∧ ∀ z, guestByteAt t z = guestByteAt s z)) ∧
  (∀ (s : State) (id lane gid slot : Nat) (g : Group) (c : MemChoice) (o : MemOp) (a : Acc),
     s.ops.find? (fun o => o.id == id) = some o → o.kind = .ld → o.ord = .plain → o.who = .grp gid slot → grp? s gid = some g → lane < 64 →
     laneAccs o c lane = [a] → a.lane = lane → canPerform s o a = true → placeLost s (placeOf s o.who).1 a.place = false →
     c.ecc = .clean → c.useL1 = false → c.fillL1 = false → (∀ z, unitFailed s z = false) →
     (isHbm a.place = true → placeGran a.place = granOf s (placeAddr a.place)) → remotable (placeOf s o.who).1 a.place = false →
     ∀ y mt ccl gr repl, a.place = .fab y mt ccl gr repl → mt ≠ 2 → fabDie y < 12 → regionOf (fabOff y) = .hbm ∨ regionOf (fabOff y) = .vault →
       let v := ofBytes ((List.range o.bytes).map fun k => byteAt s (y + k))
       ∃ t, exec (.memoryAccessComplete id (BitVec.ofNat 64 (2 ^ lane)) c) s = .next t ∧ SameMemory s t ∧
         (∀ r, o.dest = .vec r → r + 3 < 248 → ∃ g', grp? t gid = some g' ∧
           (o.size ≤ 4 → rdV g' r lane = BitVec.ofNat 32 v) ∧
           (o.size = 8 → rdV g' r lane = BitVec.ofNat 32 v ∧ rdV g' (r + 1) lane = BitVec.ofNat 32 (v / 2 ^ 32))))

/-- R220: the new value of an atomic operation on n-bit operands. -/
def Obligations.AtomicOperations : Prop :=
  ∀ (n old x : Nat), n = 32 ∨ n = 64 → old < 2 ^ n → x < 2 ^ n →
    let sg := fun (v : Nat) => (BitVec.ofNat n v).toInt
    atomNew .exch n old x = x ∧ atomNew .add n old x = (old + x) % 2 ^ n ∧
    (∀ k, (atomNew .and n old x).testBit k = (old.testBit k && x.testBit k)) ∧
    (∀ k, (atomNew .or n old x).testBit k = (old.testBit k || x.testBit k)) ∧
    (∀ k, (atomNew .xor n old x).testBit k = (old.testBit k ^^ x.testBit k)) ∧
    sg (atomNew .smin n old x) = min (sg old) (sg x) ∧ sg (atomNew .smax n old x) = max (sg old) (sg x) ∧
    atomNew .umin n old x = min old x ∧ atomNew .umax n old x = max old x ∧
    ∀ op, atomNew op n old x < 2 ^ n

/-! ### Caches and bulk copies -/

/-- R217, R225, R226: `pf` goes on whatever its lanes meet, having changed no register and, where it evicts no dirty line, no memory; `cwb` and `cinv`
with a free entry and a place for every lane become outstanding operations. R185, R189, R217, R223, R224: `bcp` and `ldm`
with lane 0 in the path, a free entry of the bulk counter, sound addresses and count, a destination in range in FILLING
stages and a source that is translated become outstanding bulk operations, whose destination lines become absent; without
lane 0 they only set SKIP. -/
def Obligations.CacheAndBulkWordsComplete : Prop :=
  (∀ (s : State) (x : Ex) (h : Head) (m : MemArg),
     let k := { memKind s x m false false with gran := false }
     let go := fun (i : Instr) (kind : OpKind) =>
       (∀ g, x.g = some g → memCount s x.who < 64 → ∀ got t,
         groupPlaces s x g k false ((lanesOf (rdM g x.p 0)).map fun l => (l, laneEa g x.p m false true l)) = .ok (got, t) →
         exec i s = .next (startOp t x kind m .nowhere
           (got.map fun e => { lane := e.1, va := e.2.1, place := e.2.2, data := [], cmp := [] }) 0 [] [])) ∧
       (x.g = none → m.index = 0xFF → memCount s x.who < 64 → ∀ pl t, onePlace s x k (pathEa x.p m true) = .ok (pl, t) →
         exec i s = .next (startOp t x kind m .nowhere [{ lane := 0, va := pathEa x.p m true, place := pl, data := [], cmp := [] }] 0 [] []))
     (Ready s x { memRule with hint := true } { vs := indexRegs m, ss := [m.base.toNat] } (some h) →
       ∃ t, exec (.pf h m) s = .next (advance t x) ∧ t.groups = s.groups ∧ t.teams = s.teams ∧
         ((∀ z, unitFailed s z = false) → s.remote.length + 256 ≤ l2Lines → SameMemory s t ∧ t.ops = s.ops)) ∧
     (Ready s x { memRuleAll with cls := .cache } { vs := indexRegs m, ss := [m.base.toNat] } none →
       go (.cwb m) .cwb ∧ go (.cinv m) .cinv)) ∧
  (∀ (s : State) (x : Ex) (g : Group) (t : Team) (m : MemArg), x.g = some g → team? s g.team = some t →
     let d := dataS m
     let dst := rdS x.p d
     let src := rdS x.p m.base
     let n := (rdSk x.p d 1).toNat
     let off := winOff dst
     let rcv := (lanesOf (rdSk x.p d 2)).map fun k => receiver s g t k
     let skip := advance (onGroup s x fun g => { g with gstat := g.gstat ||| 8 }) x
     (Ready s x memRule { ss := [m.base.toNat, d.toNat, d.toNat + 1] } none →
       (x.p.mask.getLsbD 0 = false → exec (.bcp m) s = .next skip) ∧
       (x.p.mask.getLsbD 0 = true → 16 ≤ bulkCount s g.gid → exec (.bcp m) s = .next s) ∧
       (x.p.mask.getLsbD 0 = true → bulkCount s g.gid < 16 → bulkFirst x dst src n = none → ∀ j o, bulkDest t g.tcore dst n = some (j, o) →
         ∀ sp u, bulkSource s x g src n = .ok (sp, u) → ringOk t j o n = true →
           exec (.bcp m) s = .next (startBulk u x g false src sp n [(t.tid, j, o)] none m.ch))) ∧
     (Ready s x memRule { ss := [m.base.toNat, d.toNat, d.toNat + 1, d.toNat + 2] } none →
       (x.p.mask.getLsbD 0 = false → exec (.ldm m) s = .next skip) ∧
       (x.p.mask.getLsbD 0 = true → 16 ≤ bulkCount s g.gid → exec (.ldm m) s = .next s) ∧
       (x.p.mask.getLsbD 0 = true → bulkCount s g.gid < 16 → bulkFirst x dst src n = none → inWindow dst = true → off < 0x100000000 →
         rcv ≠ [] → (∀ r ∈ rcv, ∃ e : Team × Nat, r = some e ∧ off + n ≤ e.1.scratch ∧ ringOk e.1 e.2 off n = true) →
         ∀ sp u, bulkSource s x g src n = .ok (sp, u) →
           exec (.ldm m) s = .next (startBulk u x g true src sp n ((rcv.filterMap id).map fun e => (e.1.tid, e.2, off))
             (joined u x g sp n off) m.ch))))

/-! ### Synchronisation -/

/-- R175, R200, R201, R227, R228: a fence goes on once no earlier access of its predecessor set is outstanding, having
released and acquired at its scope what its sets name; a timeline word whose address is a timeline becomes an outstanding
access, or, a `twait` whose timeline has reached the value, writes the value and goes on, and otherwise parks. -/
def Obligations.FencesAndTimelinesComplete : Prop :=
  ∀ (s : State) (x : Ex) (sc : Scope) (pred succ : BitVec 7) (la : BitVec 4) (sd sa sb : SReg),
    let tl := fun (sc : Scope) (o : MemOrd) (w : Bool) (va : W64) (pl : Place) (t : State) =>
      va.toNat % 8 = 0 ∧ inWindow va = false ∧ onePlace s x { memKind s x (tlArg sa sc o) w false with tline := true } va = .ok (pl, t)
    let va := rdS x.p sa
    (Ready s x syncRule {} none →
      let fenced := fun (pr su : BitVec 7) =>
        let r := if pr.getLsbD 1 then releaseBy s x.die sc else s
        advance (if su.getLsbD 0 || (pr.getLsbD 0 && su != 0) then acquireAt r x.die x.core sc else r) x
      (predPending s x pred succ = true → exec (.fence sc pred succ) s = .next (stall s x)) ∧
      (predPending s x pred succ = false → exec (.fence sc pred succ) s = .next (fenced pred succ)) ∧
      (predPending s x (BitVec.allOnes 7) (BitVec.allOnes 7) = true → exec (.fenceSc sc) s = .next (stall s x)) ∧
      (predPending s x (BitVec.allOnes 7) (BitVec.allOnes 7) = false → exec (.fenceSc sc) s = .next (fenced (BitVec.allOnes 7) (BitVec.allOnes 7)))) ∧
    (Ready s x syncRule { ss := [sa.toNat, sb.toNat] } none → ∀ pl t, tl sc .rel true va pl t →
      exec (.tsig sc sa sb) s = .next (startOp t x .st (tlArg sa sc .rel) .nowhere
        (splitAcc 8 0 va pl (toBytes 8 (rdS x.p sb).toNat) []) 0 [] [] false)) ∧
    (Ready s x syncRule { ss := [sa.toNat], sd := [sd.toNat] } none → ∀ pl t, tl .weak .plain false va pl t →
      exec (.tread la sd sa) s = .next (startOp t x .ld (tlArg sa .weak .plain) (.scal sd.toNat) (splitAcc 8 0 va pl [] []) la.toNat []
        [sd.toNat] false)) ∧
    (Ready s x syncRule { ss := [sa.toNat, sb.toNat], sd := [sd.toNat] } none → ∀ pl t, tl sc .acq false va pl t →
      let value := BitVec.ofNat 64 (ofBytes ((readHome t pl 8).1.map fun b => b.1))
      let u := (readHome t pl 8).2
      mayRead t x (tlArg sa sc .acq) pl = true →
        ((rdS x.p sb).toNat ≤ value.toNat →
          exec (.twait sc sd sa sb) s = .next (endWait u x [(sd.toNat, value, false)] (some sc))) ∧
        (value.toNat < (rdS x.p sb).toNat →
          let parked := fun (d n : Nat) => exec (.twait sc sd sa sb) s = .next (parkAt u x (.twait d n (rdS x.p sb) sd.toNat sc))
          (∀ a mt ccl gr repl, pl = .fab a mt ccl gr repl → parked (fabDie a) (tlOf (fabOff a))) ∧
          (∀ d a mt ccl, pl = .far d a mt ccl → parked (16 * (fabMod a + 1) + fabDie a) (tlOf (fabOff a)))))

/-- R186: a write to a timeline makes it the greater of its value and the written one; a lower one is discarded and noted. -/
def Obligations.TimelineRule : Prop :=
  ∀ (s : State) (die t : Nat) (v : W64),
    let u := tlWrite s die t v
    (tlGet u die t).toNat = max (tlGet s die t).toNat v.toNat ∧
    (∀ k, k ≠ tlKey die t → timelineAt u k = timelineAt s k) ∧
    (∀ k, sget false u.tldisc k = (sget false s.tldisc k || (decide (k = tlKey die t) && decide (v.toNat < (tlGet s die t).toNat)))) ∧
    u = { s with tl := u.tl, tldisc := u.tldisc }

/-- R230: `barr` records the path's lanes and goes on, `bar` records them and parks behind itself, and `barw` goes on when
its lanes are not in the open phase and parks behind itself when they are; a group that is not named, or was spawned, raises ILLEGAL. The
arrival, a release, waits for the path's earlier accesses; that `barw` waits for them too is the model's choice (log entry 74), and so is a
path that is recorded only in part, which parks (log entry 73). R229: `wchg` parks while its line holds the value that it waits to
see change, and otherwise writes what it read and status 0. -/
def Obligations.WaitingWordsComplete : Prop :=
  (∀ (s : State) (x : Ex) (g : Group) (b : BitVec 3) (roles : BitVec 4), x.g = some g → Ready s x (barRule s) {} none →
     let n := b.toNat
     let named := namesRole roles g = true ∧ g.spawned = none
     let out := s.ops.any fun o => sameAgent o.who x.who && x.p.anc.contains o.pid && !(match o.kind with
       | .alu _ _ _ => true
       | _ => false)
     (¬named → ∀ i ∈ [Instr.bar b roles, .barr b roles, .barw b roles], exec i s = .next (raiseOn s x.who { cause := .illegal } x.p.pc)) ∧
     (named → out = true → ∀ i ∈ [Instr.bar b roles, .barr b roles, .barw b roles], exec i s = .next (stall s x)) ∧
     (named → out = false → alreadyIn s x g n = true →
       exec (.bar b roles) s = .next (parkAt s x (.barrier n)) ∧ exec (.barr b roles) s = .next (parkAt s x (.barrier n)) ∧
       exec (.barw b roles) s = .next (parkAfterBar s x n)) ∧
     (named → out = false → alreadyIn s x g n = false →
       exec (.barw b roles) s = .next (advance (acquireNear s x.die x.core) x) ∧
       (∀ t, recordLanes s x g n roles = some t →
         exec (.barr b roles) s = .next (advance t x) ∧ exec (.bar b roles) s = .next (parkAfterBar t x n)) ∧
       (recordLanes s x g n roles = none → ∀ i ∈ [Instr.bar b roles, .barr b roles],
         exec i s = .next (raiseOn s x.who { cause := .illegal } x.p.pc)))) ∧
  (∀ (s : State) (x : Ex) (m : MemArg),
     let d := dataS m
     let n := m.size.bytes
     Ready s x syncGrp { ss := [m.base.toNat, d.toNat], sd := [d.toNat, d.toNat + 1] } none →
       ∀ pl t, onePlace s x { memKind s x m false false with watch := true } (pathEa x.p m true) = .ok (pl, t) →
         placeLost t x.die pl = false →
         (placeAbsent t pl = true → exec (.wchg m) s = .next (parkAt t x (.absent pl))) ∧
         (placeAbsent t pl = false → 64 ≤ watches t x.die x.core ∨ mayRead t x m pl = false ∨ homeSilent t x.die pl = true →
           exec (.wchg m) s = .next t) ∧
         (placeAbsent t pl = false → watches t x.die x.core < 64 → mayRead t x m pl = true → homeSilent t x.die pl = false →
           let r := waitRead t x pl n m.scope m.ch
           let want := BitVec.ofNat 64 ((rdS x.p d).toNat % 2 ^ (8 * n))
           (x.p.cut = true → exec (.wchg m) s =
             .next (endWait (modPath r.2 x.who x.p.pid fun p => { p with cut := false }) x [(d.toNat, r.1.1, r.1.2), (d.toNat + 1, 2, false)]
               (if ordAcq m.ord then some m.scope else none))) ∧
           (x.p.cut = false → r.1.1 = want → exec (.wchg m) s = .next (parkAt r.2 x (.wchg pl n want d.toNat (clk r.2 x.die) (ordAcq m.ord) m.scope m.ch))) ∧
           (x.p.cut = false → r.1.1 ≠ want → exec (.wchg m) s =
             .next (endWait r.2 x [(d.toNat, r.1.1, r.1.2), (d.toNat + 1, 0, false)] (if ordAcq m.ord then some m.scope else none)))))

/-! ### Matrix and ring words -/

/-- R232 to R236, R238, R248: a matrix word whose values are aligned, in a group whose team holds (or takes) its core's
engine, queues one operation with the next number of its stream and the words of its triples; it waits for a stream that
holds eight; `mresume` lets the stopped operation go on or discards it. -/
def Obligations.MatrixWordsComplete : Prop :=
  ∀ (s b : State) (x : Ex) (g : Group) (zd : BitVec 5) (sa sb sk : SReg) (strm : BitVec 2) (ty ta tb : MatTy) (rm : RoundMode)
    (mx ovf scale sig discard : Bool), x.g = some g → binding s g = some b →
    let p := x.p
    let three := fun (r : SReg) => [rdSk p r 0, rdSk p r 1, rdSk p r 2]
    let regs := fun (r : SReg) (l : List Nat) => l.map fun k => r.toNat + k
    let at' := fun (l : List W64) (n : Nat) => ∀ v ∈ l, v.toNat % n = 0
    let sound := fun (i : Instr) (u : Use) (kind : MatKind) (a c k : List W64) => Ready s x matRule u none →
      (streamLen b g strm.toNat < 8 → exec i s = .next (advance (pushOp b x g strm.toNat kind zd a c k) x)) ∧
      (8 ≤ streamLen b g strm.toNat → exec i s = .next b)
    sound (.mzero zd strm) {} .mzero [] [] [] ∧
    (at' [rdSk p sa 0, rdSk p sa 1] 64 →
      sound (.mld zd sa strm ty) { ss := regs sa [0, 1], sd := regs sa [2] } (.mld ty) (three sa) [] []) ∧
    (at' [rdSk p sa 0, rdSk p sa 1] (segAlign ta) → at' [rdSk p sb 0, rdSk p sb 1] (segAlign tb) →
      sound (.mma zd sa sb sk strm ta tb mx)
        { ss := regs sa [0, 1] ++ regs sb [0, 1] ++ (if mx then regs sk [1, 2] else []),
          sd := regs sa [2] ++ regs sb [2] ++ (if mx then regs sk [0] else []) }
        (.mma ta tb mx) (three sa) (three sb) (if mx then three sk else [])) ∧
    (at' (three sa) (segAlign ta) → at' (three sb) (segAlign tb) → (rdS p sk).toNat < 2 ^ 24 →
      sound (.mloop zd sa sb sk strm ta tb mx)
        { ss := regs sa [0, 1, 2] ++ regs sb [0, 1, 2] ++ (if mx then regs sk [0, 1, 2] else [sk.toNat]) }
        (.mloop ta tb mx) (three sa) (three sb) (if mx then three sk else [rdS p sk])) ∧
    (at' [rdSk p sa 0, rdSk p sa 1] 64 → (sig = true → (rdS p sb).toNat % 8 = 0) → tileBad s g zd = false →
      sound (.mst zd sa sb sk strm ty rm ovf scale sig)
        { ss := regs sa [0, 1] ++ (if sig then regs sb [0, 1] else []) ++ (if scale then [sk.toNat] else []),
          sd := regs sa [2] ++ (if sig then regs sb [2] else []) }
        (.mst ty rm ovf scale sig) (three sa) (if sig then three sb else []) (if scale then [rdS p sk] else [])) ∧
    (Ready s x matRule {} none →
      exec (.mresume strm discard) s = .next (advance (resumeStream b ((grp? b g.gid).getD g) strm.toNat discard) x))

/-- R187, R188, R190, R250 to R254: `rinit` defines a ring of empty stages; `racq` takes a stage that is EMPTY (or FULL) to
FILLING (or DRAINING) and `rrel` gives it on, FILLING to FULL and DRAINING to EMPTY with the phase changed, each waiting
until it may; `rstat` reads the stage word. That the paths which wait on a ring issue their `racq` again when it is redefined is the model's
choice (log entry 38). -/
def Obligations.RingWordsComplete : Prop :=
  ∀ (s : State) (x : Ex) (g : Group) (t : Team) (k : BitVec 3) (n1 : BitVec 4) (sd sa sb : SReg) (cons : Bool), x.g = some g →
    team? s g.team = some t →
    let j := (rdS x.p sa).toNat
    (Ready s x ringRule { ss := [sa.toNat, sb.toNat] } none →
      let size := (rdS x.p sb).toNat
      let n := n1.toNat + 1
      (rdS x.p sa).toNat % 256 = 0 → size % 256 = 0 → size ≠ 0 → ∀ c base, bulkDest t g.tcore (rdS x.p sa) (size * n) = some (c, base) →
      (∀ r ∈ t.rings, r.k ≠ k.toNat → r.core = c → overlaps base (size * n) r.base (r.size * r.stages.length) = false) →
      (∀ r, ring? t k.toNat = some r → r.idle = true) →
        exec (.rinit k n1 sa sb) s = .next (advance (reissueRacq (modTeam s t.tid fun t =>
          { t with rings := { k := k.toNat, core := c, base, size, stages := List.replicate n { st := 0, phase := false, absent := [] } } ::
                              t.rings.filter fun r => r.k != k.toNat }) t.tid k.toNat) x)) ∧
    (∀ r st, ring? t k.toNat = some r → r.stages[j]? = some st →
      (Ready s x ringRule { ss := [sa.toNat], sd := [sd.toNat] } none →
        exec (.rstat sd k sa) s = .next (advance (setS s x sd (stageWord st)) x) ∧
        (let ahead := s.waiters.any fun w => w.1 == t.tid && w.2.1 == k.toNat && w.2.2.1 == j && waitsIn s cons w
         let new := { st with st := if cons then 3 else 1 }
         (st.st = (if cons then 2 else 0) → ahead = false → exec (.racq sd k sa cons) s =
           .next (endWait (modTeam s t.tid fun t => modStage t k.toNat j fun _ => new) x [(sd.toNat, stageWord new, false)] (some .team))) ∧
         (st.st ≠ (if cons then 2 else 0) ∨ ahead = true → exec (.racq sd k sa cons) s =
           .next (modPath { s with waiters := s.waiters ++ [(t.tid, k.toNat, j, g.gid, x.p.pid, s.now)] } x.who x.p.pid
             fun p => { p with wait := .racq t.tid k.toNat j sd.toNat cons g.gidx })))) ∧
      (Ready s x ringRule { ss := [sa.toNat] } none →
        let given := fun (f : Stage → Stage) =>
          Host.Outcome.next (endWait (modTeam (releaseBy s x.die .team) t.tid fun t => modStage t k.toNat j f) x [] none)
        (rrelReady s x g st = false → exec (.rrel k sa) s =
          .next (modPath s x.who x.p.pid fun p => { p with wait := .rrel t.tid k.toNat j })) ∧
        (rrelReady s x g st = true →
          (st.st = 1 → exec (.rrel k sa) s = given fun st => { st with st := 2 }) ∧
          (st.st = 3 → exec (.rrel k sa) s = given fun st => { st with st := 0, phase := !st.phase }) ∧
          (st.st ≠ 1 → st.st ≠ 3 → exec (.rrel k sa) s = .next (raiseOn s x.who { cause := .ringState } x.p.pc)))))

/-! ### Queue and copy words -/

/-- R275 to R278: `qack` closes an open packet, with its completion once the thread's accesses are performed or with a record that halts the queue; `launch` answers
the status of its checks or hands the grid to the distributors; the interrupts go to the queue's vector or the mailbox once
the thread's earlier accesses are performed; `qsleep` sleeps until an event that it waits for has arrived, and then returns
the events. R255, R256, R258, R274: `qpop` writes 0 for a thread with no queue and for an empty queue, all ones for a halted
one, and delivers a packet that is sound and may start: its sixteen words, its sequence number, and the consumption of the
packet. A NOP, a SIGNAL and a WAITGE it consumes and performs itself, and goes on to the next packet. R271: a trap of `qpop` concerns the
packet that it was taking. The model's choices: the check of a COPY packet's timeline when it is consumed (log entry 27), that R_q has passed
the packet whose timeline traps (log entry 88), poisoned bytes of a packet or a descriptor taken as they stand (log entry 87), the 0 for a packet that the kicks cover in part, and the events that
`qsleep` consumes (log entry 41). -/
def Obligations.QueueWordsComplete : Prop :=
  (∀ (s : State) (x : Ex) (t : QThread) (sd sa sb : SReg) (cause : BitVec 8) (irq : Bool), thread s x = some t →
     let v := rdS x.p sa
     let r := releaseBy s x.die .sys
     (Ready s x (ruleQ true) { ss := [sa.toNat, sb.toNat, sb.toNat + 1] } none →
       (openPacket s t v = none → exec (.qack sa sb cause irq) s = .next (raiseOn s x.who { cause := .illegal } x.p.pc)) ∧
       (∀ q p, openPacket s t v = some (q, p) →
         (cause = 0 → stillOut s x = true → exec (.qack sa sb cause irq) s = .next s) ∧
         (cause = 0 → stillOut s x = false → exec (.qack sa sb cause irq) s = .next (advance (settleQueue (leavePacket (modPacket s q.die q.qid p.seq fun p =>
           { p with closed := true, acked := some (rdS x.p sb, rdSk x.p sb 1, irq) }) t p.seq) q.die q.qid) x)) ∧
         (cause ≠ 0 → exec (.qack sa sb cause irq) s = .next (advance (haltQueue (queueRecord (leavePacket (modPacket s q.die q.qid p.seq fun p =>
           { p with closed := true, never := true }) t p.seq) q.die q.qid cause.toNat p.seq 0 (if cause = 0x31#8 then p.status else 0)) q.die q.qid)
           x)))) ∧
     (Ready s x { ruleQ false with q := !(curUser s && sb != 0) } { ss := sbNamed s sb ++ (List.range 16).map (fun k => sa.toNat + k), sd := [sd.toNat] } none →
       let raw := ((List.range 16).map fun k => toBytes 8 (rdSk x.p sa k).toNat).flatten
       (attributed s x t sb = none → exec (.launch sd sa sb) s = .next (raiseOn s x.who { cause := .illegal } x.p.pc)) ∧
       (∀ q pk, attributed s x t sb = some (q, pk) →
         (stillOut s x = true → exec (.launch sd sa sb) s = .next s) ∧
         (stillOut s x = false →
           (∀ e u, launchCheck r x raw = .ok (e, u) → exec (.launch sd sa sb) s = .next (advance (match e with
             | .inl st => setS (modPacket u q.die q.qid pk.seq fun p => { p with status := BitVec.ofNat 64 st }) x sd (BitVec.ofNat 64 st)
             | .inr (p, d) => setS (startGrid u q pk.seq p d) x sd 0) x))))) ∧
     (Ready s x (ruleQ false) { ss := [sa.toNat] } none →
       (stillOut s x = true → exec (.irqHost sa) s = .next s) ∧
       (stillOut s x = false → (∀ b, t.bound = some b → exec (.irqHost sa) s = .next (advance (irqQueue r t.die b v) x)) ∧
         (t.bound = none → ∀ u, mailboxPush r t.die v 0 t.t = some u → exec (.irqHost sa) s = .next (advance u x)))) ∧
     (Ready s x (ruleQ true) { ss := [sa.toNat] } none →
       (stillOut s x = true → exec (.irqKern sa) s = .next s) ∧
       (stillOut s x = false →
         (∀ u, mailboxPush r t.die v (t.bound.getD 0) t.t = some u → exec (.irqKern sa) s = .next (advance u x)) ∧
         (mailboxPush r t.die v (t.bound.getD 0) t.t = none → exec (.irqKern sa) s = .next r))) ∧
     (Ready s x (ruleQ true) { sd := [sd.toNat] } none →
       let woken := t.events &&& (t.sleepm.setWidth 64 ||| 0x80#64)
       (woken = 0 → exec (.qsleep sd) s = .next (modQt s t.die t.t fun q => { q with asleep := some sd.toNat })) ∧
       (woken ≠ 0 → exec (.qsleep sd) s = .next (advance (modPath (modQt s t.die t.t fun q => { q with events := 0, asleep := none })
         x.who x.p.pid fun p => wrS p sd.toNat woken) x)))) ∧
  (∀ (s : State) (x : Ex) (t : QThread) (sd sb : SReg), thread s x = some t →
     Ready s x (ruleQ true) { sd := sb.toNat :: (List.range 16).map fun k => sd.toNat + k } none →
     let i := Instr.qpop sd sb
     let loop := popLoop x t.die t.bound (((boundQueue s t).map fun q => q.w - q.r + 1).getD 1) s
     (∀ u v, loop = .done u v none → exec i s = .next (advance (setS u x sb v) x)) ∧
     (∀ u, loop = .hold u → exec i s = .next u) ∧
     (∀ u f, loop = .trap u f → exec i s = .next (raiseOn u x.who f x.p.pc)) ∧
     (∀ u v l, loop = .done u v (some l) →
       let m := modPath u x.who x.p.pid fun p => l.zipIdx.foldl (fun p e => wrS p (sd.toNat + e.2) e.1) p
       exec i s = .next (advance (setS (modQt m t.die t.t fun q => { q with popped := some v.toNat }) x sb v) x)) ∧
     let w := ((boundQueue s t).map (waitgeTest s)).getD s
     (t.bound = none → exec i s = .next (advance (setS s x sb 0) x)) ∧
     (∀ q, boundQueue w t = some q →
       let s1 := modQueue w t.die q.qid fun q => { q with kicked := false }
       (q.r = q.w → exec i s = .next (advance (setS s1 x sb 0) x)) ∧
       (q.r ≠ q.w → q.halted = true → exec i s = .next (advance (setS s1 x sb (BitVec.allOnes 64)) x)) ∧
       (q.r ≠ q.w → q.halted = false → ∀ f va, packetAt s1 q = .error (.trap f, va) →
         exec i s = .next (raiseOn (concern s1 x (q.r + 1)) x.who f x.p.pc)) ∧
       (q.r ≠ q.w → q.halted = false → ∀ s2, packetAt s1 q = .ok (none, s2) → exec i s = .next (advance (setS s2 x sb 0) x)) ∧
       (q.r ≠ q.w → q.halted = false → ∀ raw s2, packetAt s1 q = .ok (some raw, s2) →
         (∀ off, packetErr raw = some off → exec i s = .next (advance (setS (haltQueue (queueRecord s2 t.die q.qid 0x30 (q.r + 1) 0
           (BitVec.ofNat 64 (1 + 256 * off))) t.die q.qid) x sb (BitVec.allOnes 64)) x)) ∧
         (packetErr raw = none → mayStart q (le raw 1 1) = false → exec i s = .next (advance (setS s2 x sb 0) x)) ∧
         (packetErr raw = none → mayStart q (le raw 1 1) = true → le raw 0 1 ≠ 0 → le raw 0 1 ≠ 4 → le raw 0 1 ≠ 5 →
           let c := consume s2 q raw
           let fails := if le raw 0 1 = 2 ∧ le raw 8 8 ≠ 0 then waitgeCheck c q (BitVec.ofNat 64 (le raw 8 8)) true else none
           (∀ f, fails = some f → exec i s = .next (raiseOn (concern c x (q.r + 1)) x.who f x.p.pc)) ∧
           (fails = none →
             let words := (List.range 16).map fun k => BitVec.ofNat 64 (le raw (8 * k) 8)
             let u := modPath c x.who x.p.pid fun p => words.zipIdx.foldl (fun p e => wrS p (sd.toNat + e.2) e.1) p
             exec i s = .next (advance (setS (modQt u t.die t.t fun q' => { q' with popped := some (BitVec.ofNat 64 (q.r + 1)).toNat }) x sb
               (BitVec.ofNat 64 (q.r + 1))) x)))))) ∧
  (∀ (s s2 : State) (x : Ex) (die b n : Nat) (q : Queue) (raw : List Byte),
     let w := ((queue? s die b).map (waitgeTest s)).getD s
     queue? w die b = some q → q.r ≠ q.w → q.halted = false →
     packetAt (modQueue w die q.qid fun q => { q with kicked := false }) q = .ok (some raw, s2) → packetErr raw = none →
     mayStart q (le raw 1 1) = true →
     let c := consume s2 q raw
     let va := BitVec.ofNat 64 (le raw 24 8)
     let here := popLoop x die (some b) (n + 1) s
     let on := fun (u : State) => popLoop x die (some b) n u
     (le raw 0 1 = 0 → here = on (settleQueue c q.die q.qid)) ∧
     (le raw 0 1 = 4 → stillOut s2 x = true ∨ tlWaits s2 die q.pasid va (queueSecure s2 q) = true → here = .hold s2) ∧
     (le raw 0 1 = 4 → stillOut s2 x = false → tlWaits s2 die q.pasid va (queueSecure s2 q) = false →
       (∀ u, tlSignal c q.die q.pasid va (BitVec.ofNat 64 (le raw 32 8)) (queueSecure c q) = .ok u → here = on (settleQueue u q.die q.qid)) ∧
       (∀ f, tlSignal c q.die q.pasid va (BitVec.ofNat 64 (le raw 32 8)) (queueSecure c q) = .error f → here = .trap (concern c x (q.r + 1)) f)) ∧
     (le raw 0 1 = 5 →
       (∀ f, waitgeCheck c q va = some f → here = .trap (concern c x (q.r + 1)) f) ∧
       (waitgeCheck c q va = none → here = on (((queue? c q.die q.qid).map (waitgeTest c)).getD c))))

/-- R276, R279, R280, R282: a copy instruction of a Q thread whose operands are in range and whose packet is open queues its
operation behind those of the thread's copy context and writes its number, once the thread's earlier writes are performed; in
a copy program it becomes the program's own operation, for which the program waits. The model's choices: the thread waits at the word
for its earlier writes, where R280 lets it run on and R281 the engine wait (log entry 39); and the operation takes the thread's level (log
entry 61). -/
def Obligations.CopyWordsComplete : Prop :=
  ∀ (s : State) (x : Ex) (sd sa sb : SReg) (gran : BitVec 3) (frame : Bool),
    let args := fun (k : CopyKind) => (List.range (copyWords k)).map fun j => rdSk x.p sa j
    let use := fun (k : CopyKind) => ({ ss := sbNamed s sb ++ (List.range (copyWords k)).map (fun j => sa.toNat + j),
                                        sd := if onThread s then [sd.toNat] else [] } : Use)
    let onQ := fun (i : Instr) (k : CopyKind) (c : Bool) =>
      Ready s x (copyRule s c sd sb (badOperand s k sa)) (use k) none →
      ∀ t q p, thread s x = some t → attributed s x t sb = some (q, p) →
        (writesPending s x = true → exec i s = .next s) ∧
        (writesPending s x = false → exec i s = .next (handCopy s x t q p k sd (args k)))
    let inner := fun (k : CopyKind) (o : CopyOp) (d n : Nat) =>
      (Host.Outcome.next (modCc s d n fun c => { c with inner := some (newCopy s.freshId o.num k (args k) o.qid o.seq none (!x.user)) }) : Host.Outcome State Fault Refusal)
    let onCopy := fun (i : Instr) (k : CopyKind) =>
      Ready s x (copyRule s true 0 0 (badOperand s k sa)) (use k) none → sd = 0 → sb = 0 →
      ∀ d n c o, x.who = .copyc d n → cc? s d n = some c → c.ops.head? = some o → exec i s = inner k o d n
    (onQ (.cpy sd sa sb) .cpy true ∧ onQ (.cpyProg sd sa sb) .prog false ∧ onQ (.cpy2d sd sa sb) .cpy2d true ∧
      onQ (.cpyg sd sa sb) .cpyg true ∧ onQ (.cpys sd sa sb) .cpys true ∧ onQ (.cfill sd sa sb) .cfill true) ∧
    (onCopy (.cpy sd sa sb) .cpy ∧ onCopy (.cpy2d sd sa sb) .cpy2d ∧ onCopy (.cpyg sd sa sb) .cpyg ∧ onCopy (.cpys sd sa sb) .cpys ∧
      onCopy (.cfill sd sa sb) .cfill) ∧
    (let k := CopyKind.reform gran.toNat frame
     Ready s x { g := false, q := false, c := true, cls := .control, sys := frame, ill := (badOperand s k sa).map (BitVec.ofNat 64) }
       { ss := (List.range 4).map fun j => sa.toNat + j } none →
     ∀ d n c o, x.who = .copyc d n → cc? s d n = some c → c.ops.head? = some o → exec (.reform sa gran frame) s = inner k o d n)

/-! ### Handler and retired words -/

/-- R283 to R286, R294, R301, R308: `tret` leaves the handler level, or ends a walker's request; that it does not act while its path has open
lookahead windows is the model's choice, which neither R283 nor R308 states (R58; log entry 80, DEDUCED); `tlbw` installs a sound leaf
in the core's TLB and the die's cache; `tlbinv` and `lprinv` remove what they name once no access uses it; `ovld` stages an
image into a frame, once the path's earlier accesses let it be read (R197). -/
def Obligations.TranslationWordsComplete : Prop :=
  ∀ (s : State) (x : Ex) (g : Group) (sa sb : SReg) (size : BitVec 3) (mode : BitVec 2) (die : Bool) (frame : BitVec 5), x.g = some g →
    let n := noteIssue s x
    let va := rdS x.p sa
    let hit := invHits mode.toNat ((rdSk x.p sa 1).toNat % 2 ^ 20) va
    let tlb := (core? s x.die x.core).toList.flatMap fun c => c.tlb
    let cache := if die then (die? s x.die).toList.flatMap fun d => d.cache else []
    let lprs := (core? s x.die x.core).toList.flatMap fun c => c.lpr.map fun e => e.2.2
    (Ready s x { ruleHandler with ctl := true } {} none →
      (x.p.wins ≠ [] → exec .tret s = .next s) ∧
      (x.p.wins = [] → g.isWalker = true → g.frames.length = 1 →
        (walkerAlone g x.p = true → exec .tret s = .next (walkerReturn n g)) ∧
        (walkerAlone g x.p = false → exec .tret s = .next (raiseOn s x.who { cause := .illegal } x.p.pc))) ∧
      (x.p.wins = [] → g.isWalker = false ∨ g.frames.length ≠ 1 →
        (∀ t, leaveHandler n g x.p = .ok t → exec .tret s = .next t) ∧
        (∀ e, leaveHandler n g x.p = .error e → exec .tret s = .next (raiseOn s x.who e x.p.pc)))) ∧
    (Ready s x ruleHandler { ss := [sa.toNat, sa.toNat + 1, sa.toNat + 2] } none → tlbLeafOk (rdSk x.p sa 1) size.toNat = true →
      exec (.tlbw sa size) s = .next (advance (installTlb s x.die x.core
        (tlbEntry s x.die va (rdSk x.p sa 1) ((rdSk x.p sa 2).toNat % 2 ^ 20) ((rdSk x.p sa 2).getLsbD 20) size.toNat)) x)) ∧
    (Ready s x ruleHandler { ss := [sa.toNat, sa.toNat + 1] } none →
      (entryInUse s x.die (some x.core) hit tlb = true ∨ entryInUse s x.die none hit cache = true → exec (.tlbinv sa mode die) s = .next s) ∧
      (entryInUse s x.die (some x.core) hit tlb = false → entryInUse s x.die none hit cache = false →
        let u := modCore s x.die x.core fun c => { c with tlb := c.tlb.filter fun t => !hit t }
        exec (.tlbinv sa mode die) s =
          .next (advance (if die then modDie u x.die fun d => { d with cache := d.cache.filter fun t => !hit t } else u) x)) ∧
      (entryInUse s x.die (some x.core) hit lprs = true → exec (.lprinv sa mode) s = .next s) ∧
      (entryInUse s x.die (some x.core) hit lprs = false → exec (.lprinv sa mode) s =
        .next (advance (modCore s x.die x.core fun c => { c with lpr := c.lpr.filter fun e => !hit e.2.2 }) x))) ∧
    (Ready s x ruleHandler { ss := [sa.toNat, sb.toNat] } none → (rdS x.p sb).toNat ≤ 8191 → va.toNat % 16384 = 0 → inWindow va = false →
      ∀ got t, groupPlaces s x g (sysKind s x false true 16) true ((List.range 4).map fun k => (0, va + BitVec.ofNat 64 (4096 * k))) = .ok (got, t) →
        (mayReadPages t x (got.map fun e => e.2.2) = false → exec (.ovld sa sb frame) s = .next t) ∧
        (mayReadPages t x (got.map fun e => e.2.2) = true →
        let r := got.foldl (fun (r : List PByte × State) e =>
          let (b, s) := readPlace r.2 x.die x.core e.2.2 4096 .weak 0 plainChoice
          (r.1 ++ b, s)) ([], t)
        exec (.ovld sa sb frame) s = .next (advance (stageFrame r.2 x.die x.core frame.toNat
          { pasid := x.pasid, base := codeBase g.ehdr, ovl := (rdS x.p sb).toNat } (wordsOf (r.1.map fun e => e.1))) x)))

/-- R197, R287 to R291, R297, R309: `pgrab` waits until the path's earlier accesses let it act, raises POISON where a word that it reads
is poisoned, and takes the frame at a pool's head or answers 0 from an empty one; `ats` and `pri` send their requests; `dmsg` sends a
message of eight words, once the path's earlier writes are performed, and writes its number; `hlt` stops the program, or the group's team.
The model's choices: numbers of Quadrille start at 0 (log entry 41), every live path that runs parks on a page request (log entry 43), and a
`hlt` of the walker, which has no team, is ILLEGAL (log entry 79). -/
def Obligations.SystemWordsComplete : Prop :=
  ∀ (s : State) (x : Ex) (sd sa : SReg) (gran size : BitVec 3) (la : BitVec 4) (w : Bool),
    let v := rdS x.p sa
    (Ready s x ruleHandler { sd := [sd.toNat] } none →
      let cls := 5 * size.toNat + gran.toNat
      let base := dieReg s x.die (fun d => d.poolbase) + BitVec.ofNat 64 (64 * cls)
      ∀ p s1, onePlace s x (sysKind s x true false 8) base = .ok (p, s1) →
        (poolFree s1 x p = false → exec (.pgrab sd gran size) s = .next s1) ∧
        (poolFree s1 x p = true → ∀ k, recordBad s1 x p = some k →
          exec (.pgrab sd gran size) s = .next (raiseOn s x.who { cause := .poison, va := base + BitVec.ofNat 64 k } x.p.pc)) ∧
        (poolFree s1 x p = true → recordBad s1 x p = none →
        let head := readWord s1 x p 8
        let tail := readWord (acquireNear head.2 x.die x.core) x (p.add 8) 8
        let ring := readWord tail.2 x (p.add 16) 8
        let n := readWord ring.2 x (p.add 24) 4
        let low := readWord n.2 x (p.add 28) 4
        let left := (tail.1 + 2 ^ 64 - head.1) % 2 ^ 64
        (left = 0 → exec (.pgrab sd gran size) s = .next (advance (setS (emit low.2 (.poolInterrupt x.die cls true)) x sd 0) x)) ∧
        (left ≠ 0 → ∀ q s2, onePlace low.2 x (sysKind low.2 x false false 8) (BitVec.ofNat 64 (ring.1 + 8 * (head.1 % n.1))) = .ok (q, s2) →
          (mayAct s2 x .ld 8 .die .plain q = false → exec (.pgrab sd gran size) s = .next s2) ∧
          (mayAct s2 x .ld 8 .die .plain q = true → wordBad s2 x q 8 = true → exec (.pgrab sd gran size) s =
            .next (raiseOn s x.who { cause := .poison, va := BitVec.ofNat 64 (ring.1 + 8 * (head.1 % n.1)) } x.p.pc)) ∧
          (mayAct s2 x .ld 8 .die .plain q = true → wordBad s2 x q 8 = false →
          let f := readWord s2 x q 8
          let u := writePlace f.2 x.die x.core p (cleanBytes (toBytes 8 (head.1 + 1))) .die 0 plainChoice
          exec (.pgrab sd gran size) s = .next (advance (setS (if left - 1 = low.1 then emit u (.poolInterrupt x.die cls false) else u) x sd
            (BitVec.ofNat 64 f.1)) x))))) ∧
    (Ready s x ruleHandler { ss := [sa.toNat, sa.toNat + 1], sd := [sd.toNat, sd.toNat + 1] } none →
      ∃ t o, exec (.ats la sd sa w) s = .next (advance (openWindow t x (s.freshId + 1) false la.toNat [] [sd.toNat, sd.toNat + 1]) x) ∧
        t.freshId = s.freshId + 2 ∧ t.ops = s.ops ++ [o] ∧ o.id = s.freshId + 1 ∧ t.groups = s.groups ∧
        ∃ r, t.ats = s.ats ++ [r] ∧ r.id = s.freshId ∧ r.va = v ∧ r.pasid = (rdSk x.p sa 1).toNat % 2 ^ 20 ∧ r.write = w ∧
          t.outbox = s.outbox ++ [.atsRequest s.freshId r.fn r.pasid v w]) ∧
    (Ready s x ruleHandler { ss := [sa.toNat, sa.toNat + 1, sa.toNat + 2] } none →
      let who := s.groups.find? fun g => g.die == x.die && g.core == x.core && g.entry == (rdSk x.p sa 2).toNat % 1024 && !g.isWalker && !g.ended
      (who = none → exec (.pri sa w) s = .next (raiseOn s x.who { cause := .illegal } x.p.pc)) ∧
      (∀ g, who = some g → ∀ u, sendPri (advance s x) ((rdSk x.p sa 1).toNat % 2 ^ 20) v w g.gid (priPath s x g) = some u →
        exec (.pri sa w) s = .next u)) ∧
    (Ready s x ruleHandler { ss := (List.range 8).map (fun k => sa.toNat + k), sd := [sd.toNat] } none →
      (writesPending s x = true ∨ predPending s x 0b0101000#7 0 = true → exec (.dmsg sd sa) s = .next s) ∧
      (writesPending s x = false → predPending s x 0b0101000#7 0 = false → ∀ u, quadSend (releaseBy s x.die .pkg) x.die ((List.range 8).map fun k => rdSk x.p sa k) = some u →
        exec (.dmsg sd sa) s = .next (advance (setS u x sd (BitVec.ofNat 64 s.quad.length)) x))) ∧
    (Ready s x { g := true, q := true, c := true, cls := .handler, priv := true } { ss := [sa.toNat] } none →
      (∀ d t q, x.who = .qthr d t → qt? s d t = some q → exec (.hlt sa) s = .next (stopThread s q 0x33 x.p.pc 0 v)) ∧
      (∀ d k, x.who = .copyc d k → exec (.hlt sa) s = .next (haltCopy s x d k v)) ∧
      (∀ g, x.g = some g → g.isWalker = false → exec (.hlt sa) s = .next (haltTeam s g.team
        [{ gid := g.gid, code := g.regs.trapc.toNat % 256, pc := g.regs.trappc, va := g.regs.trapva, aux := v }])) ∧
      (∀ g, x.g = some g → g.isWalker = true → exec (.hlt sa) s = .next (raiseOn s x.who { cause := .illegal } x.p.pc)))

/-- R57, R71 to R73: the two microcoded words compute their results and count; the two trapped ones count and raise RETIRED
in the active lanes. With no active lane none of the four executes: nothing is counted or raised, and the path goes on. That `bar.all`
raises RETIRED whatever roles opened the phase of its barrier is the model's choice (log entry 48). -/
def Obligations.RetiredWordsComplete : Prop :=
  ∀ (s : State) (x : Ex) (g : Group) (h : Head) (m : MemArg) (vd va vb : VReg) (b : BitVec 3), x.g = some g →
    let act := activeOf g x.p h
    let gives := fun (i : Instr) (c : State) (f : Nat → List (Nat × W32) × Flags) =>
      (act = 0 → exec i s = .next (advance s x)) ∧
      (act ≠ 0 → h.la = 0 → exec i s = .next (advance (onGroup c x fun g' => takeFp g' (fpLanes act f)) x)) ∧
      (act ≠ 0 → h.la ≠ 0 → exec i s = .next (resultsPending c x true h.la [vd.toNat] [] (fpLanes act f).1 [] (fpLanes act f).2))
    (Ready s x vecRule { vs := [vd.toNat, va.toNat, vb.toNat], vd := [vd.toNat] } (some h) →
      gives (.vdp4E4m3 h vd va vb) (countRet s x.pasid 0xF0) fun l =>
        fpRes .f32 vd l (dotstep (rdV g vd.toNat l).toNat (dp4Terms g va.toNat l) (dp4Terms g vb.toNat l) (dotWindow .e4m3) 0)) ∧
    (Ready s x vecRule { vs := [va.toNat, vb.toNat], vd := [vd.toNat] } (some h) →
      gives (.vfdivF32Fast h vd va vb) (countRet s x.pasid 0xF1) fun l =>
        fpRes .f32 vd l (fastDiv (laneFp g .f32 va.toNat l) (laneFp g .f32 vb.toNat l))) ∧
    (Ready s x { syncGrp with g := barAdmits s } {} none →
      (x.active none ≠ 0 →
        exec (.barAll b) s = .next (raiseOn (countRet s x.pasid 0xF2) x.who { cause := .retired, lanes := some (x.active none) } x.p.pc)) ∧
      (x.active none = 0 → exec (.barAll b) s = .next (advance s x))) ∧
    (Ready s x memRule { vs := indexRegs m, vd := dataRegs m, ss := [m.base.toNat] } (some h) →
      (act ≠ 0 → exec (.ldcst h m) s = .next (raiseOn (countRet s x.pasid 0xF3) x.who { cause := .retired, lanes := some act } x.p.pc)) ∧
      (act = 0 → exec (.ldcst h m) s = .next (advance s x)))

/-- R67, R72: the removed encodings, and every word whose opcode is unassigned or reserved, are no instruction: whatever
executor issues one, a group, a dispatch or queue program or a copy program, ILLEGAL is raised at the word. A word of the unassigned opcode
0xF6 decodes to such an encoding. -/
def Obligations.RemovedWordsRaiseIllegal : Prop :=
  decode 0xF600_0000_0000_0000 = .ok (.unassignedOpcode 0xF600_0000_0000_0000) ∧
  ∀ (s : State) (x : Ex) (body : BitVec 56) (word : W64), s.cur = some x.who → exOf s x.who = some x → x.held = false →
    exec (.txfetch body) s = .next (raiseOn s x.who { cause := .illegal } x.p.pc) ∧
    exec (.mmaT8 body) s = .next (raiseOn s x.who { cause := .illegal } x.p.pc) ∧
    exec (.unassignedOpcode word) s = .next (raiseOn s x.who { cause := .illegal } x.p.pc)

/-! ### Completions and wakes -/

/-- R58, R178, R182, R189, R216, R217, R223, R329: an outstanding computation completes with its results, a chunk of a bulk copy
whose source is ready lands in every destination, or leaves the imprecise cause of a lost home or of a unit with a wrong tag, a line returns once
its lease is over, and the oldest imprecise cause of a group halts its team. That a bulk copy's source leaves those two causes imprecise, at
the first such unit of the chunk and with nothing of the chunk landed, is the model's choice (log entry 45, DEDUCED). -/
def Obligations.MemoryEventsComplete : Prop :=
  ∀ (s : State) (id i line gid unit : Nat) (ecc : Ecc) (lanes : Mask) (c : MemChoice),
    (∀ o wv ws fl, s.ops.find? (fun o => o.id == id) = some o → o.kind = .alu wv ws fl → awaitsAts s id = false →
      exec (.memoryAccessComplete id lanes c) s = .next (finishAlu s o wv ws fl)) ∧
    (∀ b g, s.bulks.find? (fun b => b.id == id) = some b → i ∈ b.todo → grp? s b.gid = some g → sourceReady s b g.die i = true →
      let units := sourceUnits s b.src (chunkReads b i).1 (chunkReads b i).2
      let lands := fun (e : UnitEcc) (u : State) => exec (.bulkCopyLand id [i] e) s = .next (finishBulks u)
      let late := fun (u : State) (cause : Cause) (off : Nat) =>
        noteLate (chunkDone u b i) g.gid b.pid b.pc { cause, va := b.sva + BitVec.ofNat 64 off, aux := 1 }
      (∀ off p, units.find? (fun u => placeLost s g.die u.2) = some (off, p) → lands { ecc, unit } (late s .homeLost off)) ∧
      ((∀ u ∈ units, placeLost s g.die u.2 = false) →
        (∀ u off, decodeSource ecc unit units s = (u, some off) → lands { ecc, unit } (late u .granule off)) ∧
        (∀ u, decodeSource ecc unit units s = (u, none) → lands { ecc, unit } (landChunk u b g.die g.core i)) ∧
        ((∀ u ∈ units, isHbm u.2 = true → placeGran u.2 = granOf s (placeAddr u.2)) → (∀ z, unitFailed s z = false) →
          lands {} (landChunk s b g.die g.core i)))) ∧
    (∀ l, s.leases.find? (fun l => l.line == line) = some l →
      (leaseOver s l = false → exec (.leaseExpire line) s = .next s) ∧
      (leaseOver s l = true → exec (.leaseExpire line) s = .next (finishOps { s with
        leases := s.leases.filter fun x => x.line != line,
        ops := s.ops.map fun o => { o with leased := o.leased.filter fun x => x.1 != line } }))) ∧
    (∀ g r l, grp? s gid = some g → g.isWalker = false → g.late = r :: l →
      exec (.impreciseFault gid) s = .next (haltTeam (logSecure s g.die r.trap) g.team
        [{ gid := g.gid, code := r.trap.cause.code, pc := r.pc, va := r.trap.va, aux := r.trap.aux, flags := 2 }]))

/-- R228, R229, R252, R253, R258, R265, R278, R327, R329: a wait ends when what it waits for has come: the timeline's value, if its die
answers, the line's change, its home's loss or 2^20 cycles, the stage's state, the ring's accesses and lines, the awaited timeline of a WAITGE packet, an event of
a sleeping thread. R230, R231, R266: a phase that every participant has reached completes: in each participant ARR clears,
PHASE turns over, AB is set when a participant was killed, and its waiting paths go on; a phase that is not complete stays as
it is. R34, R305, R306: a path that has spun, or has been spilled, for its count of cycles is exchanged; a path that waits to
enter a handler enters it as soon as it may. R293, R294: the walker of a core takes the oldest request: the vendor routine
serves it at once, and a routine of the die kernel starts as a group of eight lanes at its header with the request in its
trap registers. The model's choices: the number of the walker's group and a vendor walk of one event (log entry 43), what a `wchg` gives
that times out or loses its home (log entry 44), ties of an exchange, in which slot A's path leaves (log entry 54), and the value that a
timeline of another module announces (log entry 9). -/
def Obligations.WakesAndTurnsComplete : Prop :=
  (∀ (s : State) (gid pid die t qid k j : Nat) (x : Ex),
     (die < 16 → dieUp s die = false → exec (.twaitWake die t) s = .next s) ∧
     (die < 16 → dieUp s die = true →
       exec (.twaitWake die t) s = .next ((groupExecs s ++ unitExecs s).foldl (wakeTwait die t (tlGet s die t)) s)) ∧
     (16 ≤ die → ∃ (v : W64) (u : State), u = { s with freeCtr := u.freeCtr } ∧
       exec (.twaitWake die t) s = .next ((groupExecs u ++ unitExecs u).foldl (wakeTwait die t v) u)) ∧
     (∀ d n want sd sc v, x.p.wait = .twait d n want sd sc →
       (d = die → n = t → want.toNat ≤ v.toNat → wakeTwait die t v s x = endWait s x [(sd, v, false)] (some sc)) ∧
       (d ≠ die ∨ n ≠ t ∨ v.toNat < want.toNat → wakeTwait die t v s x = s)) ∧
     (∀ pl n want sd since acq sc ch, pathEx s gid pid = some x → x.p.wait = .wchg pl n want sd since acq sc ch →
       let stays := leasedAway s x.die pl || placeAbsent s pl || homeSilent s x.die pl || beingSaved s x
       let r := waitRead s x pl n sc ch
       let ends := fun (status : W64) => (Host.Outcome.next (endWait r.2 x [(sd, r.1.1, r.1.2), (sd + 1, status, false)]
         (if acq then some sc else none)) : Host.Outcome State Fault Refusal)
       (placeLost s x.die pl = true → exec (.wchgWake gid pid) s = .next (modPath s x.who x.p.pid fun p => { p with wait := .run })) ∧
       (placeLost s x.die pl = false → stays = true → exec (.wchgWake gid pid) s = .next s) ∧
       (placeLost s x.die pl = false → stays = false →
         (r.1.1 = want → exec (.wchgWake gid pid) s = .next r.2) ∧ (r.1.1 ≠ want → exec (.wchgWake gid pid) s = ends 0)) ∧
       (clk s x.die < since + 2 ^ 20 → exec (.wchgTimeout gid pid) s = .next s) ∧
       (since + 2 ^ 20 ≤ clk s x.die → stays = false →
         (r.1.1 = want → exec (.wchgTimeout gid pid) s = ends 1) ∧ (r.1.1 ≠ want → exec (.wchgTimeout gid pid) s = ends 0))) ∧
     (∀ tm st w g sl sd kk cc n, team? s t = some tm → stage? tm k j = some st → st.st = 0 ∨ st.st = 2 →
       firstWaiter s (s.waiters.filter fun w => w.1 == t && w.2.1 == k && w.2.2.1 == j && waitsIn s (st.st == 2) w) = some w →
       grp? s w.2.2.2.1 = some g → slotOf g w.2.2.2.2.1 = some sl → exOf s (.grp g.gid sl) = some x → x.p.wait = .racq n kk cc sd (st.st == 2) gid →
         exec (.racqGrant t k j) s =
           .next (takeStage { s with waiters := s.waiters.filter fun v => v != w } x tm st k j sd (st.st == 2))) ∧
     (∀ g sl tm st u, grp? s gid = some g → slotOf g pid = some sl → exOf s (.grp gid sl) = some x → x.p.wait = .rrel t k j →
       team? s t = some tm → stage? tm k j = some st →
       (rrelReady s x g st = false → exec (.rrelComplete gid pid) s = .next s) ∧
       (rrelReady s x g st = true → giveStage s x tm st k j = .ok u → exec (.rrelComplete gid pid) s = .next u)) ∧
     (∀ q p va v n u, queue? s die qid = some q → q.packets.find? (fun p => p.waitTl.isSome) = some p → p.waitTl = some (va, v) →
       queueTlValue s q va = some (n, u) →
       (v.toNat ≤ n → exec (.waitgeComplete die qid) s =
         .next (settleQueue (modPacket (modQueue u q.die q.qid fun q => { q with waited := true }) q.die q.qid p.seq
           fun p => { p with waitTl := none }) q.die q.qid)) ∧
       (n < v.toNat → exec (.waitgeComplete die qid) s = .next u)) ∧
     (∀ q sd, qt? s die t = some q → exOf s (.qthr die t) = some x → q.asleep = some sd →
       (q.arrived = 0 → exec (.qsleepWake die t) s = .next s) ∧
       (q.arrived ≠ 0 → exec (.qsleepWake die t) s = .next (advance (modPath (modQt s q.die q.t fun q => { q with events := 0, asleep := none })
         x.who x.p.pid fun p => wrS p sd q.arrived) x)))) ∧
  (∀ (s : State) (tid b : Nat) (t : Team), team? s tid = some t → t.st = .resident → b < 8 →
     let parts := participants s t ((barOf t b).roles.getD 0)
     let aborted := parts.any fun g => t.killed.contains g.gid
     (phaseDone s t b = false → exec (.barrierPhaseComplete tid b) s = .next s) ∧
     (phaseDone s t b = true → exec (.barrierPhaseComplete tid b) s =
       .next (parts.foldl (fun s g => modGrp (acquireNear s g.die g.core) g.gid fun g => wakeBarrier b (endPhase b aborted g))
         (modBar s tid b fun x => { Bar.fresh with phase := !x.phase, aborted }))) ∧
     ∀ (g : Group) (k : Nat) (ab : Bool), k < 64 →
       (endPhase b ab g).barst.getLsbD k =
         (if k = b then false else if k = 8 + b then !g.barst.getLsbD k else if k = 16 + b then g.barst.getLsbD k || ab else g.barst.getLsbD k) ∧
       (wakeBarrier b g).barst = g.barst ∧ ∀ p ∈ (wakeBarrier b g).stack.paths, p.wait ≠ .barrier b) ∧
  (∀ (s : State) (gid pid : Nat) (g : Group), grp? s gid = some g →
     let turned := fun (f : Nat → Stack → Stack) => (Host.Outcome.next (modGrp s gid fun g =>
       { g with stack := f (clk s g.die) (rotateParked (clk s g.die) g.stack) }) : Host.Outcome State Fault Refusal)
     exec (.spinRotation gid) s = turned (fun now k =>
       if spunOut now k.a then exchange now k true else if spunOut now k.b then exchange now k false else k) ∧
     exec (.spillExchange gid) s = turned (fun now k =>
       if (k.rest.filterMap spilledReady).any fun p => decide (p.slotAt + 16384 ≤ now) then exchange now k (yieldsSlotA k) else k) ∧
     (∀ p d, g.stack.paths.find? (fun p => p.pid == pid) = some p → p.pend = some d →
       (∀ t, tryEnter s g p d.trap d.pc d.resume = some t → exec (.trapEntry gid pid) s = .next t) ∧
       (tryEnter s g p d.trap d.pc d.resume = none → exec (.trapEntry gid pid) s = .next (askHandler s g p d.trap)))) ∧
  (∀ (s : State) (die core : Nat) (c : Core) (d : Die) (m : Miss) (rest : List Miss), core? s die core = some c → die? s die = some d →
     c.walk = none → c.missQ = m :: rest →
     let u := modCore s die core fun c => { c with missQ := rest }
     (d.walker = none → exec (.walkerRequest die core) s = .next (vendorWalk u die core m)) ∧
     (∀ h, d.walker = some h → ∃ t g p, exec (.walkerRequest die core) s = .next t ∧ t.groups = s.groups ++ [g] ∧
       core? t die core = some { c with missQ := rest, walk := some m } ∧
       g.gid = die * 64 + core ∧ g.role = none ∧ g.width = 8 ∧ g.die = die ∧ g.core = core ∧ g.stack.a = some p ∧ g.stack.b = none ∧
       p.pc = h ∧ p.atHdr = true ∧ p.mask = 0xFF ∧ g.regs.trapva = m.va ∧ g.regs.trapmask = m.lanes ∧ g.frames.length = 1))

/-! ### Matrix and copy engines -/

/-- R234, R239 to R247: the head operation of a stream runs as far as it goes. R206, R325: one whose rows are done, a tile's clearing
among them, waits for its writes to other modules and then completes: the operations' accesses are released, the stream's timeline takes its
number and the stream goes on to the next. A stream whose operand is at a page that is absent stops there: MRPn names the operation and the operand, and the
group has a MATRIX_FAULT to take. At a boundary the group takes the fault of its lowest stopped stream: it enters the handler,
or waits until it can. MATRIX_STREAM_STOP as the vendor walker's event, and the path that takes the fault, are the model's choice (log entry
17). -/
def Obligations.MatrixEventsComplete : Prop :=
  ∀ (s : State) (die core k gid pid : Nat) (ecc : Ecc),
    (∀ e, engOf s die core k ecc = some e → exec (.matrixOpComplete die core k ecc) s =
      .next (streamRun die core k e.o.num (fun _ => true) ecc e.o.work s)) ∧
    (∀ c o rest g, core? s die core = some c → sget [] c.strm k = o :: rest → grp? s o.gid = some g → o.stopped = false →
      (∀ q ∈ rest, q.num ≠ o.num) → o.rowsDone = true →
      (farOut s (.matrix die core k) = true → exec (.matrixOpComplete die core k ecc) s = .next s) ∧
      (farOut s (.matrix die core k) = false → (∀ ty rm ov sc, o.kind ≠ .mst ty rm ov sc true) ∨ o.signalled = true →
        let v := if o.kind = .mzero then modCore s die core fun c => { c with tiles := sclear (o.zd * 4096) 4096 c.tiles } else s
        let w := tlWrite (releaseBy v die .pkg) die (3776 + 4 * core + k) (BitVec.ofNat 64 o.num)
        exec (.matrixOpComplete die core k ecc) s =
          .next (modCore { w with freshId := w.freshId + 1 } die core
            fun c => { c with strm := sset [] c.strm k (((sget [] c.strm k).drop 1).modifyHead fun o => { o with since := w.freshId }) }))) ∧
    (∀ d, die? s die = some d → (d.walker.isSome = true → exec (.matrixStreamStop die core k) s = .next s) ∧
      (d.walker = none →
        let u := runHead s die core k .clean
        let v := fun (e : Eng) (va : W64) => modCore u die core fun c => { c with missQ := c.missQ.filter fun m => !(m.mat && m.gid == e.o.gid && m.va == va) }
        (∀ e va src t, engOf u die core k .clean = some e → e.o.await = some (va, src) →
          walkLeaf u die (groupPasid u e.g) va = .error (.trap t) → t.cause = .pageFault ∨ t.cause = .firstTouch → e.g.ended = false →
            exec (.matrixStreamStop die core k) s = .next (modGrp (modHead (v e va) die core k fun o =>
                { o with stopped := true, await := none, halt := some (va, BitVec.ofNat 64 t.cause.code) }) e.g.gid fun g =>
              { g with mrp := sset 0 g.mrp k (mrpWord e.o src), mfault := insertFault k va (BitVec.ofNat 64 t.cause.code) g.mfault })) ∧
        (∀ e, engOf u die core k .clean = some e → e.o.await = none → exec (.matrixStreamStop die core k) s = .next s) ∧
        (engOf u die core k .clean = none → exec (.matrixStreamStop die core k) s = .next s))) ∧
    (∀ g p kk va c l, grp? s gid = some g → g.isWalker = false → g.frames = [] → g.mfault = (kk, va, c) :: l →
      (g.stack.a.toList ++ g.stack.b.toList ++ g.stack.paths.filter inTwait).find? (fun p => p.pid == pid) = some p →
      let u := modGrp { s with waiters := s.waiters.filter fun w => !(w.2.2.2.1 == g.gid && w.2.2.2.2.1 == p.pid) } g.gid
        fun g => { g.modPid p.pid (fun p => { p with wait := .run }) with mfault := l }
      let f : Trap := { cause := .matrixFault, va, aux := c ||| BitVec.ofNat 64 (256 * kk), lanes := some p.mask }
      (matrixBoundary p = false → exec (.matrixFault gid pid) s = .next s) ∧
      (matrixBoundary p = true → ∀ g', grp? u g.gid = some g' →
        (∀ t, tryEnter u g' { p with wait := .run } f p.pc p.pc = some t → exec (.matrixFault gid pid) s = .next t) ∧
        (tryEnter u g' { p with wait := .run } f p.pc p.pc = none → exec (.matrixFault gid pid) s =
          .next (modGrp (askHandler u g' { p with wait := .run } f) g'.gid fun g => g.modPid p.pid fun q =>
            { q with wait := .trapping, pend := some { trap := f, pc := p.pc, resume := p.pc, gid := g'.gid, pid := p.pid },
                     denied := [], full := false }))))

/-- R260, R268, R279 to R281, R343: the operation in progress of the copy context that its engine serves completes when all of it
can be performed and otherwise stops at the cause it meets; R206, R325: it does not complete while a write of its own to another module is
not acknowledged; a program starts at its header; the die kernel resumes a context
that a page's absence stopped, or ends a stopped operation with no timeline. The model's choices: a program starts at the level of its
operation (log entry 61), and the engine's accesses are made at user level, row by row (log entry 39). -/
def Obligations.CopyEventsComplete : Prop :=
  ∀ (s : State) (die k : Nat) (ecc : Ecc) (x : CopyCtx) (o : CopyOp), cc? s die k = some x →
    let v := modDie s die fun d => { d with turns := sset 3 d.turns (k / 4) (k % 4) }
    (copyTurn s die k = false → exec (.copyOpComplete die k ecc) s = .next s ∧ exec (.copyFaultStop die k) s = .next s) ∧
    (copyOf s die k = some o → o.kind ≠ .prog →
      (copyTurn s die k = true → ∀ t, copyRun (copOf v x ecc) o.work v = .all t →
        exec (.copyOpComplete die k ecc) s = .next (copyDone t (copOf v x ecc) x o) ∧
        (farOut t (.copy x.die x.k) = true → exec (.copyOpComplete die k ecc) s = .next t)) ∧
      (copyTurn s die k = true → ∀ u t c, copyRun (copOf v x .clean) o.work v = .stop u (.trap t c) →
        exec (.copyFaultStop die k) s = .next (stopCopy t x c (match x.prog with
          | some p => p.pc
          | none => 0)))) ∧
    (copyOf s die k = some o → o.kind = .prog → x.prog = none → copyTurn s die k = true →
      (o.pos = 0 → ∃ t y p, exec (.copyOpComplete die k ecc) s = .next t ∧ cc? t die k = some y ∧ y.prog = some p ∧ p.pc = o.arg 2 ∧
        p.atHdr = true ∧ p.start = o.sys ∧ p.sys = o.sys ∧ rdS p 0 = o.arg 3 ∧ y.ops = x.ops) ∧
      (o.pos ≠ 0 → exec (.copyOpComplete die k ecc) s = .next (copyDone v (copOf v x ecc) x o))) ∧
    (x.ops.head? = some o →
      (canResume x = true → ∃ t y, exec (.copyContextResume die k) s = .next t ∧ cc? t die k = some y ∧
        y.ops = x.ops.modifyHead (fun o => { o with stop := none, since := s.freshId }) ∧ t.mem = s.mem ∧ t.tl = s.tl) ∧
      (canResume x = false → ∃ t, exec (.copyContextResume die k) s = .next t ∧ cc? t die k = some x) ∧
      (o.stop = none → exec (.copyContextAbort die k) s = .next s) ∧
      (o.stop ≠ none → ∃ t y, exec (.copyContextAbort die k) s = .next t ∧ cc? t die k = some y ∧ y.ops = x.ops.drop 1 ∧ y.prog = none ∧
        y.inner = none ∧ y.deadOp = some (x.deadOp.getD o.num) ∧ t.tl = s.tl ∧ t.mem = s.mem))

/-! ### Queues, contexts and the host -/

/-- R255, R257, R268 to R273, R322, R336, R338, R340, R343, R356: kicks and suspect acknowledgements, device registers, the
creation, binding, unbinding and restart of queues, and packets for a guest. That a packet which a restart passes over never completes, and
that the restart writes R_q to RIDXVA, are the model's choice (log entry 29). -/
def Obligations.QueueEventsComplete : Prop :=
  ∀ (s : State) (die qid t seq ridx cap ccx pasid off : Nat) (v header : W64) (desc : List W64) (wide : Bool),
    (∀ q, queue? s die qid = some q →
      let kicked := modQueue s die qid fun q => { q with w := v.toNat, kicked := true }
      (v.toNat = q.w → exec (.kick die qid v) s = .next s) ∧
      (q.w < v.toNat → v.toNat ≤ q.r + q.size →
        exec (.kick die qid v) s = .next (if q.bound.isSome then threadEvent kicked die qid 0 else emit kicked (.supervisorInterrupt die))) ∧
      (v.toNat < q.w ∨ q.w < v.toNat ∧ q.r + q.size < v.toNat →
        exec (.kick die qid v) s = .next (haltQueue (queueRecord s die qid 0x32 0 0 0) die qid))) ∧
    exec (.suspack die qid v) s = .next (suspack s die qid v.toNat) ∧
    (devSizeOk off (if wide then 8 else 4) = true → exec (.deviceRegisterWrite die off wide v) s = .next (devWrite s die off wide v)) ∧
    (devSizeOk off (if wide then 8 else 4) = false → exec (.deviceRegisterWrite die off wide v) s = .next s) ∧
    exec (.mbpop die) s = .next (emit (devRead s die 0x6000000100).2 (.readData (toBytes 8 (devRead s die 0x6000000100).1.toNat) false)) ∧
    (∀ c, dieUp s die = true → qid < 65536 → queue? s die qid = none → ctx? s pasid = some c → goingAway s pasid = false → desc.length = 8 →
      descriptorOk s die pasid desc = true → ∃ u q, exec (.queueCreate die qid pasid desc) s = .next u ∧ u.queues = s.queues ++ [q] ∧
        u = { s with queues := u.queues } ∧ q.die = die ∧ q.qid = qid ∧ q.pasid = pasid ∧ q.ring = word desc 0 ∧
        q.size = bitsOf (word desc 1) 0 32 ∧ q.ridxva = word desc 2 ∧ q.fqva = word desc 3 ∧ q.doneva = word desc 4 ∧
        q.vouchva = word desc 5 ∧ q.irqvalva = word desc 7 ∧ q.w = 0 ∧ q.r = 0 ∧ q.halted = false ∧ q.bound = none ∧ q.packets = []) ∧
    (∀ q th, queue? s die qid = some q → qt? s die t = some th → dieUp s die = true → q.bound = none → th.idle = true → cap ≤ q.prio →
      ccxFree s die ccx q.pasid = true → goingAway s q.pasid = false →
      ∃ u q' th', exec (.queueBind die t qid cap ccx header) s = .next u ∧ queue? u die qid = some q' ∧ qt? u die t = some th' ∧
        q' = { q with bound := some t, cap } ∧ th'.bound = some qid ∧ th'.cap = cap ∧ th'.ccx = ccx ∧ th'.pasid = q.pasid ∧
        (th.path = none → ∃ p, th'.path = some p ∧ p.pc = header ∧ p.sys = true ∧ p.atHdr = true) ∧
        (∀ p, th.path = some p → th'.path = some p ∧ th'.events.getLsbD 7 = true)) ∧
    (∀ th b, qt? s die t = some th → th.bound = some b → exec (.queueUnbind die t) s =
      .next (modQt (modQueue s die b fun q => { q with bound := none }) die t fun th => { th with bound := none, popped := none, events := th.events ||| 0x80 })) ∧
    (∀ q, queue? s die qid = some q → q.halted = true → q.r ≤ ridx → ridx ≤ q.w → goingAway s q.pasid = false →
      let u := modQueue s die qid fun x =>
        { x with halted := false, r := ridx, packets := x.packets ++ (if q.r < ridx then [skipped (q.r + 1)] else []) }
      let w := if q.r < ridx then (tryWrite u q q.ridxva (toBytes 8 ridx)).getD u else u
      exec (.queueRestart die qid ridx) s =
        .next (if ridx = q.w then w else if q.bound.isSome then threadEvent w die qid 0 else emit w (.supervisorInterrupt die))) ∧
    (∀ q p g, openOf s die qid seq 6 = some (q, p) → guest? s (word p.data 0).toNat = some g → g.up = true → g.fenced = false → p.guest = none →
      let k := (word p.data 0).toNat
      exec (.guestPacket die qid seq) s =
        .next (emit (modGuest (modPacket s die qid seq fun p => { p with guest := some k }) k fun g => { g with packets := g.packets ++ [(die, qid, seq)] })
          (.guest k ([BitVec.ofNat 64 q.pasid, BitVec.ofNat 64 seq] ++ payload p))))

/-- R9, R312, R334, R337, R344: a context is created; TEAR halts its queues, ends its teams and copies, waits, shoots down
its translations and starts its quarantine, after which it is forgotten; a function-level reset fails the page requests of its function
and tears every context of it down. The order of a function-level reset, the page requests before the contexts, and a context that is kept
until its quarantine ends are the model's choice (log entry 30). -/
def Obligations.ContextEventsComplete : Prop :=
  ∀ (s : State) (die qid seq pasid fn mode vf port : Nat) (htb : W64),
    (∀ m, modeOf mode = some m → pasid < 2 ^ 20 → ctx? s pasid = none → goingAway s pasid = false → (fnDie s fn).any (dieUp s) = true →
      exec (.contextCreate pasid fn mode htb) s = .next { s with contexts := s.contexts ++
        [{ pasid, fn, mode := m, feat0 := 0xFFF, feat1 := 0, htb, retcnt := 0, retlast := 0 }] }) ∧
    (∀ q p, openOf s die qid seq 7 = some (q, p) → exec (.tear die qid seq) s = .next (tearContext s die qid q.pasid seq)) ∧
    (∀ c, goingAway s pasid = false → ctx? s pasid = some c →
      let u := { s with queues := modWhere s.queues (fun q => q.pasid == pasid) endQueue }
      let v := (teamsOf u pasid).foldl removeTeam u
      let w := askQuiesce { v with launches := v.launches.filter fun l => l.pasid != pasid,
                                   copies := modWhere v.copies (fun c => c.pasid == pasid) abortCopies } pasid
      tearContext s die qid pasid seq =
        tearGoesOn { w with tears := w.tears ++ [{ pasid, die, qid, seq, step := 3, since := w.now, shoot := 0 }] } pasid) ∧
    (∀ t, s.tears.find? (fun t => t.pasid == pasid && t.step == 3) = some t →
      (pasidIdle s pasid = false → s.now < t.since + 1000000 * Config.usCycles → exec (.tearDrainTimeout pasid) s = .next s) ∧
      (pasidIdle s pasid = true ∨ t.since + 1000000 * Config.usCycles ≤ s.now → exec (.tearDrainTimeout pasid) s = .next (tearShoot s t))) ∧
    (∀ q, s.quarantine.find? (fun q => q.1 == pasid) = some q →
      (s.now < q.2 + 1000000 * Config.usCycles → exec (.quarantineEnd pasid) s = .next s) ∧
      (q.2 + 1000000 * Config.usCycles ≤ s.now → exec (.quarantineEnd pasid) s = .next (forget s pasid) ∧ ctx? (forget s pasid) pasid = none)) ∧
    (let d := (fnDie s fn).getD 0
     let u := ((s.pris.filter fun p => p.fn == fn).map fun p => p.id).foldl (fun s id => answerPri s id false) s
     (fnDie s fn).isSome = true →
       exec (.functionLevelReset fn) s =
         .next (((u.contexts.filter fun c => c.fn == fn).map fun c => c.pasid).foldl (fun s p => tearContext s d 0 p 0) u)) ∧
    (vf < 64 → port < 2 → sget 0 s.vfPort vf = 0 → exec (.virtualFunctionAssign vf port) s =
      .next { s with vfPort := sset 0 s.vfPort vf (port + 1), late := sclear (3 * (vf + 2)) 3 s.late })

/-- R25, R26, R29, R50, R261, R312 to R316: a team is admitted at a place that may take it, a COSCHED grid as a whole or not at all, a launch
with a team that has waited 10 ms, from the grid's start or from the team's drop, is held for,
a team whose groups have exited and whose work is performed retires, a request pre-empts the teams on the named cores by the
mode of their contexts, and a team is saved, or dropped and offered again, once nothing of it is outstanding, and resumed, a
COSCHED grid as a whole. The image kept with its team as structured data (log entry 46), and when a COSCHED grid fits and how it comes back
(log entry 40), are the model's choice. -/
def Obligations.TeamEventsComplete : Prop :=
  ∀ (s : State) (lid tid die : Nat) (cores : List Nat) (cl : Cleared) (rest : List (Nat × Nat × List Nat)),
    (∀ l, launch? s lid = some l → l.pk.cosched = false → 0 < pendingTeams l → keptOff s l (nextIndex l) die = false → placeOk s l die cores = true →
      exec (.teamAdmit lid [(die, cores)]) s = .next (placeTeam s l die cores) ∧
      ∃ t, (placeTeam s l die cores).teams = s.teams ++ [t] ∧ t.launch = lid ∧ t.die = die ∧ t.cores = cores ∧ t.st = .resident ∧
        t.smem = [] ∧ t.rings = [] ∧ t.groups = l.pk.groups ∧
        (placeTeam s l die cores).groups.length = s.groups.length + (groupPlan l.pk).length) ∧
    (∀ l, launch? s lid = some l →
      let long := fun (since : Nat) => since + 10000 * Config.usCycles ≤ s.now
      let due := l.reported = false ∧ ((∃ e ∈ l.redo, long e.2) ∨ (l.next < gridTeams l ∧ long l.since))
      (¬due → exec (.admissionWaitExpire lid) s = .next s) ∧
      (due → exec (.admissionWaitExpire lid) s = .next (modLaunch s lid fun l => { l with held := true }))) ∧
    (∀ l places t, launch? s lid = some l → l.pk.cosched = true → 0 < pendingTeams l → places.length = pendingTeams l → leaving s l = false →
      (∀ e ∈ places, keptOff s l (nextIndex l) e.1 = false) →
      places.foldl (fun r e => r.bind fun u => (launch? u lid).bind fun l => if placeOk u l e.1 e.2 then some (placeTeam u l e.1 e.2) else none)
        (some s) = some t → exec (.teamAdmit lid places) s = .next t) ∧
    (∀ l places, launch? s lid = some l → l.pk.cosched = true → places.length ≠ pendingTeams l → exec (.teamAdmit lid places) s = .next s) ∧
    (∀ t, team? s tid = some t → t.onCores = true → (∀ g ∈ s.groups, g.team = tid → g.ended = true) →
      let u := reportStopped s t
      let gs := groupsOf u tid
      (countersZero u gs = false ∨ streamsEmpty u gs = false → exec (.teamRetire tid) s = .next u) ∧
      (countersZero u gs = true → streamsEmpty u gs = true → exec (.teamRetire tid) s =
        .next (gridEnd (modLaunch (dropTeam u tid) t.launch fun l =>
          { l with ended := l.ended + 1, faulted := l.faulted || (team? u tid).any fun t => t.faulted }) t.launch))) ∧
    (let ts := affected s die cl.cores cl.ctx
     exec (.preemptRequest die cl) s =
       .next ((ts.filterMap fun t => (launch? s t.launch).map fun l => l.pasid).dedup.foldl askQuiesce (ts.foldl preemptTeam s))) ∧
    (∀ t l c, team? s tid = some t → launch? s t.launch = some l → ctx? s l.pasid = some c →
      (c.mode = .none → preemptTeam s t = s) ∧
      (c.mode = .discard → l.pk.flags / 8 % 2 ≠ 1 → preemptTeam s t = s) ∧
      (c.mode = .discard → l.pk.flags / 8 % 2 = 1 → preemptTeam s t = if quiet s t.tid then dropAgain s l t
        else modTeam s t.tid fun t => { t with st := if t.st = .resident then .dropping else t.st }) ∧
      (c.mode = .save → preemptTeam s t = modTeam s t.tid fun t => { t with st := if t.st = .resident then .stopping else t.st })) ∧
    (∀ t, team? s tid = some t → t.st = .stopping ∨ t.st = .dropping → quiet s tid = false → (launch? s t.launch).isSome = true →
      exec (.preemptSave tid) s = .next s) ∧
    (∀ t l, team? s tid = some t → t.st = .dropping → launch? s t.launch = some l → quiet s tid = true →
      exec (.preemptSave tid) s = .next (dropAgain s l t)) ∧
    (∀ t, team? s tid = some t → t.st = .stopping →
      let u := releaseBy (stopStreams s t) t.die .pkg
      (quiet s tid = true → countersZero u (groupsOf s tid) = true → (∃ v, team? u tid = some v ∧ v.st = .stopping) →
        exec (.preemptSave tid) s = .next (modTeam (clearSaved u t (groupsOf s tid)) tid fun v =>
          { v with st := .saved v.die, since := u.now, image := (u.groups.filter fun g => g.team == tid).map imageGroup, mat := (imageMatrix u t).1,
                   tiles := (imageMatrix u t).2.1, tpois := (imageMatrix u t).2.2 }))) ∧
    (∀ t l d0 u, team? s tid = some t → t.st = .saved d0 → launch? s t.launch = some l → placeOk s l die cores = true →
      enginesFree s t die cores = true → keptOff s l (teamIndex l t) die = false → resumeOn s t d0 die cores = some u →
        resumeTeam s tid die cores = some u ∧
        (resumeWhole s tid [] = true → exec (.teamResume tid die { cores }) s = .next u)) ∧
    (resumeWhole s tid (rest.map fun e => e.1) = true →
      ∀ u v, resumeTeam s tid die cores = some u → rest.foldl (fun r e => r.bind fun s => resumeTeam s e.1 e.2.1 e.2.2) (some u) = some v →
        exec (.teamResume tid die { cores, rest }) s = .next v) ∧
    (resumeWhole s tid (rest.map fun e => e.1) = false → exec (.teamResume tid die { cores, rest }) s = .next s)

/-- R176, R198, R288, R289, R294, R300, R333 to R335, R344: the host's answers to page and translation requests, a failure among them, its
invalidations, accesses and snoops, and what a die kernel does from a supervisor core. The form of a host access and the lines that a host
is taken to hold (log entry 31), the test of a translated address (log entry 89), and the reach of a supervisor core (log entry 28), are the
model's choice. -/
def Obligations.HostEventsComplete : Prop :=
  ∀ (s : State) (id status fn die core line pasid : Nat) (ok xlat : Bool) (va len leaf : W64) (req : LinkReq) (data : List Byte)
    (op : SupOp),
    (∀ r, s.pris.find? (fun p => p.id == id) = some r → exec (.priResponse id true) s =
      .next (modGrp { s with pris := s.pris.filter fun p => p.id != id } r.gid fun g => g.allPaths.foldl (fun (g : Group) p =>
        if p.wait = .pri id then g.modPid p.pid fun p => { p with wait := .run } else g) g)) ∧
    (∀ r, s.pris.find? (fun p => p.id == id) = some r →
      let u := modGrp { s with pris := s.pris.filter fun p => p.id != id } r.gid fun g => g.allPaths.foldl (fun (g : Group) p =>
        if p.wait = .pri id then g.modPid p.pid fun p => { p with wait := .run } else g) g
      (∀ g p, grp? u r.gid = some g → g.path? r.pid = some p →
        exec (.priResponse id false) s = .next (raiseGroup u g p { cause := .pageFault, va := r.va, aux := 5 } p.pc)) ∧
      ((grp? u r.gid).bind (fun g => g.path? r.pid) = none → exec (.priResponse id false) s = .next u)) ∧
    (s.pris.find? (fun p => p.id == id) = none → exec (.priResponse id ok) s = .next s) ∧
    (∀ a o k sd, s.ats.find? (fun a => a.id == id) = some a → a.use = .instr k sd → s.ops.find? (fun o => o.id == k) = some o →
      let u := { s with ats := s.ats.filter fun a => a.id != id }
      (status < 3 → exec (.atsCompletion id status leaf) s =
        .next (finishAlu u o [] [(sd, if status = 0 then leaf ||| 0x1800000000000000 else 0), (sd + 1, BitVec.ofNat 64 status)] 0)) ∧
      (a.since + 100 * Config.usCycles ≤ s.now → exec (.atsTimeout id) s =
        .next (finishAlu u o [] [(sd, 0), (sd + 1, 3)] 0)) ∧
      (s.now < a.since + 100 * Config.usCycles → exec (.atsTimeout id) s = .next s)) ∧
    (∀ n u, startShoot s ((fnDie s (fnOf s pasid)).getD 0) pasid va len (some pasid) = some (n, u) →
      exec (.atsInvalidationRequest pasid va len) s = .next u) ∧
    (startShoot s ((fnDie s (fnOf s pasid)).getD 0) pasid va len (some pasid) = none →
      exec (.atsInvalidationRequest pasid va len) s =
        .next (modDie s ((fnDie s (fnOf s pasid)).getD 0) fun d => { d with owed := d.owed ++ [(pasid, va, len, some pasid)] })) ∧
    (∀ d, fnDie s fn = some d → dieUp s d = true →
      let mapped := frameMapped s req.addr levels (((die? s d).map fun d => (sget 0 d.ptbase pasid).toNat).getD 0)
      let mine := (lines64 (req.addr % 2 ^ 43) req.len).map fun l => (if d = 0 then 0 else 1, l)
      (∀ p, homePlace s req.addr = some p → isHbm p = true → lent s (placeAddr p) = false →
        (∀ who, who = none ∨ (who = some pasid ∧ xlat = true ∧ (∀ q ∈ s.quarantine, q.1 ≠ pasid) ∧ mapped = true) →
          (req.write = true → exec (.hostCxlAccess fn who { req, xlat }) s =
            .next (writeHome { s with hostHeld := s.hostHeld.filter fun x => !mine.contains x } p (cleanBytes (req.data.take req.len)))) ∧
          (req.write = false → exec (.hostCxlAccess fn who { req, xlat }) s =
            .next (let r := readHome s p req.len
                   emit { r.2 with hostHeld := (mine ++ r.2.hostHeld).dedup } (.readData (r.1.map fun e => e.1) (r.1.any fun e => e.2)))))) ∧
      (xlat = true → (∀ q ∈ s.quarantine, q.1 ≠ pasid) → mapped = false →
        (∀ q, lowestQueue s d pasid = some q → exec (.hostCxlAccess fn (some pasid) { req, xlat }) s =
          .next (queueRecord s d q 0x10 0 (BitVec.ofNat 64 req.addr) 0)) ∧
        (lowestQueue s d pasid = none → exec (.hostCxlAccess fn (some pasid) { req, xlat }) s = .next s)) ∧
      ((∃ q ∈ s.quarantine, q.1 = pasid) → req.write = true → exec (.hostCxlAccess fn (some pasid) { req, xlat }) s =
        .next (lateDrop s fn pasid xlat (BitVec.ofNat 64 req.addr)))) ∧
    (let held := line ∈ s.hostCache
     let gone := { s with hostCache := s.hostCache.filter fun l => l != line }
     (held → exec (.hostSnoop line .read) s = .next (emit s (.snoopData line)) ∧
       exec (.hostSnoop line .invalidate) s = .next (emit gone (.snoopData line)) ∧
       exec (.hostSnoop line (.write data)) s = .next (emit { gone with hostMem := ssetN 0 s.hostMem (line * 64) (data.take 64) } (.snoopData line))) ∧
     (¬held → exec (.hostSnoop line .read) s = .next s ∧ exec (.hostSnoop line .invalidate) s = .next s ∧
       exec (.hostSnoop line (.write data)) s = .next { s with hostMem := ssetN 0 s.hostMem (line * 64) (data.take 64) })) ∧
    (dieUp s die = true → core < 64 → exec (.supervisorCoreAccess die core op) s = .next (supOp s die op)) ∧
    (supOp s die .fence = acquirePkg (releaseBy s die .pkg) die ∧
      ∀ (p : Nat) (v : W64), supOp s die (.setPtbase p v) = modDie s die (fun d => { d with ptbase := sset 0 d.ptbase p v }) ∧
        supOp s die (.setPoolbase v) = modDie s die (fun d => { d with poolbase := v }) ∧
        supOp s die (.setWalker (some v)) = modDie s die (fun d => { d with walker := some v }))

/-! ### Quadrille, links, guests, Pavane, power, boot and management -/

/-- R295, R298, R299, R327, R328, R346 to R348, R352, R353: what a die does with the next message that reaches it, in the one
order of Quadrille, and the heartbeats and losses that it announces. The model's choices: a die keeps the time of its own last heartbeat (log
entry 47), an acknowledgement or a COMMIT that finds the rings full waits (log entry 28), and a COMMIT waits for the accesses that use what it
removes (log entry 42). -/
def Obligations.MessageEventsComplete : Prop :=
  ∀ (s v : State) (die silent sender : Nat) (d : Die) (m : List W64), die? s die = some d → d.lost = false →
    let u := acquirePkg (modDie s die fun d' => { d' with qpos := d.qpos + 1 }) die
    let id := (word m 3).toNat
    let own := (s.quad.take (d.qpos + 1)).any fun m => msgKind m.2 == 6 && msgDie m.2 == die
    (own = true → ∀ i ∈ [Instr.map die, .prepare die, .commit die, .ack die, .alloc die, .dieDown die, .heartbeat die, .conn die, .route die,
      .dieKernelMessage die], exec i s = .next s) ∧
    (s.quad[d.qpos]? = some (sender, m) → own = false → discarded s d.qpos sender = false →
      (msgKind m = 1 → id = 0 → exec (.map die) s =
        .next (modDie (writeReplica u die (msgPasid m) (msgByte m) (word m 1) (word m 2)) die fun d =>
          { d with given := d.given.filter fun p => p != (msgPasid m, (word m 1).toNat / levelBytes (msgByte m)) })) ∧
      (msgKind m = 1 → id ≠ 0 → exec (.map die) s =
        .next (modDie u die fun d => { d with held := d.held ++ [(id, msgPasid m, msgByte m, word m 1, word m 2)] })) ∧
      (msgKind m = 2 → quadSend (prepareAt u die sender m) die (ackMsg die 2 id) = some v → exec (.prepare die) s = .next v) ∧
      (msgKind m = 2 → quadSend (prepareAt u die sender m) die (ackMsg die 2 id) = none → exec (.prepare die) s = .next s) ∧
      (msgKind m = 3 → entryInUse u die none (fun t => t.marks.contains id) (allTlbs u die) = false →
        (quadSend (commitAt u die id) die (ackMsg die 3 id) = some v → exec (.commit die) s = .next v) ∧
        (quadSend (commitAt u die id) die (ackMsg die 3 id) = none → exec (.commit die) s = .next s)) ∧
      (msgKind m = 3 → entryInUse u die none (fun t => t.marks.contains id) (allTlbs u die) = true → exec (.commit die) s = .next s) ∧
      (msgKind m = 4 → exec (.ack die) s = .next (shootCheck (modShoot u id fun h =>
        if h.sender = die ∧ h.phase = msgByte m then { h with acks := (msgDie m :: h.acks).dedup } else h) id)) ∧
      (msgKind m = 5 → exec (.alloc die) s = .next (allocAt u die (msgPasid m) (word m 1))) ∧
      (msgKind m = 6 → exec (.dieDown die) s = .next (dieDownAt u die d.qpos (msgDie m))) ∧
      (msgKind m = 7 → exec (.heartbeat die) s = .next (modDie u die fun d => { d with beats := sset 0 d.beats (msgDie m) u.now })) ∧
      (∀ e, msgKind m = 8 → die? u die = some e →
        let t := sset 0 e.conn (msgByte m) (word m 1 &&& ~~~ 0xFF00000000#64)
        exec (.conn die) s = .next (if connOk u die t then modDie u die fun d => { d with conn := t } else u)) ∧
      (msgKind m = 9 → exec (.route die) s =
        .next (modDie u die fun d => { d with routes := sset 0 d.routes ((word m 1).toNat % 8192) (word m 2) })) ∧
      (msgKind m = 0 ∨ 9 < msgKind m → exec (.dieKernelMessage die) s = .next u)) ∧
    (s.quad[d.qpos]? = some (sender, m) → own = false → discarded s d.qpos sender = true → msgKind m = 7 → exec (.heartbeat die) s = .next u) ∧
    (s.quad[d.qpos]? = none → exec (.heartbeat die) s = .next s) ∧
    (sget 0 d.beats (16 + die) + 1000 * Config.usCycles ≤ s.now → quadSend s die (msg8 (msgHead 7 0 0 die) 0 0 0) = some v →
      exec (.heartbeatSend die) s = .next (modDie v die fun d => { d with beats := sset 0 d.beats (16 + die) v.now })) ∧
    (s.now < sget 0 d.beats (16 + die) + 1000 * Config.usCycles → exec (.heartbeatSend die) s = .next s) ∧
    (die ≠ silent → dieUp s silent = true → sget 0 d.beats silent + 10000 * Config.usCycles ≤ s.now →
      let gone := stopDie s silent
      dieUp gone silent = false ∧
      (quadSend gone die (downMsg silent) = some v → exec (.heartbeatTimeout die silent) s = .next v) ∧
      (quadSend gone die (downMsg silent) = none → exec (.heartbeatTimeout die silent) s =
        .next (modDie gone die fun d => { d with unsent := d.unsent ++ [downMsg silent] }))) ∧
    (s.now < sget 0 d.beats silent + 10000 * Config.usCycles → exec (.heartbeatTimeout die silent) s = .next s) ∧
    (let gone := stopDie s die
     dieUp gone die = false ∧
     (quadSend gone die (downMsg die) = some v → exec (.dieFatalError die) s = .next v) ∧
     (quadSend gone die (downMsg die) = none → exec (.dieFatalError die) s =
       .next (modDie gone die fun d => { d with unsent := d.unsent ++ [downMsg die] })))

/-- R166, R167, R325, R326, R332, R344, R350, R355 to R357: transactions between dies and modules (reads, writes and atomics), refusals of an
address, and their answers, the failures of their circuits, and the guests' links, accesses, reports and breaches of duty. The numbers of
link records, how a flit is told from another and which failures a circuit counts (log entry 32), and duty 1 as the breach of an access of a context that is not bound (log entry 33), are the
model's choice. -/
def Obligations.LinkAndGuestEventsComplete : Prop :=
  ∀ (s : State) (src die tag circuit k pasid seq id vendor engines atc : Nat) (va : W64) (saved w : Bool) (req : LinkReq) (ans : Reply)
    (rec : List W64),
    (dieUp s die = true →
      let by' := arrivesBy s src die req.via
      let u := match by' with
        | some c => { s with circuits := sset 0 s.circuits (linkKey 1 0 c) 0 }
        | none => s
      let who := if req.via.isSome then 16 + src else src
      let before := u.linkDone.find? fun e => e.1 == who && e.2.1 == tag
      (∀ e, before = some e → exec (.linkTransaction src die tag req true) s = .next (emit u (.linkAck tag e.2.2.1 e.2.2.2))) ∧
      (before = none → linkPlace u req.addr = none → exec (.linkTransaction src die tag req true) s = .next (emit u (.linkRefuse tag 1))) ∧
      (∀ p, before = none → linkPlace u req.addr = some p → devRefuses p req = true →
        exec (.linkTransaction src die tag req true) s = .next (emit u (.linkRefuse tag 0))) ∧
      (∀ p, before = none → linkPlace u req.addr = some p → devRefuses p req = false →
        (servingDie p ≠ die ∨ lent u (placeAddr p) = true → exec (.linkTransaction src die tag req true) s = .next u) ∧
        (servingDie p = die → lent u (placeAddr p) = false →
        let r := readPlace u die 64 p req.len .sys 0 plainChoice
        let old := r.1.map fun e => e.1
        (req.write = true → exec (.linkTransaction src die tag req true) s =
          .next (let t := writePlace u die 64 p (cleanBytes (req.data.take req.len)) .sys 0 plainChoice
                 emit { t with linkDone := (who, tag, [], false) :: t.linkDone } (.linkAck tag [] false))) ∧
        (req.write = false → req.rmw = none → exec (.linkTransaction src die tag req true) s =
          .next (emit r.2 (.linkAck tag old (r.1.any fun e => e.2)))) ∧
        (∀ v, req.write = false → req.rmw.isSome = true → (∀ e ∈ r.1, e.2 = false) → rmwNew req (ofBytes old) = some v →
          exec (.linkTransaction src die tag req true) s =
            .next (let t := writePlace r.2 die 64 p (cleanBytes (toBytes req.len v)) .sys 0 plainChoice
                   emit { t with linkDone := (who, tag, old, false) :: t.linkDone } (.linkAck tag old false))))) ∧
      (by' = none → exec (.linkTransaction src die tag req false) s =
        .next (emit (logFlight s die 0x21 4 0 src tag) (.linkAgain tag))) ∧
      (∀ c, by' = some c →
        let t := emit (logFlight s die 0x21 4 c src tag) (.linkAgain tag)
        (sget 0 s.circuits (linkKey 1 0 c) < 7 → exec (.linkTransaction src die tag req false) s =
          .next { t with circuits := sset 0 t.circuits (linkKey 1 0 c) (sget 0 t.circuits (linkKey 1 0 c) + 1) }) ∧
        (7 ≤ sget 0 s.circuits (linkKey 1 0 c) → exec (.linkTransaction src die tag req false) s =
          .next (tearCircuit { t with circuits := sset 0 t.circuits (linkKey 1 0 c) 0 } die c))) ∧
      (∀ d flit, die? s die = some d → connV (sget 0 d.conn circuit) = true →
        let v := flitSeen s die circuit flit
        let n := sget 0 v.circuits (linkKey 0 die circuit)
        let i := Instr.flitReplay die { circuit, flit }
        (n < 8 → exec i s = .next { v with circuits := sset 0 v.circuits (linkKey 0 die circuit) (n + 1) }) ∧
        (8 ≤ n → exec i s = .next (tearCircuit (logFlight
          { v with circuits := sset 0 v.circuits (linkKey 0 die circuit) 0 } die 0x20 4 circuit circuit 0) die circuit)) ∧
        (sget 0 s.circuits (linkKey 3 die circuit) = flit + 1 → v = s) ∧
        (sget 0 s.circuits (linkKey 3 die circuit) ≠ flit + 1 → n = 0))) ∧
    ((s.links.find? (fun t => t.tag == tag) = none → exec (.transactionAck tag ans) s = .next s) ∧
     (∀ t, s.links.find? (fun t => t.tag == tag) = some t → t.torn s = true → exec (.transactionAck tag ans) s = .next s) ∧
     (∀ t, s.links.find? (fun t => t.tag == tag) = some t → t.torn s = false → ans.crcOk = false →
       exec (.transactionAck tag ans) s = .next (badCrc s t.circuit t.dst t.die tag)) ∧
     ∀ t, s.links.find? (fun t => t.tag == tag) = some t → t.torn s = false → ans.crcOk = true →
       let u := goodCrc s t.circuit
       let kept := { u with links := u.links.filter fun t => t.tag != tag }
       (t.acc = none → exec (.transactionAck tag ans) s = .next (workDone kept t.work)) ∧
       ∀ c o a, t.acc = some c → s.ops.find? (fun o => o.id == c.1) = some o → o.todo.find? (fun a => a.lane == c.2.1 && a.va == c.2.2) = some a →
         (o.kind.reads = true → o.kind.writes = true → ans.bad = true → exec (.transactionAck tag ans) s =
           .next (workDone (raiseOp (accDone kept o a) o { cause := .poison, va := a.va }) t.work)) ∧
         (o.kind.writes = false ∨ ans.bad = false → ordAcq o.ord = false → exec (.transactionAck tag ans) s =
           .next (workDone (finishOps (if o.kind.reads then setDest (accDone kept o a) o a (ans.data.map fun b => (b, ans.bad)) else accDone kept o a))
             t.work))) ∧
    (∀ d, die? s die = some d →
      let e := sget 0 d.conn circuit
      let before := sget 0 s.circuits (linkKey 2 0 circuit)
      (before = 0 → exec (.rerouteReadTimeout die circuit) s = .next s) ∧
      (before ≠ 0 → connOpt e = true → exec (.rerouteReadTimeout die circuit) s =
        .next ((s.links.filter fun x => x.die == die && x.circuit == some circuit && x.torn s).foldl poisonTx s)) ∧
      (before ≠ 0 → connOpt e = false → exec (.rerouteReadTimeout die circuit) s =
        .next (((if endsOn die e then [farEnd e die] else []) ++
          (List.range 12).filter fun b => b != die && relayedOver d.conn die b (connSrc e) (connDst e)).foldl
            (fun s far => poisonReads s die far before) s))) ∧
    (∀ g, guest? s k = some g → g.heard = false → dieUp s (socketDie k) = true → exec (.guestLinkUp k vendor engines atc 1) s =
      .next (modGuest s k fun g => { g with up := true, held := false, vendor, engines, atc, bound := [], packets := [], waits := [],
                                            quiesce := [], retrained := true })) ∧
    exec (.guestFenceLift k) s = .next (modGuest s k fun g => if g.retrained then { g with fenced := false } else g) ∧
    (∀ g, guest? s k = some g → g.heard = true →
      let fenced := fun (duty : Nat) => (Host.Outcome.next (fenceGuest s k duty) : Host.Outcome State Fault Refusal)
      (∀ c, ctx? s pasid = some c → goingAway s pasid = false → g.bound.contains pasid = false →
        exec (.guestContextBind k pasid) s = .next (modGuest s k fun g => { g with bound := g.bound ++ [pasid] })) ∧
      ((s.quarantine.any fun q => q.1 == pasid) = false →
        (g.bound.contains pasid = false → exec (.guestAccess k pasid va true req) s = fenced 1) ∧
        exec (.guestAccess k pasid va false req) s = fenced 1 ∧
        (g.bound.contains pasid = true → guestPlace s k pasid va req = none → exec (.guestAccess k pasid va true req) s = fenced 1) ∧
        (∀ p t, g.bound.contains pasid = true → guestPlace s k pasid va req = some (p, t) → lent s (placeAddr p) = false →
          homeSilent s (socketDie k) p = false → exec (.guestAccess k pasid va true req) s = .next (guestPerform t k p req))) ∧
      ((s.quarantine.any fun q => q.1 == pasid) = true → req.write = true → exec (.guestAccess k pasid va true req) s =
        .next (lateDrop s (fnOf s pasid) pasid true (BitVec.ofNat 64 req.addr))) ∧
      (g.bound.contains pasid = true → goingAway s pasid = false → exec (.guestAtsRequest k pasid va w) s =
        .next (let r := guestTranslation s k pasid va w
               emit r.2.2 (.atsAnswer k r.1 r.2.1))) ∧
      (∀ p, g.packets.find? (fun p => p.2.2 == seq) = some p → exec (.gdone k seq) s = .next (guestDone s k p.1 p.2.1 seq)) ∧
      (g.packets.find? (fun p => p.2.2 == seq) = none → exec (.gdone k seq) s = fenced 5) ∧
      (∀ e, reportOk rec = true → reportQueue s g rec = some e →
        exec (.guestFaultReport k rec) s = .next (writeRecord s e.1 e.2 (reportOf rec))) ∧
      (reportOk rec = false → exec (.guestFaultReport k rec) s = fenced 3) ∧
      ((∃ n ∈ g.waits, n.1 = id) → exec (.guestAtcAck k id) s =
        .next (shootCheck (modShoot (modGuest s k fun g => { g with waits := g.waits.filter fun w => w.1 != id }) id fun h =>
          { h with gacks := (k :: h.gacks).dedup }) id)) ∧
      ((∃ n ∈ g.waits, n.2 + 10 * Config.usCycles ≤ s.now) → exec (.guestAtcTimeout k) s = fenced 2) ∧
      ((∀ n ∈ g.waits, s.now < n.2 + 10 * Config.usCycles) → exec (.guestAtcTimeout k) s = .next s) ∧
      exec (.guestQuiesceReport k saved) s = .next (modGuest s k fun g => { g with quiesce := g.quiesce.drop 1 }) ∧
      ((∃ t ∈ g.quiesce, t.2 + 100 * Config.usCycles ≤ s.now) → exec (.guestQuiesceTimeout k) s = fenced 4) ∧
      ((∀ t ∈ g.quiesce, s.now < t.2 + 100 * Config.usCycles) → exec (.guestQuiesceTimeout k) s = .next s))

/-- R17, R18, R303, R317 to R323, R332, R358: a block changes world, Pavane drains, asks, skips, scans and judges a core, a
core returns, and clocks are gated or stopped. The model's choices: a scan that passes clears the fold of a folded core, and one that finds
only the folded lane unsound passes and keeps it, where R323 has the fold persist until a scan finds the lane sound and has the scans of a
folded core test the remaining lanes (log entry 25, DEDUCED, unsafe); and a gate stops at 15 sixteenths (log entry 65). -/
def Obligations.ScanAndPowerEventsComplete : Prop :=
  ∀ (s : State) (die core temp : Nat) (b : Block) (sec : Bool) (d : Die), die? s die = some d → d.lost = false →
    (s.secure.contains b = sec → exec (.worldChange b sec) s = .next s) ∧
    (s.secure.contains b ≠ sec → exec (.worldChange b sec) s = .next (let t := stopBlock s b
      { t with secure := if sec then b :: t.secure else t.secure.filter fun x => x != b })) ∧
    (∀ c, d.pavPhase = .idle → nextVisit s die d.pavCore = some c →
      exec (.pavaneDrainStart die) s = .next (setPavane (setCore s die c .draining) die c .drain)) ∧
    (d.pavPhase = .drain → coreEmpty s die d.pavCore = false → d.pavAt + 4000 * Config.usCycles ≤ s.now →
      exec (.pavaneDrainTimeout die) s = .next (setPavane (preempt s die [d.pavCore] none) die d.pavCore .asked)) ∧
    (d.pavPhase = .drain → s.now < d.pavAt + 4000 * Config.usCycles → exec (.pavaneDrainTimeout die) s = .next s) ∧
    (d.pavPhase = .asked → coreEmpty s die d.pavCore = false → d.pavAt + 100000 * Config.usCycles ≤ s.now → exec (.pavaneSkip die) s =
      .next (leaveCore (logFlight s die 0x03 0 d.pavCore (scanOf s die d.pavCore) 0) die d.pavCore .inService)) ∧
    (d.pavPhase = .drain ∨ d.pavPhase = .asked → coreEmpty s die d.pavCore = true → exec (.pavaneScanStart die) s =
      .next (setPavane (modCore s die d.pavCore fun c => { c with st := .scanning, scan := c.scan + 1 }) die d.pavCore .scan)) ∧
    (∀ c, d.pavPhase = .scan → core? s die d.pavCore = some c →
      exec (.pavaneScanResult die .pass) s = .next (leaveCore (scanPass s c none) die d.pavCore .inService) ∧
      (∀ p, c.fold = none → exec (.pavaneScanResult die (.failLane p)) s =
        .next (leaveCore (scanFail s c (some p) true) die d.pavCore .inService)) ∧
      (∀ p, c.fold = some p → exec (.pavaneScanResult die (.failLane p)) s =
        .next (leaveCore (scanPass s c (some p)) die d.pavCore .inService)) ∧
      (∀ p q, c.fold = some q → q ≠ p → exec (.pavaneScanResult die (.failLane p)) s =
        .next (leaveCore (scanFail s c (some p) false) die d.pavCore .out)) ∧
      exec (.pavaneScanResult die .failOther) s = .next (leaveCore (scanFail s c none false) die d.pavCore .out)) ∧
    (∀ c, core? s die core = some c → c.st = .out → exec (.coreReturn die core) s = .next (setCore s die core .inService)) ∧
    (d.gate < 15 →
      let t := logFlight (modDie s die fun x => { x with gate := x.gate + 1 }) die 0x40 8 0 (d.gate + 1) s.limit
      exec (.gateStep die) s = .next t ∧ exec (.thermalGate die) s = .next t) ∧
    (temp < 115 → exec (.thermalTrip die temp) s = .next s) ∧
    (115 ≤ temp → die < 12 → s.stopped = false → ∃ t, exec (.thermalTrip die temp) s = .next t ∧ t.stopped = true ∧ t.mem = s.mem ∧ t.groups = s.groups ∧
      t.outbox = s.outbox ++ [.thermalTrip])

/-- R17, R182, R323, R330, R359 to R362: resets and what survives them, the boot of each die with the requests of its ROM, its failures and
the start record, fuses, and the answers of the management interface; what other standards decide of an answer is a free value (log entry 5),
and the key derivation and SPDM are functions that the model leaves open, while SHAKE256 and Ed448 are those of their standards, which the
spec names and does not write out (log entry 76, PRESUMED). The model's choices: the limit 8200 at
reset (log entry 3), what a warm reset keeps (log entry 26), STAGE and REASON of a failure and kind 2 of PLDM (log entry 34), and the layout of
an image, the handling of the record's requests and the mode in which dies start until the record is read (log entry 75). -/
def Obligations.BootAndManagementEventsComplete : Prop :=
  ∀ (s : State) (die kind watts seq count image offset : Nat) (img : BootImage) (bytes : List Byte) (rec : W64) (slot : Nat) (h : List Byte) (ver : Nat),
    let answered := fun (t : State) (b : List Byte) => { t with outbox := t.outbox ++ [Out.mctp b] }
    (∃ t, exec .coldReset s = .next t ∧ t.die0Only = false ∧ t.mem = [] ∧ t.tl = [] ∧ t.contexts = [] ∧ t.queues = [] ∧ t.teams = [] ∧ t.groups = [] ∧
      t.dies = State.reset.dies ∧ t.cores = State.reset.cores ∧ t.bootwhy = s.bootwhy ∧ t.fuses = s.fuses ∧ t.limit = State.reset.limit) ∧
    (∃ t, exec .warmReset s = .next t ∧ t.mem = s.mem ∧ t.pois = s.pois ∧ t.fmt = s.fmt ∧ t.tl = s.tl ∧ t.l2bad = s.l2bad ∧ t.limit = s.limit ∧ t.die0Only = s.die0Only ∧ t.contexts = [] ∧
      t.queues = [] ∧ t.teams = [] ∧ t.groups = [] ∧ t.bootwhy = s.bootwhy ∧ t.dies = s.dies.map warmDie ∧ t.cores = s.cores.map warmCore) ∧
    (∀ d, die? s die = some d → d.lost = false →
      (∀ st n, (st = BootSt.rom ∧ n = 1) ∨ (st = BootSt.firmware ∧ n = 2) → d.boot = st → img.stage = n → d.whole = true →
        let tested := st = .rom → img.selfTest = true ∧ img.linkTrain = true
        let sound := img.hash = shake256 64 d.image ∧ keyFails s.fuses (shake256 64 img.key) = none ∧
          ed448Verify img.key d.image img.signature = true ∧ s.fuses.version ≤ img.version
        (imageFails s.fuses st d.image img = none ↔ tested ∧ sound) ∧
        exec (.bootRomStart die img) s = .next (match imageFails s.fuses st d.image img with
          | some e => startFails s die e.1 e.2
          | none => modDie { s with measured := s.measured ++ [shake256 64 d.image] } die fun x =>
              { x with boot := bootNext x.boot, want := if x.boot = .rom then [.readImage 2 0] else [], image := [], whole := false, asks := 0,
                       bootAt := s.now })) ∧
      (d.whole = false → exec (.bootRomStart die img) s = .next s) ∧
      (d.asks = 0 ∨ s.now < d.bootAt + 1000000 * Config.usCycles → exec (.bootRequestTimeout die) s = .next s) ∧
      (d.asks ≠ 0 → d.bootAt + 1000000 * Config.usCycles ≤ s.now →
        (∀ r l, d.want = r :: l → d.asks < 4 → exec (.bootRequestTimeout die) s =
          .next (emit (modDie s die fun x => { x with asks := x.asks + 1, bootAt := s.now }) (.bootRequest die r s.bootwhy))) ∧
        (4 ≤ d.asks → d.boot ≠ .failed → exec (.bootRequestTimeout die) s = .next (startFails s die (bootStage d.boot) 4)) ∧
        (4 ≤ d.asks → d.boot = .failed → exec (.bootRequestTimeout die) s = .next (wantNext s die (d.want.drop 1)))) ∧
      (30000000 * Config.usCycles ≤ s.now → d.boot ≠ .ready → d.boot ≠ .failed →
        exec (.bootReadyTimeout die) s = .next (startFails s die 2 4)) ∧
      (d.boot = .kernel →
        let t := modDie s die fun d => { d with boot := .ready }
        ((∀ e ∈ t.dies, e.lost = true ∨ e.boot = .ready) → exec (.dieKernelReady die) s = .next (wantNext { t with
          bootwhy := t.bootwhy &&& ~~~ 0xF0#64, attKey := Config.deriveKey t.fuses.identity t.measured } 0 [.putRecord])) ∧
        ((∃ e ∈ t.dies, e.lost = false ∧ e.boot ≠ .ready) → exec (.dieKernelReady die) s = .next t)) ∧
      (0 < count → count ≤ 16 → exec (.readFr die seq count) s =
        .next (answered s (0 :: ((d.flight.filter fun r => decide (seq ≤ r.seq)).take count).flatMap FlightRec.bytes)))) ∧
    (let more := modDie s die fun d => { d with image := d.image ++ bytes, whole := decide (bytes.length < 4096) }
     (4096 < bytes.length ∨ asked s die (.readImage image offset) = false → exec (.readImage die image offset bytes) s = .next s) ∧
     (bytes.length = 4096 → asked s die (.readImage image offset) = true →
       exec (.readImage die image offset bytes) s = .next (wantNext more die [.readImage image (offset + 4096)])) ∧
     (bytes.length < 4096 → asked s die (.readImage image offset) = true →
       exec (.readImage die image offset bytes) s = .next (bootAnswered more die))) ∧
    (asked s 0 .getRecord = false → exec (.getStartRecord rec) s = .next s) ∧
    (asked s 0 .getRecord = true →
      let t := { bootAnswered s 0 with bootwhy := rec &&& 0xF0FFFFF1#64 }
      exec (.getStartRecord rec) s = .next (if rec.getLsbD 0 then onlyDie0 t else t)) ∧
    (asked s 0 .putRecord = false → exec .putStartRecord s = .next s) ∧
    (asked s 0 .putRecord = true → exec .putStartRecord s = .next { bootAnswered s 0 with startRec := s.bootwhy }) ∧
    exec (.fuseBlow .ownerOnly) s = .next { s with fuses := { s.fuses with ownerOnly := true } } ∧
    exec (.fuseBlow (.rollback ver)) s = .next { s with fuses := { s.fuses with version := max ver s.fuses.version } } ∧
    (slot = 1 ∨ slot = 2 → sget [] s.fuses.owners slot = [] →
      exec (.fuseBlow (.ownerKey slot h)) s = .next { s with fuses := { s.fuses with owners := sset [] s.fuses.owners slot h } }) ∧
    (exec .minimalClear s = .next (clearMinimalBit s) ∧ exec .clearMinimal s = .next (answered (clearMinimalBit s) [0]) ∧
      (clearMinimalBit s).bootwhy.getLsbD 0 = false) ∧
    exec .readBootwhy s = .next (answered s (0 :: toBytes 8 s.bootwhy.toNat)) ∧ exec .getLimit s = .next (answered s (0 :: toBytes 4 s.limit)) ∧
    (4000 ≤ watts → watts ≤ 8200 → exec (.setLimit watts) s = .next (answered { s with limit := watts } [0])) ∧
    (watts < 4000 ∨ 8200 < watts → exec (.setLimit watts) s = .next (answered s [1])) ∧
    exec (.pldmRequest 2 die) s = .next (answered s (toBytes 4 s.limit)) ∧
    (let open' := answered { s with freeCtr := s.freeCtr + 1 } (Config.attest s.freeCtr)
     exec (.mctpControl bytes) s = .next open' ∧ exec (.spdmRequest bytes) s =
       .next (answered { s with freeCtr := s.freeCtr + 1 } (Config.spdm s.attKey s.fuses.chain s.measured bytes s.freeCtr)) ∧ (kind ≠ 2 → exec (.pldmRequest kind die) s = .next open'))

/-! ### Words, steps and reset -/

/-- R56, R61 to R66: decoding the word of a well-formed instruction gives the instruction back, with every operand at every
value that the encoding admits. -/
def Obligations.DecodeOfEncode : Prop :=
  ∀ (i : Instr) (w : W64), WellFormed i → encode i = some w → decode w = .ok i

/-- R56, R61 to R66, R68 step 1: a word that decodes gives a well-formed instruction whose own word it is; no bit of it is
passed over, and no two words mean the same instruction. -/
def Obligations.EncodeOfDecode : Prop :=
  ∀ (w : W64) (i : Instr), decode w = .ok i → WellFormed i ∧ encode i = some w

/-- Words that the spec works out by hand (chapters 9, 11, 17, 19 and 23) decode to the instructions that they stand for. -/
def Obligations.WorkedWordsDecode : Prop :=
  decode 0x2500_0084_1804_0002 = .ok (.scmp .i32 .lt 1 2 3) ∧
  decode 0x0100_0482_FFFF_FFF4 = .ok (.br (.nz 9) 0xFFFFFFF4) ∧
  decode 0x3000_00E0_E040_0001 = .ok (.vadd ⟨0, false, false, 0, false⟩ .i8 7 7 2 true) ∧
  decode 0x6304_0120_6141_2401 = .ok (.vffma ⟨0, false, true, 0, false⟩ .f32 9 3 10 9 .rtz) ∧
  decode 0x8B00_0040_0C0A_4008 = .ok (.vscan false .add .i32 6 5 2 true) ∧
  decode 0x9400_0100_7FB0_0001 = .ok (.lds 0 ⟨8, 0, 0xFF, .b64, .weak, .plain, 0, false, 0, 1⟩) ∧
  decode 0xB000_0000_0006_0304 = .ok (.fence .die 0b0000010 0b0000011) ∧
  decode 0xC600_000A_3800_0032 = .ok (.rinit 2 3 5 7) ∧
  decode 0xD100_0004_2000_0034 = .ok (.qack 2 4 0x34 false) ∧
  decode 0xE400_0018_6800_0007 = .ok (.ovld 12 13 7)

/-- R52, R67, R68, R191: a step runs what the schedule names. An executor that may issue and has no cause to take executes
the instruction of the word at its pc, a word that is no instruction is ILLEGAL there, a fetch whose translation or home does not answer
yet waits, and a path that stands at a header
runs the header; an event of the table is executed, and an empty schedule is filled by the default one (the schedule is the
model's own, log entry 2). -/
def Obligations.StepRunsDecoded : Prop :=
  ∀ (s : State) (rest : List Sched),
    (∀ (e : Issuer) (x : Ex), s.agenda = .issue e :: rest →
      let u := { s with agenda := rest }
      exOf u e = some x → mayIssue u x = true →
        (∀ (w : W64) (v : State), boundary u x = none → x.p.atHdr = false → x.held = false → fetchWord u x = .ok (w, v) →
          (∀ i, decode w = .ok i → step s = exec i { v with cur := some x.who }) ∧
          (∀ r, decode w = .error r → step s = .next (raiseOn v x.who { cause := .illegal } x.p.pc))) ∧
        (∀ t, boundary u x = none → x.p.atHdr = false → x.held = false → fetchWord u x = .error (.trap t) →
          step s = .next (raiseOn u x.who t x.p.pc)) ∧
        (∀ v, boundary u x = none → x.p.atHdr = false → x.held = false → fetchWord u x = .error (.hold v) → step s = .next v) ∧
        (boundary u x = none → x.p.atHdr = true → step s = .next (headerStep u x)) ∧
        (∀ v, boundary u x = some v → step s = .next v)) ∧
    (∀ i, s.agenda = .event i :: rest → isEvent i = true → eventOk s i = true → step s = exec i { s with agenda := rest }) ∧
    (s.agenda = [] → step s = .next { s with agenda := defaultAgenda s })

/-- No step of the module stops, and no instruction does once an executor issues it: every word and every event of the table has a next
state. That an event is executed like an instruction, and changes nothing where its condition does not hold, is the model's own (log entry
1). -/
def Obligations.NoStepStops : Prop :=
  (∀ (i : Instr) (s : State) (e : Issuer), s.cur = some e → ∃ t, exec i s = .next t) ∧ ∀ s : State, SafeStep s

/-- The memories stand in their canonical form at reset (log entry 4). -/
def Obligations.CanonicalAtReset : Prop :=
 Canonical State.reset

/-- Every step keeps the memories in their canonical form, from every state that has it: equal memories stay equal data. -/
def Obligations.StepKeepsCanonical : Prop :=
  ∀ s t : State, Canonical s → step s = .next t → Canonical t

/-- R182, R186, R330, R351: what a cold reset leaves. Every byte of HBM is zero and its frame is formatted G512, timelines
are zero, the flight recorders are empty, and each die's connection table holds its 130 entries. -/
def Obligations.ResetValues : Prop :=
  let s := State.reset
  (∀ a, (regionOf (fabOff a) = .hbm → byteAt s a = 0) ∧ granOf s a = 4 ∧ timelineAt s a = 0) ∧ s.contexts = [] ∧ s.queues = [] ∧ s.teams = [] ∧
  s.dies.length = 12 ∧ ∀ d ∈ s.dies, d.flight = [] ∧ d.fseq = 0 ∧
    (∀ k < 66, let e := sget 0 d.conn k
      connV e = true ∧ connOpt e = false ∧ diePairs[k]? = some (connSrc e, connDst e) ∧ connWaves e = 2) ∧
    (∀ p < 64, let e := sget 0 d.conn (66 + p)
      connV e = true ∧ connOpt e = true ∧ connSrc e = p % 12 ∧ connDst e = p ∧ connWaves e = 2) ∧
    ∀ k < 126, connV (sget 0 d.conn (130 + k)) = false
end

