-- ==== Sys2Proof/Laws/State.lean ====
section
/-! SUPPORT. What each named update of the state leaves and changes, field by field. -/
namespace Sys2Proof.Machine

@[simp] theorem modGrp_mem (s : State) (n : Nat) (f : Group → Group) : (modGrp s n f).mem = s.mem := rfl
@[simp] theorem modGrp_hostMem (s : State) (n : Nat) (f : Group → Group) : (modGrp s n f).hostMem = s.hostMem := rfl
@[simp] theorem modGrp_guestMem (s : State) (n : Nat) (f : Group → Group) : (modGrp s n f).guestMem = s.guestMem := rfl
@[simp] theorem modGrp_pois (s : State) (n : Nat) (f : Group → Group) : (modGrp s n f).pois = s.pois := rfl
@[simp] theorem modGrp_l2bad (s : State) (n : Nat) (f : Group → Group) : (modGrp s n f).l2bad = s.l2bad := rfl
@[simp] theorem modGrp_fmt (s : State) (n : Nat) (f : Group → Group) : (modGrp s n f).fmt = s.fmt := rfl
@[simp] theorem modGrp_tl (s : State) (n : Nat) (f : Group → Group) : (modGrp s n f).tl = s.tl := rfl
@[simp] theorem modGrp_tldisc (s : State) (n : Nat) (f : Group → Group) : (modGrp s n f).tldisc = s.tldisc := rfl
@[simp] theorem modGrp_modid (s : State) (n : Nat) (f : Group → Group) : (modGrp s n f).modid = s.modid := rfl
@[simp] theorem modGrp_contexts (s : State) (n : Nat) (f : Group → Group) : (modGrp s n f).contexts = s.contexts := rfl
@[simp] theorem modGrp_queues (s : State) (n : Nat) (f : Group → Group) : (modGrp s n f).queues = s.queues := rfl
@[simp] theorem modGrp_launches (s : State) (n : Nat) (f : Group → Group) : (modGrp s n f).launches = s.launches := rfl
@[simp] theorem modGrp_teams (s : State) (n : Nat) (f : Group → Group) : (modGrp s n f).teams = s.teams := rfl
@[simp] theorem modGrp_groups (s : State) (n : Nat) (f : Group → Group) : (modGrp s n f).groups = modWhere s.groups (fun g => g.gid == n) f := rfl
@[simp] theorem modGrp_ops (s : State) (n : Nat) (f : Group → Group) : (modGrp s n f).ops = s.ops := rfl
@[simp] theorem modGrp_bulks (s : State) (n : Nat) (f : Group → Group) : (modGrp s n f).bulks = s.bulks := rfl
@[simp] theorem modGrp_l1 (s : State) (n : Nat) (f : Group → Group) : (modGrp s n f).l1 = s.l1 := rfl
@[simp] theorem modGrp_remote (s : State) (n : Nat) (f : Group → Group) : (modGrp s n f).remote = s.remote := rfl
@[simp] theorem modGrp_leases (s : State) (n : Nat) (f : Group → Group) : (modGrp s n f).leases = s.leases := rfl
@[simp] theorem modGrp_dies (s : State) (n : Nat) (f : Group → Group) : (modGrp s n f).dies = s.dies := rfl
@[simp] theorem modGrp_cores (s : State) (n : Nat) (f : Group → Group) : (modGrp s n f).cores = s.cores := rfl
@[simp] theorem modGrp_qthreads (s : State) (n : Nat) (f : Group → Group) : (modGrp s n f).qthreads = s.qthreads := rfl
@[simp] theorem modGrp_copies (s : State) (n : Nat) (f : Group → Group) : (modGrp s n f).copies = s.copies := rfl
@[simp] theorem modGrp_waiters (s : State) (n : Nat) (f : Group → Group) : (modGrp s n f).waiters = s.waiters := rfl
@[simp] theorem modGrp_quad (s : State) (n : Nat) (f : Group → Group) : (modGrp s n f).quad = s.quad := rfl
@[simp] theorem modGrp_shoots (s : State) (n : Nat) (f : Group → Group) : (modGrp s n f).shoots = s.shoots := rfl
@[simp] theorem modGrp_ats (s : State) (n : Nat) (f : Group → Group) : (modGrp s n f).ats = s.ats := rfl
@[simp] theorem modGrp_pris (s : State) (n : Nat) (f : Group → Group) : (modGrp s n f).pris = s.pris := rfl
@[simp] theorem modGrp_guests (s : State) (n : Nat) (f : Group → Group) : (modGrp s n f).guests = s.guests := rfl
@[simp] theorem modGrp_links (s : State) (n : Nat) (f : Group → Group) : (modGrp s n f).links = s.links := rfl
@[simp] theorem modGrp_linkDone (s : State) (n : Nat) (f : Group → Group) : (modGrp s n f).linkDone = s.linkDone := rfl
@[simp] theorem modGrp_circuits (s : State) (n : Nat) (f : Group → Group) : (modGrp s n f).circuits = s.circuits := rfl
@[simp] theorem modGrp_late (s : State) (n : Nat) (f : Group → Group) : (modGrp s n f).late = s.late := rfl
@[simp] theorem modGrp_vfPort (s : State) (n : Nat) (f : Group → Group) : (modGrp s n f).vfPort = s.vfPort := rfl
@[simp] theorem modGrp_tears (s : State) (n : Nat) (f : Group → Group) : (modGrp s n f).tears = s.tears := rfl
@[simp] theorem modGrp_quarantine (s : State) (n : Nat) (f : Group → Group) : (modGrp s n f).quarantine = s.quarantine := rfl
@[simp] theorem modGrp_secure (s : State) (n : Nat) (f : Group → Group) : (modGrp s n f).secure = s.secure := rfl
@[simp] theorem modGrp_hostCache (s : State) (n : Nat) (f : Group → Group) : (modGrp s n f).hostCache = s.hostCache := rfl
@[simp] theorem modGrp_hostHeld (s : State) (n : Nat) (f : Group → Group) : (modGrp s n f).hostHeld = s.hostHeld := rfl
@[simp] theorem modGrp_bootwhy (s : State) (n : Nat) (f : Group → Group) : (modGrp s n f).bootwhy = s.bootwhy := rfl
@[simp] theorem modGrp_die0Only (s : State) (n : Nat) (f : Group → Group) : (modGrp s n f).die0Only = s.die0Only := rfl
@[simp] theorem modGrp_startRec (s : State) (n : Nat) (f : Group → Group) : (modGrp s n f).startRec = s.startRec := rfl
@[simp] theorem modGrp_limit (s : State) (n : Nat) (f : Group → Group) : (modGrp s n f).limit = s.limit := rfl
@[simp] theorem modGrp_fuses (s : State) (n : Nat) (f : Group → Group) : (modGrp s n f).fuses = s.fuses := rfl
@[simp] theorem modGrp_measured (s : State) (n : Nat) (f : Group → Group) : (modGrp s n f).measured = s.measured := rfl
@[simp] theorem modGrp_attKey (s : State) (n : Nat) (f : Group → Group) : (modGrp s n f).attKey = s.attKey := rfl
@[simp] theorem modGrp_stopped (s : State) (n : Nat) (f : Group → Group) : (modGrp s n f).stopped = s.stopped := rfl
@[simp] theorem modGrp_now (s : State) (n : Nat) (f : Group → Group) : (modGrp s n f).now = s.now := rfl
@[simp] theorem modGrp_agenda (s : State) (n : Nat) (f : Group → Group) : (modGrp s n f).agenda = s.agenda := rfl
@[simp] theorem modGrp_cur (s : State) (n : Nat) (f : Group → Group) : (modGrp s n f).cur = s.cur := rfl
@[simp] theorem modGrp_freshId (s : State) (n : Nat) (f : Group → Group) : (modGrp s n f).freshId = s.freshId := rfl
@[simp] theorem modGrp_freeCtr (s : State) (n : Nat) (f : Group → Group) : (modGrp s n f).freeCtr = s.freeCtr := rfl
@[simp] theorem modGrp_outbox (s : State) (n : Nat) (f : Group → Group) : (modGrp s n f).outbox = s.outbox := rfl

@[simp] theorem modTeam_mem (s : State) (n : Nat) (f : Team → Team) : (modTeam s n f).mem = s.mem := rfl
@[simp] theorem modTeam_hostMem (s : State) (n : Nat) (f : Team → Team) : (modTeam s n f).hostMem = s.hostMem := rfl
@[simp] theorem modTeam_guestMem (s : State) (n : Nat) (f : Team → Team) : (modTeam s n f).guestMem = s.guestMem := rfl
@[simp] theorem modTeam_pois (s : State) (n : Nat) (f : Team → Team) : (modTeam s n f).pois = s.pois := rfl
@[simp] theorem modTeam_l2bad (s : State) (n : Nat) (f : Team → Team) : (modTeam s n f).l2bad = s.l2bad := rfl
@[simp] theorem modTeam_fmt (s : State) (n : Nat) (f : Team → Team) : (modTeam s n f).fmt = s.fmt := rfl
@[simp] theorem modTeam_tl (s : State) (n : Nat) (f : Team → Team) : (modTeam s n f).tl = s.tl := rfl
@[simp] theorem modTeam_tldisc (s : State) (n : Nat) (f : Team → Team) : (modTeam s n f).tldisc = s.tldisc := rfl
@[simp] theorem modTeam_modid (s : State) (n : Nat) (f : Team → Team) : (modTeam s n f).modid = s.modid := rfl
@[simp] theorem modTeam_contexts (s : State) (n : Nat) (f : Team → Team) : (modTeam s n f).contexts = s.contexts := rfl
@[simp] theorem modTeam_queues (s : State) (n : Nat) (f : Team → Team) : (modTeam s n f).queues = s.queues := rfl
@[simp] theorem modTeam_launches (s : State) (n : Nat) (f : Team → Team) : (modTeam s n f).launches = s.launches := rfl
@[simp] theorem modTeam_teams (s : State) (n : Nat) (f : Team → Team) : (modTeam s n f).teams = modWhere s.teams (fun x => x.tid == n) f := rfl
@[simp] theorem modTeam_groups (s : State) (n : Nat) (f : Team → Team) : (modTeam s n f).groups = s.groups := rfl
@[simp] theorem modTeam_ops (s : State) (n : Nat) (f : Team → Team) : (modTeam s n f).ops = s.ops := rfl
@[simp] theorem modTeam_bulks (s : State) (n : Nat) (f : Team → Team) : (modTeam s n f).bulks = s.bulks := rfl
@[simp] theorem modTeam_l1 (s : State) (n : Nat) (f : Team → Team) : (modTeam s n f).l1 = s.l1 := rfl
@[simp] theorem modTeam_remote (s : State) (n : Nat) (f : Team → Team) : (modTeam s n f).remote = s.remote := rfl
@[simp] theorem modTeam_leases (s : State) (n : Nat) (f : Team → Team) : (modTeam s n f).leases = s.leases := rfl
@[simp] theorem modTeam_dies (s : State) (n : Nat) (f : Team → Team) : (modTeam s n f).dies = s.dies := rfl
@[simp] theorem modTeam_cores (s : State) (n : Nat) (f : Team → Team) : (modTeam s n f).cores = s.cores := rfl
@[simp] theorem modTeam_qthreads (s : State) (n : Nat) (f : Team → Team) : (modTeam s n f).qthreads = s.qthreads := rfl
@[simp] theorem modTeam_copies (s : State) (n : Nat) (f : Team → Team) : (modTeam s n f).copies = s.copies := rfl
@[simp] theorem modTeam_waiters (s : State) (n : Nat) (f : Team → Team) : (modTeam s n f).waiters = s.waiters := rfl
@[simp] theorem modTeam_quad (s : State) (n : Nat) (f : Team → Team) : (modTeam s n f).quad = s.quad := rfl
@[simp] theorem modTeam_shoots (s : State) (n : Nat) (f : Team → Team) : (modTeam s n f).shoots = s.shoots := rfl
@[simp] theorem modTeam_ats (s : State) (n : Nat) (f : Team → Team) : (modTeam s n f).ats = s.ats := rfl
@[simp] theorem modTeam_pris (s : State) (n : Nat) (f : Team → Team) : (modTeam s n f).pris = s.pris := rfl
@[simp] theorem modTeam_guests (s : State) (n : Nat) (f : Team → Team) : (modTeam s n f).guests = s.guests := rfl
@[simp] theorem modTeam_links (s : State) (n : Nat) (f : Team → Team) : (modTeam s n f).links = s.links := rfl
@[simp] theorem modTeam_linkDone (s : State) (n : Nat) (f : Team → Team) : (modTeam s n f).linkDone = s.linkDone := rfl
@[simp] theorem modTeam_circuits (s : State) (n : Nat) (f : Team → Team) : (modTeam s n f).circuits = s.circuits := rfl
@[simp] theorem modTeam_late (s : State) (n : Nat) (f : Team → Team) : (modTeam s n f).late = s.late := rfl
@[simp] theorem modTeam_vfPort (s : State) (n : Nat) (f : Team → Team) : (modTeam s n f).vfPort = s.vfPort := rfl
@[simp] theorem modTeam_tears (s : State) (n : Nat) (f : Team → Team) : (modTeam s n f).tears = s.tears := rfl
@[simp] theorem modTeam_quarantine (s : State) (n : Nat) (f : Team → Team) : (modTeam s n f).quarantine = s.quarantine := rfl
@[simp] theorem modTeam_secure (s : State) (n : Nat) (f : Team → Team) : (modTeam s n f).secure = s.secure := rfl
@[simp] theorem modTeam_hostCache (s : State) (n : Nat) (f : Team → Team) : (modTeam s n f).hostCache = s.hostCache := rfl
@[simp] theorem modTeam_hostHeld (s : State) (n : Nat) (f : Team → Team) : (modTeam s n f).hostHeld = s.hostHeld := rfl
@[simp] theorem modTeam_bootwhy (s : State) (n : Nat) (f : Team → Team) : (modTeam s n f).bootwhy = s.bootwhy := rfl
@[simp] theorem modTeam_die0Only (s : State) (n : Nat) (f : Team → Team) : (modTeam s n f).die0Only = s.die0Only := rfl
@[simp] theorem modTeam_startRec (s : State) (n : Nat) (f : Team → Team) : (modTeam s n f).startRec = s.startRec := rfl
@[simp] theorem modTeam_limit (s : State) (n : Nat) (f : Team → Team) : (modTeam s n f).limit = s.limit := rfl
@[simp] theorem modTeam_fuses (s : State) (n : Nat) (f : Team → Team) : (modTeam s n f).fuses = s.fuses := rfl
@[simp] theorem modTeam_measured (s : State) (n : Nat) (f : Team → Team) : (modTeam s n f).measured = s.measured := rfl
@[simp] theorem modTeam_attKey (s : State) (n : Nat) (f : Team → Team) : (modTeam s n f).attKey = s.attKey := rfl
@[simp] theorem modTeam_stopped (s : State) (n : Nat) (f : Team → Team) : (modTeam s n f).stopped = s.stopped := rfl
@[simp] theorem modTeam_now (s : State) (n : Nat) (f : Team → Team) : (modTeam s n f).now = s.now := rfl
@[simp] theorem modTeam_agenda (s : State) (n : Nat) (f : Team → Team) : (modTeam s n f).agenda = s.agenda := rfl
@[simp] theorem modTeam_cur (s : State) (n : Nat) (f : Team → Team) : (modTeam s n f).cur = s.cur := rfl
@[simp] theorem modTeam_freshId (s : State) (n : Nat) (f : Team → Team) : (modTeam s n f).freshId = s.freshId := rfl
@[simp] theorem modTeam_freeCtr (s : State) (n : Nat) (f : Team → Team) : (modTeam s n f).freeCtr = s.freeCtr := rfl
@[simp] theorem modTeam_outbox (s : State) (n : Nat) (f : Team → Team) : (modTeam s n f).outbox = s.outbox := rfl

@[simp] theorem modLaunch_mem (s : State) (n : Nat) (f : Launch → Launch) : (modLaunch s n f).mem = s.mem := rfl
@[simp] theorem modLaunch_hostMem (s : State) (n : Nat) (f : Launch → Launch) : (modLaunch s n f).hostMem = s.hostMem := rfl
@[simp] theorem modLaunch_guestMem (s : State) (n : Nat) (f : Launch → Launch) : (modLaunch s n f).guestMem = s.guestMem := rfl
@[simp] theorem modLaunch_pois (s : State) (n : Nat) (f : Launch → Launch) : (modLaunch s n f).pois = s.pois := rfl
@[simp] theorem modLaunch_l2bad (s : State) (n : Nat) (f : Launch → Launch) : (modLaunch s n f).l2bad = s.l2bad := rfl
@[simp] theorem modLaunch_fmt (s : State) (n : Nat) (f : Launch → Launch) : (modLaunch s n f).fmt = s.fmt := rfl
@[simp] theorem modLaunch_tl (s : State) (n : Nat) (f : Launch → Launch) : (modLaunch s n f).tl = s.tl := rfl
@[simp] theorem modLaunch_tldisc (s : State) (n : Nat) (f : Launch → Launch) : (modLaunch s n f).tldisc = s.tldisc := rfl
@[simp] theorem modLaunch_modid (s : State) (n : Nat) (f : Launch → Launch) : (modLaunch s n f).modid = s.modid := rfl
@[simp] theorem modLaunch_contexts (s : State) (n : Nat) (f : Launch → Launch) : (modLaunch s n f).contexts = s.contexts := rfl
@[simp] theorem modLaunch_queues (s : State) (n : Nat) (f : Launch → Launch) : (modLaunch s n f).queues = s.queues := rfl
@[simp] theorem modLaunch_launches (s : State) (n : Nat) (f : Launch → Launch) : (modLaunch s n f).launches = modWhere s.launches (fun x => x.lid == n) f := rfl
@[simp] theorem modLaunch_teams (s : State) (n : Nat) (f : Launch → Launch) : (modLaunch s n f).teams = s.teams := rfl
@[simp] theorem modLaunch_groups (s : State) (n : Nat) (f : Launch → Launch) : (modLaunch s n f).groups = s.groups := rfl
@[simp] theorem modLaunch_ops (s : State) (n : Nat) (f : Launch → Launch) : (modLaunch s n f).ops = s.ops := rfl
@[simp] theorem modLaunch_bulks (s : State) (n : Nat) (f : Launch → Launch) : (modLaunch s n f).bulks = s.bulks := rfl
@[simp] theorem modLaunch_l1 (s : State) (n : Nat) (f : Launch → Launch) : (modLaunch s n f).l1 = s.l1 := rfl
@[simp] theorem modLaunch_remote (s : State) (n : Nat) (f : Launch → Launch) : (modLaunch s n f).remote = s.remote := rfl
@[simp] theorem modLaunch_leases (s : State) (n : Nat) (f : Launch → Launch) : (modLaunch s n f).leases = s.leases := rfl
@[simp] theorem modLaunch_dies (s : State) (n : Nat) (f : Launch → Launch) : (modLaunch s n f).dies = s.dies := rfl
@[simp] theorem modLaunch_cores (s : State) (n : Nat) (f : Launch → Launch) : (modLaunch s n f).cores = s.cores := rfl
@[simp] theorem modLaunch_qthreads (s : State) (n : Nat) (f : Launch → Launch) : (modLaunch s n f).qthreads = s.qthreads := rfl
@[simp] theorem modLaunch_copies (s : State) (n : Nat) (f : Launch → Launch) : (modLaunch s n f).copies = s.copies := rfl
@[simp] theorem modLaunch_waiters (s : State) (n : Nat) (f : Launch → Launch) : (modLaunch s n f).waiters = s.waiters := rfl
@[simp] theorem modLaunch_quad (s : State) (n : Nat) (f : Launch → Launch) : (modLaunch s n f).quad = s.quad := rfl
@[simp] theorem modLaunch_shoots (s : State) (n : Nat) (f : Launch → Launch) : (modLaunch s n f).shoots = s.shoots := rfl
@[simp] theorem modLaunch_ats (s : State) (n : Nat) (f : Launch → Launch) : (modLaunch s n f).ats = s.ats := rfl
@[simp] theorem modLaunch_pris (s : State) (n : Nat) (f : Launch → Launch) : (modLaunch s n f).pris = s.pris := rfl
@[simp] theorem modLaunch_guests (s : State) (n : Nat) (f : Launch → Launch) : (modLaunch s n f).guests = s.guests := rfl
@[simp] theorem modLaunch_links (s : State) (n : Nat) (f : Launch → Launch) : (modLaunch s n f).links = s.links := rfl
@[simp] theorem modLaunch_linkDone (s : State) (n : Nat) (f : Launch → Launch) : (modLaunch s n f).linkDone = s.linkDone := rfl
@[simp] theorem modLaunch_circuits (s : State) (n : Nat) (f : Launch → Launch) : (modLaunch s n f).circuits = s.circuits := rfl
@[simp] theorem modLaunch_late (s : State) (n : Nat) (f : Launch → Launch) : (modLaunch s n f).late = s.late := rfl
@[simp] theorem modLaunch_vfPort (s : State) (n : Nat) (f : Launch → Launch) : (modLaunch s n f).vfPort = s.vfPort := rfl
@[simp] theorem modLaunch_tears (s : State) (n : Nat) (f : Launch → Launch) : (modLaunch s n f).tears = s.tears := rfl
@[simp] theorem modLaunch_quarantine (s : State) (n : Nat) (f : Launch → Launch) : (modLaunch s n f).quarantine = s.quarantine := rfl
@[simp] theorem modLaunch_secure (s : State) (n : Nat) (f : Launch → Launch) : (modLaunch s n f).secure = s.secure := rfl
@[simp] theorem modLaunch_hostCache (s : State) (n : Nat) (f : Launch → Launch) : (modLaunch s n f).hostCache = s.hostCache := rfl
@[simp] theorem modLaunch_hostHeld (s : State) (n : Nat) (f : Launch → Launch) : (modLaunch s n f).hostHeld = s.hostHeld := rfl
@[simp] theorem modLaunch_bootwhy (s : State) (n : Nat) (f : Launch → Launch) : (modLaunch s n f).bootwhy = s.bootwhy := rfl
@[simp] theorem modLaunch_die0Only (s : State) (n : Nat) (f : Launch → Launch) : (modLaunch s n f).die0Only = s.die0Only := rfl
@[simp] theorem modLaunch_startRec (s : State) (n : Nat) (f : Launch → Launch) : (modLaunch s n f).startRec = s.startRec := rfl
@[simp] theorem modLaunch_limit (s : State) (n : Nat) (f : Launch → Launch) : (modLaunch s n f).limit = s.limit := rfl
@[simp] theorem modLaunch_fuses (s : State) (n : Nat) (f : Launch → Launch) : (modLaunch s n f).fuses = s.fuses := rfl
@[simp] theorem modLaunch_measured (s : State) (n : Nat) (f : Launch → Launch) : (modLaunch s n f).measured = s.measured := rfl
@[simp] theorem modLaunch_attKey (s : State) (n : Nat) (f : Launch → Launch) : (modLaunch s n f).attKey = s.attKey := rfl
@[simp] theorem modLaunch_stopped (s : State) (n : Nat) (f : Launch → Launch) : (modLaunch s n f).stopped = s.stopped := rfl
@[simp] theorem modLaunch_now (s : State) (n : Nat) (f : Launch → Launch) : (modLaunch s n f).now = s.now := rfl
@[simp] theorem modLaunch_agenda (s : State) (n : Nat) (f : Launch → Launch) : (modLaunch s n f).agenda = s.agenda := rfl
@[simp] theorem modLaunch_cur (s : State) (n : Nat) (f : Launch → Launch) : (modLaunch s n f).cur = s.cur := rfl
@[simp] theorem modLaunch_freshId (s : State) (n : Nat) (f : Launch → Launch) : (modLaunch s n f).freshId = s.freshId := rfl
@[simp] theorem modLaunch_freeCtr (s : State) (n : Nat) (f : Launch → Launch) : (modLaunch s n f).freeCtr = s.freeCtr := rfl
@[simp] theorem modLaunch_outbox (s : State) (n : Nat) (f : Launch → Launch) : (modLaunch s n f).outbox = s.outbox := rfl

@[simp] theorem modDie_mem (s : State) (n : Nat) (f : Die → Die) : (modDie s n f).mem = s.mem := rfl
@[simp] theorem modDie_hostMem (s : State) (n : Nat) (f : Die → Die) : (modDie s n f).hostMem = s.hostMem := rfl
@[simp] theorem modDie_guestMem (s : State) (n : Nat) (f : Die → Die) : (modDie s n f).guestMem = s.guestMem := rfl
@[simp] theorem modDie_pois (s : State) (n : Nat) (f : Die → Die) : (modDie s n f).pois = s.pois := rfl
@[simp] theorem modDie_l2bad (s : State) (n : Nat) (f : Die → Die) : (modDie s n f).l2bad = s.l2bad := rfl
@[simp] theorem modDie_fmt (s : State) (n : Nat) (f : Die → Die) : (modDie s n f).fmt = s.fmt := rfl
@[simp] theorem modDie_tl (s : State) (n : Nat) (f : Die → Die) : (modDie s n f).tl = s.tl := rfl
@[simp] theorem modDie_tldisc (s : State) (n : Nat) (f : Die → Die) : (modDie s n f).tldisc = s.tldisc := rfl
@[simp] theorem modDie_modid (s : State) (n : Nat) (f : Die → Die) : (modDie s n f).modid = s.modid := rfl
@[simp] theorem modDie_contexts (s : State) (n : Nat) (f : Die → Die) : (modDie s n f).contexts = s.contexts := rfl
@[simp] theorem modDie_queues (s : State) (n : Nat) (f : Die → Die) : (modDie s n f).queues = s.queues := rfl
@[simp] theorem modDie_launches (s : State) (n : Nat) (f : Die → Die) : (modDie s n f).launches = s.launches := rfl
@[simp] theorem modDie_teams (s : State) (n : Nat) (f : Die → Die) : (modDie s n f).teams = s.teams := rfl
@[simp] theorem modDie_groups (s : State) (n : Nat) (f : Die → Die) : (modDie s n f).groups = s.groups := rfl
@[simp] theorem modDie_ops (s : State) (n : Nat) (f : Die → Die) : (modDie s n f).ops = s.ops := rfl
@[simp] theorem modDie_bulks (s : State) (n : Nat) (f : Die → Die) : (modDie s n f).bulks = s.bulks := rfl
@[simp] theorem modDie_l1 (s : State) (n : Nat) (f : Die → Die) : (modDie s n f).l1 = s.l1 := rfl
@[simp] theorem modDie_remote (s : State) (n : Nat) (f : Die → Die) : (modDie s n f).remote = s.remote := rfl
@[simp] theorem modDie_leases (s : State) (n : Nat) (f : Die → Die) : (modDie s n f).leases = s.leases := rfl
@[simp] theorem modDie_dies (s : State) (n : Nat) (f : Die → Die) : (modDie s n f).dies = modWhere s.dies (fun x => x.die == n) f := rfl
@[simp] theorem modDie_cores (s : State) (n : Nat) (f : Die → Die) : (modDie s n f).cores = s.cores := rfl
@[simp] theorem modDie_qthreads (s : State) (n : Nat) (f : Die → Die) : (modDie s n f).qthreads = s.qthreads := rfl
@[simp] theorem modDie_copies (s : State) (n : Nat) (f : Die → Die) : (modDie s n f).copies = s.copies := rfl
@[simp] theorem modDie_waiters (s : State) (n : Nat) (f : Die → Die) : (modDie s n f).waiters = s.waiters := rfl
@[simp] theorem modDie_quad (s : State) (n : Nat) (f : Die → Die) : (modDie s n f).quad = s.quad := rfl
@[simp] theorem modDie_shoots (s : State) (n : Nat) (f : Die → Die) : (modDie s n f).shoots = s.shoots := rfl
@[simp] theorem modDie_ats (s : State) (n : Nat) (f : Die → Die) : (modDie s n f).ats = s.ats := rfl
@[simp] theorem modDie_pris (s : State) (n : Nat) (f : Die → Die) : (modDie s n f).pris = s.pris := rfl
@[simp] theorem modDie_guests (s : State) (n : Nat) (f : Die → Die) : (modDie s n f).guests = s.guests := rfl
@[simp] theorem modDie_links (s : State) (n : Nat) (f : Die → Die) : (modDie s n f).links = s.links := rfl
@[simp] theorem modDie_linkDone (s : State) (n : Nat) (f : Die → Die) : (modDie s n f).linkDone = s.linkDone := rfl
@[simp] theorem modDie_circuits (s : State) (n : Nat) (f : Die → Die) : (modDie s n f).circuits = s.circuits := rfl
@[simp] theorem modDie_late (s : State) (n : Nat) (f : Die → Die) : (modDie s n f).late = s.late := rfl
@[simp] theorem modDie_vfPort (s : State) (n : Nat) (f : Die → Die) : (modDie s n f).vfPort = s.vfPort := rfl
@[simp] theorem modDie_tears (s : State) (n : Nat) (f : Die → Die) : (modDie s n f).tears = s.tears := rfl
@[simp] theorem modDie_quarantine (s : State) (n : Nat) (f : Die → Die) : (modDie s n f).quarantine = s.quarantine := rfl
@[simp] theorem modDie_secure (s : State) (n : Nat) (f : Die → Die) : (modDie s n f).secure = s.secure := rfl
@[simp] theorem modDie_hostCache (s : State) (n : Nat) (f : Die → Die) : (modDie s n f).hostCache = s.hostCache := rfl
@[simp] theorem modDie_hostHeld (s : State) (n : Nat) (f : Die → Die) : (modDie s n f).hostHeld = s.hostHeld := rfl
@[simp] theorem modDie_bootwhy (s : State) (n : Nat) (f : Die → Die) : (modDie s n f).bootwhy = s.bootwhy := rfl
@[simp] theorem modDie_die0Only (s : State) (n : Nat) (f : Die → Die) : (modDie s n f).die0Only = s.die0Only := rfl
@[simp] theorem modDie_startRec (s : State) (n : Nat) (f : Die → Die) : (modDie s n f).startRec = s.startRec := rfl
@[simp] theorem modDie_limit (s : State) (n : Nat) (f : Die → Die) : (modDie s n f).limit = s.limit := rfl
@[simp] theorem modDie_fuses (s : State) (n : Nat) (f : Die → Die) : (modDie s n f).fuses = s.fuses := rfl
@[simp] theorem modDie_measured (s : State) (n : Nat) (f : Die → Die) : (modDie s n f).measured = s.measured := rfl
@[simp] theorem modDie_attKey (s : State) (n : Nat) (f : Die → Die) : (modDie s n f).attKey = s.attKey := rfl
@[simp] theorem modDie_stopped (s : State) (n : Nat) (f : Die → Die) : (modDie s n f).stopped = s.stopped := rfl
@[simp] theorem modDie_now (s : State) (n : Nat) (f : Die → Die) : (modDie s n f).now = s.now := rfl
@[simp] theorem modDie_agenda (s : State) (n : Nat) (f : Die → Die) : (modDie s n f).agenda = s.agenda := rfl
@[simp] theorem modDie_cur (s : State) (n : Nat) (f : Die → Die) : (modDie s n f).cur = s.cur := rfl
@[simp] theorem modDie_freshId (s : State) (n : Nat) (f : Die → Die) : (modDie s n f).freshId = s.freshId := rfl
@[simp] theorem modDie_freeCtr (s : State) (n : Nat) (f : Die → Die) : (modDie s n f).freeCtr = s.freeCtr := rfl
@[simp] theorem modDie_outbox (s : State) (n : Nat) (f : Die → Die) : (modDie s n f).outbox = s.outbox := rfl

@[simp] theorem modCore_mem (s : State) (d n : Nat) (f : Core → Core) : (modCore s d n f).mem = s.mem := rfl
@[simp] theorem modCore_hostMem (s : State) (d n : Nat) (f : Core → Core) : (modCore s d n f).hostMem = s.hostMem := rfl
@[simp] theorem modCore_guestMem (s : State) (d n : Nat) (f : Core → Core) : (modCore s d n f).guestMem = s.guestMem := rfl
@[simp] theorem modCore_pois (s : State) (d n : Nat) (f : Core → Core) : (modCore s d n f).pois = s.pois := rfl
@[simp] theorem modCore_l2bad (s : State) (d n : Nat) (f : Core → Core) : (modCore s d n f).l2bad = s.l2bad := rfl
@[simp] theorem modCore_fmt (s : State) (d n : Nat) (f : Core → Core) : (modCore s d n f).fmt = s.fmt := rfl
@[simp] theorem modCore_tl (s : State) (d n : Nat) (f : Core → Core) : (modCore s d n f).tl = s.tl := rfl
@[simp] theorem modCore_tldisc (s : State) (d n : Nat) (f : Core → Core) : (modCore s d n f).tldisc = s.tldisc := rfl
@[simp] theorem modCore_modid (s : State) (d n : Nat) (f : Core → Core) : (modCore s d n f).modid = s.modid := rfl
@[simp] theorem modCore_contexts (s : State) (d n : Nat) (f : Core → Core) : (modCore s d n f).contexts = s.contexts := rfl
@[simp] theorem modCore_queues (s : State) (d n : Nat) (f : Core → Core) : (modCore s d n f).queues = s.queues := rfl
@[simp] theorem modCore_launches (s : State) (d n : Nat) (f : Core → Core) : (modCore s d n f).launches = s.launches := rfl
@[simp] theorem modCore_teams (s : State) (d n : Nat) (f : Core → Core) : (modCore s d n f).teams = s.teams := rfl
@[simp] theorem modCore_groups (s : State) (d n : Nat) (f : Core → Core) : (modCore s d n f).groups = s.groups := rfl
@[simp] theorem modCore_ops (s : State) (d n : Nat) (f : Core → Core) : (modCore s d n f).ops = s.ops := rfl
@[simp] theorem modCore_bulks (s : State) (d n : Nat) (f : Core → Core) : (modCore s d n f).bulks = s.bulks := rfl
@[simp] theorem modCore_l1 (s : State) (d n : Nat) (f : Core → Core) : (modCore s d n f).l1 = s.l1 := rfl
@[simp] theorem modCore_remote (s : State) (d n : Nat) (f : Core → Core) : (modCore s d n f).remote = s.remote := rfl
@[simp] theorem modCore_leases (s : State) (d n : Nat) (f : Core → Core) : (modCore s d n f).leases = s.leases := rfl
@[simp] theorem modCore_dies (s : State) (d n : Nat) (f : Core → Core) : (modCore s d n f).dies = s.dies := rfl
@[simp] theorem modCore_cores (s : State) (d n : Nat) (f : Core → Core) : (modCore s d n f).cores = modWhere s.cores (fun x => x.die == d && x.core == n) f := rfl
@[simp] theorem modCore_qthreads (s : State) (d n : Nat) (f : Core → Core) : (modCore s d n f).qthreads = s.qthreads := rfl
@[simp] theorem modCore_copies (s : State) (d n : Nat) (f : Core → Core) : (modCore s d n f).copies = s.copies := rfl
@[simp] theorem modCore_waiters (s : State) (d n : Nat) (f : Core → Core) : (modCore s d n f).waiters = s.waiters := rfl
@[simp] theorem modCore_quad (s : State) (d n : Nat) (f : Core → Core) : (modCore s d n f).quad = s.quad := rfl
@[simp] theorem modCore_shoots (s : State) (d n : Nat) (f : Core → Core) : (modCore s d n f).shoots = s.shoots := rfl
@[simp] theorem modCore_ats (s : State) (d n : Nat) (f : Core → Core) : (modCore s d n f).ats = s.ats := rfl
@[simp] theorem modCore_pris (s : State) (d n : Nat) (f : Core → Core) : (modCore s d n f).pris = s.pris := rfl
@[simp] theorem modCore_guests (s : State) (d n : Nat) (f : Core → Core) : (modCore s d n f).guests = s.guests := rfl
@[simp] theorem modCore_links (s : State) (d n : Nat) (f : Core → Core) : (modCore s d n f).links = s.links := rfl
@[simp] theorem modCore_linkDone (s : State) (d n : Nat) (f : Core → Core) : (modCore s d n f).linkDone = s.linkDone := rfl
@[simp] theorem modCore_circuits (s : State) (d n : Nat) (f : Core → Core) : (modCore s d n f).circuits = s.circuits := rfl
@[simp] theorem modCore_late (s : State) (d n : Nat) (f : Core → Core) : (modCore s d n f).late = s.late := rfl
@[simp] theorem modCore_vfPort (s : State) (d n : Nat) (f : Core → Core) : (modCore s d n f).vfPort = s.vfPort := rfl
@[simp] theorem modCore_tears (s : State) (d n : Nat) (f : Core → Core) : (modCore s d n f).tears = s.tears := rfl
@[simp] theorem modCore_quarantine (s : State) (d n : Nat) (f : Core → Core) : (modCore s d n f).quarantine = s.quarantine := rfl
@[simp] theorem modCore_secure (s : State) (d n : Nat) (f : Core → Core) : (modCore s d n f).secure = s.secure := rfl
@[simp] theorem modCore_hostCache (s : State) (d n : Nat) (f : Core → Core) : (modCore s d n f).hostCache = s.hostCache := rfl
@[simp] theorem modCore_hostHeld (s : State) (d n : Nat) (f : Core → Core) : (modCore s d n f).hostHeld = s.hostHeld := rfl
@[simp] theorem modCore_bootwhy (s : State) (d n : Nat) (f : Core → Core) : (modCore s d n f).bootwhy = s.bootwhy := rfl
@[simp] theorem modCore_die0Only (s : State) (d n : Nat) (f : Core → Core) : (modCore s d n f).die0Only = s.die0Only := rfl
@[simp] theorem modCore_startRec (s : State) (d n : Nat) (f : Core → Core) : (modCore s d n f).startRec = s.startRec := rfl
@[simp] theorem modCore_limit (s : State) (d n : Nat) (f : Core → Core) : (modCore s d n f).limit = s.limit := rfl
@[simp] theorem modCore_fuses (s : State) (d n : Nat) (f : Core → Core) : (modCore s d n f).fuses = s.fuses := rfl
@[simp] theorem modCore_measured (s : State) (d n : Nat) (f : Core → Core) : (modCore s d n f).measured = s.measured := rfl
@[simp] theorem modCore_attKey (s : State) (d n : Nat) (f : Core → Core) : (modCore s d n f).attKey = s.attKey := rfl
@[simp] theorem modCore_stopped (s : State) (d n : Nat) (f : Core → Core) : (modCore s d n f).stopped = s.stopped := rfl
@[simp] theorem modCore_now (s : State) (d n : Nat) (f : Core → Core) : (modCore s d n f).now = s.now := rfl
@[simp] theorem modCore_agenda (s : State) (d n : Nat) (f : Core → Core) : (modCore s d n f).agenda = s.agenda := rfl
@[simp] theorem modCore_cur (s : State) (d n : Nat) (f : Core → Core) : (modCore s d n f).cur = s.cur := rfl
@[simp] theorem modCore_freshId (s : State) (d n : Nat) (f : Core → Core) : (modCore s d n f).freshId = s.freshId := rfl
@[simp] theorem modCore_freeCtr (s : State) (d n : Nat) (f : Core → Core) : (modCore s d n f).freeCtr = s.freeCtr := rfl
@[simp] theorem modCore_outbox (s : State) (d n : Nat) (f : Core → Core) : (modCore s d n f).outbox = s.outbox := rfl

@[simp] theorem modCtx_mem (s : State) (n : Nat) (f : Context → Context) : (modCtx s n f).mem = s.mem := rfl
@[simp] theorem modCtx_hostMem (s : State) (n : Nat) (f : Context → Context) : (modCtx s n f).hostMem = s.hostMem := rfl
@[simp] theorem modCtx_guestMem (s : State) (n : Nat) (f : Context → Context) : (modCtx s n f).guestMem = s.guestMem := rfl
@[simp] theorem modCtx_pois (s : State) (n : Nat) (f : Context → Context) : (modCtx s n f).pois = s.pois := rfl
@[simp] theorem modCtx_l2bad (s : State) (n : Nat) (f : Context → Context) : (modCtx s n f).l2bad = s.l2bad := rfl
@[simp] theorem modCtx_fmt (s : State) (n : Nat) (f : Context → Context) : (modCtx s n f).fmt = s.fmt := rfl
@[simp] theorem modCtx_tl (s : State) (n : Nat) (f : Context → Context) : (modCtx s n f).tl = s.tl := rfl
@[simp] theorem modCtx_tldisc (s : State) (n : Nat) (f : Context → Context) : (modCtx s n f).tldisc = s.tldisc := rfl
@[simp] theorem modCtx_modid (s : State) (n : Nat) (f : Context → Context) : (modCtx s n f).modid = s.modid := rfl
@[simp] theorem modCtx_contexts (s : State) (n : Nat) (f : Context → Context) : (modCtx s n f).contexts = modWhere s.contexts (fun x => x.pasid == n) f := rfl
@[simp] theorem modCtx_queues (s : State) (n : Nat) (f : Context → Context) : (modCtx s n f).queues = s.queues := rfl
@[simp] theorem modCtx_launches (s : State) (n : Nat) (f : Context → Context) : (modCtx s n f).launches = s.launches := rfl
@[simp] theorem modCtx_teams (s : State) (n : Nat) (f : Context → Context) : (modCtx s n f).teams = s.teams := rfl
@[simp] theorem modCtx_groups (s : State) (n : Nat) (f : Context → Context) : (modCtx s n f).groups = s.groups := rfl
@[simp] theorem modCtx_ops (s : State) (n : Nat) (f : Context → Context) : (modCtx s n f).ops = s.ops := rfl
@[simp] theorem modCtx_bulks (s : State) (n : Nat) (f : Context → Context) : (modCtx s n f).bulks = s.bulks := rfl
@[simp] theorem modCtx_l1 (s : State) (n : Nat) (f : Context → Context) : (modCtx s n f).l1 = s.l1 := rfl
@[simp] theorem modCtx_remote (s : State) (n : Nat) (f : Context → Context) : (modCtx s n f).remote = s.remote := rfl
@[simp] theorem modCtx_leases (s : State) (n : Nat) (f : Context → Context) : (modCtx s n f).leases = s.leases := rfl
@[simp] theorem modCtx_dies (s : State) (n : Nat) (f : Context → Context) : (modCtx s n f).dies = s.dies := rfl
@[simp] theorem modCtx_cores (s : State) (n : Nat) (f : Context → Context) : (modCtx s n f).cores = s.cores := rfl
@[simp] theorem modCtx_qthreads (s : State) (n : Nat) (f : Context → Context) : (modCtx s n f).qthreads = s.qthreads := rfl
@[simp] theorem modCtx_copies (s : State) (n : Nat) (f : Context → Context) : (modCtx s n f).copies = s.copies := rfl
@[simp] theorem modCtx_waiters (s : State) (n : Nat) (f : Context → Context) : (modCtx s n f).waiters = s.waiters := rfl
@[simp] theorem modCtx_quad (s : State) (n : Nat) (f : Context → Context) : (modCtx s n f).quad = s.quad := rfl
@[simp] theorem modCtx_shoots (s : State) (n : Nat) (f : Context → Context) : (modCtx s n f).shoots = s.shoots := rfl
@[simp] theorem modCtx_ats (s : State) (n : Nat) (f : Context → Context) : (modCtx s n f).ats = s.ats := rfl
@[simp] theorem modCtx_pris (s : State) (n : Nat) (f : Context → Context) : (modCtx s n f).pris = s.pris := rfl
@[simp] theorem modCtx_guests (s : State) (n : Nat) (f : Context → Context) : (modCtx s n f).guests = s.guests := rfl
@[simp] theorem modCtx_links (s : State) (n : Nat) (f : Context → Context) : (modCtx s n f).links = s.links := rfl
@[simp] theorem modCtx_linkDone (s : State) (n : Nat) (f : Context → Context) : (modCtx s n f).linkDone = s.linkDone := rfl
@[simp] theorem modCtx_circuits (s : State) (n : Nat) (f : Context → Context) : (modCtx s n f).circuits = s.circuits := rfl
@[simp] theorem modCtx_late (s : State) (n : Nat) (f : Context → Context) : (modCtx s n f).late = s.late := rfl
@[simp] theorem modCtx_vfPort (s : State) (n : Nat) (f : Context → Context) : (modCtx s n f).vfPort = s.vfPort := rfl
@[simp] theorem modCtx_tears (s : State) (n : Nat) (f : Context → Context) : (modCtx s n f).tears = s.tears := rfl
@[simp] theorem modCtx_quarantine (s : State) (n : Nat) (f : Context → Context) : (modCtx s n f).quarantine = s.quarantine := rfl
@[simp] theorem modCtx_secure (s : State) (n : Nat) (f : Context → Context) : (modCtx s n f).secure = s.secure := rfl
@[simp] theorem modCtx_hostCache (s : State) (n : Nat) (f : Context → Context) : (modCtx s n f).hostCache = s.hostCache := rfl
@[simp] theorem modCtx_hostHeld (s : State) (n : Nat) (f : Context → Context) : (modCtx s n f).hostHeld = s.hostHeld := rfl
@[simp] theorem modCtx_bootwhy (s : State) (n : Nat) (f : Context → Context) : (modCtx s n f).bootwhy = s.bootwhy := rfl
@[simp] theorem modCtx_die0Only (s : State) (n : Nat) (f : Context → Context) : (modCtx s n f).die0Only = s.die0Only := rfl
@[simp] theorem modCtx_startRec (s : State) (n : Nat) (f : Context → Context) : (modCtx s n f).startRec = s.startRec := rfl
@[simp] theorem modCtx_limit (s : State) (n : Nat) (f : Context → Context) : (modCtx s n f).limit = s.limit := rfl
@[simp] theorem modCtx_fuses (s : State) (n : Nat) (f : Context → Context) : (modCtx s n f).fuses = s.fuses := rfl
@[simp] theorem modCtx_measured (s : State) (n : Nat) (f : Context → Context) : (modCtx s n f).measured = s.measured := rfl
@[simp] theorem modCtx_attKey (s : State) (n : Nat) (f : Context → Context) : (modCtx s n f).attKey = s.attKey := rfl
@[simp] theorem modCtx_stopped (s : State) (n : Nat) (f : Context → Context) : (modCtx s n f).stopped = s.stopped := rfl
@[simp] theorem modCtx_now (s : State) (n : Nat) (f : Context → Context) : (modCtx s n f).now = s.now := rfl
@[simp] theorem modCtx_agenda (s : State) (n : Nat) (f : Context → Context) : (modCtx s n f).agenda = s.agenda := rfl
@[simp] theorem modCtx_cur (s : State) (n : Nat) (f : Context → Context) : (modCtx s n f).cur = s.cur := rfl
@[simp] theorem modCtx_freshId (s : State) (n : Nat) (f : Context → Context) : (modCtx s n f).freshId = s.freshId := rfl
@[simp] theorem modCtx_freeCtr (s : State) (n : Nat) (f : Context → Context) : (modCtx s n f).freeCtr = s.freeCtr := rfl
@[simp] theorem modCtx_outbox (s : State) (n : Nat) (f : Context → Context) : (modCtx s n f).outbox = s.outbox := rfl

@[simp] theorem modQueue_mem (s : State) (d n : Nat) (f : Queue → Queue) : (modQueue s d n f).mem = s.mem := rfl
@[simp] theorem modQueue_hostMem (s : State) (d n : Nat) (f : Queue → Queue) : (modQueue s d n f).hostMem = s.hostMem := rfl
@[simp] theorem modQueue_guestMem (s : State) (d n : Nat) (f : Queue → Queue) : (modQueue s d n f).guestMem = s.guestMem := rfl
@[simp] theorem modQueue_pois (s : State) (d n : Nat) (f : Queue → Queue) : (modQueue s d n f).pois = s.pois := rfl
@[simp] theorem modQueue_l2bad (s : State) (d n : Nat) (f : Queue → Queue) : (modQueue s d n f).l2bad = s.l2bad := rfl
@[simp] theorem modQueue_fmt (s : State) (d n : Nat) (f : Queue → Queue) : (modQueue s d n f).fmt = s.fmt := rfl
@[simp] theorem modQueue_tl (s : State) (d n : Nat) (f : Queue → Queue) : (modQueue s d n f).tl = s.tl := rfl
@[simp] theorem modQueue_tldisc (s : State) (d n : Nat) (f : Queue → Queue) : (modQueue s d n f).tldisc = s.tldisc := rfl
@[simp] theorem modQueue_modid (s : State) (d n : Nat) (f : Queue → Queue) : (modQueue s d n f).modid = s.modid := rfl
@[simp] theorem modQueue_contexts (s : State) (d n : Nat) (f : Queue → Queue) : (modQueue s d n f).contexts = s.contexts := rfl
@[simp] theorem modQueue_queues (s : State) (d n : Nat) (f : Queue → Queue) : (modQueue s d n f).queues = modWhere s.queues (fun x => x.die == d && x.qid == n) f := rfl
@[simp] theorem modQueue_launches (s : State) (d n : Nat) (f : Queue → Queue) : (modQueue s d n f).launches = s.launches := rfl
@[simp] theorem modQueue_teams (s : State) (d n : Nat) (f : Queue → Queue) : (modQueue s d n f).teams = s.teams := rfl
@[simp] theorem modQueue_groups (s : State) (d n : Nat) (f : Queue → Queue) : (modQueue s d n f).groups = s.groups := rfl
@[simp] theorem modQueue_ops (s : State) (d n : Nat) (f : Queue → Queue) : (modQueue s d n f).ops = s.ops := rfl
@[simp] theorem modQueue_bulks (s : State) (d n : Nat) (f : Queue → Queue) : (modQueue s d n f).bulks = s.bulks := rfl
@[simp] theorem modQueue_l1 (s : State) (d n : Nat) (f : Queue → Queue) : (modQueue s d n f).l1 = s.l1 := rfl
@[simp] theorem modQueue_remote (s : State) (d n : Nat) (f : Queue → Queue) : (modQueue s d n f).remote = s.remote := rfl
@[simp] theorem modQueue_leases (s : State) (d n : Nat) (f : Queue → Queue) : (modQueue s d n f).leases = s.leases := rfl
@[simp] theorem modQueue_dies (s : State) (d n : Nat) (f : Queue → Queue) : (modQueue s d n f).dies = s.dies := rfl
@[simp] theorem modQueue_cores (s : State) (d n : Nat) (f : Queue → Queue) : (modQueue s d n f).cores = s.cores := rfl
@[simp] theorem modQueue_qthreads (s : State) (d n : Nat) (f : Queue → Queue) : (modQueue s d n f).qthreads = s.qthreads := rfl
@[simp] theorem modQueue_copies (s : State) (d n : Nat) (f : Queue → Queue) : (modQueue s d n f).copies = s.copies := rfl
@[simp] theorem modQueue_waiters (s : State) (d n : Nat) (f : Queue → Queue) : (modQueue s d n f).waiters = s.waiters := rfl
@[simp] theorem modQueue_quad (s : State) (d n : Nat) (f : Queue → Queue) : (modQueue s d n f).quad = s.quad := rfl
@[simp] theorem modQueue_shoots (s : State) (d n : Nat) (f : Queue → Queue) : (modQueue s d n f).shoots = s.shoots := rfl
@[simp] theorem modQueue_ats (s : State) (d n : Nat) (f : Queue → Queue) : (modQueue s d n f).ats = s.ats := rfl
@[simp] theorem modQueue_pris (s : State) (d n : Nat) (f : Queue → Queue) : (modQueue s d n f).pris = s.pris := rfl
@[simp] theorem modQueue_guests (s : State) (d n : Nat) (f : Queue → Queue) : (modQueue s d n f).guests = s.guests := rfl
@[simp] theorem modQueue_links (s : State) (d n : Nat) (f : Queue → Queue) : (modQueue s d n f).links = s.links := rfl
@[simp] theorem modQueue_linkDone (s : State) (d n : Nat) (f : Queue → Queue) : (modQueue s d n f).linkDone = s.linkDone := rfl
@[simp] theorem modQueue_circuits (s : State) (d n : Nat) (f : Queue → Queue) : (modQueue s d n f).circuits = s.circuits := rfl
@[simp] theorem modQueue_late (s : State) (d n : Nat) (f : Queue → Queue) : (modQueue s d n f).late = s.late := rfl
@[simp] theorem modQueue_vfPort (s : State) (d n : Nat) (f : Queue → Queue) : (modQueue s d n f).vfPort = s.vfPort := rfl
@[simp] theorem modQueue_tears (s : State) (d n : Nat) (f : Queue → Queue) : (modQueue s d n f).tears = s.tears := rfl
@[simp] theorem modQueue_quarantine (s : State) (d n : Nat) (f : Queue → Queue) : (modQueue s d n f).quarantine = s.quarantine := rfl
@[simp] theorem modQueue_secure (s : State) (d n : Nat) (f : Queue → Queue) : (modQueue s d n f).secure = s.secure := rfl
@[simp] theorem modQueue_hostCache (s : State) (d n : Nat) (f : Queue → Queue) : (modQueue s d n f).hostCache = s.hostCache := rfl
@[simp] theorem modQueue_hostHeld (s : State) (d n : Nat) (f : Queue → Queue) : (modQueue s d n f).hostHeld = s.hostHeld := rfl
@[simp] theorem modQueue_bootwhy (s : State) (d n : Nat) (f : Queue → Queue) : (modQueue s d n f).bootwhy = s.bootwhy := rfl
@[simp] theorem modQueue_die0Only (s : State) (d n : Nat) (f : Queue → Queue) : (modQueue s d n f).die0Only = s.die0Only := rfl
@[simp] theorem modQueue_startRec (s : State) (d n : Nat) (f : Queue → Queue) : (modQueue s d n f).startRec = s.startRec := rfl
@[simp] theorem modQueue_limit (s : State) (d n : Nat) (f : Queue → Queue) : (modQueue s d n f).limit = s.limit := rfl
@[simp] theorem modQueue_fuses (s : State) (d n : Nat) (f : Queue → Queue) : (modQueue s d n f).fuses = s.fuses := rfl
@[simp] theorem modQueue_measured (s : State) (d n : Nat) (f : Queue → Queue) : (modQueue s d n f).measured = s.measured := rfl
@[simp] theorem modQueue_attKey (s : State) (d n : Nat) (f : Queue → Queue) : (modQueue s d n f).attKey = s.attKey := rfl
@[simp] theorem modQueue_stopped (s : State) (d n : Nat) (f : Queue → Queue) : (modQueue s d n f).stopped = s.stopped := rfl
@[simp] theorem modQueue_now (s : State) (d n : Nat) (f : Queue → Queue) : (modQueue s d n f).now = s.now := rfl
@[simp] theorem modQueue_agenda (s : State) (d n : Nat) (f : Queue → Queue) : (modQueue s d n f).agenda = s.agenda := rfl
@[simp] theorem modQueue_cur (s : State) (d n : Nat) (f : Queue → Queue) : (modQueue s d n f).cur = s.cur := rfl
@[simp] theorem modQueue_freshId (s : State) (d n : Nat) (f : Queue → Queue) : (modQueue s d n f).freshId = s.freshId := rfl
@[simp] theorem modQueue_freeCtr (s : State) (d n : Nat) (f : Queue → Queue) : (modQueue s d n f).freeCtr = s.freeCtr := rfl
@[simp] theorem modQueue_outbox (s : State) (d n : Nat) (f : Queue → Queue) : (modQueue s d n f).outbox = s.outbox := rfl

@[simp] theorem modQt_mem (s : State) (d n : Nat) (f : QThread → QThread) : (modQt s d n f).mem = s.mem := rfl
@[simp] theorem modQt_hostMem (s : State) (d n : Nat) (f : QThread → QThread) : (modQt s d n f).hostMem = s.hostMem := rfl
@[simp] theorem modQt_guestMem (s : State) (d n : Nat) (f : QThread → QThread) : (modQt s d n f).guestMem = s.guestMem := rfl
@[simp] theorem modQt_pois (s : State) (d n : Nat) (f : QThread → QThread) : (modQt s d n f).pois = s.pois := rfl
@[simp] theorem modQt_l2bad (s : State) (d n : Nat) (f : QThread → QThread) : (modQt s d n f).l2bad = s.l2bad := rfl
@[simp] theorem modQt_fmt (s : State) (d n : Nat) (f : QThread → QThread) : (modQt s d n f).fmt = s.fmt := rfl
@[simp] theorem modQt_tl (s : State) (d n : Nat) (f : QThread → QThread) : (modQt s d n f).tl = s.tl := rfl
@[simp] theorem modQt_tldisc (s : State) (d n : Nat) (f : QThread → QThread) : (modQt s d n f).tldisc = s.tldisc := rfl
@[simp] theorem modQt_modid (s : State) (d n : Nat) (f : QThread → QThread) : (modQt s d n f).modid = s.modid := rfl
@[simp] theorem modQt_contexts (s : State) (d n : Nat) (f : QThread → QThread) : (modQt s d n f).contexts = s.contexts := rfl
@[simp] theorem modQt_queues (s : State) (d n : Nat) (f : QThread → QThread) : (modQt s d n f).queues = s.queues := rfl
@[simp] theorem modQt_launches (s : State) (d n : Nat) (f : QThread → QThread) : (modQt s d n f).launches = s.launches := rfl
@[simp] theorem modQt_teams (s : State) (d n : Nat) (f : QThread → QThread) : (modQt s d n f).teams = s.teams := rfl
@[simp] theorem modQt_groups (s : State) (d n : Nat) (f : QThread → QThread) : (modQt s d n f).groups = s.groups := rfl
@[simp] theorem modQt_ops (s : State) (d n : Nat) (f : QThread → QThread) : (modQt s d n f).ops = s.ops := rfl
@[simp] theorem modQt_bulks (s : State) (d n : Nat) (f : QThread → QThread) : (modQt s d n f).bulks = s.bulks := rfl
@[simp] theorem modQt_l1 (s : State) (d n : Nat) (f : QThread → QThread) : (modQt s d n f).l1 = s.l1 := rfl
@[simp] theorem modQt_remote (s : State) (d n : Nat) (f : QThread → QThread) : (modQt s d n f).remote = s.remote := rfl
@[simp] theorem modQt_leases (s : State) (d n : Nat) (f : QThread → QThread) : (modQt s d n f).leases = s.leases := rfl
@[simp] theorem modQt_dies (s : State) (d n : Nat) (f : QThread → QThread) : (modQt s d n f).dies = s.dies := rfl
@[simp] theorem modQt_cores (s : State) (d n : Nat) (f : QThread → QThread) : (modQt s d n f).cores = s.cores := rfl
@[simp] theorem modQt_qthreads (s : State) (d n : Nat) (f : QThread → QThread) : (modQt s d n f).qthreads = modWhere s.qthreads (fun x => x.die == d && x.t == n) f := rfl
@[simp] theorem modQt_copies (s : State) (d n : Nat) (f : QThread → QThread) : (modQt s d n f).copies = s.copies := rfl
@[simp] theorem modQt_waiters (s : State) (d n : Nat) (f : QThread → QThread) : (modQt s d n f).waiters = s.waiters := rfl
@[simp] theorem modQt_quad (s : State) (d n : Nat) (f : QThread → QThread) : (modQt s d n f).quad = s.quad := rfl
@[simp] theorem modQt_shoots (s : State) (d n : Nat) (f : QThread → QThread) : (modQt s d n f).shoots = s.shoots := rfl
@[simp] theorem modQt_ats (s : State) (d n : Nat) (f : QThread → QThread) : (modQt s d n f).ats = s.ats := rfl
@[simp] theorem modQt_pris (s : State) (d n : Nat) (f : QThread → QThread) : (modQt s d n f).pris = s.pris := rfl
@[simp] theorem modQt_guests (s : State) (d n : Nat) (f : QThread → QThread) : (modQt s d n f).guests = s.guests := rfl
@[simp] theorem modQt_links (s : State) (d n : Nat) (f : QThread → QThread) : (modQt s d n f).links = s.links := rfl
@[simp] theorem modQt_linkDone (s : State) (d n : Nat) (f : QThread → QThread) : (modQt s d n f).linkDone = s.linkDone := rfl
@[simp] theorem modQt_circuits (s : State) (d n : Nat) (f : QThread → QThread) : (modQt s d n f).circuits = s.circuits := rfl
@[simp] theorem modQt_late (s : State) (d n : Nat) (f : QThread → QThread) : (modQt s d n f).late = s.late := rfl
@[simp] theorem modQt_vfPort (s : State) (d n : Nat) (f : QThread → QThread) : (modQt s d n f).vfPort = s.vfPort := rfl
@[simp] theorem modQt_tears (s : State) (d n : Nat) (f : QThread → QThread) : (modQt s d n f).tears = s.tears := rfl
@[simp] theorem modQt_quarantine (s : State) (d n : Nat) (f : QThread → QThread) : (modQt s d n f).quarantine = s.quarantine := rfl
@[simp] theorem modQt_secure (s : State) (d n : Nat) (f : QThread → QThread) : (modQt s d n f).secure = s.secure := rfl
@[simp] theorem modQt_hostCache (s : State) (d n : Nat) (f : QThread → QThread) : (modQt s d n f).hostCache = s.hostCache := rfl
@[simp] theorem modQt_hostHeld (s : State) (d n : Nat) (f : QThread → QThread) : (modQt s d n f).hostHeld = s.hostHeld := rfl
@[simp] theorem modQt_bootwhy (s : State) (d n : Nat) (f : QThread → QThread) : (modQt s d n f).bootwhy = s.bootwhy := rfl
@[simp] theorem modQt_die0Only (s : State) (d n : Nat) (f : QThread → QThread) : (modQt s d n f).die0Only = s.die0Only := rfl
@[simp] theorem modQt_startRec (s : State) (d n : Nat) (f : QThread → QThread) : (modQt s d n f).startRec = s.startRec := rfl
@[simp] theorem modQt_limit (s : State) (d n : Nat) (f : QThread → QThread) : (modQt s d n f).limit = s.limit := rfl
@[simp] theorem modQt_fuses (s : State) (d n : Nat) (f : QThread → QThread) : (modQt s d n f).fuses = s.fuses := rfl
@[simp] theorem modQt_measured (s : State) (d n : Nat) (f : QThread → QThread) : (modQt s d n f).measured = s.measured := rfl
@[simp] theorem modQt_attKey (s : State) (d n : Nat) (f : QThread → QThread) : (modQt s d n f).attKey = s.attKey := rfl
@[simp] theorem modQt_stopped (s : State) (d n : Nat) (f : QThread → QThread) : (modQt s d n f).stopped = s.stopped := rfl
@[simp] theorem modQt_now (s : State) (d n : Nat) (f : QThread → QThread) : (modQt s d n f).now = s.now := rfl
@[simp] theorem modQt_agenda (s : State) (d n : Nat) (f : QThread → QThread) : (modQt s d n f).agenda = s.agenda := rfl
@[simp] theorem modQt_cur (s : State) (d n : Nat) (f : QThread → QThread) : (modQt s d n f).cur = s.cur := rfl
@[simp] theorem modQt_freshId (s : State) (d n : Nat) (f : QThread → QThread) : (modQt s d n f).freshId = s.freshId := rfl
@[simp] theorem modQt_freeCtr (s : State) (d n : Nat) (f : QThread → QThread) : (modQt s d n f).freeCtr = s.freeCtr := rfl
@[simp] theorem modQt_outbox (s : State) (d n : Nat) (f : QThread → QThread) : (modQt s d n f).outbox = s.outbox := rfl

@[simp] theorem modCc_mem (s : State) (d n : Nat) (f : CopyCtx → CopyCtx) : (modCc s d n f).mem = s.mem := rfl
@[simp] theorem modCc_hostMem (s : State) (d n : Nat) (f : CopyCtx → CopyCtx) : (modCc s d n f).hostMem = s.hostMem := rfl
@[simp] theorem modCc_guestMem (s : State) (d n : Nat) (f : CopyCtx → CopyCtx) : (modCc s d n f).guestMem = s.guestMem := rfl
@[simp] theorem modCc_pois (s : State) (d n : Nat) (f : CopyCtx → CopyCtx) : (modCc s d n f).pois = s.pois := rfl
@[simp] theorem modCc_l2bad (s : State) (d n : Nat) (f : CopyCtx → CopyCtx) : (modCc s d n f).l2bad = s.l2bad := rfl
@[simp] theorem modCc_fmt (s : State) (d n : Nat) (f : CopyCtx → CopyCtx) : (modCc s d n f).fmt = s.fmt := rfl
@[simp] theorem modCc_tl (s : State) (d n : Nat) (f : CopyCtx → CopyCtx) : (modCc s d n f).tl = s.tl := rfl
@[simp] theorem modCc_tldisc (s : State) (d n : Nat) (f : CopyCtx → CopyCtx) : (modCc s d n f).tldisc = s.tldisc := rfl
@[simp] theorem modCc_modid (s : State) (d n : Nat) (f : CopyCtx → CopyCtx) : (modCc s d n f).modid = s.modid := rfl
@[simp] theorem modCc_contexts (s : State) (d n : Nat) (f : CopyCtx → CopyCtx) : (modCc s d n f).contexts = s.contexts := rfl
@[simp] theorem modCc_queues (s : State) (d n : Nat) (f : CopyCtx → CopyCtx) : (modCc s d n f).queues = s.queues := rfl
@[simp] theorem modCc_launches (s : State) (d n : Nat) (f : CopyCtx → CopyCtx) : (modCc s d n f).launches = s.launches := rfl
@[simp] theorem modCc_teams (s : State) (d n : Nat) (f : CopyCtx → CopyCtx) : (modCc s d n f).teams = s.teams := rfl
@[simp] theorem modCc_groups (s : State) (d n : Nat) (f : CopyCtx → CopyCtx) : (modCc s d n f).groups = s.groups := rfl
@[simp] theorem modCc_ops (s : State) (d n : Nat) (f : CopyCtx → CopyCtx) : (modCc s d n f).ops = s.ops := rfl
@[simp] theorem modCc_bulks (s : State) (d n : Nat) (f : CopyCtx → CopyCtx) : (modCc s d n f).bulks = s.bulks := rfl
@[simp] theorem modCc_l1 (s : State) (d n : Nat) (f : CopyCtx → CopyCtx) : (modCc s d n f).l1 = s.l1 := rfl
@[simp] theorem modCc_remote (s : State) (d n : Nat) (f : CopyCtx → CopyCtx) : (modCc s d n f).remote = s.remote := rfl
@[simp] theorem modCc_leases (s : State) (d n : Nat) (f : CopyCtx → CopyCtx) : (modCc s d n f).leases = s.leases := rfl
@[simp] theorem modCc_dies (s : State) (d n : Nat) (f : CopyCtx → CopyCtx) : (modCc s d n f).dies = s.dies := rfl
@[simp] theorem modCc_cores (s : State) (d n : Nat) (f : CopyCtx → CopyCtx) : (modCc s d n f).cores = s.cores := rfl
@[simp] theorem modCc_qthreads (s : State) (d n : Nat) (f : CopyCtx → CopyCtx) : (modCc s d n f).qthreads = s.qthreads := rfl
@[simp] theorem modCc_copies (s : State) (d n : Nat) (f : CopyCtx → CopyCtx) : (modCc s d n f).copies = modWhere s.copies (fun x => x.die == d && x.k == n) f := rfl
@[simp] theorem modCc_waiters (s : State) (d n : Nat) (f : CopyCtx → CopyCtx) : (modCc s d n f).waiters = s.waiters := rfl
@[simp] theorem modCc_quad (s : State) (d n : Nat) (f : CopyCtx → CopyCtx) : (modCc s d n f).quad = s.quad := rfl
@[simp] theorem modCc_shoots (s : State) (d n : Nat) (f : CopyCtx → CopyCtx) : (modCc s d n f).shoots = s.shoots := rfl
@[simp] theorem modCc_ats (s : State) (d n : Nat) (f : CopyCtx → CopyCtx) : (modCc s d n f).ats = s.ats := rfl
@[simp] theorem modCc_pris (s : State) (d n : Nat) (f : CopyCtx → CopyCtx) : (modCc s d n f).pris = s.pris := rfl
@[simp] theorem modCc_guests (s : State) (d n : Nat) (f : CopyCtx → CopyCtx) : (modCc s d n f).guests = s.guests := rfl
@[simp] theorem modCc_links (s : State) (d n : Nat) (f : CopyCtx → CopyCtx) : (modCc s d n f).links = s.links := rfl
@[simp] theorem modCc_linkDone (s : State) (d n : Nat) (f : CopyCtx → CopyCtx) : (modCc s d n f).linkDone = s.linkDone := rfl
@[simp] theorem modCc_circuits (s : State) (d n : Nat) (f : CopyCtx → CopyCtx) : (modCc s d n f).circuits = s.circuits := rfl
@[simp] theorem modCc_late (s : State) (d n : Nat) (f : CopyCtx → CopyCtx) : (modCc s d n f).late = s.late := rfl
@[simp] theorem modCc_vfPort (s : State) (d n : Nat) (f : CopyCtx → CopyCtx) : (modCc s d n f).vfPort = s.vfPort := rfl
@[simp] theorem modCc_tears (s : State) (d n : Nat) (f : CopyCtx → CopyCtx) : (modCc s d n f).tears = s.tears := rfl
@[simp] theorem modCc_quarantine (s : State) (d n : Nat) (f : CopyCtx → CopyCtx) : (modCc s d n f).quarantine = s.quarantine := rfl
@[simp] theorem modCc_secure (s : State) (d n : Nat) (f : CopyCtx → CopyCtx) : (modCc s d n f).secure = s.secure := rfl
@[simp] theorem modCc_hostCache (s : State) (d n : Nat) (f : CopyCtx → CopyCtx) : (modCc s d n f).hostCache = s.hostCache := rfl
@[simp] theorem modCc_hostHeld (s : State) (d n : Nat) (f : CopyCtx → CopyCtx) : (modCc s d n f).hostHeld = s.hostHeld := rfl
@[simp] theorem modCc_bootwhy (s : State) (d n : Nat) (f : CopyCtx → CopyCtx) : (modCc s d n f).bootwhy = s.bootwhy := rfl
@[simp] theorem modCc_die0Only (s : State) (d n : Nat) (f : CopyCtx → CopyCtx) : (modCc s d n f).die0Only = s.die0Only := rfl
@[simp] theorem modCc_startRec (s : State) (d n : Nat) (f : CopyCtx → CopyCtx) : (modCc s d n f).startRec = s.startRec := rfl
@[simp] theorem modCc_limit (s : State) (d n : Nat) (f : CopyCtx → CopyCtx) : (modCc s d n f).limit = s.limit := rfl
@[simp] theorem modCc_fuses (s : State) (d n : Nat) (f : CopyCtx → CopyCtx) : (modCc s d n f).fuses = s.fuses := rfl
@[simp] theorem modCc_measured (s : State) (d n : Nat) (f : CopyCtx → CopyCtx) : (modCc s d n f).measured = s.measured := rfl
@[simp] theorem modCc_attKey (s : State) (d n : Nat) (f : CopyCtx → CopyCtx) : (modCc s d n f).attKey = s.attKey := rfl
@[simp] theorem modCc_stopped (s : State) (d n : Nat) (f : CopyCtx → CopyCtx) : (modCc s d n f).stopped = s.stopped := rfl
@[simp] theorem modCc_now (s : State) (d n : Nat) (f : CopyCtx → CopyCtx) : (modCc s d n f).now = s.now := rfl
@[simp] theorem modCc_agenda (s : State) (d n : Nat) (f : CopyCtx → CopyCtx) : (modCc s d n f).agenda = s.agenda := rfl
@[simp] theorem modCc_cur (s : State) (d n : Nat) (f : CopyCtx → CopyCtx) : (modCc s d n f).cur = s.cur := rfl
@[simp] theorem modCc_freshId (s : State) (d n : Nat) (f : CopyCtx → CopyCtx) : (modCc s d n f).freshId = s.freshId := rfl
@[simp] theorem modCc_freeCtr (s : State) (d n : Nat) (f : CopyCtx → CopyCtx) : (modCc s d n f).freeCtr = s.freeCtr := rfl
@[simp] theorem modCc_outbox (s : State) (d n : Nat) (f : CopyCtx → CopyCtx) : (modCc s d n f).outbox = s.outbox := rfl

@[simp] theorem modGuest_mem (s : State) (n : Nat) (f : Guest → Guest) : (modGuest s n f).mem = s.mem := rfl
@[simp] theorem modGuest_hostMem (s : State) (n : Nat) (f : Guest → Guest) : (modGuest s n f).hostMem = s.hostMem := rfl
@[simp] theorem modGuest_guestMem (s : State) (n : Nat) (f : Guest → Guest) : (modGuest s n f).guestMem = s.guestMem := rfl
@[simp] theorem modGuest_pois (s : State) (n : Nat) (f : Guest → Guest) : (modGuest s n f).pois = s.pois := rfl
@[simp] theorem modGuest_l2bad (s : State) (n : Nat) (f : Guest → Guest) : (modGuest s n f).l2bad = s.l2bad := rfl
@[simp] theorem modGuest_fmt (s : State) (n : Nat) (f : Guest → Guest) : (modGuest s n f).fmt = s.fmt := rfl
@[simp] theorem modGuest_tl (s : State) (n : Nat) (f : Guest → Guest) : (modGuest s n f).tl = s.tl := rfl
@[simp] theorem modGuest_tldisc (s : State) (n : Nat) (f : Guest → Guest) : (modGuest s n f).tldisc = s.tldisc := rfl
@[simp] theorem modGuest_modid (s : State) (n : Nat) (f : Guest → Guest) : (modGuest s n f).modid = s.modid := rfl
@[simp] theorem modGuest_contexts (s : State) (n : Nat) (f : Guest → Guest) : (modGuest s n f).contexts = s.contexts := rfl
@[simp] theorem modGuest_queues (s : State) (n : Nat) (f : Guest → Guest) : (modGuest s n f).queues = s.queues := rfl
@[simp] theorem modGuest_launches (s : State) (n : Nat) (f : Guest → Guest) : (modGuest s n f).launches = s.launches := rfl
@[simp] theorem modGuest_teams (s : State) (n : Nat) (f : Guest → Guest) : (modGuest s n f).teams = s.teams := rfl
@[simp] theorem modGuest_groups (s : State) (n : Nat) (f : Guest → Guest) : (modGuest s n f).groups = s.groups := rfl
@[simp] theorem modGuest_ops (s : State) (n : Nat) (f : Guest → Guest) : (modGuest s n f).ops = s.ops := rfl
@[simp] theorem modGuest_bulks (s : State) (n : Nat) (f : Guest → Guest) : (modGuest s n f).bulks = s.bulks := rfl
@[simp] theorem modGuest_l1 (s : State) (n : Nat) (f : Guest → Guest) : (modGuest s n f).l1 = s.l1 := rfl
@[simp] theorem modGuest_remote (s : State) (n : Nat) (f : Guest → Guest) : (modGuest s n f).remote = s.remote := rfl
@[simp] theorem modGuest_leases (s : State) (n : Nat) (f : Guest → Guest) : (modGuest s n f).leases = s.leases := rfl
@[simp] theorem modGuest_dies (s : State) (n : Nat) (f : Guest → Guest) : (modGuest s n f).dies = s.dies := rfl
@[simp] theorem modGuest_cores (s : State) (n : Nat) (f : Guest → Guest) : (modGuest s n f).cores = s.cores := rfl
@[simp] theorem modGuest_qthreads (s : State) (n : Nat) (f : Guest → Guest) : (modGuest s n f).qthreads = s.qthreads := rfl
@[simp] theorem modGuest_copies (s : State) (n : Nat) (f : Guest → Guest) : (modGuest s n f).copies = s.copies := rfl
@[simp] theorem modGuest_waiters (s : State) (n : Nat) (f : Guest → Guest) : (modGuest s n f).waiters = s.waiters := rfl
@[simp] theorem modGuest_quad (s : State) (n : Nat) (f : Guest → Guest) : (modGuest s n f).quad = s.quad := rfl
@[simp] theorem modGuest_shoots (s : State) (n : Nat) (f : Guest → Guest) : (modGuest s n f).shoots = s.shoots := rfl
@[simp] theorem modGuest_ats (s : State) (n : Nat) (f : Guest → Guest) : (modGuest s n f).ats = s.ats := rfl
@[simp] theorem modGuest_pris (s : State) (n : Nat) (f : Guest → Guest) : (modGuest s n f).pris = s.pris := rfl
@[simp] theorem modGuest_guests (s : State) (n : Nat) (f : Guest → Guest) : (modGuest s n f).guests = modWhere s.guests (fun x => x.socket == n) f := rfl
@[simp] theorem modGuest_links (s : State) (n : Nat) (f : Guest → Guest) : (modGuest s n f).links = s.links := rfl
@[simp] theorem modGuest_linkDone (s : State) (n : Nat) (f : Guest → Guest) : (modGuest s n f).linkDone = s.linkDone := rfl
@[simp] theorem modGuest_circuits (s : State) (n : Nat) (f : Guest → Guest) : (modGuest s n f).circuits = s.circuits := rfl
@[simp] theorem modGuest_late (s : State) (n : Nat) (f : Guest → Guest) : (modGuest s n f).late = s.late := rfl
@[simp] theorem modGuest_vfPort (s : State) (n : Nat) (f : Guest → Guest) : (modGuest s n f).vfPort = s.vfPort := rfl
@[simp] theorem modGuest_tears (s : State) (n : Nat) (f : Guest → Guest) : (modGuest s n f).tears = s.tears := rfl
@[simp] theorem modGuest_quarantine (s : State) (n : Nat) (f : Guest → Guest) : (modGuest s n f).quarantine = s.quarantine := rfl
@[simp] theorem modGuest_secure (s : State) (n : Nat) (f : Guest → Guest) : (modGuest s n f).secure = s.secure := rfl
@[simp] theorem modGuest_hostCache (s : State) (n : Nat) (f : Guest → Guest) : (modGuest s n f).hostCache = s.hostCache := rfl
@[simp] theorem modGuest_hostHeld (s : State) (n : Nat) (f : Guest → Guest) : (modGuest s n f).hostHeld = s.hostHeld := rfl
@[simp] theorem modGuest_bootwhy (s : State) (n : Nat) (f : Guest → Guest) : (modGuest s n f).bootwhy = s.bootwhy := rfl
@[simp] theorem modGuest_die0Only (s : State) (n : Nat) (f : Guest → Guest) : (modGuest s n f).die0Only = s.die0Only := rfl
@[simp] theorem modGuest_startRec (s : State) (n : Nat) (f : Guest → Guest) : (modGuest s n f).startRec = s.startRec := rfl
@[simp] theorem modGuest_limit (s : State) (n : Nat) (f : Guest → Guest) : (modGuest s n f).limit = s.limit := rfl
@[simp] theorem modGuest_fuses (s : State) (n : Nat) (f : Guest → Guest) : (modGuest s n f).fuses = s.fuses := rfl
@[simp] theorem modGuest_measured (s : State) (n : Nat) (f : Guest → Guest) : (modGuest s n f).measured = s.measured := rfl
@[simp] theorem modGuest_attKey (s : State) (n : Nat) (f : Guest → Guest) : (modGuest s n f).attKey = s.attKey := rfl
@[simp] theorem modGuest_stopped (s : State) (n : Nat) (f : Guest → Guest) : (modGuest s n f).stopped = s.stopped := rfl
@[simp] theorem modGuest_now (s : State) (n : Nat) (f : Guest → Guest) : (modGuest s n f).now = s.now := rfl
@[simp] theorem modGuest_agenda (s : State) (n : Nat) (f : Guest → Guest) : (modGuest s n f).agenda = s.agenda := rfl
@[simp] theorem modGuest_cur (s : State) (n : Nat) (f : Guest → Guest) : (modGuest s n f).cur = s.cur := rfl
@[simp] theorem modGuest_freshId (s : State) (n : Nat) (f : Guest → Guest) : (modGuest s n f).freshId = s.freshId := rfl
@[simp] theorem modGuest_freeCtr (s : State) (n : Nat) (f : Guest → Guest) : (modGuest s n f).freeCtr = s.freeCtr := rfl
@[simp] theorem modGuest_outbox (s : State) (n : Nat) (f : Guest → Guest) : (modGuest s n f).outbox = s.outbox := rfl

@[simp] theorem emit_mem (s : State) (o : Out) : (emit s o).mem = s.mem := rfl
@[simp] theorem emit_hostMem (s : State) (o : Out) : (emit s o).hostMem = s.hostMem := rfl
@[simp] theorem emit_guestMem (s : State) (o : Out) : (emit s o).guestMem = s.guestMem := rfl
@[simp] theorem emit_pois (s : State) (o : Out) : (emit s o).pois = s.pois := rfl
@[simp] theorem emit_l2bad (s : State) (o : Out) : (emit s o).l2bad = s.l2bad := rfl
@[simp] theorem emit_fmt (s : State) (o : Out) : (emit s o).fmt = s.fmt := rfl
@[simp] theorem emit_tl (s : State) (o : Out) : (emit s o).tl = s.tl := rfl
@[simp] theorem emit_tldisc (s : State) (o : Out) : (emit s o).tldisc = s.tldisc := rfl
@[simp] theorem emit_modid (s : State) (o : Out) : (emit s o).modid = s.modid := rfl
@[simp] theorem emit_contexts (s : State) (o : Out) : (emit s o).contexts = s.contexts := rfl
@[simp] theorem emit_queues (s : State) (o : Out) : (emit s o).queues = s.queues := rfl
@[simp] theorem emit_launches (s : State) (o : Out) : (emit s o).launches = s.launches := rfl
@[simp] theorem emit_teams (s : State) (o : Out) : (emit s o).teams = s.teams := rfl
@[simp] theorem emit_groups (s : State) (o : Out) : (emit s o).groups = s.groups := rfl
@[simp] theorem emit_ops (s : State) (o : Out) : (emit s o).ops = s.ops := rfl
@[simp] theorem emit_bulks (s : State) (o : Out) : (emit s o).bulks = s.bulks := rfl
@[simp] theorem emit_l1 (s : State) (o : Out) : (emit s o).l1 = s.l1 := rfl
@[simp] theorem emit_remote (s : State) (o : Out) : (emit s o).remote = s.remote := rfl
@[simp] theorem emit_leases (s : State) (o : Out) : (emit s o).leases = s.leases := rfl
@[simp] theorem emit_dies (s : State) (o : Out) : (emit s o).dies = s.dies := rfl
@[simp] theorem emit_cores (s : State) (o : Out) : (emit s o).cores = s.cores := rfl
@[simp] theorem emit_qthreads (s : State) (o : Out) : (emit s o).qthreads = s.qthreads := rfl
@[simp] theorem emit_copies (s : State) (o : Out) : (emit s o).copies = s.copies := rfl
@[simp] theorem emit_waiters (s : State) (o : Out) : (emit s o).waiters = s.waiters := rfl
@[simp] theorem emit_quad (s : State) (o : Out) : (emit s o).quad = s.quad := rfl
@[simp] theorem emit_shoots (s : State) (o : Out) : (emit s o).shoots = s.shoots := rfl
@[simp] theorem emit_ats (s : State) (o : Out) : (emit s o).ats = s.ats := rfl
@[simp] theorem emit_pris (s : State) (o : Out) : (emit s o).pris = s.pris := rfl
@[simp] theorem emit_guests (s : State) (o : Out) : (emit s o).guests = s.guests := rfl
@[simp] theorem emit_links (s : State) (o : Out) : (emit s o).links = s.links := rfl
@[simp] theorem emit_linkDone (s : State) (o : Out) : (emit s o).linkDone = s.linkDone := rfl
@[simp] theorem emit_circuits (s : State) (o : Out) : (emit s o).circuits = s.circuits := rfl
@[simp] theorem emit_late (s : State) (o : Out) : (emit s o).late = s.late := rfl
@[simp] theorem emit_vfPort (s : State) (o : Out) : (emit s o).vfPort = s.vfPort := rfl
@[simp] theorem emit_tears (s : State) (o : Out) : (emit s o).tears = s.tears := rfl
@[simp] theorem emit_quarantine (s : State) (o : Out) : (emit s o).quarantine = s.quarantine := rfl
@[simp] theorem emit_secure (s : State) (o : Out) : (emit s o).secure = s.secure := rfl
@[simp] theorem emit_hostCache (s : State) (o : Out) : (emit s o).hostCache = s.hostCache := rfl
@[simp] theorem emit_hostHeld (s : State) (o : Out) : (emit s o).hostHeld = s.hostHeld := rfl
@[simp] theorem emit_bootwhy (s : State) (o : Out) : (emit s o).bootwhy = s.bootwhy := rfl
@[simp] theorem emit_die0Only (s : State) (o : Out) : (emit s o).die0Only = s.die0Only := rfl
@[simp] theorem emit_startRec (s : State) (o : Out) : (emit s o).startRec = s.startRec := rfl
@[simp] theorem emit_limit (s : State) (o : Out) : (emit s o).limit = s.limit := rfl
@[simp] theorem emit_fuses (s : State) (o : Out) : (emit s o).fuses = s.fuses := rfl
@[simp] theorem emit_measured (s : State) (o : Out) : (emit s o).measured = s.measured := rfl
@[simp] theorem emit_attKey (s : State) (o : Out) : (emit s o).attKey = s.attKey := rfl
@[simp] theorem emit_stopped (s : State) (o : Out) : (emit s o).stopped = s.stopped := rfl
@[simp] theorem emit_now (s : State) (o : Out) : (emit s o).now = s.now := rfl
@[simp] theorem emit_agenda (s : State) (o : Out) : (emit s o).agenda = s.agenda := rfl
@[simp] theorem emit_cur (s : State) (o : Out) : (emit s o).cur = s.cur := rfl
@[simp] theorem emit_freshId (s : State) (o : Out) : (emit s o).freshId = s.freshId := rfl
@[simp] theorem emit_freeCtr (s : State) (o : Out) : (emit s o).freeCtr = s.freeCtr := rfl
@[simp] theorem emit_outbox (s : State) (o : Out) : (emit s o).outbox = s.outbox ++ [o] := rfl

@[simp] theorem fresh_mem (s : State) : (fresh s).2.mem = s.mem := rfl
@[simp] theorem fresh_hostMem (s : State) : (fresh s).2.hostMem = s.hostMem := rfl
@[simp] theorem fresh_guestMem (s : State) : (fresh s).2.guestMem = s.guestMem := rfl
@[simp] theorem fresh_pois (s : State) : (fresh s).2.pois = s.pois := rfl
@[simp] theorem fresh_l2bad (s : State) : (fresh s).2.l2bad = s.l2bad := rfl
@[simp] theorem fresh_fmt (s : State) : (fresh s).2.fmt = s.fmt := rfl
@[simp] theorem fresh_tl (s : State) : (fresh s).2.tl = s.tl := rfl
@[simp] theorem fresh_tldisc (s : State) : (fresh s).2.tldisc = s.tldisc := rfl
@[simp] theorem fresh_modid (s : State) : (fresh s).2.modid = s.modid := rfl
@[simp] theorem fresh_contexts (s : State) : (fresh s).2.contexts = s.contexts := rfl
@[simp] theorem fresh_queues (s : State) : (fresh s).2.queues = s.queues := rfl
@[simp] theorem fresh_launches (s : State) : (fresh s).2.launches = s.launches := rfl
@[simp] theorem fresh_teams (s : State) : (fresh s).2.teams = s.teams := rfl
@[simp] theorem fresh_groups (s : State) : (fresh s).2.groups = s.groups := rfl
@[simp] theorem fresh_ops (s : State) : (fresh s).2.ops = s.ops := rfl
@[simp] theorem fresh_bulks (s : State) : (fresh s).2.bulks = s.bulks := rfl
@[simp] theorem fresh_l1 (s : State) : (fresh s).2.l1 = s.l1 := rfl
@[simp] theorem fresh_remote (s : State) : (fresh s).2.remote = s.remote := rfl
@[simp] theorem fresh_leases (s : State) : (fresh s).2.leases = s.leases := rfl
@[simp] theorem fresh_dies (s : State) : (fresh s).2.dies = s.dies := rfl
@[simp] theorem fresh_cores (s : State) : (fresh s).2.cores = s.cores := rfl
@[simp] theorem fresh_qthreads (s : State) : (fresh s).2.qthreads = s.qthreads := rfl
@[simp] theorem fresh_copies (s : State) : (fresh s).2.copies = s.copies := rfl
@[simp] theorem fresh_waiters (s : State) : (fresh s).2.waiters = s.waiters := rfl
@[simp] theorem fresh_quad (s : State) : (fresh s).2.quad = s.quad := rfl
@[simp] theorem fresh_shoots (s : State) : (fresh s).2.shoots = s.shoots := rfl
@[simp] theorem fresh_ats (s : State) : (fresh s).2.ats = s.ats := rfl
@[simp] theorem fresh_pris (s : State) : (fresh s).2.pris = s.pris := rfl
@[simp] theorem fresh_guests (s : State) : (fresh s).2.guests = s.guests := rfl
@[simp] theorem fresh_links (s : State) : (fresh s).2.links = s.links := rfl
@[simp] theorem fresh_linkDone (s : State) : (fresh s).2.linkDone = s.linkDone := rfl
@[simp] theorem fresh_circuits (s : State) : (fresh s).2.circuits = s.circuits := rfl
@[simp] theorem fresh_late (s : State) : (fresh s).2.late = s.late := rfl
@[simp] theorem fresh_vfPort (s : State) : (fresh s).2.vfPort = s.vfPort := rfl
@[simp] theorem fresh_tears (s : State) : (fresh s).2.tears = s.tears := rfl
@[simp] theorem fresh_quarantine (s : State) : (fresh s).2.quarantine = s.quarantine := rfl
@[simp] theorem fresh_secure (s : State) : (fresh s).2.secure = s.secure := rfl
@[simp] theorem fresh_hostCache (s : State) : (fresh s).2.hostCache = s.hostCache := rfl
@[simp] theorem fresh_hostHeld (s : State) : (fresh s).2.hostHeld = s.hostHeld := rfl
@[simp] theorem fresh_bootwhy (s : State) : (fresh s).2.bootwhy = s.bootwhy := rfl
@[simp] theorem fresh_die0Only (s : State) : (fresh s).2.die0Only = s.die0Only := rfl
@[simp] theorem fresh_startRec (s : State) : (fresh s).2.startRec = s.startRec := rfl
@[simp] theorem fresh_limit (s : State) : (fresh s).2.limit = s.limit := rfl
@[simp] theorem fresh_fuses (s : State) : (fresh s).2.fuses = s.fuses := rfl
@[simp] theorem fresh_measured (s : State) : (fresh s).2.measured = s.measured := rfl
@[simp] theorem fresh_attKey (s : State) : (fresh s).2.attKey = s.attKey := rfl
@[simp] theorem fresh_stopped (s : State) : (fresh s).2.stopped = s.stopped := rfl
@[simp] theorem fresh_now (s : State) : (fresh s).2.now = s.now := rfl
@[simp] theorem fresh_agenda (s : State) : (fresh s).2.agenda = s.agenda := rfl
@[simp] theorem fresh_cur (s : State) : (fresh s).2.cur = s.cur := rfl
@[simp] theorem fresh_freshId (s : State) : (fresh s).2.freshId = s.freshId + 1 := rfl
@[simp] theorem fresh_freeCtr (s : State) : (fresh s).2.freeCtr = s.freeCtr := rfl
@[simp] theorem fresh_outbox (s : State) : (fresh s).2.outbox = s.outbox := rfl

@[simp] theorem draw_mem (s : State) : (draw s).2.mem = s.mem := rfl
@[simp] theorem draw_hostMem (s : State) : (draw s).2.hostMem = s.hostMem := rfl
@[simp] theorem draw_guestMem (s : State) : (draw s).2.guestMem = s.guestMem := rfl
@[simp] theorem draw_pois (s : State) : (draw s).2.pois = s.pois := rfl
@[simp] theorem draw_l2bad (s : State) : (draw s).2.l2bad = s.l2bad := rfl
@[simp] theorem draw_fmt (s : State) : (draw s).2.fmt = s.fmt := rfl
@[simp] theorem draw_tl (s : State) : (draw s).2.tl = s.tl := rfl
@[simp] theorem draw_tldisc (s : State) : (draw s).2.tldisc = s.tldisc := rfl
@[simp] theorem draw_modid (s : State) : (draw s).2.modid = s.modid := rfl
@[simp] theorem draw_contexts (s : State) : (draw s).2.contexts = s.contexts := rfl
@[simp] theorem draw_queues (s : State) : (draw s).2.queues = s.queues := rfl
@[simp] theorem draw_launches (s : State) : (draw s).2.launches = s.launches := rfl
@[simp] theorem draw_teams (s : State) : (draw s).2.teams = s.teams := rfl
@[simp] theorem draw_groups (s : State) : (draw s).2.groups = s.groups := rfl
@[simp] theorem draw_ops (s : State) : (draw s).2.ops = s.ops := rfl
@[simp] theorem draw_bulks (s : State) : (draw s).2.bulks = s.bulks := rfl
@[simp] theorem draw_l1 (s : State) : (draw s).2.l1 = s.l1 := rfl
@[simp] theorem draw_remote (s : State) : (draw s).2.remote = s.remote := rfl
@[simp] theorem draw_leases (s : State) : (draw s).2.leases = s.leases := rfl
@[simp] theorem draw_dies (s : State) : (draw s).2.dies = s.dies := rfl
@[simp] theorem draw_cores (s : State) : (draw s).2.cores = s.cores := rfl
@[simp] theorem draw_qthreads (s : State) : (draw s).2.qthreads = s.qthreads := rfl
@[simp] theorem draw_copies (s : State) : (draw s).2.copies = s.copies := rfl
@[simp] theorem draw_waiters (s : State) : (draw s).2.waiters = s.waiters := rfl
@[simp] theorem draw_quad (s : State) : (draw s).2.quad = s.quad := rfl
@[simp] theorem draw_shoots (s : State) : (draw s).2.shoots = s.shoots := rfl
@[simp] theorem draw_ats (s : State) : (draw s).2.ats = s.ats := rfl
@[simp] theorem draw_pris (s : State) : (draw s).2.pris = s.pris := rfl
@[simp] theorem draw_guests (s : State) : (draw s).2.guests = s.guests := rfl
@[simp] theorem draw_links (s : State) : (draw s).2.links = s.links := rfl
@[simp] theorem draw_linkDone (s : State) : (draw s).2.linkDone = s.linkDone := rfl
@[simp] theorem draw_circuits (s : State) : (draw s).2.circuits = s.circuits := rfl
@[simp] theorem draw_late (s : State) : (draw s).2.late = s.late := rfl
@[simp] theorem draw_vfPort (s : State) : (draw s).2.vfPort = s.vfPort := rfl
@[simp] theorem draw_tears (s : State) : (draw s).2.tears = s.tears := rfl
@[simp] theorem draw_quarantine (s : State) : (draw s).2.quarantine = s.quarantine := rfl
@[simp] theorem draw_secure (s : State) : (draw s).2.secure = s.secure := rfl
@[simp] theorem draw_hostCache (s : State) : (draw s).2.hostCache = s.hostCache := rfl
@[simp] theorem draw_hostHeld (s : State) : (draw s).2.hostHeld = s.hostHeld := rfl
@[simp] theorem draw_bootwhy (s : State) : (draw s).2.bootwhy = s.bootwhy := rfl
@[simp] theorem draw_die0Only (s : State) : (draw s).2.die0Only = s.die0Only := rfl
@[simp] theorem draw_startRec (s : State) : (draw s).2.startRec = s.startRec := rfl
@[simp] theorem draw_limit (s : State) : (draw s).2.limit = s.limit := rfl
@[simp] theorem draw_fuses (s : State) : (draw s).2.fuses = s.fuses := rfl
@[simp] theorem draw_measured (s : State) : (draw s).2.measured = s.measured := rfl
@[simp] theorem draw_attKey (s : State) : (draw s).2.attKey = s.attKey := rfl
@[simp] theorem draw_stopped (s : State) : (draw s).2.stopped = s.stopped := rfl
@[simp] theorem draw_now (s : State) : (draw s).2.now = s.now := rfl
@[simp] theorem draw_agenda (s : State) : (draw s).2.agenda = s.agenda := rfl
@[simp] theorem draw_cur (s : State) : (draw s).2.cur = s.cur := rfl
@[simp] theorem draw_freshId (s : State) : (draw s).2.freshId = s.freshId := rfl
@[simp] theorem draw_freeCtr (s : State) : (draw s).2.freeCtr = s.freeCtr + 1 := rfl
@[simp] theorem draw_outbox (s : State) : (draw s).2.outbox = s.outbox := rfl

end Sys2Proof.Machine
end

