-- ==== Sys2Proof/Laws/Store.lean ====
section
/-! SUPPORT. The laws of the sparse stores: reading after writing, and that every operation keeps the canonical form. -/
namespace Sys2Proof.Machine

variable {α : Type}

theorem sget_filter_ne (d : α) (m : SMap α) (k j : Nat) :
    sget d (m.filter fun e => e.1 != k) j = if j = k then d else sget d m j := by
  induction m with
  | nil => simp [sget]
  | cons e m ih =>
    obtain ⟨a, v⟩ := e
    by_cases h : a = k
    · subst h
      simp only [List.filter_cons, bne_self_eq_false, Bool.false_eq_true, if_false, ih, sget]
      by_cases hj : j = a
      · simp [hj]
      · simp [hj, Ne.symm hj]
    · have hb : (a != k) = true := by simpa using h
      simp only [List.filter_cons, hb, if_true, sget, ih]
      by_cases hj : a = j
      · subst hj; simp [h]
      · simp [hj]

theorem sget_sput (d : α) (m : SMap α) (k j : Nat) (v : α) :
    sget d (sput m k v) j = if j = k then v else sget d m j := by
  induction m with
  | nil => simp [sput, sget, eq_comm]
  | cons e m ih =>
    obtain ⟨a, w⟩ := e
    simp only [sput]
    split
    · rename_i h
      subst h
      by_cases hj : j = a
      · simp [sget, hj]
      · simp [sget, hj, Ne.symm hj]
    · split
      · simp [sget, eq_comm]
      · simp only [sget, ih]
        by_cases hj : a = j
        · subst hj; simp_all
        · simp [hj]

/-- Reading after writing, at every key of every store. -/
theorem sget_sset [DecidableEq α] (d : α) (m : SMap α) (k j : Nat) (v : α) :
    sget d (sset d m k v) j = if j = k then v else sget d m j := by
  unfold sset
  split
  · subst_vars; exact sget_filter_ne v m k j
  · exact sget_sput d m k j v

@[simp] theorem sget_sset_self [DecidableEq α] (d : α) (m : SMap α) (k : Nat) (v : α) : sget d (sset d m k v) k = v := by
  simp [sget_sset]

theorem sget_sset_ne [DecidableEq α] (d : α) (m : SMap α) {k j : Nat} (v : α) (h : j ≠ k) :
    sget d (sset d m k v) j = sget d m j := by
  simp [sget_sset, h]

@[simp] theorem ssetN_nil [DecidableEq α] (d : α) (m : SMap α) (k : Nat) : ssetN d m k [] = m := rfl
@[simp] theorem ssetN_cons [DecidableEq α] (d : α) (m : SMap α) (k : Nat) (v : α) (vs : List α) :
    ssetN d m k (v :: vs) = ssetN d (sset d m k v) (k + 1) vs := rfl

/-- Reading after writing consecutive keys: a key of the run reads what was written to it, any other is unchanged. -/
theorem sget_ssetN [DecidableEq α] (d : α) (vs : List α) (m : SMap α) (k j : Nat) :
    sget d (ssetN d m k vs) j = if k ≤ j ∧ j < k + vs.length then vs.getD (j - k) d else sget d m j := by
  induction vs generalizing m k with
  | nil => simp
  | cons v vs ih =>
    rw [ssetN_cons, ih, sget_sset]
    by_cases hj : j = k
    · subst hj; simp
    · simp only [hj, if_false, List.length_cons]
      by_cases h : k + 1 ≤ j ∧ j < k + 1 + vs.length
      · rw [if_pos h, if_pos (by omega)]
        obtain ⟨n, rfl⟩ : ∃ n, j = k + 1 + n := ⟨j - (k + 1), by omega⟩
        rw [show k + 1 + n - (k + 1) = n by omega, show k + 1 + n - k = n + 1 by omega]
        simp
      · rw [if_neg h, if_neg (by omega)]

theorem sget_ssetN_outside [DecidableEq α] (d : α) (vs : List α) (m : SMap α) {k j : Nat} (h : ¬(k ≤ j ∧ j < k + vs.length)) :
    sget d (ssetN d m k vs) j = sget d m j := by
  rw [sget_ssetN, if_neg h]

/-! ### The canonical form -/

theorem sabove_of_le {k j : Nat} (m : SMap α) (h : k ≤ j) : sabove j m = true → sabove k m = true := by
  cases m with
  | nil => simp [sabove]
  | cons e m => simp only [sabove, decide_eq_true_eq]; omega

theorem swf_cons [DecidableEq α] (d : α) (a : Nat) (v : α) (m : SMap α) :
    swf d ((a, v) :: m) = true ↔ sabove a m = true ∧ v ≠ d ∧ swf d m = true := by
  simp [swf, and_assoc]

/-- Every key of a canonical store above `k` is above `k`, not only the first. -/
theorem sabove_all [DecidableEq α] (d : α) (m : SMap α) (k : Nat) (h : swf d m = true) (hk : sabove k m = true) :
    ∀ e ∈ m, k < e.1 := by
  induction m generalizing k with
  | nil => simp
  | cons e m ih =>
    obtain ⟨a, v⟩ := e
    rw [swf_cons] at h
    simp only [sabove, decide_eq_true_eq] at hk
    intro e he
    rcases List.mem_cons.1 he with rfl | he
    · exact hk
    · exact lt_trans hk (ih a h.2.2 h.1 e he)

theorem sabove_of_all (m : SMap α) (k : Nat) (h : ∀ e ∈ m, k < e.1) : sabove k m = true := by
  cases m with
  | nil => rfl
  | cons e m => simpa [sabove] using h e (by simp)

/-- Dropping entries keeps the canonical form. -/
theorem swf_filter [DecidableEq α] (d : α) (m : SMap α) (p : Nat × α → Bool) (h : swf d m = true) :
    swf d (m.filter p) = true := by
  induction m with
  | nil => rfl
  | cons e m ih =>
    obtain ⟨a, v⟩ := e
    rw [swf_cons] at h
    rw [List.filter_cons]
    split
    · rw [swf_cons]
      refine ⟨sabove_of_all _ _ fun e he => ?_, h.2.1, ih h.2.2⟩
      exact sabove_all d m a h.2.2 h.1 e (List.mem_filter.1 he).1
    · exact ih h.2.2

theorem sput_keys (m : SMap α) (k : Nat) (v : α) : ∀ e ∈ sput m k v, e.1 = k ∨ e ∈ m := by
  induction m with
  | nil => simp [sput]
  | cons e m ih =>
    obtain ⟨a, w⟩ := e
    simp only [sput]
    split
    · intro e he
      rcases List.mem_cons.1 he with rfl | he
      · exact .inl rfl
      · exact .inr (by simp [he])
    · split
      · intro e he
        rcases List.mem_cons.1 he with rfl | he
        · exact .inl rfl
        · exact .inr he
      · intro e he
        rcases List.mem_cons.1 he with rfl | he
        · exact .inr (by simp)
        · exact (ih e he).imp id fun h => by simp [h]

theorem swf_sput [DecidableEq α] (d : α) (m : SMap α) (k : Nat) (v : α) (hv : v ≠ d) (h : swf d m = true) :
    swf d (sput m k v) = true := by
  induction m with
  | nil => simp [sput, swf, sabove, hv]
  | cons e m ih =>
    obtain ⟨a, w⟩ := e
    have h' := (swf_cons d a w m).1 h
    simp only [sput]
    split
    · subst_vars; exact (swf_cons d _ v m).2 ⟨h'.1, hv, h'.2.2⟩
    · split
      · exact (swf_cons d k v _).2 ⟨by simpa [sabove], hv, h⟩
      · refine (swf_cons d a w _).2 ⟨sabove_of_all _ _ fun e he => ?_, h'.2.1, ih h'.2.2⟩
        rcases sput_keys m k v e he with hk | hm
        · omega
        · exact sabove_all d m a h'.2.2 h'.1 e hm

/-- Writing a key keeps the canonical form. -/
theorem swf_sset [DecidableEq α] (d : α) (m : SMap α) (k : Nat) (v : α) (h : swf d m = true) : swf d (sset d m k v) = true := by
  unfold sset
  split
  · exact swf_filter d m _ h
  · exact swf_sput d m k v ‹_› h

/-- Writing consecutive keys keeps the canonical form. -/
theorem swf_ssetN [DecidableEq α] (d : α) (vs : List α) (m : SMap α) (k : Nat) (h : swf d m = true) :
    swf d (ssetN d m k vs) = true := by
  induction vs generalizing m k with
  | nil => exact h
  | cons v vs ih => exact ih _ _ (swf_sset d m k v h)

/-- Removing a range keeps the canonical form. -/
theorem swf_sclear [DecidableEq α] (d : α) (lo len : Nat) (m : SMap α) (h : swf d m = true) :
    swf d (sclear lo len m) = true := swf_filter d m _ h

/-- Two canonical stores that read alike at every key are the same store. -/
theorem swf_ext [DecidableEq α] (d : α) (m n : SMap α) (hm : swf d m = true) (hn : swf d n = true)
    (h : ∀ k, sget d m k = sget d n k) : m = n := by
  have low : ∀ (l : SMap α) (k : Nat), (∀ e ∈ l, k < e.1) → sget d l k = d := by
    intro l k hl
    induction l with
    | nil => rfl
    | cons e l ih =>
      obtain ⟨a, v⟩ := e
      have ha := hl (a, v) (by simp)
      have : a ≠ k := by simp at ha; omega
      simpa [sget, this] using ih fun e he => hl e (by simp [he])
  induction m generalizing n with
  | nil =>
    cases n with
    | nil => rfl
    | cons e n =>
      obtain ⟨a, v⟩ := e
      have := h a
      rw [swf_cons] at hn
      simp [sget] at this
      exact absurd this.symm hn.2.1
  | cons e m ih =>
    obtain ⟨a, v⟩ := e
    have hm' := (swf_cons d a v m).1 hm
    have ma := sabove_all d m a hm'.2.2 hm'.1
    cases n with
    | nil =>
      have := h a
      simp [sget] at this
      exact absurd this hm'.2.1
    | cons e n =>
      obtain ⟨b, w⟩ := e
      have hn' := (swf_cons d b w n).1 hn
      have nb := sabove_all d n b hn'.2.2 hn'.1
      have hab : a = b := by
        rcases lt_trichotomy a b with hlt | heq | hgt
        · exfalso
          have := h a
          rw [low ((b, w) :: n) a (by intro e he; rcases List.mem_cons.1 he with rfl | he; exact hlt; exact lt_trans hlt (nb e he))] at this
          simp [sget] at this
          exact hm'.2.1 this
        · exact heq
        · exfalso
          have := h b
          rw [low ((a, v) :: m) b (by intro e he; rcases List.mem_cons.1 he with rfl | he; exact hgt; exact lt_trans hgt (ma e he))] at this
          simp [sget] at this
          exact hn'.2.1 this.symm
      subst hab
      have hv : v = w := by simpa [sget] using h a
      subst hv
      rw [ih n hm'.2.2 hn'.2.2 fun k => ?_]
      by_cases hk : k = a
      · subst hk; rw [low m k ma, low n k nb]
      · have := h k
        simpa [sget, Ne.symm hk] using this

end Sys2Proof.Machine
end

