-- ==== Sys2Proof/Laws/Issue.lean ====
section
/-! SUPPORT. What issuing an instruction can come to: the one lemma for an instruction that is ready, and the one that says an
issue always answers a next state. -/
namespace Sys2Proof.Machine

/-- What a body's end means for the issue. -/
def bodyEnd (s : State) (x : Ex) : Except Stop State → State
  | .ok t => t
  | .error (.trap t) => raiseOn s x.who t x.p.pc
  | .error (.hold t) => t

@[simp] theorem bodyEnd_ok (s t : State) (x : Ex) : bodyEnd s x (.ok t) = t := rfl
@[simp] theorem bodyEnd_trap (s : State) (x : Ex) (t : Trap) : bodyEnd s x (.error (.trap t)) = raiseOn s x.who t x.p.pc := rfl
@[simp] theorem bodyEnd_hold (s t : State) (x : Ex) : bodyEnd s x (.error (.hold t)) = t := rfl

/-- An issuer's executor carries that issuer. -/
theorem exOf_who {s : State} {e : Issuer} {x : Ex} (h : exOf s e = some x) : x.who = e := by
  cases e with
  | grp gid slot =>
    simp only [exOf] at h
    split at h
    · cases h
    · split at h <;> cases h
      rfl
  | qthr d t =>
    simp only [exOf] at h
    split at h
    · cases h
    · split at h <;> cases h
      rfl
  | copyc d k =>
    simp only [exOf] at h
    split at h
    · cases h
    · split at h <;> cases h
      rfl

/-- The executor of a group's slot has that group and the path of that slot. -/
theorem exOf_grp {s : State} {gid slot : Nat} {x : Ex} (h : exOf s (.grp gid slot) = some x) :
    ∃ g, grp? s gid = some g ∧ x.g = some g ∧ (if slot = 0 then g.stack.a else g.stack.b) = some x.p ∧
      x.die = g.die ∧ x.core = g.core ∧ x.user = g.frames.isEmpty ∧ x.pasid = groupPasid s g := by
  simp only [exOf] at h
  split at h
  · cases h
  · rename_i g hg
    split at h
    · cases h
    · rename_i p hp
      cases h
      exact ⟨g, hg, rfl, hp, rfl, rfl, rfl, rfl⟩

/-- An executor that a word for groups only admits is a group's path. -/
theorem ready_group {s : State} {x : Ex} {r : Rule} {u : Use} {h : Option Head} (hr : Ready s x r u h) (hq : r.q = false)
    (hc : r.c = false) : ∃ gid slot g, x.who = .grp gid slot ∧ grp? s gid = some g ∧ x.g = some g := by
  have hl := hr.listed
  have hh := hr.here
  cases hw : x.who with
  | grp gid slot =>
    rw [hw] at hh
    obtain ⟨g, hg, hx, -⟩ := exOf_grp hh
    exact ⟨gid, slot, g, rfl, hg, hx⟩
  | qthr d t => simp [hw, Rule.admits, hq] at hl
  | copyc d k => simp [hw, Rule.admits, hc] at hl

@[simp] theorem active_some {x : Ex} {g : Group} (hx : x.g = some g) (h : Head) : x.active (some h) = activeOf g x.p h := by
  simp [Ex.active, hx]

theorem withGroup_some {x : Ex} {g : Group} (hx : x.g = some g) (f : Ex → Group → Except Stop State) :
    withGroup f x = f x g := by
  simp [withGroup, hx]

/-- No check turns a ready instruction away. -/
theorem checks_ready {s : State} {x : Ex} {r : Rule} {u : Use} {h : Option Head} (hr : Ready s x r u h) :
    checks r u h x = none := by
  have h1 := hr.listed
  have h2 := hr.budget
  have h3 := hr.legal
  have h4 := hr.mode
  have h5 := hr.role
  have h6 := hr.whole
  have h7 := hr.clear
  have h8 := hr.clean
  have h9 : (r.ctl && x.p.left != 1) = false := by
    cases hc : r.ctl with
    | false => rfl
    | true => simp [hr.last hc]
  simp only [checks, h1, h2, h3, h4, h5, h6, h9]
  cases hh : r.hint with
  | true =>
    simp
    exact hr.kept
  | false =>
    simp [h7 hh, h8 hh]
    exact hr.kept

/-- A ready instruction has its own effect. -/
theorem issue_ready {s : State} {x : Ex} {r : Rule} {u : Use} {h : Option Head} (hr : Ready s x r u h) (body : Body) :
    issue s r u h body = .next (bodyEnd s x (body x)) := by
  simp only [issue, hr.cur, hr.here, hr.free, checks_ready hr]
  cases body x with
  | ok t => rfl
  | error e => cases e <;> rfl

/-- What a ready lane-wise word does. -/
theorem issue_lanes {s : State} {x : Ex} {r : Rule} {u : Use} {h : Head} (hr : Ready s x r u (some h)) (hq : r.q = false)
    (hc : r.c = false) (f : Group → Path → Mask → Group) :
    issue s r u (some h) (laneBody s h f) = .next (advance (onGroup s x fun g => f g x.p (x.active (some h))) x) := by
  obtain ⟨gid, slot, g, -, -, hx⟩ := ready_group hr hq hc
  rw [issue_ready hr, laneBody, withGroup_some hx, bodyEnd_ok]
  simp [active_some hx]

/-- An issue stops only when no executor issues. -/
theorem issue_next {s : State} {e : Issuer} (hc : s.cur = some e) (r : Rule) (u : Use) (h : Option Head) (body : Body) :
    ∃ t, issue s r u h body = .next t := by
  unfold issue
  simp only [hc]
  split
  · exact ⟨_, rfl⟩
  · split
    · exact ⟨_, rfl⟩
    · split
      · exact ⟨_, rfl⟩
      · split <;> exact ⟨_, rfl⟩

end Sys2Proof.Machine
end

