-- ==== Sys2Proof/Laws/Frame.lean ====
section
/-! SUPPORT. What the end of an instruction changes: only executors and what their packets are charged for, and of the issuing
group only its paths. -/
namespace Sys2Proof.Machine

/-! ### Records by their names -/

theorem find?_modWhere {α : Type} (l : List α) (p q : α → Bool) (f : α → α) (hq : ∀ a, q (f a) = q a) :
    (modWhere l p f).find? q = (l.find? q).map fun a => if p a then f a else a := by
  induction l with
  | nil => rfl
  | cons a l ih =>
    simp only [modWhere, List.map_cons, List.find?_cons] at ih ⊢
    have : q (if p a then f a else a) = q a := by split <;> simp [hq]
    rw [this]
    cases q a <;> simp_all

/-- A group after one group has been changed. -/
theorem grp?_modGrp (s : State) (gid k : Nat) (f : Group → Group) (hf : ∀ g, (f g).gid = g.gid) :
    grp? (modGrp s gid f) k = (grp? s k).map fun g => if g.gid = gid then f g else g := by
  rw [grp?, modGrp_groups, find?_modWhere _ _ _ _ (by simp [hf])]
  simp [grp?]

theorem grp?_gid {s : State} {k : Nat} {g : Group} (h : grp? s k = some g) : g.gid = k := by
  simpa [grp?] using List.find?_some h

theorem grp?_modGrp_self {s : State} {gid : Nat} {g : Group} (f : Group → Group) (hf : ∀ g, (f g).gid = g.gid)
    (h : grp? s gid = some g) : grp? (modGrp s gid f) gid = some (f g) := by
  rw [grp?_modGrp s gid gid f hf, h]
  simp [grp?_gid h]

theorem grp?_modGrp_ne {s : State} {gid k : Nat} (f : Group → Group) (hf : ∀ g, (f g).gid = g.gid) (h : k ≠ gid) :
    grp? (modGrp s gid f) k = grp? s k := by
  rw [grp?_modGrp s gid k f hf]
  cases hk : grp? s k with
  | none => rfl
  | some g => simp [grp?_gid hk, h]

@[simp] theorem modPid_gid (g : Group) (pid : Nat) (f : Path → Path) : (g.modPid pid f).gid = g.gid := rfl

/-! ### Only executors -/

theorem OnlyExecutors.refl (s : State) : OnlyExecutors s s := rfl

theorem OnlyExecutors.trans {a b c : State} (h : OnlyExecutors a b) (k : OnlyExecutors b c) : OnlyExecutors a c := by
  unfold OnlyExecutors at *
  rw [k, h]

theorem onlyExecutors_modGrp (s : State) (n : Nat) (f : Group → Group) : OnlyExecutors s (modGrp s n f) := rfl
theorem onlyExecutors_modQt (s : State) (d n : Nat) (f : QThread → QThread) : OnlyExecutors s (modQt s d n f) := rfl
theorem onlyExecutors_modCc (s : State) (d n : Nat) (f : CopyCtx → CopyCtx) : OnlyExecutors s (modCc s d n f) := rfl
theorem onlyExecutors_modQueue (s : State) (d n : Nat) (f : Queue → Queue) : OnlyExecutors s (modQueue s d n f) := rfl

theorem onlyExecutors_modPath (s : State) (e : Issuer) (pid : Nat) (f : Path → Path) : OnlyExecutors s (modPath s e pid f) := by
  cases e <;> rfl

theorem onlyExecutors_noteRan (s : State) (g : Group) : OnlyExecutors s (noteRan s g) := by
  unfold noteRan
  split
  · rfl
  · split <;> rfl

theorem onlyExecutors_noteIssue (s : State) (x : Ex) : OnlyExecutors s (noteIssue s x) := by
  unfold noteIssue
  split
  · simp only []
    split
    · rfl
    · exact (onlyExecutors_modGrp s _ _).trans (onlyExecutors_noteRan _ _)
  · rfl

theorem onlyExecutors_settle (s : State) (gid : Nat) : OnlyExecutors s (settle s gid) := by
  unfold settle
  split <;> rfl

theorem onlyExecutors_settleArrived (s : State) (x : Ex) : OnlyExecutors s (settleArrived s x) := by
  unfold settleArrived
  split
  · split
    · exact onlyExecutors_settle _ _
    · rfl
  · rfl

/-- The end of an instruction changes executors and what their packets are charged for, nothing else. -/
theorem onlyExecutors_advance (s : State) (x : Ex) : OnlyExecutors s (advance s x) :=
  ((onlyExecutors_noteIssue s x).trans (onlyExecutors_modPath _ _ _ _)).trans (onlyExecutors_settleArrived _ _)

/-- A control transfer changes executors and what their packets are charged for, nothing else. -/
theorem onlyExecutors_transfer (s : State) (x : Ex) (h : W64) : OnlyExecutors s (transfer s x h) :=
  ((onlyExecutors_noteIssue s x).trans (onlyExecutors_modPath _ _ _ _)).trans (onlyExecutors_settleArrived _ _)

theorem onlyExecutors_onGroup (s : State) (x : Ex) (f : Group → Group) : OnlyExecutors s (onGroup s x f) := by
  unfold onGroup
  split <;> rfl

theorem onlyExecutors_setS (s : State) (x : Ex) (r : SReg) (v : W64) : OnlyExecutors s (setS s x r v) :=
  onlyExecutors_modPath _ _ _ _

theorem OnlyExecutors.sameMemory {s t : State} (h : OnlyExecutors s t) : SameMemory s t := by
  rw [h]
  exact ⟨fun _ => rfl, fun _ => rfl, fun _ => rfl, fun _ _ => rfl⟩

/-! ### The operations outstanding -/

theorem ops_modPath (s : State) (e : Issuer) (pid : Nat) (f : Path → Path) : (modPath s e pid f).ops = s.ops := by cases e <;> rfl
theorem ops_noteIssue (s : State) (x : Ex) : (noteIssue s x).ops = s.ops := by
  unfold noteIssue
  split
  · simp only []
    split
    · rfl
    · unfold noteRan
      split
      · rfl
      · split <;> rfl
  · rfl
theorem ops_settleArrived (s : State) (x : Ex) : (settleArrived s x).ops = s.ops := by
  unfold settleArrived settle
  split
  · split
    · split <;> rfl
    · rfl
  · rfl
theorem ops_advance (s : State) (x : Ex) : (advance s x).ops = s.ops := by
  rw [advance, ops_settleArrived, ops_modPath, ops_noteIssue]

/-! ### The issuing group -/

/-- What an end of an instruction may change of a group: its paths and its count. -/
structure PathsOnly (g g' : Group) : Prop extends SameSpecials g g' where
  gid    : g'.gid = g.gid
  vregs  : g'.vregs = g.vregs
  vpois  : g'.vpois = g.vpois
  masks  : g'.masks = g.masks
  fpfl   : g'.fpfl = g.fpfl
  levels : g'.frames.map Frame.kept = g.frames.map Frame.kept

theorem PathsOnly.refl (g : Group) : PathsOnly g g := ⟨⟨rfl, rfl, rfl, rfl, rfl, rfl, rfl⟩, rfl, rfl, rfl, rfl, rfl, rfl⟩

theorem PathsOnly.trans {a b c : Group} (h : PathsOnly a b) (k : PathsOnly b c) : PathsOnly a c :=
  ⟨⟨k.barst.trans h.barst, k.mstat.trans h.mstat, k.mrp.trans h.mrp, k.htb.trans h.htb, k.regs.trans h.regs,
    k.exited.trans h.exited, k.gstat.trans h.gstat⟩, k.gid.trans h.gid, k.vregs.trans h.vregs, k.vpois.trans h.vpois,
    k.masks.trans h.masks, k.fpfl.trans h.fpfl, k.levels.trans h.levels⟩

theorem pathsOnly_modPid (g : Group) (pid : Nat) (f : Path → Path) : PathsOnly g (g.modPid pid f) := by
  refine ⟨⟨rfl, rfl, rfl, rfl, rfl, rfl, rfl⟩, rfl, rfl, rfl, rfl, rfl, ?_⟩
  simp [Group.modPid, Frame.kept, Function.comp_def]

/-- A change of every group with an identifier that leaves all but the paths leaves all but the paths of that group. -/
theorem pathsOnly_modGrp {s : State} {gid : Nat} {g : Group} (f : Group → Group) (hf : ∀ g, PathsOnly g (f g))
    (h : grp? s gid = some g) : ∃ g', grp? (modGrp s gid f) gid = some g' ∧ PathsOnly g g' :=
  ⟨f g, grp?_modGrp_self f (fun g => (hf g).gid) h, hf g⟩

theorem grp?_noteRan (s : State) (g : Group) (k : Nat) : grp? (noteRan s g) k = grp? s k := by
  unfold noteRan
  split
  · rfl
  · split <;> rfl

theorem pathsOnly_noteIssue {s : State} {x : Ex} {gid : Nat} {g : Group} (h : grp? s gid = some g) :
    ∃ g', grp? (noteIssue s x) gid = some g' ∧ PathsOnly g g' := by
  unfold noteIssue
  split
  · rename_i k slot g1 hw hx
    have hf : ∀ g : Group, PathsOnly g { g with issued := g.issued + 1 } := fun g =>
      ⟨⟨rfl, rfl, rfl, rfl, rfl, rfl, rfl⟩, rfl, rfl, rfl, rfl, rfl, rfl⟩
    have key : ∃ g', grp? (modGrp s k fun g => { g with issued := g.issued + 1 }) gid = some g' ∧
        PathsOnly g g' := by
      by_cases hk : gid = k
      · subst hk; exact pathsOnly_modGrp _ hf h
      · refine ⟨g, ?_, .refl g⟩
        exact Eq.trans (grp?_modGrp_ne _ (by intro; rfl) hk) h
    simp only []
    split
    · exact key
    · rw [grp?_noteRan]; exact key
  · exact ⟨g, h, .refl g⟩

theorem or_one_and (a : W64) : (a ||| 1#64) &&& ~~~1#64 = a &&& ~~~1#64 := by
  apply BitVec.eq_of_getLsbD_eq
  intro i hi
  simp only [BitVec.getLsbD_and, BitVec.getLsbD_or, BitVec.getLsbD_not, hi, decide_true, Bool.true_and]
  cases a.getLsbD i <;> cases (1#64).getLsbD i <;> rfl

theorem pathsOnly_settle {s : State} {gid : Nat} {g : Group} (k : Nat) (h : grp? s gid = some g) :
    ∃ g', grp? (settle s k) gid = some g' ∧ PathsOnly g g' := by
  unfold settle
  split
  · exact ⟨g, h, .refl g⟩
  · rename_i g1 hg1
    generalize hm : mergeAll (clk s g1.die) (g1.stack.rest.length + 1) (s.freshId, g1.stack, false) = m
    obtain ⟨id, st, diff⟩ := m
    simp only []
    have h' : grp? { s with freshId := id } gid = some g := h
    have hf : ∀ a : Group, PathsOnly a
        { a with stack := rotateParked (clk s a.die) st, gstat := if diff then a.gstat ||| 1 else a.gstat } := fun a => by
      refine ⟨⟨rfl, rfl, rfl, rfl, rfl, rfl, ?_⟩, rfl, rfl, rfl, rfl, rfl, rfl⟩
      simp only []
      split
      · exact or_one_and _
      · rfl
    by_cases hk : gid = k
    · subst hk; exact pathsOnly_modGrp _ hf h'
    · refine ⟨g, ?_, .refl g⟩
      exact Eq.trans (grp?_modGrp_ne _ (by intro; rfl) hk) h'

theorem pathsOnly_settleArrived {s : State} {x : Ex} {gid : Nat} {g : Group} (h : grp? s gid = some g) :
    ∃ g', grp? (settleArrived s x) gid = some g' ∧ PathsOnly g g' := by
  unfold settleArrived
  split
  · split
    · exact pathsOnly_settle _ h
    · exact ⟨g, h, .refl g⟩
  · exact ⟨g, h, .refl g⟩

theorem pathsOnly_modPath {s : State} {gid : Nat} {g : Group} (e : Issuer) (pid : Nat) (f : Path → Path) (h : grp? s gid = some g) :
    ∃ g', grp? (modPath s e pid f) gid = some g' ∧ PathsOnly g g' := by
  cases e with
  | grp k slot =>
    by_cases hk : gid = k
    · subst hk; exact pathsOnly_modGrp _ (fun g => pathsOnly_modPid g pid f) h
    · refine ⟨g, ?_, .refl g⟩
      exact Eq.trans (grp?_modGrp_ne _ (by intro; rfl) hk) h
  | qthr d t => exact ⟨g, h, .refl g⟩
  | copyc d k => exact ⟨g, h, .refl g⟩

/-- The end of an instruction changes no register of any group. -/
theorem pathsOnly_advance {s : State} {gid : Nat} {g : Group} (x : Ex) (h : grp? s gid = some g) :
    ∃ g', grp? (advance s x) gid = some g' ∧ PathsOnly g g' := by
  obtain ⟨a, ha, pa⟩ := pathsOnly_noteIssue (x := x) h
  obtain ⟨b, hb, pb⟩ := pathsOnly_modPath x.who x.p.pid (stepPath (clkOf s x.who) (endsAtHeader s x)) ha
  obtain ⟨c, hc, pc⟩ := pathsOnly_settleArrived (x := x) hb
  exact ⟨c, hc, (pa.trans pb).trans pc⟩

/-! ### The issuing path -/

/-- An executor that stands at its path. -/
theorem exOf_path {s : State} {e : Issuer} {x : Ex} (h : exOf s e = some x) : pathOf s e = some x.p := by
  cases e with
  | grp gid slot =>
    obtain ⟨g, hg, -, hp, -⟩ := exOf_grp h
    simp only [pathOf, hg, hp]
  | qthr d t =>
    simp only [exOf] at h
    split at h
    · cases h
    · rename_i q hq
      split at h
      · cases h
      · rename_i p hp
        cases h
        simp only [pathOf, hq, hp]
  | copyc d k =>
    simp only [exOf] at h
    split at h
    · cases h
    · rename_i q hq
      split at h
      · cases h
      · rename_i p hp
        cases h
        simp only [pathOf, hq, hp]

theorem qt?_modQt (s : State) (d t : Nat) (f : QThread → QThread) (hd : ∀ q, (f q).die = q.die ∧ (f q).t = q.t) (e k : Nat) :
    qt? (modQt s d t f) e k = (qt? s e k).map fun q => if q.die = d ∧ q.t = t then f q else q := by
  rw [qt?, modQt_qthreads, find?_modWhere _ _ _ _ (by simp [hd])]
  simp [qt?]

theorem cc?_modCc (s : State) (d k : Nat) (f : CopyCtx → CopyCtx) (hd : ∀ c, (f c).die = c.die ∧ (f c).k = c.k) (e j : Nat) :
    cc? (modCc s d k f) e j = (cc? s e j).map fun c => if c.die = d ∧ c.k = k then f c else c := by
  rw [cc?, modCc_copies, find?_modWhere _ _ _ _ (by simp [hd])]
  simp [cc?]

theorem qt?_key {s : State} {d t : Nat} {q : QThread} (h : qt? s d t = some q) : q.die = d ∧ q.t = t := by
  simpa [qt?] using List.find?_some h

theorem cc?_key {s : State} {d k : Nat} {c : CopyCtx} (h : cc? s d k = some c) : c.die = d ∧ c.k = k := by
  simpa [cc?] using List.find?_some h

/-- The path an issuer names after a change of that path. -/
theorem pathOf_modPath {s : State} {e : Issuer} {p : Path} {pid : Nat} (f : Path → Path) (h : pathOf s e = some p) (hp : p.pid = pid) :
    pathOf (modPath s e pid f) e = some (f p) := by
  cases e with
  | grp gid slot =>
    simp only [pathOf] at h
    split at h
    · rename_i g hg
      have hk := grp?_modGrp_self (fun g => g.modPid pid f) (fun _ => rfl) hg
      simp only [pathOf, modPath, hk]
      simp only [Group.modPid, Stack.modPid]
      split <;> simp_all
    · cases h
  | qthr d t =>
    simp only [pathOf] at h
    split at h
    · rename_i q hq
      simp only [pathOf, modPath]
      rw [qt?_modQt, hq]
      · simp [qt?_key hq, h, hp]
      · intro q; exact ⟨rfl, rfl⟩
    · cases h
  | copyc d k =>
    simp only [pathOf] at h
    split at h
    · rename_i q hq
      simp only [pathOf, modPath]
      rw [cc?_modCc, hq]
      · simp [cc?_key hq, h, hp]
      · intro q; exact ⟨rfl, rfl⟩
    · cases h

theorem pathOf_noteRan (s : State) (g : Group) (e : Issuer) : pathOf (noteRan s g) e = pathOf s e := by
  unfold noteRan
  split
  · rfl
  · split
    · rfl
    · cases e <;> rfl

/-- A change of groups that leaves their stacks leaves every path. -/
theorem pathOf_modGrp (s : State) (gid : Nat) (f : Group → Group) (hf : ∀ g, (f g).gid = g.gid ∧ (f g).stack = g.stack) (e : Issuer) :
    pathOf (modGrp s gid f) e = pathOf s e := by
  cases e with
  | grp k slot =>
    simp only [pathOf]
    rw [grp?_modGrp _ _ _ _ fun g => (hf g).1]
    cases grp? s k with
    | none => rfl
    | some g =>
      simp only [Option.map_some]
      by_cases hk : g.gid = gid
      · simp [hk, hf]
      · simp [hk]
  | qthr d t => rfl
  | copyc d k => rfl

theorem pathOf_noteIssue (s : State) (x : Ex) (e : Issuer) : pathOf (noteIssue s x) e = pathOf s e := by
  unfold noteIssue
  split
  · have key : ∀ n, pathOf (modGrp s n fun g => { g with issued := g.issued + 1 }) e = pathOf s e := fun n => by
      apply pathOf_modGrp
      intro g; exact ⟨rfl, rfl⟩
    simp only []
    split
    · exact key _
    · rw [pathOf_noteRan]; exact key _
  · rfl

theorem pathOf_onGroup (s : State) (x : Ex) (f : Group → Group) (hf : ∀ g, (f g).gid = g.gid ∧ (f g).stack = g.stack) (e : Issuer) :
    pathOf (onGroup s x f) e = pathOf s e := by
  unfold onGroup
  split
  · exact pathOf_modGrp _ _ _ hf _
  · rfl

@[simp] theorem stepPath_pc (now : Nat) (ok : Bool) (p : Path) : (stepPath now ok p).pc = p.pc + 8 := by unfold stepPath; simp only []; split <;> rfl
@[simp] theorem stepPath_left (now : Nat) (ok : Bool) (p : Path) : (stepPath now ok p).left = p.left - 1 := by unfold stepPath; simp only []; split <;> rfl
@[simp] theorem stepPath_view (now : Nat) (ok : Bool) (p : Path) : (stepPath now ok p).view = p.view := by unfold stepPath; simp only []; split <;> rfl
@[simp] theorem stepPath_spois (now : Nat) (ok : Bool) (p : Path) : (stepPath now ok p).spois = p.spois := by unfold stepPath; simp only []; split <;> rfl
@[simp] theorem stepPath_mask (now : Nat) (ok : Bool) (p : Path) : (stepPath now ok p).mask = p.mask := by unfold stepPath; simp only []; split <;> rfl
@[simp] theorem stepPath_pid (now : Nat) (ok : Bool) (p : Path) : (stepPath now ok p).pid = p.pid := by unfold stepPath; simp only []; split <;> rfl

/-- A path that does not arrive goes on in the state it had. -/
theorem stepPath_wait {now : Nat} {ok : Bool} {p : Path} (h : 1 < p.left ∨ p.reconv ≠ some (p.pc + 8)) : (stepPath now ok p).wait = p.wait := by
  unfold stepPath
  simp only []
  split
  · rename_i h0
    rcases h with h | h
    · omega
    · exact if_neg fun h' => h h'.1
  · rfl

/-- The path of an executor after an instruction that does not end at the path's reconvergence header. -/
theorem pathOf_advance {s : State} {x : Ex} {p : Path} (h : pathOf s x.who = some p) (hp : p.pid = x.p.pid)
    (hw : p.wait = .run) (hl : 1 < p.left ∨ p.reconv ≠ some (p.pc + 8)) :
    ∃ now ok, pathOf (advance s x) x.who = some (stepPath now ok p) := by
  refine ⟨clkOf s x.who, endsAtHeader s x, ?_⟩
  have h1 : pathOf (noteIssue s x) x.who = some p := by rw [pathOf_noteIssue]; exact h
  have h2 := pathOf_modPath (stepPath (clkOf s x.who) (endsAtHeader s x)) h1 hp
  unfold advance settleArrived
  split
  · rename_i gid slot hx
    rw [h2]
    have : (stepPath (clkOf s x.who) (endsAtHeader s x) p).wait ≠ .arrived := by rw [stepPath_wait hl, hw]; decide
    simp [this, h2]
  · exact h2

/-- The executor's path after a scalar register of it has been written. -/
theorem pathOf_setS {s : State} {x : Ex} (h : pathOf s x.who = some x.p) (r : SReg) (v : W64) :
    pathOf (setS s x r v) x.who = some (wrS x.p r.toNat v) := pathOf_modPath _ h rfl

/-- Reading a scalar register after writing one. -/
theorem rdS_wrS (p : Path) (r q : SReg) (v : W64) : rdS (wrS p r.toNat v) q = if q = r then v else rdS p q := by
  simp only [rdS, wrS, sget_sset]
  by_cases h : q = r
  · simp [h]
  · rw [if_neg h, if_neg fun h' => h (BitVec.eq_of_toNat_eq h')]

end Sys2Proof.Machine
end

