-- ==== Sys2Proof/Laws/Lanes.lean ====
section
/-! SUPPORT. Lanes, masks and vector registers: what a write of a lane, a list of lane writes and a mask write change, and what
they leave. -/
namespace Sys2Proof.Machine

/-! ### Bits of a mask -/

theorem getLsbD_bit (i j : Nat) (hi : i < 64) : (BitVec.ofNat 64 (2 ^ i)).getLsbD j = decide (j = i) := by
  rw [BitVec.getLsbD_ofNat, Nat.testBit_two_pow]
  by_cases h : j = i
  · subst h; simp [hi]
  · simp [h, Ne.symm h]

/-- Setting or clearing one lane of a mask. -/
theorem putBit_get (m : Mask) (i j : Nat) (b : Bool) (hi : i < 64) :
    (putBit m i b).getLsbD j = if j = i then b else m.getLsbD j := by
  unfold putBit
  cases b with
  | true =>
    simp only [if_true, BitVec.getLsbD_or, getLsbD_bit i j hi]
    by_cases h : j = i <;> simp [h]
  | false =>
    simp only [Bool.false_eq_true, if_false, BitVec.getLsbD_and, BitVec.getLsbD_not, getLsbD_bit i j hi]
    by_cases h : j = i
    · simp [h]
    · by_cases hj : j < 64
      · simp [h, hj]
      · simp [h, BitVec.getLsbD_of_ge m j (by omega)]

theorem mem_lanesOf (m : Mask) (i : Nat) : i ∈ lanesOf m ↔ m.getLsbD i = true := by
  simp only [lanesOf, List.mem_filter, List.mem_range, and_iff_right_iff_imp]
  intro h
  by_contra hi
  rw [BitVec.getLsbD_of_ge m i (by omega)] at h
  cases h

theorem lanesOf_lt {m : Mask} {i : Nat} (h : i ∈ lanesOf m) : i < 64 := by
  simp only [lanesOf, List.mem_filter, List.mem_range] at h
  exact h.1

/-! ### One lane -/

/-- Reading a lane of a vector register after a lane has been written. -/
theorem rdV_wrVP (g : Group) (r r' i i' : Nat) (v : W32) (b : Bool) (hi : i < 64) (hi' : i' < 64) :
    rdV (wrVP g r i v b) r' i' = if r' = r ∧ i' = i then v else rdV g r' i' := by
  have key : (r' * 64 + i' = r * 64 + i) ↔ (r' = r ∧ i' = i) := by omega
  unfold wrVP
  cases hf : g.frames with
  | nil => simp only [rdV, hf, sget_sset, key]
  | cons f fs =>
    simp only []
    by_cases hr : 248 ≤ r
    · simp only [if_pos hr, rdV, sget_sset, key, hf]
      by_cases hr' : 248 ≤ r'
      · simp [hr']
      · have : r' ≠ r := by omega
        simp [hr', this]
    · simp only [if_neg hr, rdV, sget_sset, key, hf]
      by_cases hr' : 248 ≤ r'
      · have : r' ≠ r := by omega
        simp [hr', this]
      · simp [hr']

/-- The marks of a vector register after a lane has been written. -/
theorem vMarks_wrVP (g : Group) (r r' i i' : Nat) (v : W32) (b : Bool) (hi : i < 64) :
    (vMarks (wrVP g r i v b) r').getLsbD i' = if r' = r ∧ i' = i then b else (vMarks g r').getLsbD i' := by
  have key : ∀ m : SMap Mask, (sget 0 (sset 0 m r (putBit (sget 0 m r) i b)) r').getLsbD i' =
      if r' = r ∧ i' = i then b else (sget 0 m r').getLsbD i' := by
    intro m
    rw [sget_sset]
    by_cases h : r' = r
    · subst h; rw [if_pos rfl, putBit_get _ _ _ _ hi]; simp
    · simp [h]
  unfold wrVP
  cases hf : g.frames with
  | nil => simp only [vMarks, hf]; exact key _
  | cons f fs =>
    simp only []
    by_cases hr : 248 ≤ r
    · simp only [if_pos hr, vMarks, hf]
      by_cases hr' : 248 ≤ r'
      · simp only [if_pos hr']; exact key _
      · have : r' ≠ r := by omega
        simp [hr', this]
    · simp only [if_neg hr, vMarks, hf]
      by_cases hr' : 248 ≤ r'
      · have : r' ≠ r := by omega
        simp [hr', this]
      · simp only [if_neg hr']; exact key _

/-! ### What a write of registers may change of a group -/

/-- Only lanes `act` of the vector registers `vd`, lanes `act` of the masks `md`, and (if `fp`) flags that become set. -/
structure LanesOnly (g g' : Group) (vd md : List Nat) (act : Mask) (fp : Bool) : Prop extends SameSpecials g g' where
  gid   : g'.gid = g.gid
  stack : g'.stack = g.stack
  vec   : ∀ r i, i < 64 → (r ∈ vd → act.getLsbD i = false) →
    rdV g' r i = rdV g r i ∧ (vMarks g' r).getLsbD i = (vMarks g r).getLsbD i
  mask  : ∀ m i, i < 64 → (m ∈ md → act.getLsbD i = false) → (sget 0 g'.masks m).getLsbD i = (sget 0 g.masks m).getLsbD i
  flags : fp = false → g'.fpfl = g.fpfl
  stick : g.fpfl &&& ~~~ g'.fpfl = 0
  bits  : (g.fpfl ^^^ g'.fpfl) &&& ~~~ fpflMask = 0

theorem and_not_self' (a : W64) : a &&& ~~~ a = 0 := by simp

theorem LanesOnly.refl (g : Group) (vd md : List Nat) (act : Mask) (fp : Bool) : LanesOnly g g vd md act fp :=
  ⟨⟨rfl, rfl, rfl, rfl, rfl, rfl, rfl⟩, rfl, rfl, fun _ _ _ _ => ⟨rfl, rfl⟩, fun _ _ _ _ => rfl, fun _ => rfl, by simp, by simp⟩

theorem wrVP_specials (g : Group) (r i : Nat) (v : W32) (b : Bool) : SameSpecials g (wrVP g r i v b) ∧
    (wrVP g r i v b).gid = g.gid ∧ (wrVP g r i v b).stack = g.stack ∧ (wrVP g r i v b).masks = g.masks ∧
    (wrVP g r i v b).fpfl = g.fpfl := by
  unfold wrVP
  split
  · split <;> exact ⟨⟨rfl, rfl, rfl, rfl, rfl, rfl, rfl⟩, rfl, rfl, rfl, rfl⟩
  · exact ⟨⟨rfl, rfl, rfl, rfl, rfl, rfl, rfl⟩, rfl, rfl, rfl, rfl⟩

/-- A list of lane writes to the registers `vd` in the lanes `act`. -/
theorem lanesOnly_aluVec (wv : List (Nat × W32)) (g : Group) (vd md : List Nat) (act : Mask) (fp : Bool)
    (h : ∀ e ∈ wv, e.1 / 64 ∈ vd ∧ act.getLsbD (e.1 % 64) = true) : LanesOnly g (aluVec g wv) vd md act fp := by
  induction wv generalizing g with
  | nil => exact .refl ..
  | cons e wv ih =>
    have k := ih (wrV g (e.1 / 64) (e.1 % 64) e.2) fun a ha => h a (List.mem_cons_of_mem _ ha)
    obtain ⟨sp, hg, hs, hm, hf⟩ := wrVP_specials g (e.1 / 64) (e.1 % 64) e.2 false
    obtain ⟨hv, hact⟩ := h e (by simp)
    have lt : e.1 % 64 < 64 := Nat.mod_lt _ (by decide)
    show LanesOnly g (aluVec (wrV g (e.1 / 64) (e.1 % 64) e.2) wv) vd md act fp
    refine ⟨⟨k.barst.trans sp.barst, k.mstat.trans sp.mstat, k.mrp.trans sp.mrp, k.htb.trans sp.htb, k.regs.trans sp.regs,
      k.exited.trans sp.exited, k.gstat.trans sp.gstat⟩, k.gid.trans hg, k.stack.trans hs, ?_, ?_, ?_, ?_, ?_⟩
    · intro r i hi hr
      have : ¬(r = e.1 / 64 ∧ i = e.1 % 64) := by
        rintro ⟨rfl, rfl⟩
        rw [hr hv] at hact; cases hact
      constructor
      · rw [(k.vec r i hi hr).1, wrV, rdV_wrVP _ _ _ _ _ _ _ lt hi, if_neg this]
      · rw [(k.vec r i hi hr).2, wrV, vMarks_wrVP _ _ _ _ _ _ _ lt, if_neg this]
    · intro m i hi hr
      rw [k.mask m i hi hr]
      show (sget 0 (wrVP g _ _ _ _).masks m).getLsbD i = _
      rw [hm]
    · intro h0; rw [k.flags h0]; exact hf
    · have := k.stick; rw [show (wrV g (e.1 / 64) (e.1 % 64) e.2).fpfl = g.fpfl from hf] at this; exact this
    · have := k.bits; rw [show (wrV g (e.1 / 64) (e.1 % 64) e.2).fpfl = g.fpfl from hf] at this; exact this

theorem LanesOnly.trans {a b c : Group} {vd md : List Nat} {act : Mask} {fp : Bool} (h : LanesOnly a b vd md act fp)
    (k : LanesOnly b c vd md act fp) : LanesOnly a c vd md act fp := by
  refine ⟨⟨k.barst.trans h.barst, k.mstat.trans h.mstat, k.mrp.trans h.mrp, k.htb.trans h.htb, k.regs.trans h.regs,
    k.exited.trans h.exited, k.gstat.trans h.gstat⟩, k.gid.trans h.gid, k.stack.trans h.stack, ?_, ?_, ?_, ?_, ?_⟩
  · intro r i hi hr
    exact ⟨(k.vec r i hi hr).1.trans (h.vec r i hi hr).1, (k.vec r i hi hr).2.trans (h.vec r i hi hr).2⟩
  · intro m i hi hr
    exact (k.mask m i hi hr).trans (h.mask m i hi hr)
  · intro h0; exact (k.flags h0).trans (h.flags h0)
  · have h1 := h.stick; have h2 := k.stick
    apply BitVec.eq_of_getLsbD_eq
    intro i hi
    have a1 := congrArg (BitVec.getLsbD · i) h1
    have a2 := congrArg (BitVec.getLsbD · i) h2
    simp [hi] at a1 a2 ⊢
    intro ha
    exact a2 (a1 ha)
  · have h1 := h.bits; have h2 := k.bits
    apply BitVec.eq_of_getLsbD_eq
    intro i hi
    have a1 := congrArg (BitVec.getLsbD · i) h1
    have a2 := congrArg (BitVec.getLsbD · i) h2
    simp only [BitVec.getLsbD_and, BitVec.getLsbD_xor] at a1 a2 ⊢
    revert a1 a2
    generalize (~~~ fpflMask).getLsbD i = m
    cases m <;> cases a.fpfl.getLsbD i <;> cases b.fpfl.getLsbD i <;> cases c.fpfl.getLsbD i <;> simp

/-- Gathering flags into FPFL sets flags and clears none. -/
theorem lanesOnly_flags (g : Group) (vd md : List Nat) (act : Mask) (f : Flags) :
    LanesOnly g { g with fpfl := g.fpfl ||| flagWord f } vd md act true := by
  refine ⟨⟨rfl, rfl, rfl, rfl, rfl, rfl, rfl⟩, rfl, rfl, fun _ _ _ _ => ⟨rfl, rfl⟩, fun _ _ _ _ => rfl, fun h => (by cases h), ?_, ?_⟩
  · apply BitVec.eq_of_getLsbD_eq
    intro i hi
    simp [hi]
    intro h1 h2; simp [h1] at h2
  · apply BitVec.eq_of_getLsbD_eq
    intro i hi
    by_cases h5 : i < 5
    · have : (~~~ fpflMask).getLsbD i = false := by
        have : i = 0 ∨ i = 1 ∨ i = 2 ∨ i = 3 ∨ i = 4 := by omega
        rcases this with rfl | rfl | rfl | rfl | rfl <;> decide
      simp [this]
    · have : (flagWord f).getLsbD i = false := by
        simp [flagWord, BitVec.getLsbD_setWidth, BitVec.getLsbD_of_ge f i (by omega)]
      simp [this]

/-- Writing the lanes `act` of a mask register. -/
theorem lanesOnly_wrM (g : Group) (vd : List Nat) (m : Nat) (md : List Nat) (hm : m ∈ md) (act v : Mask) (fp : Bool) :
    LanesOnly g (wrM g m act v) vd md act fp := by
  refine ⟨⟨rfl, rfl, rfl, rfl, rfl, rfl, rfl⟩, rfl, rfl, fun _ _ _ _ => ⟨rfl, rfl⟩, ?_, fun _ => rfl, by simp [wrM], by simp [wrM]⟩
  intro k i hi hk
  simp only [wrM, sget_sset]
  by_cases h : k = m
  · subst h
    rw [if_pos rfl, BitVec.getLsbD_or, BitVec.getLsbD_and, BitVec.getLsbD_and, BitVec.getLsbD_not, hk hm]
    simp [hi]
  · rw [if_neg h]

end Sys2Proof.Machine
end

