-- ==== Sys2Proof/Laws/Memory.lean ====
section
/-! SUPPORT. Every operation on memory keeps the canonical form of the memories, and reset has it. -/
namespace Sys2Proof.Machine

/-- The memories at reset list nothing. -/
theorem canonical_reset_empty : State.reset.mem = [] ∧ State.reset.hostMem = [] ∧ State.reset.guestMem = [] := ⟨rfl, rfl, rfl⟩

/-- Writing bytes keeps a memory canonical. -/
theorem memory_wf_ssetN (m : SMap Byte) (k : Nat) (b : List Byte) (h : Memory.wf m = true) : Memory.wf (ssetN 0 m k b) = true :=
  swf_ssetN 0 b m k h

/-- A state with the same memories is as canonical. -/
theorem Canonical.congr {s t : State} (h : Canonical s) (hm : t.mem = s.mem) (hh : t.hostMem = s.hostMem) (hg : t.guestMem = s.guestMem) :
    Canonical t := ⟨hm ▸ h.mem, hh ▸ h.hostMem, hg ▸ h.guestMem⟩

/-- Poison that comes to outstanding stores leaves the memories alone. -/
theorem canonical_taint {s : State} (h : Canonical s) (hit : Place × Nat → Bool) : Canonical (taint s hit) := by
  unfold taint
  split
  · exact h.congr rfl rfl rfl
  · exact h

/-- A write to HBM or a vault. -/
theorem canonical_writeFab {s : State} (h : Canonical s) (a : Nat) (bs : List PByte) : Canonical (writeFab s a bs) := by
  have h' : Canonical (if bs.any fun b => b.2 then taintFab s a bs.length else s) := by
    split
    · exact canonical_taint h _
    · exact h
  exact ⟨memory_wf_ssetN _ _ _ h'.mem, h'.hostMem, h'.guestMem⟩

/-- A write of a timeline. -/
theorem canonical_tlWrite {s : State} (h : Canonical s) (d t : Nat) (v : W64) : Canonical (tlWrite s d t v) := by
  unfold tlWrite
  split <;> exact ⟨h.mem, h.hostMem, h.guestMem⟩

/-- A write of a table entry. -/
theorem canonical_putPte {s : State} (h : Canonical s) (a : Nat) (e : W64) : Canonical (putPte s a e) :=
  ⟨memory_wf_ssetN _ _ _ h.mem, h.hostMem, h.guestMem⟩

/-- The A and D bits of an entry. -/
theorem canonical_setAD {s : State} (h : Canonical s) (a : Nat) (w : Bool) : Canonical (setAD s a w) :=
  ⟨memory_wf_ssetN _ _ _ h.mem, h.hostMem, h.guestMem⟩

/-- A line that gets back the value it had before its lease. -/
theorem canonical_loseLease {s : State} (h : Canonical s) (l : Lease) : Canonical (loseLease s l) := by
  unfold loseLease
  dsimp only
  split
  · exact ⟨memory_wf_ssetN _ _ _ (memory_wf_ssetN _ _ _ h.mem), h.hostMem, h.guestMem⟩
  · exact ⟨memory_wf_ssetN _ _ _ h.mem, h.hostMem, h.guestMem⟩

/-- A fold of operations that each keep the form. -/
theorem canonical_foldl {β : Type} (f : State → β → State) (hf : ∀ s b, Canonical s → Canonical (f s b)) (l : List β) {s : State}
    (h : Canonical s) : Canonical (l.foldl f s) := by
  induction l generalizing s with
  | nil => exact h
  | cons b l ih => exact ih (hf s b h)

/-- Lines that the host caches go back. -/
theorem canonical_backInvalidate {s : State} (h : Canonical s) (a n : Nat) : Canonical (backInvalidate s a n) := by
  unfold backInvalidate
  refine canonical_foldl _ (fun s l h => ?_) _ h
  exact h.congr rfl rfl rfl

/-- Lines on lease go back. -/
theorem canonical_returnLines {s : State} (h : Canonical s) (a n : Nat) : Canonical (returnLines s a n) := by
  unfold returnLines
  dsimp only
  split
  · exact h.congr rfl rfl rfl
  · exact h

/-- A unit that is uncorrectable. -/
theorem canonical_spoilUnit {s : State} (h : Canonical s) (a : Nat) : Canonical (spoilUnit s a) := by
  have h' : Canonical (freeBytes s Config.poisonByte true (unitBytes s a)).2 := h.congr rfl rfl rfl
  exact (canonical_writeFab h' (a / unitBytes s a * unitBytes s a) (freeBytes s Config.poisonByte true (unitBytes s a)).1).congr rfl rfl rfl

/-- Units that a failed pseudo-channel holds become uncorrectable. -/
theorem canonical_spoilFailed {s : State} (h : Canonical s) (a n : Nat) : Canonical (spoilFailed s a n) := by
  unfold spoilFailed
  split
  · exact h
  · refine canonical_foldl _ (fun s b h => ?_) _ h
    split
    · exact canonical_spoilUnit h _
    · exact h

/-- A write that reaches the mirror too. -/
theorem canonical_writeMirror {s : State} (h : Canonical s) (repl : Bool) (a : Nat) (bs : List PByte) :
    Canonical (if repl && dieUp s (fabDie (mirrorOf a)) then writeFab s (mirrorOf a) bs else s) := by
  split
  · exact canonical_writeFab h _ _
  · exact h

/-- A transaction that leaves. -/
theorem canonical_sendTx {s : State} (h : Canonical s) (die : Nat) (req : LinkReq) (acc : Option (Nat × Nat × W64)) :
    Canonical (sendTx s die req acc) := by
  unfold sendTx
  dsimp only
  split
  · exact h.congr rfl rfl rfl
  · exact h.congr rfl rfl rfl

/-- A write at any home. -/
theorem canonical_writeHome {s : State} (h : Canonical s) (p : Place) (bs : List PByte) : Canonical (writeHome s p bs) := by
  cases p with
  | fab a mt ccl gran repl =>
    simp only [writeHome]
    split
    · split
      · exact h
      · exact ⟨h.mem, h.hostMem, memory_wf_ssetN _ _ _ h.guestMem⟩
    · split
      · exact canonical_writeMirror h _ _ _
      · split
        · exact canonical_tlWrite h _ _ _
        · refine canonical_writeMirror (canonical_writeFab ?_ _ _) _ _ _
          split
          · exact canonical_backInvalidate h _ _
          · exact h
  | host fn a c => exact ⟨h.mem, memory_wf_ssetN _ _ _ h.hostMem, h.guestMem⟩
  | scratch t c o =>
    simp only [writeHome, writeScratch]
    split
    · exact (canonical_taint h _).congr rfl rfl rfl
    · exact h.congr rfl rfl rfl
  | reg g r l => exact ⟨h.mem, h.hostMem, h.guestMem⟩
  | ringCtl t r k => exact h
  | vaultWin a => exact canonical_writeFab h _ _
  | far die a mt ccl => exact canonical_sendTx h _ _ _

/-- The write-back of a dirty line. -/
theorem canonical_writeBackLine {s : State} (h : Canonical s) (l : Line) : Canonical (writeBackLine s l) :=
  canonical_foldl _ (fun _ _ h => canonical_writeHome (canonical_returnLines h _ _) _ _) _ h

/-- A flush of one remote line. -/
theorem canonical_flushRemote {s : State} (h : Canonical s) (d a : Nat) : Canonical (flushRemote s d a) := by
  unfold flushRemote
  split
  · exact (canonical_writeBackLine h _).congr rfl rfl rfl
  · exact h

/-- A release at PKG scope. -/
theorem canonical_releasePkg {s : State} (h : Canonical s) (d : Nat) : Canonical (releasePkg s d) :=
  (canonical_foldl _ (fun _ _ h => canonical_writeBackLine h _) _ h).congr rfl rfl rfl

/-- An acquire at PKG scope. -/
theorem canonical_acquirePkg {s : State} (h : Canonical s) (d : Nat) : Canonical (acquirePkg s d) :=
  (canonical_releasePkg h d).congr rfl rfl rfl

/-- An acquire near the core. -/
theorem canonical_acquireNear {s : State} (h : Canonical s) (d c : Nat) : Canonical (acquireNear s d c) := h.congr rfl rfl rfl

/-- An acquire at any scope. -/
theorem canonical_acquireAt {s : State} (h : Canonical s) (d c : Nat) (sc : Scope) : Canonical (acquireAt s d c sc) := by
  cases sc
  · exact h
  · exact canonical_acquireNear h _ _
  · exact canonical_acquireNear h _ _
  · exact canonical_acquireNear h _ _
  · exact canonical_acquireNear (canonical_acquirePkg h _) _ _
  · exact canonical_acquireNear (canonical_acquirePkg h _) _ _

/-- A release at any scope. -/
theorem canonical_releaseAt {s : State} (h : Canonical s) (d : Nat) (sc : Scope) : Canonical (releaseAt s d sc) := by
  cases sc
  · exact h
  · exact h
  · exact h
  · exact h
  · exact canonical_releasePkg h _
  · exact canonical_releasePkg h _

/-- An L2 miss. -/
theorem canonical_fillL2 {s : State} (h : Canonical s) (d a : Nat) (p : Place) : Canonical (fillL2 s d a p) :=
  canonical_foldl _ (fun _ _ h => canonical_flushRemote h _ _) _
    ((canonical_spoilFailed h (a / unitBytes s a * unitBytes s a) (unitBytes s a)).congr rfl rfl rfl)

/-- A write into remote lines where they hold the bytes. -/
theorem canonical_writeThrough {s : State} (h : Canonical s) (d : Nat) (p : Place) (bs : List PByte) :
    Canonical (writeThrough s d p bs) := by
  unfold writeThrough
  dsimp only
  split
  · exact canonical_writeHome h _ _
  · exact canonical_foldl _ (fun _ _ h => canonical_writeHome h _ _) _ (h.congr rfl rfl rfl)

/-- A write by an agent, through the copies it may keep. -/
theorem canonical_writeVia {s : State} (h : Canonical s) (d c : Nat) (p : Place) (bs : List PByte) (sc : Scope) (ch : BitVec 2)
    (k : MemChoice) : Canonical (writeVia s d c p bs sc ch k) := by
  simp only [writeVia]
  split
  · split
    · apply canonical_writeThrough
      split
      · exact canonical_fillL2 h _ _ _
      · exact h
    · exact canonical_writeHome (canonical_flushRemote h _ _) _ _
  · apply canonical_writeHome
    split
    · split <;> exact h.congr rfl rfl rfl
    · exact h

end Sys2Proof.Machine
end

