-- ==== Sys2Proof/Laws/RegisterFrame.lean ====
section
/-! SUPPORT. The frame of a word that writes registers: what its body may change before the path goes on, and that the end of
the instruction adds nothing to it. -/
namespace Sys2Proof.Machine

/-! ### Other executors -/

theorem grp?_noteIssue_ne {s : State} {x : Ex} {k : Nat} (h : x.who.gid? ≠ some k) : grp? (noteIssue s x) k = grp? s k := by
  unfold noteIssue
  split
  · rename_i gid slot g hw hx
    have hne : k ≠ gid := by rintro rfl; simp [hw, Issuer.gid?] at h
    have key : grp? (modGrp s gid fun g => { g with issued := g.issued + 1 }) k = grp? s k :=
      grp?_modGrp_ne _ (by intro; rfl) hne
    simp only []
    split
    · exact key
    · rw [grp?_noteRan]; exact key
  · rfl

theorem grp?_modPath_ne {s : State} {e : Issuer} {k : Nat} (h : e.gid? ≠ some k) (pid : Nat) (f : Path → Path) :
    grp? (modPath s e pid f) k = grp? s k := by
  cases e with
  | grp gid slot =>
    have hne : k ≠ gid := by rintro rfl; simp [Issuer.gid?] at h
    exact grp?_modGrp_ne _ (by intro; rfl) hne
  | qthr d t => rfl
  | copyc d j => rfl

theorem grp?_settle_ne {s : State} {gid k : Nat} (h : k ≠ gid) : grp? (settle s gid) k = grp? s k := by
  unfold settle
  split
  · rfl
  · exact Eq.trans (grp?_modGrp_ne _ (by intro; rfl) h) rfl

theorem grp?_settleArrived_ne {s : State} {x : Ex} {k : Nat} (h : x.who.gid? ≠ some k) : grp? (settleArrived s x) k = grp? s k := by
  unfold settleArrived
  split
  · rename_i gid slot hw
    have hne : k ≠ gid := by rintro rfl; simp [hw, Issuer.gid?] at h
    split
    · exact grp?_settle_ne hne
    · rfl
  · rfl

theorem grp?_advance_ne {s : State} {x : Ex} {k : Nat} (h : x.who.gid? ≠ some k) : grp? (advance s x) k = grp? s k := by
  rw [advance, grp?_settleArrived_ne h, grp?_modPath_ne h, grp?_noteIssue_ne h]

theorem qthreads_noteRan (s : State) (g : Group) : (noteRan s g).qthreads = s.qthreads ∧ (noteRan s g).copies = s.copies := by
  unfold noteRan
  split
  · exact ⟨rfl, rfl⟩
  · split <;> exact ⟨rfl, rfl⟩

theorem qthreads_noteIssue (s : State) (x : Ex) : (noteIssue s x).qthreads = s.qthreads ∧ (noteIssue s x).copies = s.copies := by
  unfold noteIssue
  split
  · simp only []
    split
    · exact ⟨rfl, rfl⟩
    · exact qthreads_noteRan _ _
  · exact ⟨rfl, rfl⟩

theorem qthreads_settleArrived (s : State) (x : Ex) :
    (settleArrived s x).qthreads = s.qthreads ∧ (settleArrived s x).copies = s.copies := by
  unfold settleArrived settle
  split
  · split
    · split <;> exact ⟨rfl, rfl⟩
    · exact ⟨rfl, rfl⟩
  · exact ⟨rfl, rfl⟩

theorem qt?_modPath_ne {s : State} {e : Issuer} {d k : Nat} (h : e ≠ .qthr d k) (pid : Nat) (f : Path → Path) :
    qt? (modPath s e pid f) d k = qt? s d k := by
  cases e with
  | grp gid slot => rfl
  | qthr d' t =>
    simp only [modPath]
    rw [qt?_modQt _ _ _ _ (by intro; exact ⟨rfl, rfl⟩)]
    cases hq : qt? s d k with
    | none => rfl
    | some q =>
      have := qt?_key hq
      have hne : ¬(q.die = d' ∧ q.t = t) := by
        rintro ⟨rfl, rfl⟩
        exact h (by rw [← this.1, ← this.2])
      simp [hne]
  | copyc d' j => rfl

theorem cc?_modPath_ne {s : State} {e : Issuer} {d k : Nat} (h : e ≠ .copyc d k) (pid : Nat) (f : Path → Path) :
    cc? (modPath s e pid f) d k = cc? s d k := by
  cases e with
  | grp gid slot => rfl
  | qthr d' t => rfl
  | copyc d' j =>
    simp only [modPath]
    rw [cc?_modCc _ _ _ _ (by intro; exact ⟨rfl, rfl⟩)]
    cases hq : cc? s d k with
    | none => rfl
    | some q =>
      have := cc?_key hq
      have hne : ¬(q.die = d' ∧ q.k = j) := by
        rintro ⟨rfl, rfl⟩
        exact h (by rw [← this.1, ← this.2])
      simp [hne]

theorem qt?_congr {s t : State} (h : t.qthreads = s.qthreads) (d k : Nat) : qt? t d k = qt? s d k := by simp [qt?, h]
theorem cc?_congr {s t : State} (h : t.copies = s.copies) (d k : Nat) : cc? t d k = cc? s d k := by simp [cc?, h]

theorem qt?_advance_ne {s : State} {x : Ex} {d k : Nat} (h : x.who ≠ .qthr d k) : qt? (advance s x) d k = qt? s d k := by
  rw [advance, qt?_congr (qthreads_settleArrived _ _).1, qt?_modPath_ne h, qt?_congr (qthreads_noteIssue _ _).1]

theorem cc?_advance_ne {s : State} {x : Ex} {d k : Nat} (h : x.who ≠ .copyc d k) : cc? (advance s x) d k = cc? s d k := by
  rw [advance, cc?_congr (qthreads_settleArrived _ _).2, cc?_modPath_ne h, cc?_congr (qthreads_noteIssue _ _).2]

/-! ### Before the path goes on -/

/-- What the body of a register word has changed when its path goes to the next word. -/
structure BodyFrame (s m : State) (x : Ex) (f : Form) : Prop where
  only     : OnlyExecutors s m
  pending  : (∀ la, f.long = some la → la = 0) → m.ops = s.ops
  groups   : ∀ gid, x.who.gid? ≠ some gid → grp? m gid = grp? s gid
  threads  : ∀ d k, x.who ≠ .qthr d k → qt? m d k = qt? s d k
  contexts : ∀ d k, x.who ≠ .copyc d k → cc? m d k = cc? s d k
  group    : ∀ gid g, grp? s gid = some g → ∃ g', grp? m gid = some g' ∧ SameSpecials g g' ∧
    (∀ r i, i < 64 → (r ∈ f.use.vd → (x.active f.head).getLsbD i = false) →
      rdV g' r i = rdV g r i ∧ (vMarks g' r).getLsbD i = (vMarks g r).getLsbD i) ∧
    (∀ m i, i < 64 → (m ∈ f.md → (x.active f.head).getLsbD i = false) →
      (sget 0 g'.masks m).getLsbD i = (sget 0 g.masks m).getLsbD i) ∧
    (f.fp = false → g'.fpfl = g.fpfl) ∧ g.fpfl &&& ~~~ g'.fpfl = 0 ∧ (g.fpfl ^^^ g'.fpfl) &&& ~~~ fpflMask = 0
  path     : pathOf s x.who = some x.p → ∃ q, pathOf m x.who = some q ∧ q.pid = x.p.pid ∧ q.wait = x.p.wait ∧ q.left = x.p.left ∧
    q.reconv = x.p.reconv ∧ q.pc = x.p.pc ∧ q.mask = x.p.mask ∧
    ∀ r : SReg, r.toNat ∉ f.use.sd → rdS q r = rdS x.p r ∧ q.spois.getLsbD r.toNat = x.p.spois.getLsbD r.toNat

theorem PathsOnly.rdV {g g' : Group} (h : PathsOnly g g') (r i : Nat) : rdV g' r i = rdV g r i := by
  have hl := h.levels
  unfold Machine.rdV
  cases hf : g.frames with
  | nil => rw [hf] at hl; rw [List.map_eq_nil_iff.1 hl]; simp [h.vregs]
  | cons f fs =>
    rw [hf] at hl
    cases hf' : g'.frames with
    | nil => rw [hf'] at hl; cases hl
    | cons f' fs' =>
      rw [hf'] at hl
      simp only [List.map_cons, List.cons.injEq] at hl
      have hv : f'.v = f.v := by have := congrArg Frame.v hl.1; exact this
      simp [hv, h.vregs]

theorem PathsOnly.vMarks {g g' : Group} (h : PathsOnly g g') (r : Nat) : vMarks g' r = vMarks g r := by
  have hl := h.levels
  unfold Machine.vMarks
  cases hf : g.frames with
  | nil => rw [hf] at hl; rw [List.map_eq_nil_iff.1 hl]; simp [h.vpois]
  | cons f fs =>
    rw [hf] at hl
    cases hf' : g'.frames with
    | nil => rw [hf'] at hl; cases hl
    | cons f' fs' =>
      rw [hf'] at hl
      simp only [List.map_cons, List.cons.injEq] at hl
      have hv : f'.vpois = f.vpois := by have := congrArg Frame.vpois hl.1; exact this
      simp [hv, h.vpois]

/-- The frame of a register word, from the frame of its body. -/
theorem BodyFrame.advance {s m : State} {x : Ex} {f : Form} {r : Rule} {u : Use} {h : Option Head} (b : BodyFrame s m x f)
    (hr : Ready s x r u h) : RegisterFrame s (advance m x) x f := by
  have only := b.only.trans (onlyExecutors_advance m x)
  refine ⟨only, only.sameMemory, fun hl => (ops_advance m x).trans (b.pending hl), fun gid hg => (grp?_advance_ne hg).trans (b.groups gid hg),
    fun d k hk => (qt?_advance_ne hk).trans (b.threads d k hk), fun d k hk => (cc?_advance_ne hk).trans (b.contexts d k hk), ?_, ?_⟩
  · intro g hg
    have hgid : grp? s g.gid = some g := by
      have hh := hr.here
      cases hw : x.who with
      | grp gid slot =>
        rw [hw] at hh
        obtain ⟨g1, h1, h2, -⟩ := exOf_grp hh
        rw [hg] at h2; cases h2
        rw [grp?_gid h1]; exact h1
      | qthr d t =>
        rw [hw] at hh; simp only [exOf] at hh
        split at hh
        · cases hh
        · split at hh <;> cases hh
          cases hg
      | copyc d t =>
        rw [hw] at hh; simp only [exOf] at hh
        split at hh
        · cases hh
        · split at hh <;> cases hh
          cases hg
    obtain ⟨g1, h1, sp, hv, hm, hf1, hf2, hf3⟩ := b.group g.gid g hgid
    obtain ⟨g2, h2, po⟩ := pathsOnly_advance x h1
    refine ⟨g2, h2, ⟨po.barst.trans sp.barst, po.mstat.trans sp.mstat, po.mrp.trans sp.mrp, po.htb.trans sp.htb, po.regs.trans sp.regs,
      po.exited.trans sp.exited, po.gstat.trans sp.gstat⟩, ?_, ?_, ?_, ?_, ?_⟩
    · intro r i hi hri
      rw [po.rdV, po.vMarks]; exact hv r i hi hri
    · intro m i hi hmi
      rw [po.masks]; exact hm m i hi hmi
    · intro h0; rw [po.fpfl]; exact hf1 h0
    · rw [po.fpfl]; exact hf2
    · rw [po.fpfl]; exact hf3
  · intro hl
    obtain ⟨q, h1, h2, h3, h4, h5, h6, h7, h8⟩ := b.path (exOf_path hr.here)
    have hw : x.p.wait = .run := by
      have := hr.free
      simp only [Ex.held, Bool.or_eq_false_iff, bne_eq_false_iff_eq] at this
      exact this.1.1
    obtain ⟨now, ok, hq⟩ := pathOf_advance h1 h2 (h3.trans hw) (by rw [h4, h5, h6]; exact hl)
    refine ⟨_, hq, by rw [stepPath_pc, h6], by rw [stepPath_mask, h7], fun r hr => ?_⟩
    rw [stepPath_spois, ← (h8 r hr).2]
    refine ⟨?_, rfl⟩
    rw [← (h8 r hr).1]
    simp [rdS]

theorem sameSpecials_refl (g : Group) : SameSpecials g g := ⟨rfl, rfl, rfl, rfl, rfl, rfl, rfl⟩

/-- A body that changes nothing but the place of the path. -/
theorem bodyFrame_refl (s : State) (x : Ex) (f : Form) : BodyFrame s s x f :=
  ⟨.refl s, fun _ => rfl, fun _ _ => rfl, fun _ _ _ => rfl, fun _ _ _ => rfl,
    fun _ g hg => ⟨g, hg, sameSpecials_refl g, fun _ _ _ _ => ⟨rfl, rfl⟩, fun _ _ _ _ => rfl, fun _ => rfl, by simp, by simp⟩,
    fun hp => ⟨x.p, hp, rfl, rfl, rfl, rfl, rfl, rfl, fun _ _ => ⟨rfl, rfl⟩⟩⟩

/-- A body that writes registers, masks and flags of the issuing group. -/
theorem bodyFrame_onGroup {s m : State} {x : Ex} {f : Form} (b : BodyFrame s m x f) (F : Group → Group)
    (hF : ∀ g, LanesOnly g (F g) f.use.vd f.md (x.active f.head) f.fp) : BodyFrame s (onGroup m x F) x f := by
  refine ⟨b.only.trans (onlyExecutors_onGroup m x F), fun hl => ?_, fun gid hg => ?_, fun d k hk => ?_, fun d k hk => ?_,
    fun gid g hg => ?_, fun hp => ?_⟩
  · rw [← b.pending hl]; unfold onGroup; split <;> rfl
  · rw [← b.groups gid hg]
    unfold onGroup
    split
    · rename_i k slot hw
      exact grp?_modGrp_ne F (fun g => (hF g).gid) (by rintro rfl; simp [hw, Issuer.gid?] at hg)
    · rfl
  · rw [← b.threads d k hk]; unfold onGroup; split <;> rfl
  · rw [← b.contexts d k hk]; unfold onGroup; split <;> rfl
  · obtain ⟨g1, h1, sp, hv, hm, hf1, hf2, hf3⟩ := b.group gid g hg
    have key : ∃ g2, grp? (onGroup m x F) gid = some g2 ∧ LanesOnly g1 g2 f.use.vd f.md (x.active f.head) f.fp := by
      unfold onGroup
      split
      · rename_i k slot hw
        by_cases hk : gid = k
        · subst hk; exact ⟨_, grp?_modGrp_self F (fun g => (hF g).gid) h1, hF g1⟩
        · exact ⟨g1, Eq.trans (grp?_modGrp_ne F (fun g => (hF g).gid) hk) h1, .refl ..⟩
      · exact ⟨g1, h1, .refl ..⟩
    obtain ⟨g2, h2, lo⟩ := key
    have l1 : LanesOnly g { g with fpfl := g1.fpfl } f.use.vd f.md (x.active f.head) f.fp :=
      ⟨⟨rfl, rfl, rfl, rfl, rfl, rfl, rfl⟩, rfl, rfl, fun _ _ _ _ => ⟨rfl, rfl⟩, fun _ _ _ _ => rfl, hf1, hf2, hf3⟩
    have l2 : LanesOnly { g with fpfl := g1.fpfl } { g with fpfl := g2.fpfl } f.use.vd f.md (x.active f.head) f.fp :=
      ⟨⟨rfl, rfl, rfl, rfl, rfl, rfl, rfl⟩, rfl, rfl, fun _ _ _ _ => ⟨rfl, rfl⟩, fun _ _ _ _ => rfl, lo.flags, lo.stick, lo.bits⟩
    have l3 := l1.trans l2
    refine ⟨g2, h2, ⟨lo.barst.trans sp.barst, lo.mstat.trans sp.mstat, lo.mrp.trans sp.mrp, lo.htb.trans sp.htb,
      lo.regs.trans sp.regs, lo.exited.trans sp.exited, lo.gstat.trans sp.gstat⟩, ?_, ?_, l3.flags, l3.stick, l3.bits⟩
    · intro r i hi hri
      exact ⟨(lo.vec r i hi hri).1.trans (hv r i hi hri).1, (lo.vec r i hi hri).2.trans (hv r i hi hri).2⟩
    · intro k i hi hki
      exact (lo.mask k i hi hki).trans (hm k i hi hki)
  · obtain ⟨q, h1, h2⟩ := b.path hp
    exact ⟨q, (pathOf_onGroup m x F (fun g => ⟨(hF g).gid, (hF g).stack⟩) x.who).trans h1, h2⟩

/-- A body that writes the scalar register `r` of the path. -/
theorem bodyFrame_wrS {s m : State} {x : Ex} {f : Form} (b : BodyFrame s m x f) (F : Path → Path)
    (hF : ∀ p, (F p).pid = p.pid ∧ (F p).wait = p.wait ∧ (F p).left = p.left ∧ (F p).reconv = p.reconv ∧ (F p).pc = p.pc ∧
      (F p).mask = p.mask ∧ ∀ r : SReg, r.toNat ∉ f.use.sd →
        rdS (F p) r = rdS p r ∧ (F p).spois.getLsbD r.toNat = p.spois.getLsbD r.toNat) :
    BodyFrame s (modPath m x.who x.p.pid F) x f := by
  refine ⟨b.only.trans (onlyExecutors_modPath _ _ _ _), fun hl => (ops_modPath _ _ _ _).trans (b.pending hl),
    fun gid hg => (grp?_modPath_ne hg _ _).trans (b.groups gid hg), fun d k hk => (qt?_modPath_ne hk _ _).trans (b.threads d k hk),
    fun d k hk => (cc?_modPath_ne hk _ _).trans (b.contexts d k hk), fun gid g hg => ?_, fun hp => ?_⟩
  · obtain ⟨g1, h1, sp, hv, hm, hf⟩ := b.group gid g hg
    obtain ⟨g2, h2, po⟩ := pathsOnly_modPath x.who x.p.pid F h1
    refine ⟨g2, h2, ⟨po.barst.trans sp.barst, po.mstat.trans sp.mstat, po.mrp.trans sp.mrp, po.htb.trans sp.htb,
      po.regs.trans sp.regs, po.exited.trans sp.exited, po.gstat.trans sp.gstat⟩, ?_, ?_, ?_⟩
    · intro r i hi hri
      rw [po.rdV, po.vMarks]; exact hv r i hi hri
    · intro k i hi hki
      rw [po.masks]; exact hm k i hi hki
    · rw [po.fpfl]; exact hf
  · obtain ⟨q, h1, h2, h3, h4, h5, h6, h7, h8⟩ := b.path hp
    obtain ⟨k2, k3, k4, k5, k6, k7, k8⟩ := hF q
    exact ⟨F q, pathOf_modPath F h1 h2, k2.trans h2, k3.trans h3, k4.trans h4, k5.trans h5, k6.trans h6, k7.trans h7,
      fun r hr => ⟨(k8 r hr).1.trans (h8 r hr).1, (k8 r hr).2.trans (h8 r hr).2⟩⟩

theorem wrS_frame (f : Form) (r : Nat) (hr : r ∈ f.use.sd) (h64 : r < 64) (v : W64) (p : Path) :
    (wrS p r v).pid = p.pid ∧ (wrS p r v).wait = p.wait ∧ (wrS p r v).left = p.left ∧ (wrS p r v).reconv = p.reconv ∧
    (wrS p r v).pc = p.pc ∧ (wrS p r v).mask = p.mask ∧ ∀ q : SReg, q.toNat ∉ f.use.sd →
      rdS (wrS p r v) q = rdS p q ∧ (wrS p r v).spois.getLsbD q.toNat = p.spois.getLsbD q.toNat := by
  refine ⟨rfl, rfl, rfl, rfl, rfl, rfl, fun q hq => ?_⟩
  have hne : q.toNat ≠ r := by rintro rfl; exact hq hr
  constructor
  · simp only [rdS, wrS, sget_sset, if_neg hne]
  · simp only [wrS]; rw [putBit_get _ _ _ _ h64, if_neg hne]

/-- A body whose long-latency results are outstanding. -/
theorem bodyFrame_window {s m : State} {x : Ex} {f : Form} (b : BodyFrame s m x f) (op : Nat) (fp : Bool) (la : Nat) (vds sds : List Nat) :
    BodyFrame s (openWindow m x op fp la vds sds) x f :=
  bodyFrame_wrS b _ fun _ => ⟨rfl, rfl, rfl, rfl, rfl, rfl, fun _ _ => ⟨rfl, rfl⟩⟩

/-! ### Writes of a lane -/

theorem key_ok {vd : List Nat} {act : Mask} {r i : Nat} (hr : r ∈ vd) (hi : i ∈ lanesOf act) :
    (r * 64 + i) / 64 ∈ vd ∧ act.getLsbD ((r * 64 + i) % 64) = true := by
  have := lanesOf_lt hi
  rw [show (r * 64 + i) / 64 = r by omega, show (r * 64 + i) % 64 = i by omega]
  exact ⟨hr, (mem_lanesOf act i).1 hi⟩

/-- Every write of the list goes to a register of `vd` in lane `i`. -/
def Keys (vd : List Nat) (i : Nat) (l : List (Nat × W32)) : Prop := ∀ e ∈ l, ∃ r ∈ vd, e.1 = r * 64 + i

theorem keys_intWrites (ty : IntTy) (r : VReg) (i x : Nat) : Keys (intRegs ty r) i (intWrites ty r.toNat i x) := by
  intro e he
  unfold intWrites at he
  unfold intRegs
  split at he <;> rename_i h
  · rw [if_pos h]
    simp at he
    rcases he with rfl | rfl
    · exact ⟨r.toNat, by simp, rfl⟩
    · exact ⟨r.toNat + 1, by simp, rfl⟩
  · rw [if_neg h]
    simp at he; subst he
    exact ⟨r.toNat, by simp, rfl⟩

theorem keys_intWrites32 (ty : IntTy) (h : ty.width ≠ 64) (r : VReg) (i x : Nat) : Keys [r.toNat] i (intWrites ty r.toNat i x) := by
  have := keys_intWrites ty r i x
  rwa [intRegs, if_neg h] at this

theorem keys_fpWrites (ty : FpTy) (r : VReg) (i x : Nat) : Keys (fpRegs ty r) i (fpWrites ty r.toNat i x) := by
  intro e he
  unfold fpWrites at he
  unfold fpRegs
  split at he <;> rename_i h
  · rw [if_pos h]
    simp at he
    rcases he with rfl | rfl
    · exact ⟨r.toNat, by simp, rfl⟩
    · exact ⟨r.toNat + 1, by simp, rfl⟩
  · rw [if_neg h]
    simp at he; subst he
    exact ⟨r.toNat, by simp, rfl⟩

theorem keys_move (g : Group) (ty : IntTy) (r : VReg) (a i : Nat) : Keys (intRegs ty r) i (moveWrites g ty r.toNat a i) := by
  intro e he
  unfold moveWrites at he
  unfold intRegs
  split at he <;> rename_i h
  · rw [if_pos h]
    simp at he
    rcases he with rfl | rfl
    · exact ⟨r.toNat, by simp, rfl⟩
    · exact ⟨r.toNat + 1, by simp, rfl⟩
  · rw [if_neg h]
    simp at he; subst he
    exact ⟨r.toNat, by simp, rfl⟩

theorem keys_one (r i : Nat) (x : W32) : Keys [r] i [(r * 64 + i, x)] := by
  intro e he; simp at he; subst he; exact ⟨r, by simp, rfl⟩

theorem keys_run (r : VReg) (k i x : Nat) : Keys (runRegs r k) i (runWrites r.toNat k i x) := by
  intro e he
  simp [runWrites] at he
  obtain ⟨j, hj, rfl⟩ := he
  exact ⟨r.toNat + j, by simp [runRegs, hj], rfl⟩

theorem lanes_map {g : Group} {vd md : List Nat} {act : Mask} {fp : Bool} {f : Nat → List (Nat × W32)} (h : ∀ i, Keys vd i (f i)) :
    LanesOnly g (mapLanes g act f) vd md act fp := by
  apply lanesOnly_aluVec
  intro e he
  obtain ⟨i, hi, he⟩ := List.mem_flatMap.1 he
  obtain ⟨r, hr, hk⟩ := h i e he
  rw [hk]; exact key_ok hr hi

theorem lanes_fp {g : Group} {vd md : List Nat} {act : Mask} {f : Nat → List (Nat × W32) × Flags} (h : ∀ i, Keys vd i (f i).1) :
    LanesOnly g (takeFp g (fpLanes act f)) vd md act true := by
  have h1 : LanesOnly g (aluVec g (fpLanes act f).1) vd md act true := by
    apply lanesOnly_aluVec
    intro e he
    simp only [fpLanes, List.flatMap_map] at he
    obtain ⟨i, hi, he⟩ := List.mem_flatMap.1 he
    obtain ⟨r, hr, hk⟩ := h i e he
    rw [hk]; exact key_ok hr hi
  have hf : (aluVec g (fpLanes act f).1).fpfl = g.fpfl := by
    have := lanesOnly_aluVec (fpLanes act f).1 g vd md act false (by
      intro e he
      simp only [fpLanes, List.flatMap_map] at he
      obtain ⟨i, hi, he⟩ := List.mem_flatMap.1 he
      obtain ⟨r, hr, hk⟩ := h i e he
      rw [hk]; exact key_ok hr hi)
    exact this.flags rfl
  have h2 := lanesOnly_flags (aluVec g (fpLanes act f).1) vd md act (fpLanes act f).2
  have := h1.trans h2
  unfold takeFp
  rwa [hf] at this

theorem scalar_frame {s : State} {x : Ex} {f : Form} {r : Rule} {u : Use} {h : Option Head} (hr : Ready s x r u h) (sd : SReg) (hs : sd.toNat ∈ f.use.sd)
    (v : W64) : RegisterFrame s (advance (setS s x sd v) x) x f :=
  (bodyFrame_wrS (bodyFrame_refl s x f) _ (wrS_frame f sd.toNat hs sd.isLt v)).advance hr

theorem group_frame {s : State} {x : Ex} {f : Form} {r : Rule} {u : Use} {h : Option Head} (hr : Ready s x r u h) (F : Group → Group)
    (hF : ∀ g, LanesOnly g (F g) f.use.vd f.md (x.active f.head) f.fp) : RegisterFrame s (advance (onGroup s x F) x) x f :=
  (bodyFrame_onGroup (bodyFrame_refl s x f) F hF).advance hr

theorem pending_frame {s : State} {x : Ex} {f : Form} {r : Rule} {u : Use} {h : Option Head} (hr : Ready s x r u h) (fp : Bool) (la : BitVec 4)
    (hl : f.long = some la) (h0 : la ≠ 0) (vds sds : List Nat) (wv ws) (fl : Flags) :
    RegisterFrame s (resultsPending s x fp la vds sds wv ws fl) x f := by
  refine (bodyFrame_window ?_ _ _ _ _ _).advance hr
  refine ⟨rfl, fun h => absurd (h la hl) h0, fun _ _ => rfl, fun _ _ _ => rfl, fun _ _ _ => rfl, ?_, ?_⟩
  · exact (bodyFrame_refl s x f).group
  · intro hp
    obtain ⟨q, h1, h2⟩ := (bodyFrame_refl s x f).path hp
    exact ⟨q, by rw [← h1]; cases x.who <;> rfl, h2⟩

theorem long_frame {s : State} {x : Ex} {f : Form} {r : Rule} {u : Use} {h : Option Head} (hr : Ready s x r u h) (fp : Bool) (la : BitVec 4)
    (hl : f.long = some la) (vds sds : List Nat) (wv : List (Nat × W32)) (ws : List (Nat × W64)) (fl : Flags)
    (hv : ∀ e ∈ wv, e.1 / 64 ∈ f.use.vd ∧ (x.active f.head).getLsbD (e.1 % 64) = true) (hs : ∀ e ∈ ws, e.1 ∈ f.use.sd ∧ e.1 < 64)
    (hf : f.fp = false → fl = 0) :
    RegisterFrame s (longBody s x fp la vds sds wv ws fl) x f := by
  unfold longBody
  by_cases h0 : la = 0
  · rw [if_pos h0]
    refine (bodyFrame_wrS (bodyFrame_onGroup (bodyFrame_refl s x f) _ ?_) _ ?_).advance hr
    · intro g
      have h1 := lanesOnly_aluVec wv g f.use.vd f.md (x.active f.head) f.fp hv
      have h3 : (aluVec g wv).fpfl = g.fpfl := (lanesOnly_aluVec wv g f.use.vd f.md (x.active f.head) false hv).flags rfl
      have h2 := lanesOnly_flags (aluVec g wv) f.use.vd f.md (x.active f.head) fl
      refine h1.trans ?_
      rw [h3] at h2
      refine ⟨h2.toSameSpecials, h2.gid, h2.stack, h2.vec, h2.mask, fun h => ?_, ?_, ?_⟩
      · rw [hf h, h3]; simp [flagWord]
      · rw [h3]; have := h2.stick; rwa [h3] at this
      · rw [h3]; have := h2.bits; rwa [h3] at this
    · intro p
      induction ws generalizing p with
      | nil => exact ⟨rfl, rfl, rfl, rfl, rfl, rfl, fun _ _ => ⟨rfl, rfl⟩⟩
      | cons e ws ih =>
        obtain ⟨a1, a2, a3, a4, a5, a6, a7⟩ := wrS_frame f e.1 (hs e (by simp)).1 (hs e (by simp)).2 e.2 p
        obtain ⟨b1, b2, b3, b4, b5, b6, b7⟩ := ih (fun a ha => hs a (List.mem_cons_of_mem _ ha)) (wrS p e.1 e.2)
        simp only [List.foldl_cons]
        exact ⟨b1.trans a1, b2.trans a2, b3.trans a3, b4.trans a4, b5.trans a5, b6.trans a6,
          fun q hq => ⟨(b7 q hq).1.trans (a7 q hq).1, (b7 q hq).2.trans (a7 q hq).2⟩⟩
  · rw [if_neg h0]
    exact pending_frame hr fp la hl h0 vds sds wv ws fl

theorem scalar_case {i : Instr} {s : State} {x : Ex} {f : Form} {ss sd v} (he : exec i s = scalarOp s ss sd v)
    (hf : f.use = { ss := ss.map BitVec.toNat, sd := [sd.toNat] }) (hr : Ready s x ruleAll f.use none) :
    ∃ t, exec i s = .next t ∧ RegisterFrame s t x f := by
  refine ⟨_, ?_, scalar_frame hr sd (by rw [hf]; simp) (v x.p)⟩
  rw [hf] at hr
  rw [he, scalarOp, issue_ready hr]; rfl

theorem lane_case {i : Instr} {s : State} {x : Ex} {f : Form} {h : Head} {F : Group → Path → Mask → Group} (hh : f.head = some h)
    (he : exec i s = issue s vecRule f.use (some h) (laneBody s h F)) (hr : Ready s x vecRule f.use f.head)
    (hF : ∀ g, LanesOnly g (F g x.p (x.active f.head)) f.use.vd f.md (x.active f.head) f.fp) :
    ∃ t, exec i s = .next t ∧ RegisterFrame s t x f := by
  refine ⟨_, ?_, group_frame hr _ hF⟩
  rw [hh] at hr ⊢
  rw [he, issue_lanes hr rfl rfl]

theorem width_of {ok : Bool} {ty : IntTy} {h : Head} {hb : Bool} (hi : vInt ok h hb = none) (hok : ok = true → ty.width ≤ 32) : ty.width ≠ 64 := by
  have : ok = true := by
    unfold vInt headOk need at hi
    by_contra hc
    simp [hc] at hi
  have := hok this; omega

theorem long_case {i : Instr} {s : State} {x : Ex} {f : Form} {h : Head} {vds : List Nat} {F : Group → Nat → List (Nat × W32) × Flags} (hh : f.head = some h)
    (hl : f.long = some h.la) (hfp : f.fp = true)
    (he : exec i s = issue s vecRule f.use (some h) (longFpBody s h vds F)) (hr : Ready s x vecRule f.use f.head)
    (hF : ∀ g i, Keys f.use.vd i (F g i).1) :
    ∃ t, exec i s = .next t ∧ RegisterFrame s t x f := by
  have hr' := hr
  rw [hh] at hr'
  obtain ⟨gid, slot, g, -, -, hx⟩ := ready_group hr' rfl rfl
  rw [he, issue_ready hr', longFpBody, withGroup_some hx]
  by_cases h0 : activeOf g x.p h = 0
  · rw [if_pos h0]
    exact ⟨_, rfl, (bodyFrame_refl s x f).advance hr'⟩
  · rw [if_neg h0]
    refine ⟨_, rfl, long_frame hr' true h.la hl _ _ _ _ _ ?_ (by simp) (by simp [hfp])⟩
    intro e he
    simp only [fpLanes, List.flatMap_map] at he
    obtain ⟨i, hi, he⟩ := List.mem_flatMap.1 he
    obtain ⟨r, hrr, hk⟩ := hF g i e he
    rw [hk, hh, active_some hx]; exact key_ok hrr hi

end Sys2Proof.Machine
end

