-- ==== Sys2Proof/Laws/Words.lean ====
section
/-! SUPPORT. The bodies that several words share, once a word is ready: an access of the lanes and one of a path, a matrix word, and
a collective whose paths have all come. -/
namespace Sys2Proof.Machine

/-- A lane access: nothing with no active lane, a hold while 64 operations are out, else the operation it starts or the cause that
its addresses meet. -/
theorem lane_access {s : State} {x : Ex} {g : Group} {h : Head} {m : MemArg} {u : Use} {scaled disp : Bool} {kind dest vds data}
  (hx : x.g = some g) (hr : Ready s x memRule u (some h)) :
  let act := activeOf g x.p h
  let places := groupPlaces s x g (memKind s x m kind.writes (kind.reads && kind.writes)) false
        ((lanesOf act).map fun l => (l, laneEa g x.p m scaled disp l))
  let r := issue s memRule u (some h) (laneAccess s h m scaled disp kind dest vds data)
  (act = 0 → r = .next (advance s x)) ∧
  (act ≠ 0 → 64 ≤ memCount s x.who → r = .next s) ∧
  (act ≠ 0 → memCount s x.who < 64 →
          (∀ got t, places = .ok (got, t) → r = .next (startOp t x kind m dest
            (got.flatMap fun e => splitAcc m.size.bytes e.1 e.2.1 e.2.2 (data g e.1).1 (data g e.1).2) h.la.toNat vds [])) ∧
          (∀ t, places = .error (.hold t) → r = .next t) ∧
          (∀ t, places = .error (.trap t) → r = .next (raiseOn s x.who t x.p.pc))) := by
  dsimp only
  rw [issue_ready hr, laneAccess, withGroup_some hx]
  dsimp only
  refine ⟨fun h1 => by rw [if_pos h1]; rfl, fun h1 h2 => by rw [if_neg h1, if_pos h2]; rfl, fun h1 h2 => ?_⟩
  rw [if_neg h1, if_neg (by omega), laneEas]
  refine ⟨fun got t h => by rw [h]; rfl, fun t h => by rw [h]; rfl, fun t h => by rw [h]; rfl⟩

/-- An access of a whole path. -/
theorem path_access {s : State} {x : Ex} {m : MemArg} {u : Use} {la : BitVec 4} {disp : Bool} {kind dest sds} {data : Path → List Byte}
  (hr : Ready s x memRuleAll u none) :
  let va := pathEa x.p m disp
  let place := onePlace s x (memKind s x m kind.writes (kind.reads && kind.writes)) va
  let r := issue s memRuleAll u none (pathAccess s la m disp kind dest sds data)
  (64 ≤ memCount s x.who → r = .next s) ∧
  (memCount s x.who < 64 →
          (∀ pl t, place = .ok (pl, t) → r = .next (startOp t x kind m dest (splitAcc m.size.bytes 0 va pl (data x.p) []) la.toNat [] sds)) ∧
          (∀ t, place = .error (.hold t) → r = .next t) ∧
          (∀ t, place = .error (.trap t) → r = .next (raiseOn s x.who t x.p.pc))) := by
  dsimp only
  rw [issue_ready hr, pathAccess]
  dsimp only
  refine ⟨fun h1 => by rw [if_pos h1]; rfl, fun h2 => ?_⟩
  rw [if_neg (by omega)]
  refine ⟨fun got t h => by rw [h]; rfl, fun t h => by rw [h]; rfl, fun t h => by rw [h]; rfl⟩

/-- Values that are all aligned. -/
theorem misaligned_none {l : List (W64 × Nat)} (h : ∀ e ∈ l, e.1.toNat % e.2 = 0) : misaligned l = none := by
  unfold misaligned
  have : l.find? (fun (e : W64 × Nat) => e.1.toNat % e.2 != 0) = none := by
    rw [List.find?_eq_none]; intro e he; simp [h e he]
  rw [this]; rfl

/-- A matrix word whose values are aligned and whose operands are admitted: it joins its stream, or waits while the stream is full. -/
theorem matrix_word {s b : State} {x : Ex} {g : Group} {zd : BitVec 5} {strm : BitVec 2} {kind : MatKind} {u : Use} {bad vals a c k}
  (hx : x.g = some g) (hb : binding s g = some b) (hr : Ready s x matRule u none) (h1 : ∀ e ∈ vals x.p, e.1.toNat % e.2 = 0) (h2 : bad x g = false) :
   (streamLen b g strm.toNat < 8 → issue s matRule u none (matBody s strm zd kind bad vals a c k) = .next (advance (pushOp b x g strm.toNat kind zd (a x.p) (c x.p) (k x.p)) x)) ∧
      (8 ≤ streamLen b g strm.toNat → issue s matRule u none (matBody s strm zd kind bad vals a c k) = .next b) := by
  rw [issue_ready hr, matBody, withGroup_some hx, misaligned_none h1]
  simp only [h2, hb]
  refine ⟨fun h => by rw [if_neg (by simp), if_neg (by omega)]; rfl, fun h => by rw [if_neg (by simp), if_pos h]; rfl⟩

/-- A collective whose members are all here: its effect on the group and the paths, which go on together. -/
theorem collective_met {s : State} {x : Ex} {g : Group} {u : Use} {mm : MReg} {lane : Option (BitVec 6)} {eff : Group → List Path → Mask → Effect}
   (hx : x.g = some g) (hr : Ready s x collRule u none)
   (h1 : x.p.mask &&& ~~~ (rdM g x.p mm) = 0) (h2 : rdM g x.p mm &&& g.exited = 0)
   (h3 : rdM g x.p mm &&& ~~~ (lanesHeld (x.p :: g.stack.paths.filter fun q => q.parkedAt x.p.pc == some (rdM g x.p mm))) = 0)
   (h4 : ∀ f ∈ g.frames, rdM g x.p mm &&& ~~~ f.lanes = 0)
   (h5 : ∀ q ∈ g.stack.paths, ∀ m, q.parkedAt x.p.pc = some m → m = rdM g x.p mm ∨ m &&& rdM g x.p mm = 0)
   (hl : lane.any (fun l => !(rdM g x.p mm).getLsbD l.toNat) = false) :
   issue s collRule u none (collective s mm lane eff) = .next
     (let part := x.p :: g.stack.paths.filter fun q => q.parkedAt x.p.pc == some (rdM g x.p mm)
      let e := eff g part (rdM g x.p mm)
      settle (part.foldl (fun s q => modPath s x.who q.pid fun p => unpark (clkOf s x.who) (endsAtHeader s x) (e.path p)) (modGrp (noteIssue s x) g.gid e.grp)) g.gid) := by
  rw [issue_ready hr, collective, withGroup_some hx]
  have hh : rdM g x.p mm &&& ~~~ g.exited = rdM g x.p mm := by
    have : rdM g x.p mm = (rdM g x.p mm &&& g.exited) ||| (rdM g x.p mm &&& ~~~ g.exited) := by
      ext i; simp; cases (rdM g x.p mm)[i] <;> simp
    rw [h2] at this; simpa using this.symm
  have hf : (g.frames.any fun f => rdM g x.p mm &&& ~~~ f.lanes != 0) = false := by
    simp only [List.any_eq_false]; intro f hf; simp [h4 f hf]
  have ho : (g.stack.paths.any fun q => q.clashes x.p.pc (rdM g x.p mm)) = false := by
    simp only [List.any_eq_false]
    intro q hq
    unfold Path.clashes
    cases hm : q.parkedAt x.p.pc with
    | none => simp
    | some m => rcases h5 q hq m hm with h | h <;> simp [h]
  dsimp only
  rw [if_neg (by simp [h1]), if_neg (fun h => Bool.false_ne_true (hf.symm.trans h)), if_neg (by simp [hl]), if_neg (fun h => Bool.false_ne_true (ho.symm.trans h)), hh, if_neg (by simp [h3]), if_neg (by simp [h2])]
  rfl

end Sys2Proof.Machine
end

