-- ==== Sys2Proof/Machine/Loader.lean ====
section
/-! DEFINITION. The Flaner loader of ELF64 code objects (R363, R364): which objects it accepts, what it maps, and what it reports to
the launcher. It runs outside the module and changes no state of it. -/
namespace Sys2Proof.Machine

/-- Why a load fails (R363, R364). -/
inductive LdErr
  | machine | align | sect | note
  deriving DecidableEq, Repr

/-- A note of an SHT_NOTE section, its descriptor of 64 bits (R364). -/
structure ElfNote where
  owner : String
  typ   : Nat
  desc  : W64
  deriving DecidableEq, Repr

/-- A section: its type, flags and address, its bytes, and the notes of an SHT_NOTE section. -/
structure ElfSection where
  typ   : Nat
  flags : Nat
  addr  : W64
  data  : List Byte
  notes : List ElfNote
  deriving DecidableEq, Repr

/-- A code object (R363): `cls` and `enc` are EI_CLASS and EI_DATA. -/
structure ElfObject where
  cls     : Nat
  enc     : Nat
  machine : Nat
  etype   : Nat
  eflags  : Nat
  sections : List ElfSection
  deriving DecidableEq, Repr

/-- What a load hands on: the bytes to map, each with its X bit, and the notes for the launcher (R363, R364). -/
structure Loaded where
  image   : List (W64 × List Byte × Bool)
  width   : Option W64
  scratch : Option W64
  pool    : Option W64
  deriving DecidableEq, Repr

/-- The identification that the loader accepts: ELFCLASS64, ELFDATA2LSB, the machine, ET_EXEC or ET_DYN, ISA generation 3 (R363). -/
def ElfObject.accepted (o : ElfObject) : Bool :=
  o.cls == 2 && o.enc == 1 && o.machine == 0x5E1D && (o.etype == 2 || o.etype == 3) && o.eflags % 256 == 3

/-- The alignment of the section types of R363; none for another type. -/
def sectionAlign (typ : Nat) : Option Nat :=
  if typ = 0x70000001 then some 64
  else if typ = 0x70000002 ∨ typ = 0x70000003 then some 8
  else if typ = 0x70000004 then some 16384
  else none

/-- Whether the loader knows a section type: those of R363, and those that ELF itself defines (log entry 67). -/
def knownSection (typ : Nat) : Bool := (sectionAlign typ).isSome || decide (typ < 20)

/-- Whether the loader knows a note type (R364). -/
def knownNote (typ : Nat) : Bool := [1, 2, 3, 0x80000001].contains typ

/-- The notes that are the loader's (R364); 7 is SHT_NOTE. -/
def ElfSection.flanerNotes (x : ElfSection) : List ElfNote :=
  if x.typ = 7 then x.notes.filter fun n => n.owner == "Flaner" else []

/-- Whether a note fails the load: another ISA generation, or an unknown mandatory type (R364). -/
def ElfNote.fails (n : ElfNote) : Bool :=
  (n.typ == 0x80000001 && n.desc != 3) || (!knownNote n.typ && n.typ.testBit 31)

/-- The sections that the loader maps (R363). -/
def ElfObject.mapped (o : ElfObject) : List ElfSection := o.sections.filter fun x => (sectionAlign x.typ).isSome

/-- The first address of an object's mapped sections, and the one behind the last (R363). -/
def ElfObject.extent (o : ElfObject) : Nat × Nat :=
  (((o.mapped.map fun x => x.addr.toNat).min?).getD 0, ((o.mapped.map fun x => x.addr.toNat + x.data.length).max?).getD 0)

/-- The address of an ET_DYN object that comes to the base of its code window: the 128 MiB multiple below it, or, if the object crosses
one, the 16 KiB multiple below it (R363; log entry 67). -/
def ElfObject.origin (o : ElfObject) : Nat :=
  let (lo, hi) := o.extent
  if lo / 2 ^ 27 = (hi - 1) / 2 ^ 27 then lo / 2 ^ 27 * 2 ^ 27 else lo / 16384 * 16384

/-- Whether an object can be placed: one of ET_DYN within one code window (R363). -/
def ElfObject.places (o : ElfObject) : Bool := o.etype != 3 || decide (o.extent.2 ≤ o.origin + 2 ^ 27)

/-- Where a section stands: ET_DYN objects are placed within a code window that the loader chooses (R363). -/
def sectionVa (o : ElfObject) (window : Nat) (x : ElfSection) : W64 :=
  if o.etype = 3 then BitVec.ofNat 64 (window * 2 ^ 27) + (x.addr - BitVec.ofNat 64 o.origin) else x.addr

/-- Why a section fails the load (R363, R364). -/
def ElfSection.error (x : ElfSection) : Option LdErr :=
  if !knownSection x.typ && x.flags.testBit 28 then some .sect
  else if (sectionAlign x.typ).any fun a => x.addr.toNat % a != 0 then some .align
  else if x.flanerNotes.any ElfNote.fails then some .note
  else none

/-- The value of a note type, of its first note. -/
def noteOf (o : ElfObject) (typ : Nat) : Option W64 :=
  ((o.sections.flatMap ElfSection.flanerNotes).find? fun n => n.typ == typ).map fun n => n.desc

/-- The sections of R363 as they are mapped: text and overlay images with X = 1, kernel descriptors without. -/
def mappedOf (o : ElfObject) (window : Nat) : List (W64 × List Byte × Bool) :=
  o.mapped.map fun x => (sectionVa o window x, x.data, x.typ != 0x70000001)

/-- Loading an object (R363, R364): a failed load gives its error and nothing else; the sections are checked in their order, and an ET_DYN
object that no code window holds fails with LDERR_SECTION (log entry 67). -/
def loadObject (o : ElfObject) (window : Nat) : Except LdErr Loaded :=
  if !o.accepted then .error .machine
  else match o.sections.findSome? ElfSection.error with
    | some e => .error e
    | none => if !o.places then .error .sect else .ok { image := mappedOf o window, width := noteOf o 1, scratch := noteOf o 2, pool := noteOf o 3 }

end Sys2Proof.Machine
end

