-- ==== Sys2Proof/Tests/World.lean ====
section
/-! SUPPORT. Small states for the tests and witnesses: one die in service with one core, one group of eight lanes, one Q thread
and one copy context, and the check that an executor is ready. -/
namespace Sys2Proof.Machine

/-- The checks of `Ready` on an executor that stands where it says. -/
def readyHere (x : Ex) (r : Rule) (u : Use) (h : Option Head) : Bool :=
  !x.held && r.admits x.who && u.fits x && (!r.ctl || x.p.left == 1) && r.ill.isNone && r.privOk x && r.roleFits x &&
  r.unsplit x && (!r.gone || x.active h == 0) && (r.hint || !u.hazard x.p) && (r.hint || !u.poisoned x (x.active h))

/-- What the checks find is what `Ready` says. -/
theorem ready_of {s : State} {x : Ex} {r : Rule} {u : Use} {h : Option Head} (hc : s.cur = some x.who)
    (hx : exOf s x.who = some x) (hb : readyHere x r u h = true) : Ready s x r u h := by
  simp only [readyHere, Bool.and_eq_true, Bool.or_eq_true, Bool.not_eq_true', beq_iff_eq, Option.isNone_iff_eq_none] at hb
  obtain ⟨⟨⟨⟨⟨⟨⟨⟨⟨⟨h1, h2⟩, h3⟩, h4⟩, h5⟩, h6⟩, h7⟩, h8⟩, h9⟩, h10⟩, h11⟩ := hb
  exact ⟨hc, hx, h1, h2, h3, fun h => h4.resolve_left (by simp [h]), h5, h6, h7, h8, fun h => h9.resolve_left (by simp [h]),
    fun h => h10.resolve_left (by simp [h]), fun h => h11.resolve_left (by simp [h])⟩

/-- The same for a list of instructions' needs. -/
theorem ready_all {s : State} {x : Ex} (l : List (Rule × Use × Option Head)) (hc : s.cur = some x.who)
    (hx : exOf s x.who = some x) (hb : l.all (fun e => readyHere x e.1 e.2.1 e.2.2) = true) :
    ∀ e ∈ l, Ready s x e.1 e.2.1 e.2.2 := fun e he => ready_of hc hx (List.all_eq_true.mp hb e he)

/-- What a search came to. -/
def isOk {ε α : Type} : Except ε α → Bool
  | .ok _ => true
  | .error _ => false
/-- Whether the instruction waits. -/
def isHold {α : Type} : Except Stop α → Bool
  | .error (.hold _) => true
  | _ => false
/-- Whether a cause is raised. -/
def isTrap {α : Type} : Except Stop α → Bool
  | .error (.trap _) => true
  | _ => false

theorem ok_of {ε α β : Type} {e : Except ε (α × β)} (h : isOk e = true) : ∃ a b, e = .ok (a, b) := by
  cases e with
  | ok v => exact ⟨v.1, v.2, rfl⟩
  | error _ => cases h

theorem hold_of {α : Type} {e : Except Stop α} (h : isHold e = true) : ∃ t, e = .error (.hold t) := by
  rcases e with (_ | _) | _ <;> first | exact ⟨_, rfl⟩ | cases h

theorem trap_of {α : Type} {e : Except Stop α} (h : isTrap e = true) : ∃ t, e = .error (.trap t) := by
  rcases e with (_ | _) | _ <;> first | exact ⟨_, rfl⟩ | cases h

/-- A module none of whose pseudo-channels has failed (R180). -/
theorem none_failed {s : State} (h : (s.dies.all fun d => d.failed.isEmpty) = true) (z : Nat) : unitFailed s z = false := by
  unfold unitFailed
  split
  · rename_i d hd
    have hm : d ∈ s.dies := List.mem_of_find?_eq_some hd
    simp [List.isEmpty_iff.mp (List.all_eq_true.mp h d hm)]
  · rfl

/-- An option that holds something. -/
theorem some_of {α : Type} {o : Option α} (h : o.isSome = true) : ∃ a, o = some a := Option.isSome_iff_exists.mp h

/-- A context for the tests. -/
def tCtx : Context :=
  { pasid := 1, fn := 0, mode := .save, feat0 := 0xFFF, feat1 := 0, htb := 0x2000, retcnt := 0, retlast := 0 }

/-- The launch of the tests' team. -/
def tLaunch : Launch :=
  { lid := 770, die := 0, qid := 1, seq := 1, pasid := 1,
    pk := { flags := 0, dies := 1, width := 8, cores := 1, tlva := 0, tlval := 0, desc := 0, arg := 0, gx := 1, gy := 1, gz := 1,
            counts := [1, 0, 0, 0], scratch := 4096, vbud := [256, 256, 256, 256], sbud := [64, 64, 64, 64], pool := 4, prio := 0 },
    ds := { entries := [0x1000, 0, 0, 0], prest := false, ranks := 0, isa := 3, feat0 := 0, feat1 := 0, htb := 0, vmax := [0, 0, 0, 0],
            smax := [0, 0, 0, 0], ok := true },
    prio := 0, next := 1, redo := [], ended := 0, faulted := false, since := 0, held := false, reported := false }

/-- The tests' team: 4096 bytes of scratchpad. -/
def tTeam : Team := { placedTeam with scratch := 4096, pool := 4 }

/-- A path whose next word is the last of its block; scalar registers as listed. -/
def tPath (view : SMap W64) : Path := { placedPath 0 false with view }

/-- The tests' group, with the path `p`. -/
def tGroup (p : Path) : Group := { placedGroup 0 false with htb := 0x2000, stack := { a := some p, b := none, rest := [] } }

/-- The tests' group in handler mode. -/
def tHandler (p : Path) : Group := { tGroup p with frames := [placedFrame p] }

/-- A queue of die 0. -/
def tQueue : Queue :=
  { die := 0, qid := 1, pasid := 1, ring := 0x8000, size := 4, prio := 0, ridxva := 0x9000, fqva := 0x9100, doneva := 0x9200,
    vouchva := 0, irqvec := 1, faultvec := 2, irqvalva := 0x9300, w := 0, r := 0, halted := false, kicked := false, bound := some 0, cap := 0,
    packets := [], done := 0, vouched := 0, suspects := [] }

/-- The tests' pages (R157): 64 KiB of HBM from address 0, writable and executable, in class DC. -/
def tLeaf : Tlb := { pasid := 1, hroot := false, base := 0, bytes := 0x10000, leaf := 0x04000000000001DF, marks := [] }

/-- A page of timelines of die 0, at 0x50000. -/
def tTlPage : Tlb := { pasid := 1, hroot := false, base := 0x50000, bytes := 4096, leaf := 0x08000050000001DF, marks := [] }

/-- The tests' core: its translations, and a frame that holds the first 16 KiB of the kernel. -/
def tCore : Core := { Core.reset 0 0 with tlb := [tLeaf, tTlPage], tags := [(0, some { pasid := 1, base := 0, ovl := 0 })] }

/-- Two dies, the first with one core; entry 0x15 of the handler table at 0x2000 names the header at 0x1000. -/
def tWorld : State :=
  { State.reset with
    dies := [{ Die.reset 0 with cache := [tLeaf, tTlPage] }, Die.reset 1], cores := [tCore], qthreads := [QThread.reset 0 0],
    copies := [CopyCtx.reset 0 0], contexts := [tCtx], launches := [tLaunch], teams := [tTeam], mem := [(0x2029, 0x10)] }

/-- The world with one group, which issues from slot A. -/
def inG (g : Group) : State := { tWorld with groups := [g], cur := some (.grp 768 0) }

/-- The executor of that group. -/
def exG (g : Group) (p : Path) : Ex :=
  { who := .grp 768 0, p, g := some g, die := g.die, core := g.core, pasid := 1, user := g.frames.isEmpty, secure := false }

/-- A Q thread with a program's path, bound to queue 1. -/
def tThread (p : Path) : QThread := { QThread.reset 0 0 with bound := some 1, pasid := 1, path := some p }

/-- The world in which that thread issues. -/
def inQ (t : QThread) (q : Queue) : State := { tWorld with qthreads := [t], queues := [q], cur := some (.qthr 0 0) }

/-- The executor of that thread. -/
def exQ (p : Path) : Ex := { who := .qthr 0 0, p, g := none, die := 0, core := 64, pasid := 1, user := !p.sys, secure := false }

/-- A copy program's operation. -/
def tCopyOp : CopyOp := { num := 1, kind := .prog, args := [0, 0, 0x1000, 0], qid := 1, seq := 1, pos := 0, buf := none, stop := none }

/-- A copy context that runs a program. -/
def tCopy (p : Path) : CopyCtx := { CopyCtx.reset 0 0 with pasid := 1, ops := [tCopyOp], count := 1, prog := some p }

/-- The world in which that program issues. -/
def inC (c : CopyCtx) : State := { tWorld with copies := [c], cur := some (.copyc 0 0) }

/-- The executor of that program. -/
def exC (p : Path) : Ex := { who := .copyc 0 0, p, g := none, die := 0, core := 64, pasid := 1, user := !p.sys, secure := false }

end Sys2Proof.Machine
end

