-- ==== Sys2Proof/Tests/Slice0.lean ====
section
/-! SUPPORT. Tests of the model: words written out from the encodings of the spec, ill-formed instructions that the check refuses,
and one small step of each kind with the result that the spec gives. -/
namespace Sys2Proof.Machine

open Sys2Proof

set_option Elab.async false

/-! ### Well-formedness -/

/-- No check passes what it is there to refuse: an ill-formed term for each reason and each check (R62, R68 step 1). -/
theorem test_ill_formed_words : ∀ e ∈ ([
    (.sand .i32 1 2 3, .typeNotAdmitted), (.sadd .b32 1 2 3 false, .typeNotAdmitted), (.sadd .b128 1 2 3 false, .typeNotAdmitted),
    (.vadd ⟨0, false, false, 0, false⟩ .i64 1 2 3 false, .typeNotAdmitted), (.vand ⟨0, false, false, 0, false⟩ .n8 1 2 3, .typeNotAdmitted),
    (.vabs ⟨0, false, false, 0, false⟩ .n8 1 2 false, .typeNotAdmitted), (.vbfe ⟨0, false, false, 0, false⟩ .i16 1 2 3, .typeNotAdmitted),
    (.vfadd ⟨0, false, false, 0, false⟩ .e4m3 1 2 3 .rne, .typeNotAdmitted), (.vpack ⟨0, false, false, 0, false⟩ .f32 1 2 .rne false, .typeNotAdmitted),
    (.vpackDense ⟨0, false, false, 0, false⟩ .e4m3 0 4, .typeNotAdmitted), (.vdot ⟨0, false, false, 0, false⟩ .e4m3 .f16 8 0 4 0 false, .typeNotAdmitted),
    (.vdot ⟨0, false, false, 0, false⟩ .f16 .f16 8 0 4 0 true, .typeNotAdmitted), (.vscan false .and .i32 1 2 3 false, .typeNotAdmitted),
    (.vadd ⟨1, false, false, 0, false⟩ .i32 1 2 3 false, .laNotAdmitted), (.vli ⟨0, false, true, 0, false⟩ 1 2, .holdNotAdmitted),
    (.vabs ⟨0, true, false, 0, false⟩ .i8 1 2 false, .holdNotAdmitted), (.vadd ⟨0, false, false, 0, true⟩ .i32 1 2 3 false, .predNotAdmitted),
    (.brm false 0 4, .maskZero), (.vcmp ⟨0, false, false, 0, false⟩ .i32 .eq 0 1 2, .maskZero), (.voteAny 0 1 2, .maskZero),
    (.vaddc ⟨0, false, false, 0, false⟩ 1 2 3 0, .maskZero), (.vmov ⟨0, false, false, 0, false⟩ .b64 1 2, .misalignedRun),
    (.vfadd ⟨0, false, false, 0, false⟩ .f64 2 3 4 .rne, .misalignedRun), (.vunpack ⟨0, false, false, 0, false⟩ .e2m1 4 1, .misalignedRun),
    (.sbfe .i16 1 2 9 7, .fieldRange), (.sbfi .b64 1 2 3 63 1, .fieldRange), (.spawn 1 2 3 0 5, .fieldRange), (.spawn 1 2 3 0 0, .reservedField),
    (.spawn 1 2 62 0 3, .runPastEnd), (.vclmul ⟨0, false, false, 0, false⟩ 1 2 3 4 false false, .reservedField)] : List (Instr × Reject)),
    ill e.1 = some e.2 := by
  decide +kernel

/-- The same for the memory, order, matrix, queue and handler words (R64, R211, R220, R227, R236, R237, R274 to R291). -/
theorem test_ill_formed_memory_and_system : ∀ e ∈ ([
    (.ld ⟨0, false, false, 0, false⟩ ⟨1, 2, 0xFF, .b64, .weak, .plain, 0, false, 0, 0⟩, .misalignedRun),
    (.ld ⟨0, false, false, 0, false⟩ ⟨2, 2, 0xFF, .b128, .weak, .plain, 0, false, 0, 0⟩, .misalignedRun),
    (.ld ⟨0, false, false, 0, false⟩ ⟨1, 2, 0xFF, .b32, .weak, .acq, 0, false, 0, 0⟩, .memField),
    (.ld ⟨0, false, false, 0, false⟩ ⟨1, 2, 0xFF, .b32, .die, .rel, 0, false, 0, 0⟩, .memField),
    (.ld ⟨0, false, false, 0, false⟩ ⟨1, 2, 0xFF, .b32, .weak, .plain, 0, false, 3, 0⟩, .memField),
    (.ldx ⟨0, false, false, 0, false⟩ ⟨1, 2, 0xFF, .b32, .weak, .plain, 0, false, 0, 0⟩, .memField),
    (.lds 0 ⟨64, 2, 0xFF, .b32, .weak, .plain, 0, false, 0, 0⟩, .runPastEnd), (.lds 0 ⟨1, 2, 3, .b32, .weak, .plain, 0, false, 0, 0⟩, .memField),
    (.lds 0 ⟨1, 2, 0xFF, .b128, .weak, .plain, 0, false, 0, 0⟩, .memField), (.ldm ⟨62, 2, 0xFF, .b8, .weak, .plain, 0, false, 0, 0⟩, .runPastEnd),
    (.bcp ⟨1, 2, 0xFF, .b8, .weak, .plain, 0, false, 0, 4⟩, .memField), (.pf ⟨0, false, false, 0, false⟩ ⟨1, 2, 3, .b8, .weak, .plain, 0, false, 0, 0⟩, .memField),
    (.pf ⟨0, false, false, 0, false⟩ ⟨0, 2, 3, .b8, .die, .plain, 0, false, 0, 0⟩, .scopeNotAdmitted),
    (.cwb ⟨0, 2, 3, .b8, .weak, .plain, 0, false, 0, 0⟩, .scopeNotAdmitted), (.atom ⟨0, false, false, 0, false⟩ .add ⟨1, 2, 3, .b8, .weak, .plain, 0, false, 0, 0⟩, .memField),
    (.cas ⟨0, false, false, 0, false⟩ ⟨255, 2, 3, .b32, .weak, .plain, 0, false, 0, 0⟩, .runPastEnd),
    (.cas ⟨0, false, false, 0, false⟩ ⟨2, 2, 3, .b64, .weak, .plain, 0, false, 0, 0⟩, .misalignedRun), (.fence .weak 0 0, .scopeNotAdmitted),
    (.tsig .weak 1 2, .scopeNotAdmitted), (.mld 0 62 0 .int, .runPastEnd), (.mld 0 0 0 (.fp .f64), .typeNotAdmitted),
    (.mma 0 0 3 1 0 (.fp .f16) (.fp .f16) false, .reservedField), (.mma 0 0 3 6 0 (.fp .f16) (.fp .f16) true, .typeNotAdmitted),
    (.mst 0 0 3 0 0 .int .rne false false false, .reservedField), (.mst 0 0 0 0 0 (.fp .f32) .rne true false false, .ovfNotAdmitted),
    (.vfcvt ⟨0, false, false, 0, false⟩ .f32 (.fp .f16) 1 2 .rne true, .ovfNotAdmitted), (.qpop 49 1, .runPastEnd), (.qpop 16 20, .fieldRange),
    (.qack 1 2 0x30 false, .reservedValue), (.reform 1 5 false, .reservedValue), (.tlbw 1 6, .reservedValue), (.tlbinv 1 3 true, .reservedValue),
    (.ovld 1 2 0, .reservedValue), (.pgrab 1 5 0, .reservedValue), (.dmsg 1 57, .runPastEnd), (.unassignedOpcode 0, .reservedOpcode)] :
      List (Instr × Reject)), ill e.1 = some e.2 := by
  decide +kernel

/-- Words that decode to nothing (R53, R57, R61 to R64, R89, R101, R220, R227, R284, R286): in order, a header, CND 6, an FN bit
and SC of `sadd`, TY 13, `.b8`, PRED, LA and HOLDA on it, RM 5, PNEG without PRED, SIZE 5, SCOPE 6, AOP 9, DATA of `pf`, scalar
register 64, a fence at scope weak and 6, `fence.sc` with PRED, page size 6, frame 0. -/
theorem test_decode_refuses : ∀ e ∈ ([
    (0x0000_0000_0000_0000, .header), (0x2500_0084_1804_0006, .reservedValue), (0x1000_0084_1806_0002, .reservedField),
    (0x1000_0084_1826_0000, .reservedField), (0x1000_0084_181A_0000, .reservedValue), (0x1000_0084_1810_0000, .typeNotAdmitted),
    (0x1000_4084_1806_0000, .predNotAdmitted), (0x1010_0084_1806_0000, .laNotAdmitted), (0x1004_0084_1806_0000, .holdNotAdmitted),
    (0x6000_0020_4060_0405, .reservedValue), (0x3000_2020_4060_0400, .predNotAdmitted), (0x9000_0021_7FD0_0000, .reservedValue),
    (0x9000_0021_7FAC_0000, .reservedValue), (0x9900_0021_7FA0_0009, .reservedValue), (0x9800_0021_7FA0_0000, .memField),
    (0x4C00_0028_0000_1400, .reservedField), (0xB000_0000_0000_0000, .scopeNotAdmitted), (0xB000_0000_000C_0000, .reservedValue),
    (0xB000_0000_0006_0003, .reservedField), (0xE100_0014_0000_0006, .reservedValue), (0xE400_0018_6800_0000, .reservedValue)] : List (W64 × Reject)), decode e.1 = .error e.2 := by
  decide +kernel

/-! ### Decoding -/

/-- The words of the control family (R61, R66 and the tables of its chapter). -/
theorem test_decode_control : ∀ e ∈ ([
    (0x0100_0482_FFFF_FFF4, .br (.nz 9) 0xFFFFFFF4),
    (0x0100_002F_0000_0003, .br (.none 5) 3),
    (0x0100_0000_FFFF_FFFF, .br .always 0xFFFFFFFF),
    (0x0200_0021_0000_0010, .brm true 4 16),
    (0x0300_007C_0000_0000, .jmpi 62),
    (0x0400_1F80_FFFF_FFFE, .call 63 0xFFFFFFFE),
    (0x0500_1F8E_0000_0000, .calli 63 7),
    (0x0600_007E_0000_0000, .ret 63),
    (0x0700_0000_0000_0000, .exit),
    (0x0800_0394_6000_0031, .spawn 7 10 12 1 3),
    (0x0900_0000_0000_0000, .yield),
    (0x0A00_0000_0000_0000, .nop),
    (0x0B00_0001_FFFF_FFFB, .trap 0x1FFFFFFFB),
    (0x0C00_0000_0000_004D, .brk 77),
    (0x0D00_0200_0300_0000, .mfs 4 0x18),
    (0x0E00_0012_8020_0000, .mts 0x401 9)] : List (W64 × Instr)), decode e.1 = .ok e.2 := by
  decide +kernel

/-- The words of the scalar family (R61, R66 and the tables of its chapter). -/
theorem test_decode_scalar1 : ∀ e ∈ ([
    (0x1000_1F82_1004_0001, .sadd .i32 63 1 2 true),
    (0x1100_0188_280A_0000, .ssub .n16 3 4 5 false),
    (0x1200_0188_2806_0001, .smul .i64 3 4 5 true),
    (0x1300_0188_280E_0000, .smulh .n64 3 4 5),
    (0x14F0_0188_2800_0000, .sdiv 15 .i8 3 4 5),
    (0x1510_0188_280C_0000, .srem 1 .n32 3 4 5),
    (0x1600_0188_2816_0000, .sand .b64 3 4 5),
    (0x1700_0188_2810_0000, .sor .b8 3 4 5),
    (0x1800_0188_2812_0000, .sxor .b16 3 4 5),
    (0x1900_0188_2814_0000, .sandn .b32 3 4 5),
    (0x1A00_0188_2816_0000, .sshl .b64 3 4 5),
    (0x1B00_0188_2814_0000, .sshr .b32 3 4 5),
    (0x1C00_0188_2810_0000, .ssra .b8 3 4 5),
    (0x1D00_0188_2812_0000, .srot .b16 3 4 5),
    (0x1E00_0188_2802_0000, .smin .i16 3 4 5),
    (0x1F00_0188_2808_0000, .smax .n8 3 4 5)] : List (W64 × Instr)), decode e.1 = .ok e.2 := by
  decide +kernel

/-- More words of the scalar family. -/
theorem test_decode_scalar2 : ∀ e ∈ ([
    (0x2000_0188_0016_0000, .sclz .b64 3 4),
    (0x2100_0188_0014_0000, .spopc .b32 3 4),
    (0x2200_0112_0002_01C4, .sbfe .i16 2 9 4 7),
    (0x2300_0104_3816_05E8, .sbfi .b64 2 2 7 40 23),
    (0x2400_0188_28D6_0000, .ssel 3 4 5 6),
    (0x2500_0084_1804_0002, .scmp .i32 .lt 1 2 3),
    (0x2600_0188_0016_0000, .smov 3 4),
    (0x2700_0400_8000_0000, .sli 8 0x80000000),
    (0x2700_0440_1234_5678, .sliHi 8 0x12345678),
    (0x2800_0189_FFFF_FFFF, .saddImm 3 4 0x1FFFFFFFF),
    (0x2900_0188_0000_000A, .smulImm 3 4 10),
    (0x2A00_0188_0000_00FF, .sandImm 3 4 0xFF),
    (0x2B00_0188_0000_0001, .sorImm 3 4 1),
    (0x2C00_0188_0000_0002, .sxorImm 3 4 2),
    (0x2D00_0188_0000_003F, .sshlImm 3 4 63),
    (0x2E00_0188_0000_0020, .sshrImm 3 4 32)] : List (W64 × Instr)), decode e.1 = .ok e.2 := by
  decide +kernel

/-- More words of the scalar family. -/
theorem test_decode_scalar3 : ∀ e ∈ ([
    (0x2F00_0188_0000_0005, .ssraImm 3 4 5)] : List (W64 × Instr)), decode e.1 = .ok e.2 := by
  decide +kernel

/-- The words of the vector family (R61, R66 and the tables of its chapter). -/
theorem test_decode_vector1 : ∀ e ∈ ([
    (0x3000_00E0_E040_0001, .vadd ⟨0, false, false, 0, false⟩ .i8 7 7 2 true),
    (0x3100_E020_4060_0C00, .vsub ⟨0, false, false, 3, true⟩ .n32 1 2 3 false),
    (0x3200_1FE0_4060_0200, .vmul ⟨0, false, false, 0, false⟩ .i16 255 2 3 false),
    (0x330C_0020_4060_0800, .vmulh ⟨0, true, true, 0, false⟩ .n8 1 2 3),
    (0x3400_0020_4060_8401, .vmad ⟨0, false, false, 0, false⟩ .i32 1 2 3 4 true),
    (0x3500_0020_4060_1400, .vand ⟨0, false, false, 0, false⟩ .b32 1 2 3),
    (0x3600_0020_4060_1200, .vor ⟨0, false, false, 0, false⟩ .b16 1 2 3),
    (0x3700_0020_4060_1000, .vxor ⟨0, false, false, 0, false⟩ .b8 1 2 3),
    (0x3800_0020_4060_1400, .vandn ⟨0, false, false, 0, false⟩ .b32 1 2 3),
    (0x3900_0020_4000_1400, .vnot ⟨0, false, false, 0, false⟩ .b32 1 2),
    (0x3A00_0020_4060_1400, .vshl ⟨0, false, false, 0, false⟩ .b32 1 2 3),
    (0x3B00_0020_4060_1200, .vshr ⟨0, false, false, 0, false⟩ .b16 1 2 3),
    (0x3C00_0020_4060_1000, .vsra ⟨0, false, false, 0, false⟩ .b8 1 2 3),
    (0x3D00_0020_4060_0400, .vmin ⟨0, false, false, 0, false⟩ .i32 1 2 3),
    (0x3E00_0020_4060_0A00, .vmax ⟨0, false, false, 0, false⟩ .n16 1 2 3),
    (0x3F00_0020_4000_0401, .vabs ⟨0, false, false, 0, false⟩ .i32 1 2 true)] : List (W64 × Instr)), decode e.1 = .ok e.2 := by
  decide +kernel

/-- More words of the vector family. -/
theorem test_decode_vector2 : ∀ e ∈ ([
    (0x4000_0020_4000_0000, .vneg ⟨0, false, false, 0, false⟩ .i8 1 2 false),
    (0x4100_0020_4000_1400, .vclz ⟨0, false, false, 0, false⟩ .b32 1 2),
    (0x4200_0020_4000_1200, .vpopc ⟨0, false, false, 0, false⟩ .b16 1 2),
    (0x4300_0020_4000_1000, .vbrev ⟨0, false, false, 0, false⟩ .b8 1 2),
    (0x4400_0020_4000_8C00, .vbfe ⟨0, false, false, 0, false⟩ .n32 1 2 4),
    (0x4500_0020_4060_9400, .vbfi ⟨0, false, false, 0, false⟩ 1 2 3 4),
    (0x4600_0080_2040_0C06, .vaddc ⟨0, false, false, 0, false⟩ 4 1 2 6),
    (0x4700_0080_2040_0C0F, .vsubb ⟨0, false, false, 0, false⟩ 4 1 2 15),
    (0x4800_0080_2041_3403, .vclmul ⟨0, false, false, 0, false⟩ 4 1 2 9 true true),
    (0x4900_0080_C000_1600, .vmov ⟨0, false, false, 0, false⟩ .b64 4 6),
    (0x4A00_0094_DEAD_BEEF, .vli ⟨0, false, false, 0, false⟩ 4 0xDEADBEEF),
    (0x4B00_0080_2040_1405, .vsel ⟨0, false, false, 0, false⟩ .b32 4 1 2 5),
    (0x4C00_0087_E000_1400, .vbcast ⟨0, false, false, 0, false⟩ .b32 4 63),
    (0x4D00_0080_0000_0C00, .vlane ⟨0, false, false, 0, false⟩ 4),
    (0x5000_0020_45FF_FFFF, .vaddImm ⟨0, false, false, 0, false⟩ .i32 1 2 0x1FFFFFF),
    (0x5100_0020_4800_0007, .vsubImm ⟨0, false, false, 0, false⟩ .n8 1 2 7)] : List (W64 × Instr)), decode e.1 = .ok e.2 := by
  decide +kernel

/-- More words of the vector family. -/
theorem test_decode_vector3 : ∀ e ∈ ([
    (0x5200_0020_4200_0007, .vmulImm ⟨0, false, false, 0, false⟩ .i16 1 2 7),
    (0x5300_0020_5400_0007, .vandImm ⟨0, false, false, 0, false⟩ .b32 1 2 7),
    (0x5400_0020_5400_0007, .vorImm ⟨0, false, false, 0, false⟩ .b32 1 2 7),
    (0x5500_0020_5400_0007, .vxorImm ⟨0, false, false, 0, false⟩ .b32 1 2 7),
    (0x5600_0020_5400_001F, .vshlImm ⟨0, false, false, 0, false⟩ .b32 1 2 31),
    (0x5700_0020_5400_001F, .vshrImm ⟨0, false, false, 0, false⟩ .b32 1 2 31),
    (0x5800_0020_5400_001F, .vsraImm ⟨0, false, false, 0, false⟩ .b32 1 2 31),
    (0x5900_0020_4400_0007, .vminImm ⟨0, false, false, 0, false⟩ .i32 1 2 7),
    (0x5A00_0020_4C00_0007, .vmaxImm ⟨0, false, false, 0, false⟩ .n32 1 2 7)] : List (W64 × Instr)), decode e.1 = .ok e.2 := by
  decide +kernel

/-- The words of the float family (R61, R66 and the tables of its chapter). -/
theorem test_decode_float1 : ∀ e ∈ ([
    (0x6000_0020_4060_0404, .vfadd ⟨0, false, false, 0, false⟩ .f32 1 2 3 .rna),
    (0x6100_0040_80C0_0603, .vfsub ⟨0, false, false, 0, false⟩ .f64 2 4 6 .rdn),
    (0x6200_0020_4060_0202, .vfmul ⟨0, false, false, 0, false⟩ .bf16 1 2 3 .rup),
    (0x6304_0120_6141_2401, .vffma ⟨0, false, true, 0, false⟩ .f32 9 3 10 9 .rtz),
    (0x6400_0020_4060_0000, .vfmin ⟨0, false, false, 0, false⟩ .f16 1 2 3),
    (0x6500_0020_4060_0400, .vfmax ⟨0, false, false, 0, false⟩ .f32 1 2 3),
    (0x6600_0020_4000_0400, .vfabs ⟨0, false, false, 0, false⟩ .f32 1 2),
    (0x6700_0020_4000_0400, .vfneg ⟨0, false, false, 0, false⟩ .f32 1 2),
    (0x6800_0020_4060_0400, .vfsgn ⟨0, false, false, 0, false⟩ .f32 1 2 3),
    (0x6954_0020_4000_0400, .vfrcp ⟨5, false, true, 0, false⟩ 1 2),
    (0x6A00_0020_4000_0400, .vfrsq ⟨0, false, false, 0, false⟩ 1 2),
    (0x6B54_0040_8000_0601, .vfsqrt ⟨5, false, true, 0, false⟩ .f64 2 4 .rtz),
    (0x6C00_0020_4000_0400, .vfexp2 ⟨0, false, false, 0, false⟩ 1 2),
    (0x6D00_0020_4000_0400, .vflog2 ⟨0, false, false, 0, false⟩ 1 2),
    (0x6E00_0020_4000_0400, .vfsin ⟨0, false, false, 0, false⟩ 1 2),
    (0x6F00_0020_4000_0400, .vfcos ⟨0, false, false, 0, false⟩ 1 2)] : List (W64 × Instr)), decode e.1 = .ok e.2 := by
  decide +kernel

/-- More words of the float family. -/
theorem test_decode_float2 : ∀ e ∈ ([
    (0x7000_0020_4000_0402, .vffract ⟨0, false, false, 0, false⟩ .f32 1 2 .rup),
    (0x7100_0020_4000_0400, .vfround ⟨0, false, false, 0, false⟩ .f32 1 2 .rne),
    (0x7200_0020_4000_1200, .vfclass ⟨0, false, false, 0, false⟩ .e8m0 1 2),
    (0x7300_00A0_4060_0406, .vfcmp ⟨0, false, false, 0, false⟩ .f32 .un 5 2 3),
    (0x7400_0020_4000_0828, .vfcvt ⟨0, false, false, 0, false⟩ .e4m3 (.fp .f32) 1 2 .rne true),
    (0x7400_0020_4000_0171, .vfcvt ⟨0, false, false, 0, false⟩ .f16 (.int .n64) 1 2 .rtz false),
    (0x7500_0060_4000_0421, .vicvt ⟨0, false, false, 0, false⟩ .i32 .f32 3 2 .rtz),
    (0x7600_0020_4060_0400, .vfscale ⟨0, false, false, 0, false⟩ .f32 1 2 3 .rne),
    (0x7700_0021_0000_1003, .vpack ⟨0, false, false, 0, false⟩ .e2m1 1 8 .rdn false),
    (0x7800_0100_2000_0200, .vunpack ⟨0, false, false, 0, false⟩ .bf16 8 1),
    (0x7700_0081_0000_0E10, .vpackDense ⟨0, false, false, 0, false⟩ .e3m2 4 8),
    (0x7800_0081_0000_0C10, .vunpackDense ⟨0, false, false, 0, false⟩ .e2m3 4 8),
    (0x7900_0100_0080_0850, .vdot ⟨0, false, false, 0, false⟩ .e4m3 .e5m2 8 0 4 0 false)] : List (W64 × Instr)), decode e.1 = .ok e.2 := by
  decide +kernel

/-- The words of the mask family (R61, R66 and the tables of its chapter). -/
theorem test_decode_mask : ∀ e ∈ ([
    (0x8000_0400_0A0C_4A00, .vcmp ⟨0, false, false, 0, false⟩ .i32 .ge 2 5 6),
    (0x8100_0246_0000_0000, .mand ⟨0, false, false, 0, false⟩ 1 2 3),
    (0x8100_0246_0000_0001, .mor ⟨0, false, false, 0, false⟩ 1 2 3),
    (0x8100_0246_0000_0002, .mxor ⟨0, false, false, 0, false⟩ 1 2 3),
    (0x8100_0246_0000_0003, .mandn ⟨0, false, false, 0, false⟩ 1 2 3),
    (0x8200_0240_0000_0000, .mnot ⟨0, false, false, 0, false⟩ 1 2),
    (0x8300_0A00_0000_0000, .mmov ⟨0, false, false, 0, false⟩ 5 0),
    (0x8400_0040_7E00_0000, .mpopc ⟨0, false, false, 0, false⟩ 63 2),
    (0x8500_0040_0E00_0000, .mffs ⟨0, false, false, 0, false⟩ 7 2),
    (0x8600_0040_0E00_0000, .mfls ⟨0, false, false, 0, false⟩ 7 2),
    (0x8700_1E00_0E00_0000, .mfroms ⟨0, false, false, 0, false⟩ 15 7),
    (0x8800_0000_0E00_0000, .mtos ⟨0, false, false, 0, false⟩ 7 0)] : List (W64 × Instr)), decode e.1 = .ok e.2 := by
  decide +kernel

/-- The words of the collective family (R61, R66 and the tables of its chapter). -/
theorem test_decode_collective : ∀ e ∈ ([
    (0x8900_0246_0000_0000, .voteAny 1 2 3),
    (0x8900_0246_0000_0001, .voteAll 1 2 3),
    (0x8900_0246_0000_0002, .voteBallot 1 2 3),
    (0x8904_0240_1201_4003, .voteUni true 1 2 9),
    (0x8A00_0040_080B_4000, .shflIdx false 4 5 2),
    (0x8A00_0040_080B_40FD, .shflUp false 4 5 2 63),
    (0x8A00_0040_080B_4006, .shflDown false 4 5 2 1),
    (0x8A00_0040_080B_4083, .shflXor false 4 5 2 32),
    (0x8B00_0040_0C0A_4008, .vscan false .add .i32 6 5 2 true),
    (0x8C00_0040_0C0B_4005, .vred false .xor .b32 6 5 2),
    (0x8D00_0040_0C0A_C03E, .vappend false 6 5 2 62),
    (0x8E00_0040_0C0B_401F, .vreadl false 6 5 2 31),
    (0x8F00_0040_0C7F_401F, .vwritel 6 63 2 31)] : List (W64 × Instr)), decode e.1 = .ok e.2 := by
  decide +kernel

/-- The words of the memory family (R61, R66 and the tables of its chapter). -/
theorem test_decode_memory : ∀ e ∈ ([
    (0x9020_0084_01B6_C0FF, .ld ⟨2, false, false, 0, false⟩ ⟨4, 8, 3, .b64, .die, .acq, 2, false, 0, 255⟩),
    (0x9100_0084_01C0_0000, .ldx ⟨0, false, false, 0, false⟩ ⟨4, 8, 3, .b128, .weak, .plain, 0, false, 0, 0⟩),
    (0x9200_E084_7F8B_0000, .st ⟨0, false, false, 3, true⟩ ⟨4, 8, 255, .b8, .sys, .rel, 0, false, 0, 0⟩),
    (0x9300_0084_0190_0000, .stx ⟨0, false, false, 0, false⟩ ⟨4, 8, 3, .b16, .weak, .plain, 0, false, 0, 0⟩),
    (0x9400_0100_7FB0_0001, .lds 0 ⟨8, 0, 255, .b64, .weak, .plain, 0, false, 0, 1⟩),
    (0x9500_0100_7FA0_0000, .sts ⟨8, 0, 255, .b32, .weak, .plain, 0, false, 0, 0⟩),
    (0x9600_0104_FF80_2000, .ldm ⟨8, 9, 255, .b8, .weak, .plain, 1, false, 0, 0⟩),
    (0x9700_0104_FF80_0000, .bcp ⟨8, 9, 255, .b8, .weak, .plain, 0, false, 0, 0⟩),
    (0x9800_0004_83A0_6000, .pf ⟨0, false, false, 0, false⟩ ⟨0, 9, 7, .b32, .weak, .plain, 3, false, 0, 0⟩),
    (0x9900_00C4_83A9_9D08, .atom ⟨0, false, false, 0, false⟩ .umax ⟨6, 9, 7, .b32, .pkg, .acqrel, 0, true, 13, 0⟩),
    (0x9A00_0084_FFB2_0002, .cas ⟨0, false, false, 0, false⟩ ⟨4, 9, 255, .b64, .grp, .plain, 0, false, 0, 2⟩),
    (0x9B10_00C4_FFB4_0005, .satom 1 .smin ⟨6, 9, 255, .b64, .team, .plain, 0, false, 0, 0⟩),
    (0xB100_00C4_FFA6_8000, .wchg ⟨6, 9, 255, .b32, .die, .acq, 0, false, 0, 0⟩),
    (0xEA00_0004_8388_0000, .cwb ⟨0, 9, 7, .b8, .pkg, .plain, 0, false, 0, 0⟩),
    (0xEB00_0004_838A_0000, .cinv ⟨0, 9, 7, .b8, .sys, .plain, 0, false, 0, 0⟩)] : List (W64 × Instr)), decode e.1 = .ok e.2 := by
  decide +kernel

/-- The words of the sync family (R61, R66 and the tables of its chapter). -/
theorem test_decode_sync : ∀ e ∈ ([
    (0xB000_0000_0006_0304, .fence .die 0b0000010 0b0000011),
    (0xB000_0000_000A_0001, .fenceSc .sys),
    (0xB200_000C_3808_0000, .tsig .pkg 6 7),
    (0xB300_028C_3802_0000, .twait .grp 5 6 7),
    (0xB430_028C_0000_0000, .tread 3 5 6),
    (0xB500_0000_0000_0026, .bar 2 6),
    (0xB600_0000_0000_0070, .barr 7 0),
    (0xB700_0000_0000_000F, .barw 0 15)] : List (W64 × Instr)), decode e.1 = .ok e.2 := by
  decide +kernel

/-- The words of the matrix family (R61, R66 and the tables of its chapter). -/
theorem test_decode_matrix : ∀ e ∈ ([
    (0xC000_1F00_0030_0000, .mzero 31 3),
    (0xC100_0110_002A_0000, .mld 1 4 2 .int),
    (0xC200_0110_8004_5000, .mma 1 4 8 0 0 (.fp .e4m3) (.fp .e5m2) false),
    (0xC300_0110_8318_8100, .mloop 1 4 8 12 1 (.fp .e2m1) (.fp .e2m1) true),
    (0xC400_0110_8314_003A, .mst 1 4 8 12 1 (.fp .e4m3) .rup true true true),
    (0xC500_0000_0020_0100, .mresume 2 true),
    (0xC600_000A_3800_0032, .rinit 2 3 5 7),
    (0xC700_020C_0000_000A, .racq 4 2 6 true),
    (0xC800_000C_0000_0007, .rrel 7 6),
    (0xC900_020C_0000_0001, .rstat 4 1 6)] : List (W64 × Instr)), decode e.1 = .ok e.2 := by
  decide +kernel

/-- The words of the queue family (R61, R66 and the tables of its chapter). -/
theorem test_decode_queue : ∀ e ∈ ([
    (0xD000_0800_1000_0000, .qpop 16 2),
    (0xD100_0004_2000_0034, .qack 2 4 0x34 false),
    (0xD100_0004_2000_0100, .qack 2 4 0 true),
    (0xD200_02A0_0800_0000, .launch 5 16 1),
    (0xD300_000E_0000_0000, .irqHost 7),
    (0xD300_000E_0000_0001, .irqKern 7),
    (0xD400_0480_0000_0000, .qsleep 9),
    (0xD500_0290_0800_0000, .cpy 5 8 1),
    (0xD500_0290_0800_0001, .cpyProg 5 8 1),
    (0xD600_0290_0800_0000, .cpy2d 5 8 1),
    (0xD700_0290_0800_0000, .cpyg 5 8 1),
    (0xD800_0290_0800_0000, .cpys 5 8 1),
    (0xD900_0290_0800_0000, .cfill 5 8 1),
    (0xDA00_0010_0000_0004, .reform 8 4 false)] : List (W64 × Instr)), decode e.1 = .ok e.2 := by
  decide +kernel

/-- The words of the handler family (R61, R66 and the tables of its chapter). -/
theorem test_decode_handler1 : ∀ e ∈ ([
    (0xE000_0000_0000_0000, .tret),
    (0xE100_0014_0000_0002, .tlbw 10 2),
    (0xE200_0014_0000_0005, .tlbinv 10 1 true),
    (0xE300_0014_0000_0002, .lprinv 10 2),
    (0xE400_0018_6800_0007, .ovld 12 13 7),
    (0xE500_0200_0000_0004, .pgrab 4 4 0),
    (0xE620_020C_0000_0001, .ats 2 4 6 true),
    (0xE700_000C_0000_0001, .pri 6 true),
    (0xE800_0210_0000_0000, .dmsg 4 8),
    (0xE900_0010_0000_0000, .hlt 8),
    (0xF000_0020_4060_0000, .vdp4E4m3 ⟨0, false, false, 0, false⟩ 1 2 3),
    (0xF100_0020_4060_0000, .vfdivF32Fast ⟨0, false, false, 0, false⟩ 1 2 3),
    (0xF200_0000_0000_0050, .barAll 5),
    (0xF300_0084_01A0_0000, .ldcst ⟨0, false, false, 0, false⟩ ⟨4, 8, 3, .b32, .weak, .plain, 0, false, 0, 0⟩),
    (0xF400_0000_0000_0055, .txfetch 0x55),
    (0xF500_0000_0000_0066, .mmaT8 0x66)] : List (W64 × Instr)), decode e.1 = .ok e.2 := by
  decide +kernel

/-- More words of the handler family. -/
theorem test_decode_handler2 : ∀ e ∈ ([
    (0xF600_0000_0000_0000, .unassignedOpcode 0xF600000000000000),
    (0x0F00_0000_0000_0001, .unassignedOpcode 0x0F00000000000001)] : List (W64 × Instr)), decode e.1 = .ok e.2 := by
  decide +kernel


/-! ### Steps -/

/-- The state after an instruction of the tests' world. -/
def ran (s : State) (i : Instr) : State := match exec i s with
  | .next t => t
  | _ => State.reset

/-- A scalar register of the tests' group after an instruction. -/
def sOf (s : State) (r : SReg) : W64 := ((pathOf s (.grp 768 0)).map fun p => rdS p r).getD 0

/-- A lane of a vector register of the tests' group. -/
def vOf (s : State) (r lane : Nat) : W32 := ((grp? s 768).map fun g => rdV g r lane).getD 0

/-- A mask register of the tests' group. -/
def mOf (s : State) (m : Nat) : Mask := ((grp? s 768).map fun g => sget 0 g.masks m).getD 0

/-- FPFL of the tests' group. -/
def flagsOf (s : State) : W64 := ((grp? s 768).map fun g => g.fpfl).getD 0

/-- The trap cause that the tests' group has taken. -/
def causeOf (s : State) : W64 := ((grp? s 768).map fun g => g.regs.trapc).getD 0

/-- The world whose group has these scalar registers. -/
def withS (v : SMap W64) : State := inG (tGroup (tPath v))

/-- The world whose group has these vector registers (register × 64 + lane). -/
def withV (v : SMap W32) : State := inG { tGroup (tPath []) with vregs := v }

/-- R87's examples: −7 ÷ 2 under .i32, and 7 ÷ 0 under .n32. -/
theorem test_sdiv : sOf (ran (withS [(1, 0xFFFFFFF9), (2, 2)]) (.sdiv 0 .i32 3 1 2)) 3 = 0xFFFFFFFFFFFFFFFD ∧
    sOf (ran (withS [(1, 7)]) (.sdiv 0 .n32 3 1 2)) 3 = 0xFFFFFFFF := by decide +kernel

/-- R87's examples: the remainder takes the sign of the dividend, and of a division by 0 it is the dividend. -/
theorem test_srem : sOf (ran (withS [(1, 0xFFFFFFF9), (2, 2)]) (.srem 0 .i32 3 1 2)) 3 = 0xFFFFFFFFFFFFFFFF ∧
    sOf (ran (withS [(1, 7)]) (.srem 0 .n32 3 1 2)) 3 = 7 := by decide +kernel

/-- R86: a 32-bit shift by 33 shifts by 1, and an arithmetic shift fills with bit n−1. -/
theorem test_sshift : sOf (ran (withS [(1, 0x80000001), (2, 33)]) (.sshl .b32 3 1 2)) 3 = 2 ∧
    sOf (ran (withS [(1, 0x80000001), (2, 33)]) (.ssra .b32 3 1 2)) 3 = 0xC0000000 := by decide +kernel

/-- R85, R101: `.sat` clamps at MAX. -/
theorem test_sadd_sat : sOf (ran (withS [(1, 0x7FFFFFFF), (2, 1)]) (.sadd .i32 3 1 2 true)) 3 = 0x7FFFFFFF ∧
    sOf (ran (withS [(1, 0x7FFFFFFF), (2, 1)]) (.sadd .i32 3 1 2 false)) 3 = 0xFFFFFFFF80000000 := by decide +kernel

/-- R101: a signed comparison, whose destination is a source. -/
theorem test_scmp : sOf (ran (withS [(1, 0xFFFFFFFF), (2, 1)]) (.scmp .i32 .lt 1 1 2)) 1 = 1 ∧
    sOf (ran (withS [(1, 0xFFFFFFFF), (2, 1)]) (.scmp .n32 .lt 1 1 2)) 1 = 0 := by decide +kernel

/-- R103: a signed field of eight bits at position 4. -/
theorem test_sbfe : sOf (ran (withS [(1, 0xABC)]) (.sbfe .i16 3 1 4 7)) 3 = 0xFFFFFFFFFFFFFFAB := by decide +kernel

/-- R105: `sli` extends the sign, and `sli.hi` keeps the low half. -/
theorem test_sli : sOf (ran (withS []) (.sli 3 0x80000000)) 3 = 0xFFFFFFFF80000000 ∧
    sOf (ran (withS [(3, 0x5555)]) (.sliHi 3 0x12345678)) 3 = 0x1234567800005555 := by decide +kernel

/-- R104: an immediate is extended to 64 bits. -/
theorem test_sadd_immediate : sOf (ran (withS [(1, 5)]) (.saddImm 3 1 0x1FFFFFFFF)) 3 = 4 := by decide +kernel

/-- Notes on vector instructions, "Saturation and conversion edges": `vadd.i8` of 100 and 100. -/
theorem test_vadd_i8 : vOf (ran (withV [(64, 100), (128, 100)]) (.vadd ⟨0, false, false, 0, false⟩ .i8 3 1 2 false)) 3 0 = 0xFFFFFFC8 ∧
    vOf (ran (withV [(64, 100), (128, 100)]) (.vadd ⟨0, false, false, 0, false⟩ .i8 3 1 2 true)) 3 0 = 0x7F := by decide +kernel

/-- The same table: `vneg.i8.sat` of −128, and `vabs.i32` of the least number. -/
theorem test_vneg_vabs : vOf (ran (withV [(64, 0x80)]) (.vneg ⟨0, false, false, 0, false⟩ .i8 3 1 true)) 3 0 = 0x7F ∧
    vOf (ran (withV [(64, 0x80000000)]) (.vabs ⟨0, false, false, 0, false⟩ .i32 3 1 false)) 3 0 = 0x80000000 := by decide +kernel

/-- The same table: `vsubb` of 0 and 1 with no carry. -/
theorem test_vsubb : vOf (ran (withV [(128, 1)]) (.vsubb ⟨0, false, false, 0, false⟩ 3 1 2 6)) 3 0 = 0xFFFFFFFF ∧
    (mOf (ran (withV [(128, 1)]) (.vsubb ⟨0, false, false, 0, false⟩ 3 1 2 6)) 6).getLsbD 0 = true := by decide +kernel

/-- The same table: `vicvt.n8.f32` of 300, −0.6 and −0.4, with the flags IV and NX. -/
theorem test_vicvt : (let f := fun (x : W32) => let t := ran (withV [(64, x)]) (.vicvt ⟨0, false, false, 0, false⟩ .n8 .f32 3 1 .rne)
      (vOf t 3 0, flagsOf t)
    f 0x43960000 = (0xFF, 1) ∧ f 0xBF19999A = (0, 1) ∧ f 0xBECCCCCD = (0, 16)) := by decide +kernel

/-- The same table: `vfcvt.e4m3.f32` of 464, a tie to the even value. -/
theorem test_vfcvt : (let t := ran (withV [(64, 0x43E80000)]) (.vfcvt ⟨0, false, false, 0, false⟩ .e4m3 (.fp .f32) 3 1 .rne false)
    vOf t 3 0 = 0x7E ∧ flagsOf t = 16) := by decide +kernel

/-- Notes on arithmetic, "Conversions near the edges": 7.75 to E2M3, 29 to E3M2, 0.75 to E2M1, 61440 to E5M2 and 3 to E8M0. -/
theorem test_conversions : fpCvt (readFp .f32 0x40F80000) .e2m3 .rne false = (0x1F, fOF ||| fNX) ∧
    fpCvt (readFp .f32 0x41E80000) .e3m2 .rne false = (0x1F, fNX) ∧ fpCvt (readFp .f32 0x3F400000) .e2m1 .rne false = (0x2, fUF ||| fNX) ∧
    fpCvt (readFp .f32 0x47700000) .e5m2 .rne false = (0x7C, fOF ||| fNX) ∧ fpCvt (readFp .f32 0x40400000) .e8m0 .rne false = (0x81, fNX) := by
  decide +kernel

/-- Notes on vector instructions, "Filling a vdot quad": the 16-term step gives 0x3FA2_3000 with no flag. -/
theorem test_vdot : (let t := ran (withV [(0, 0x0139E060), (64, 0x181), (256, 0x3B396262), (320, 0x131)]) (.vdot ⟨0, false, false, 0, false⟩ .e4m3 .e4m3 8 0 4 0 false)
    vOf t 8 0 = 0x3FA23000 ∧ flagsOf t = 0) := by decide +kernel

/-- Notes on vector instructions, "Compacting surviving work items": the values of v1, in lanes 0 to 7. -/
def survivors : SMap W32 := [(64, 5), (65, 0xFFFFFFFE), (66, 7), (67, 1), (69, 0xFFFFFFF7), (70, 3)]

/-- The same example: the survivors' mask, from lane 0 to lane 7. -/
theorem test_vcmp : mOf (ran (withV survivors) (.vcmp ⟨0, false, false, 0, false⟩ .i32 .gt 3 1 0)) 3 = 0x4D := by decide +kernel

/-- The same example: v2 holds 1 on the survivors; the slots of `vscan…excl` and the count of `vred`. -/
theorem test_vscan_vred : (let w := withV [(128, 1), (130, 1), (131, 1), (134, 1)]
    (List.range 8).map (vOf (ran w (.vscan false .add .n32 6 2 0 true)) 6) = [0, 1, 1, 2, 3, 3, 3, 4] ∧
    (List.range 8).map (vOf (ran w (.vred false .add .n32 7 2 0)) 7) = [4, 4, 4, 4, 4, 4, 4, 4]) := by decide +kernel

/-- R57: a predicate leaves the other lanes alone. -/
theorem test_predicate : (let w := inG { tGroup (tPath []) with masks := [(3, 0x4D)], vregs := survivors }
    (List.range 8).map (vOf (ran w (.vli ⟨0, false, false, 3, false⟩ 1 9)) 1) = [9, 0xFFFFFFFE, 9, 9, 0, 0xFFFFFFF7, 9, 0] ∧
    (List.range 8).map (vOf (ran w (.vli ⟨0, false, false, 3, true⟩ 1 9)) 1) = [5, 9, 7, 1, 9, 9, 3, 9]) := by decide +kernel

/-- R134: counts and transfers of a mask read its active lanes; none set gives 64. -/
theorem test_mask_counts : (let w := inG { tGroup (tPath []) with masks := [(3, 0x4D)] }
    sOf (ran w (.mpopc ⟨0, false, false, 0, false⟩ 5 3)) 5 = 4 ∧ sOf (ran w (.mffs ⟨0, false, false, 3, true⟩ 5 3)) 5 = 64 ∧
    sOf (ran w (.mfls ⟨0, false, false, 0, false⟩ 5 3)) 5 = 6 ∧ sOf (ran w (.mtos ⟨0, false, false, 0, false⟩ 5 0)) 5 = 0xFF) := by
  decide +kernel

/-- R106, R109: a branch goes by words, and a call leaves the word that follows it in its link. -/
theorem test_call : (let t := ran (withS []) (.call 63 2)
    sOf t 63 = 0x1010 ∧ (pathOf t (.grp 768 0)).map (fun p => (p.pc, p.atHdr)) = some (0x1018, true)) := by decide +kernel

/-- R109: `calli` reads its target before it writes the link, though both are one register. -/
theorem test_calli : (let t := ran (withS [(8, 0x3000)]) (.calli 8 8)
    sOf t 8 = 0x1010 ∧ (pathOf t (.grp 768 0)).map (fun p => p.pc) = some 0x3000) := by decide +kernel

/-- R107, R31: a split leaves slot A with the lanes that fall through and slot B with those taken. -/
theorem test_brm : (let p := { tPath [] with blk := some { len := 1, live := 0, entry := true, handler := false, loop := false, spin := false, reconv := 16, pf := 0 } }
    let t := ran (inG { tGroup p with masks := [(4, 0xF0)] }) (.brm false 4 4)
    (pathOf t (.grp 768 0)).map (fun p => (p.mask, p.pc)) = some (0x0F, 0x1010) ∧
    (pathOf t (.grp 768 1)).map (fun p => (p.mask, p.pc)) = some (0xF0, 0x1028)) := by decide +kernel

/-- R110: the exit of the last path ends the group's lanes for good. -/
theorem test_exit : ((grp? (ran (withS []) .exit) 768).map fun g => (g.exited, g.stack.paths.length)) = some (0xFF, 0) := by
  decide +kernel

/-- R114, R305: `trap` enters the handler at the context's header with the immediate in TRAPAUX, and the path's lanes in TRAPMASK. -/
theorem test_trap : (let t := ran (withS [(7, 99)]) (.trap 0x1FFFFFFFB)
    (grp? t 768).map (fun g => (g.regs.trappc, g.regs.trapaux, g.regs.trapmask, g.frames.length)) =
      some (0x1008, 0xFFFFFFFFFFFFFFFB, 0xFF, 1) ∧ sOf t 7 = 99) := by decide +kernel

/-- R283, R308: `tret` goes back behind the trap, with the handler's scalar registers. -/
theorem test_tret : (let t := ran (inG (tHandler { tPath [(7, 5)] with sys := true })) .tret
    (grp? t 768).map (fun g => g.frames.length) = some 0 ∧ (pathOf t (.grp 768 0)).map (fun p => (p.pc, rdS p 7)) = some (0x1010, 5)) := by
  decide +kernel

/-- R66, R68, R309: a privileged word outside handler mode raises PRIV, which halts the team. -/
theorem test_priv : (let t := ran (withS []) .tret
    t.groups.length = 0 ∧ (team? t 769).isNone = true) := by decide +kernel

/-- R94, R117: FPFL keeps five bits of what is written; GIDX and the die are read. -/
theorem test_system_registers : flagsOf (ran (withS [(9, 0xFFFFFFFF)]) (.mts 0x18 9)) = 0x1F ∧
    sOf (ran (inG { tGroup (tPath []) with gidx := 5 }) (.mfs 4 1)) 4 = 5 := by decide +kernel

/-- R111: with four free slots, three groups are created and a fifth cannot be. -/
theorem test_spawn : (let w := withS [(10, 0x5000), (12, 77)]
    sOf (ran w (.spawn 7 10 12 2 1)) 7 = 3 ∧ (ran w (.spawn 7 10 12 2 1)).groups.length = 4 ∧
    sOf (ran w (.spawn 7 10 12 4 1)) 7 = 0) := by decide +kernel

/-- R163, R168, R219: a store of a scalar register into the team's scratchpad takes effect when it is performed. -/
theorem test_sts : (let t := ran (withS [(1, 0xFFFFFF0000000010), (2, 0x11223344)]) (.sts ⟨2, 1, 0xFF, .b32, .weak, .plain, 0, false, 0, 1⟩)
    let u := ran t (.memoryAccessComplete 1024 1 plainChoice)
    (List.range 4).map (scratchAt t 769) = [0, 0, 0, 0] ∧ (List.range 6).map (fun k => scratchAt u 769 (0x13 + k)) = [0, 0x44, 0x33, 0x22, 0x11, 0]) := by
  decide +kernel

/-- R212, R161, R309: the offset is scaled by the access size; a misaligned address raises MISALIGN, which halts the team. -/
theorem test_misalign : pathEa (tPath [(1, 0xFFFFFF0000000002)]) ⟨2, 1, 0xFF, .b32, .weak, .plain, 0, false, 0, 0xFF⟩ true = 0xFFFFFEFFFFFFFFFE ∧
    (ran (withS [(1, 0xFFFFFF0000000002)]) (.lds 0 ⟨2, 1, 0xFF, .b32, .weak, .plain, 0, false, 0, 0⟩)).groups.length = 0 := by
  decide +kernel

/-- R186: a timeline takes the greater value, and a lower one is discarded and noted. -/
theorem test_timeline : (let s := tlWrite (tlWrite tWorld 0 5 9) 0 5 7
    tlGet s 0 5 = 9 ∧ sget false s.tldisc (tlKey 0 5) = true ∧ sget false s.tldisc (tlKey 0 6) = false) := by decide +kernel

/-- R230, R231: a barrier that one group alone takes part in records its lanes and parks the path. -/
theorem test_bar : ((pathOf (ran (withS []) (.bar 2 0)) (.grp 768 0)).map fun p => p.wait != .run) = some true := by decide +kernel

/-- R233, R239: `mzero` queues operation 1 of its stream, and binds the core's engine to the team. -/
theorem test_mzero : (let t := ran (withS []) (.mzero 3 2)
    (core? t 0 0).map (fun c => (c.bind, (sget [] c.strm 2).map fun o => (o.num, o.zd))) = some (some 769, [(1, 3)])) := by decide +kernel

/-- R251: `rinit` makes the stages EMPTY with phase 0. -/
theorem test_rinit : (let t := ran (withS [(5, 0xFFFFFF0000000100), (7, 256)]) (.rinit 2 3 5 7)
    (team? t 769).map (fun m => m.rings.map fun r => (r.k, r.base, r.size, r.stages.length)) = some [(2, 0x100, 256, 4)]) := by
  decide +kernel

/-- R252, R253: a producer takes a stage to FILLING; giving it on makes it FULL. -/
theorem test_ring : (let w := inG (tGroup (tPath []))
    let w := { w with teams := [{ tTeam with rings := [{ k := 2, core := 0, base := 0, size := 256, stages := [{ st := 0, phase := false, absent := [] }] }] }] }
    let at' := fun (s : State) => (team? s 769).bind fun m => (ring? m 2).bind fun r => r.stages[0]?.map fun st => st.st
    at' (ran w (.racq 4 2 6 false)) = some 1 ∧
    at' (ran { w with teams := [{ tTeam with rings := [{ k := 2, core := 0, base := 0, size := 256, stages := [{ st := 1, phase := false, absent := [] }] }] }] }
      (.rrel 2 6)) = some 2) := by decide +kernel

/-- R274: `qpop` of a thread with no queue writes 0, and of an empty queue too. -/
theorem test_qpop : (let p := { tPath [(2, 5)] with sys := true }
    let s := ran (inQ { tThread p with bound := none } tQueue) (.qpop 16 2)
    (pathOf s (.qthr 0 0)).map (fun p => rdS p 2) = some 0) := by decide +kernel

/-- R344, R186: a cold reset clears timelines, a warm reset keeps them. -/
theorem test_resets : (let s := tlWrite tWorld 0 5 9
    tlGet (ran s .warmReset) 0 5 = 9 ∧ tlGet (ran s .coldReset) 0 5 = 0) := by decide +kernel

/-- R359: a limit within 4000 to 8200 W is taken, one outside is refused. -/
theorem test_set_limit : (ran tWorld (.setLimit 4000)).limit = 4000 ∧ (ran tWorld (.setLimit 3999)).limit = 8200 := by decide +kernel

/-- R363, R364: an object of another ISA generation, a descriptor at an address that is no multiple of 64, and an unknown mandatory
note fail; text is mapped with X at its place in the window. -/
theorem test_load : (let o : ElfObject := { cls := 2, enc := 1, machine := 0x5E1D, etype := 3, eflags := 3, sections := [⟨0x70000002, 0, 8, [1], []⟩] }
    (loadObject o 1).toOption.map (fun l => l.image) = some [(0x8000008, [1], true)] ∧
    (loadObject { o with eflags := 2 } 1 = .error .machine) ∧
    (loadObject { o with sections := [⟨0x70000001, 0, 8, [], []⟩] } 1 = .error .align) ∧
    (loadObject { o with sections := [⟨7, 0, 0, [], [⟨"Flaner", 0x80000002, 0⟩]⟩] } 1 = .error .note) ∧
    (loadObject { o with sections := [⟨0x70000009, 0x10000000, 0, [], []⟩] } 1 = .error .sect)) := by decide +kernel

/-- FIPS 202: the first bytes of SHAKE256 of the empty message. -/
theorem test_shake256 : shake256 8 [] = [0x46, 0xB9, 0xDD, 0x2B, 0x0B, 0xA8, 0x8D, 0x13] := by
  unfold shake256
  decide +kernel

/-- RFC 8032, 7.4: the signature of the empty message under the first key. -/
theorem test_ed448 : (let hex := fun (n len : Nat) => (List.range len).map fun k => BitVec.ofNat 8 (n / 2 ^ (8 * (len - 1 - k)))
    ed448Verify (hex 0x5fd7449b59b461fd2ce787ec616ad46a1da1342485a70e1f8a0ea75d80e96778edf124769b46c7061bd6783df1e50f6cd1fa1abeafe8256180 57) []
      (hex 0x533a37f6bbe457251f023c0d88f976ae2dfb504a843e34d2074fd823d41a591f2b233f034f628281f2fd7a22ddd47d7828c59bd0a21bfd3980ff0d2028d4b18a9df63e006c5d1c2d345b925d8dc00b4104852db99ac5c7cdda8530a113a0f4dbb61149f05a7363268c71d95808ff2e652600 114))
    = true := by
  unfold ed448Verify
  decide +kernel

/-- A step runs the word that `withFetchWord` places: `sadd s3, s0, 5` (R104). -/
theorem test_step : sOf (match step (State.reset.withFetchWord 64 0x2800_0180_0000_0005) with
    | .next t => t
    | _ => State.reset) 3 = 5 := by decide +kernel

end Sys2Proof.Machine
end

