-- ==== Sys2Proof/Tests/WitnessMemory.lean ====
section
/-! SUPPORT. Witnesses: for each statement about collectives, accesses, order, waits, matrix and ring words, a concrete state and
operands that meet its hypotheses, for each of its clauses. -/
namespace Sys2Proof.Machine

open Sys2Proof

set_option Elab.async false

/-- A word of memory: 4 bytes at s1. -/
def mW : MemArg := ⟨2, 1, 0xFF, .b32, .weak, .plain, 0, false, 0, 0⟩
/-- Every lane of the path. -/
def hA : Head := ⟨0, false, false, 0, false⟩

/-- The path at an access: s1 in HBM, s2 to s4 operands. -/
def pA : Path := tPath [(1, 0x3000), (2, 7), (3, 16), (4, 1)]
/-- Its group. -/
def gA : Group := tGroup pA
/-- Its world. -/
def sA : State := inG gA
/-- Its executor. -/
def xA : Ex := exG gA pA
theorem here_A : exOf sA xA.who = some xA := rfl

/-- An operation that a test's group has under way. -/
def tOp (id : Nat) (kind : OpKind) (todo : List Acc) : MemOp :=
  { id, who := .grp 768 0, pid := 1, anc := [1], pc := 0x1000, kind, size := 4, scope := .weak, ord := .plain, ch := 0, dest := .vec 5, todo,
    begun := false,
    since := 0, counted := true, leased := [] }

/-- The world whose memory counter is full. -/
def sFull : State := { sA with ops := (List.range 64).map fun k => tOp k .cwb [] }

/-! ### Collectives -/

/-- Two paths, of which the first stands at a collective word. -/
def gTwo : Group :=
  { gA with masks := [(5, 0xFF), (6, 0x0F), (7, 0xF0)],
            stack := { a := some { pA with mask := 0x0F }, b := some { pA with pid := 2, mask := 0xF0 }, rest := [] } }
/-- The first path's executor. -/
def xTwo : Ex := exG gTwo { pA with mask := 0x0F }
/-- A group whose other lanes have exited. -/
def gGone : Group := { gTwo with exited := 0xF0, stack := { a := some { pA with mask := 0x0F }, b := none, rest := [] } }
/-- Its path's executor. -/
def xGone : Ex := exG gGone { pA with mask := 0x0F }

/-- A collective of the path's own lanes completes; one that names the other path waits, one that leaves the path out is ILLEGAL,
one that names exited lanes raises COLLECTIVE_EXITED. -/
theorem witness_CollectivesComplete :
    (∀ e ∈ ([(collRule, {}, none), (collRule, { vs := [2] }, none), (collRule, { vs := [2, 3], vd := [3] }, none),
      (collRule, { vs := [2], vd := [3] }, none), (collRule, { vs := [2], vd := [3], ss := [4], sd := [4] }, none),
      (collRule, { vs := [2], sd := [4] }, none), (collRule, { vd := [2], ss := [4] }, none)] : List (Rule × Use × Option Head)),
        Ready (inG gTwo) xTwo e.1 e.2.1 e.2.2) ∧ xTwo.g = some gTwo ∧
    (let P := rdM gTwo xTwo.p 6
     let part := xTwo.p :: gTwo.stack.paths.filter fun q => q.parkedAt xTwo.p.pc == some P
     xTwo.p.mask &&& ~~~ P = 0 ∧ P &&& gTwo.exited = 0 ∧ P &&& ~~~ (lanesHeld part) = 0 ∧ gTwo.frames = [] ∧
     (∀ q ∈ gTwo.stack.paths, q.parkedAt xTwo.p.pc = none) ∧ P.getLsbD 3 = true) ∧
    (xTwo.p.mask &&& ~~~ (rdM gTwo xTwo.p 7) ≠ 0) ∧
    (let P := rdM gTwo xTwo.p 5
     let part := xTwo.p :: gTwo.stack.paths.filter fun q => q.parkedAt xTwo.p.pc == some P
     xTwo.p.mask &&& ~~~ P = 0 ∧ (P &&& ~~~ gTwo.exited) &&& ~~~ (lanesHeld part) ≠ 0) ∧
    (Ready (inG gGone) xGone collRule {} none ∧ xGone.g = some gGone ∧
      (let P := rdM gGone xGone.p 5
       let part := xGone.p :: gGone.stack.paths.filter fun q => q.parkedAt xGone.p.pc == some P
       xGone.p.mask &&& ~~~ P = 0 ∧ (P &&& ~~~ gGone.exited) &&& ~~~ (lanesHeld part) = 0 ∧ P &&& gGone.exited ≠ 0)) :=
  ⟨ready_all _ rfl rfl (by decide +kernel), rfl, by decide +kernel, by decide +kernel, by decide +kernel,
    ready_of rfl rfl (by decide +kernel), rfl, by decide +kernel⟩

/-- A type of 32 bits; lists with members, the first and the last bit, and with none. -/
theorem witness_ScanRule : (∀ ty ∈ [IntTy.i32, .n32, .b32], ty.width = 32) ∧ ([0, 7] : List Nat) ≠ [] ∧ (∀ k ∈ [0, 31], k < 32) := by decide

/-! ### Accesses -/

/-- A group whose access misses the translation caches. -/
def pMiss : Path := tPath [(1, 0x900000)]
/-- Its executor. -/
def xMiss : Ex := exG (tGroup pMiss) pMiss
/-- A group whose address is misaligned. -/
def pOdd : Path := tPath [(1, 0x3002)]
/-- Its executor. -/
def xOdd : Ex := exG (tGroup pOdd) pOdd

/-- The lanes' addresses of an access. -/
def tLanes (g : Group) (x : Ex) (m : MemArg) : List (Nat × W64) := (lanesOf (activeOf g x.p hA)).map fun l => (l, laneEa g x.p m false true l)

/-- Active lanes and none; a free counter and a full one; lanes that are placed, that wait and that trap; the same of an access
made once, of a group and of a Q thread. -/
theorem witness_AccessWordsComplete :
    (∀ e ∈ ([(memRule, { vs := [9], vd := [2], ss := [1] }, some hA), (memRule, { vs := [9, 2], ss := [1] }, some hA),
      (memRule, { vs := [2, 3], vd := [2], ss := [1] }, some hA), (memRuleAll, { ss := [1], sd := [2] }, none),
      (memRuleAll, { ss := [1, 2] }, none), (memRuleAll, { ss := [1, 2], sd := [2] }, none)] : List (Rule × Use × Option Head)),
        Ready sA xA e.1 e.2.1 e.2.2) ∧ xA.g = some gA ∧ (activeOf gA pA hA ≠ 0 ∧ activeOf gA pA ⟨0, false, false, 3, false⟩ = 0 ∧
    memCount sA xA.who < 64 ∧ 64 ≤ memCount sFull xA.who) ∧
    (∃ got t, groupPlaces sA xA gA (memKind sA xA mW false false) false (tLanes gA xA mW) = .ok (got, t)) ∧
    (∃ t, groupPlaces (inG (tGroup pMiss)) xMiss (tGroup pMiss) (memKind sA xMiss mW false false) false (tLanes (tGroup pMiss) xMiss mW) = .error (.hold t)) ∧
    (∃ t, groupPlaces (inG (tGroup pOdd)) xOdd (tGroup pOdd) (memKind sA xOdd mW false false) false (tLanes (tGroup pOdd) xOdd mW) = .error (.trap t)) ∧
    (∃ pl t, onePlace sA xA (memKind sA xA mW true false) (pathEa pA mW true) = .ok (pl, t)) ∧
    (∃ t, onePlace (inG (tGroup pMiss)) xMiss (memKind sA xMiss mW true false) (pathEa pMiss mW true) = .error (.hold t)) ∧
    (∃ t, onePlace (inG (tGroup pOdd)) xOdd (memKind sA xOdd mW true false) (pathEa pOdd mW true) = .error (.trap t)) ∧
    (Ready (inQ (tThread pA) tQueue) (exQ pA) memRuleAll { ss := [1, 2] } none ∧
      ∃ pl t, onePlace (inQ (tThread pA) tQueue) (exQ pA) (memKind sA (exQ pA) mW true false) (pathEa pA mW true) = .ok (pl, t)) :=
  ⟨ready_all _ rfl here_A (by decide +kernel), rfl, by decide +kernel, ok_of (by decide +kernel), hold_of (by decide +kernel),
    trap_of (by decide +kernel), ok_of (by decide +kernel), hold_of (by decide +kernel), trap_of (by decide +kernel),
    ready_of rfl rfl (by decide +kernel), ok_of (by decide +kernel)⟩

/-- A leaf that may not be written. -/
def roLeaf : Tlb := { tLeaf with base := 0x20000, leaf := 0x04000000000001DB }
/-- A world with that leaf and one that names no frame of the module. -/
def sChecks : State := { sA with cores := [{ tCore with tlb := [tLeaf, roLeaf, { tLeaf with base := 0x30000, leaf := 0x04000F00000001DF }] }] }

/-- Each check in its order: a half, an alignment, the window, a page that the walker has refused, a miss, a permission, a place and a frame that is none. -/
theorem witness_AccessChecksInOrder :
    (let k := memKind sA xA mW true false
     (halfCheck 0x0400000000000000 k.user true).isSome = true ∧ halfCheck 0x3002 k.user true = none ∧ (0x3002#64).toNat % k.size ≠ 0 ∧
     halfCheck 0xFFFFFF0000000000 k.user true = none ∧ (0xFFFFFF0000000000#64).toNat % k.size = 0 ∧ inWindow 0xFFFFFF0000000000 = true ∧
     inWindow 0xFFFFFEFFFFFFFFFC = false ∧ deniedAt xA.p 0x900000 = none ∧
     (deniedAt { pA with denied := [(0x900, { cause := .pageFault })] } 0x900000).isSome = true ∧ lookup sChecks xA gA.gid none 0x900000 true = none ∧
     (match lookup sChecks xA gA.gid none 0x20000 true with
       | some (e, _) => (permission e.leaf 0x20000 k).isSome
       | none => false) = true ∧
     (match lookup sChecks xA gA.gid none 0x3000 true with
       | some (e, t) => (permission e.leaf 0x3000 k).isNone && isOk (leafPlace t e 0x3000 k)
       | none => false) = true ∧
     (match lookup sChecks xA gA.gid none 0x30000 true with
       | some (e, t) => (permission e.leaf 0x30000 k).isNone && !isOk (leafPlace t e 0x30000 k)
       | none => false) = true) := by decide +kernel

theorem witness_MemoryIssueFrame : xA.g = some gA ∧ grp? sA gA.gid = some gA ∧ Ready sA xA memRule { vs := [2], ss := [1] } (some hA) ∧
    (∃ r, groupPlaces sA xA gA (memKind sA xA mW true false) false (tLanes gA xA mW) = .ok r) ∧
    Ready sA xA memRuleAll { ss := [1, 2], sd := [2] } none ∧
    (∃ r, onePlace sA xA (memKind sA xA mW true true) (pathEa pA mW false) = .ok r) ∧
    ∃ t, exec (.st hA mW) sA = .next t := by
  refine ⟨rfl, rfl, ready_of rfl here_A (by decide +kernel), ?_, ready_of rfl here_A (by decide +kernel), ?_, ⟨_, rfl⟩⟩
  · obtain ⟨a, b, h⟩ := ok_of (e := groupPlaces sA xA gA (memKind sA xA mW true false) false (tLanes gA xA mW)) (by decide +kernel)
    exact ⟨_, h⟩
  · obtain ⟨a, b, h⟩ := ok_of (e := onePlace sA xA (memKind sA xA mW true true) (pathEa pA mW false)) (by decide +kernel)
    exact ⟨_, h⟩

/-- One access of a lane: the bytes of 0x11223344 for a store. -/
def tAcc (lane : Nat) (pl : Place) : Acc := { lane, va := 0x3000, place := pl, data := [0x44, 0x33, 0x22, 0x11], cmp := [] }
/-- A world with one outstanding access. -/
def withAcc (kind : OpKind) (lane : Nat) (pl : Place) : State := { sA with ops := [tOp 3 kind [tAcc lane pl]] }
/-- What performing an access needs, besides where it lands. -/
def performable (s : State) (o : MemOp) (a : Acc) : Bool :=
  s.ops.find? (fun o => o.id == 3) == some o && laneAccs o plainChoice a.lane == [a] && canPerform s o a &&
  !placeLost s (placeOf s o.who).1 a.place && plainChoice.ecc == .clean && (!isHbm a.place || placeGran a.place == granOf s (placeAddr a.place)) &&
  !remotable (placeOf s o.who).1 a.place

/-- Stores at the first and the last lane: HBM (the first byte, and the last word of a page), a vault, host memory, a scratchpad;
and a load. -/
theorem witness_AccessPerformed :
    (∀ e ∈ [(0, Place.fab 0 0 1 4 false), (63, .fab 0x3FFC 0 1 4 false), (0, .host 1 0x100 2), (7, .scratch 769 0 4092)],
      performable (withAcc .st e.1 e.2) (tOp 3 .st [tAcc e.1 e.2]) (tAcc e.1 e.2) = true ∧ ordRel (tOp 3 .st []).ord = false ∧ e.1 < 64) ∧
    (∀ e ∈ [(0, Place.fab 0 0 1 4 false), (63, .fab 0x3FFC 0 1 4 false)],
      performable (withAcc .ld e.1 e.2) (tOp 3 .ld [tAcc e.1 e.2]) (tAcc e.1 e.2) = true ∧ e.1 < 64) ∧
    (fabDie 0 < 12 ∧ regionOf (fabOff 0) = .hbm) ∧ team? (withAcc .st 7 (.scratch 769 0 4092)) 769 = some tTeam ∧
    plainChoice.useL1 = false ∧ plainChoice.fillL1 = false ∧ grp? (withAcc .ld 0 (.fab 0 0 1 4 false)) 768 = some gA ∧ 5 + 3 < 248 ∧
    (∀ z, unitFailed sA z = false) :=
  ⟨by decide +kernel, by decide +kernel, by decide +kernel, rfl, rfl, rfl, rfl, by decide, none_failed (by decide +kernel)⟩

theorem witness_AtomicOperations : (∀ n ∈ [32, 64], n = 32 ∨ n = 64) ∧ 2 ^ 64 - 1 < 2 ^ 64 := by decide

/-- The path at a bulk copy: s2 the destination, s3 the count, s4 the cores, s1 the source. -/
def pK : Path := tPath [(1, 0x3000), (2, 0xFFFFFF0000000000), (3, 64), (4, 1)]
/-- Its group. -/
def gK : Group := tGroup pK
/-- Its executor. -/
def xK : Ex := exG gK pK
/-- The operand of `bcp` and `ldm`. -/
def mK : MemArg := ⟨2, 1, 0xFF, .b8, .weak, .plain, 0, false, 0, 0⟩
/-- A bulk operation under way. -/
def tBulk : BulkOp :=
  { id := 1, gid := 768, pid := 1, anc := [1], pc := 0x1000, multi := false, sva := 0x3000,
    src := [{ off := 0, len := 4096, place := .fab 0x3000 0 1 4 false }], count := 256, dests := [(769, 0, 0)], todo := [0], buf := none }

/-- `pf`, whose line's place is found, `cwb` of a group and of a Q thread; bulk copies without lane 0, behind a full counter, and that start: the last bytes
of the scratchpad and one receiver. -/
theorem witness_CacheAndBulkWordsComplete :
    (Ready sA xA { memRule with hint := true } { vs := [9], ss := [1] } (some hA) ∧ (∀ z, unitFailed sA z = false) ∧
      sA.remote.length + 256 ≤ l2Lines ∧ Ready sA xA { memRuleAll with cls := .cache } { vs := [9], ss := [1] } none ∧
      memCount sA xA.who < 64 ∧ (∃ got t, groupPlaces sA xA gA { memKind sA xA mW false false with gran := false } false
        ((lanesOf (rdM gA xA.p 0)).map fun l => (l, laneEa gA xA.p mW false true l)) = .ok (got, t))) ∧
    (Ready (inQ (tThread pA) tQueue) (exQ pA) { memRuleAll with cls := .cache } { ss := [1] } none ∧ (exQ pA).g = none ∧ mW.index = 0xFF ∧
      ∃ pl t, onePlace (inQ (tThread pA) tQueue) (exQ pA) { memKind sA (exQ pA) mW false false with gran := false } (pathEa pA mW true) = .ok (pl, t)) ∧
    (xK.g = some gK ∧ team? (inG gK) gK.team = some tTeam ∧
      (∀ e ∈ [[1, 2, 3], [1, 2, 3, 4]], Ready (inG gK) xK memRule { ss := e } none)) ∧
    (xK.p.mask.getLsbD 0 = true ∧ ({ pK with mask := 0xFE } : Path).mask.getLsbD 0 = false ∧
      bulkCount (inG gK) gK.gid < 16 ∧ 16 ≤ bulkCount { inG gK with bulks := List.replicate 16 tBulk } gK.gid ∧
      bulkFirst xK (rdS pK 2) (rdS pK 1) 64 = none ∧ bulkDest tTeam gK.tcore (rdS pK 2) 64 = some (0, 0) ∧
      bulkDest tTeam gK.tcore (0xFFFFFF0000000FC0) 64 = some (0, 4032) ∧ ringOk tTeam 0 0 64 = true ∧
      inWindow (rdS pK 2) = true ∧ winOff (rdS pK 2) < 0x100000000 ∧
      ((lanesOf (rdSk pK 2 2)).map fun k => receiver (inG gK) gK tTeam k) = [some (tTeam, 0)] ∧ winOff (rdS pK 2) + 64 ≤ tTeam.scratch) ∧
    (∃ sp u, bulkSource (inG gK) xK gK (rdS pK 1) 64 = .ok (sp, u)) :=
  ⟨⟨ready_of rfl here_A (by decide +kernel), none_failed (by decide +kernel), by decide, ready_of rfl here_A (by decide +kernel),
      by decide +kernel, ok_of (by decide +kernel)⟩,
    ⟨ready_of rfl rfl (by decide +kernel), rfl, rfl, ok_of (by decide +kernel)⟩,
    ⟨rfl, rfl, fun e he => ready_of rfl rfl (by revert e; decide +kernel)⟩, by decide +kernel, ok_of (by decide +kernel)⟩

end Sys2Proof.Machine
end

