-- ==== Sys2Proof/Tests/WitnessSync.lean ====
section
/-! SUPPORT. Witnesses: for each statement about order, waits, matrix and ring words, a concrete state and operands that meet its
hypotheses, for each of its clauses. -/
namespace Sys2Proof.Machine

open Sys2Proof

set_option Elab.async false

/-! ### Order and waits -/

/-- The path at a timeline word: s1 names the last timeline of its page, s2 a value that it holds, s3 one that it does not. -/
def pL : Path := tPath [(1, 0x50FF8), (2, 0), (3, 9), (4, 0x3000)]
/-- Its group. -/
def gL : Group := tGroup pL
/-- Its world. -/
def sL : State := inG gL
/-- Its executor. -/
def xL : Ex := exG gL pL
/-- An earlier store of the path. -/
def tStore : MemOp :=
  { id := 3, who := .grp 768 0, pid := 1, anc := [1], pc := 0x1000, kind := .st, size := 4, scope := .weak, ord := .plain, ch := 0, dest := .nowhere,
    todo := [{ lane := 0, va := 0x3000, place := .fab 0x3000 0 1 4 false, data := [1, 2, 3, 4], cmp := [] }], begun := false, since := 0,
    counted := true, leased := [] }

/-- A fence with an earlier store outstanding and with none; an aligned timeline of the die, whose value is at least the awaited
one, and below another. -/
theorem witness_FencesAndTimelinesComplete :
    (Ready sL xL syncRule {} none ∧ predPending sL xL 2 3 = false ∧ predPending { sL with ops := [tStore] } xL 2 3 = true ∧
      predPending sL xL (BitVec.allOnes 7) (BitVec.allOnes 7) = false ∧
      predPending { sL with ops := [tStore] } xL (BitVec.allOnes 7) (BitVec.allOnes 7) = true) ∧
    ((0x50FF8#64).toNat % 8 = 0 ∧ inWindow 0x50FF8 = false) ∧
    (Ready sL xL syncRule { ss := [1, 3] } none ∧
      ∃ pl t, onePlace sL xL { memKind sL xL (tlArg 1 .die .rel) true false with tline := true } 0x50FF8 = .ok (pl, t)) ∧
    (Ready sL xL syncRule { ss := [1], sd := [5] } none ∧
      ∃ pl t, onePlace sL xL { memKind sL xL (tlArg 1 .weak .plain) false false with tline := true } 0x50FF8 = .ok (pl, t)) ∧
    (Ready sL xL syncRule { ss := [1, 2], sd := [5] } none ∧ Ready sL xL syncRule { ss := [1, 3], sd := [5] } none ∧
      (match onePlace sL xL { memKind sL xL (tlArg 1 .die .acq) false false with tline := true } 0x50FF8 with
        | .ok (.fab a _ _ _ _, t) => mayRead t xL (tlArg 1 .die .acq) (.fab a 1 1 4 false) && fabDie a == 0 && tlOf (fabOff a) == 511
        | _ => false) = true ∧
      (tlGet sL 0 511).toNat < (rdS pL 3).toNat ∧ (rdS pL 2).toNat ≤ (tlGet sL 0 511).toNat) :=
  ⟨⟨ready_of rfl rfl (by decide +kernel), by decide +kernel, by decide +kernel, by decide +kernel, by decide +kernel⟩, by decide +kernel,
    ⟨ready_of rfl rfl (by decide +kernel), ok_of (by decide +kernel)⟩, ⟨ready_of rfl rfl (by decide +kernel), ok_of (by decide +kernel)⟩,
    ready_of rfl rfl (by decide +kernel), ready_of rfl rfl (by decide +kernel), by decide +kernel, by decide +kernel, by decide +kernel⟩

/-- A word of a line at s4, compared with s6. -/
def mW4 : MemArg := ⟨6, 4, 0xFF, .b32, .die, .acq, 0, false, 0, 0⟩
/-- A group of which the barrier word has lanes to record, and one whose other path has yet to arrive. -/
def gHalf : Group := { gL with stack := { a := some { pL with mask := 0x0F }, b := some { pL with pid := 2, mask := 0xF0 }, rest := [] } }
/-- Its executor. -/
def xHalf : Ex := exG gHalf { pL with mask := 0x0F }
/-- A world in which a group's lanes are recorded, and one whose open phase has other roles. -/
def sBar (roles : Option (BitVec 4)) (lanes : SMap Mask) : State :=
  { sL with teams := [{ tTeam with bars := [(7, { Bar.fresh with roles, lanes })] }] }

/-- The path at a word of the first line of the scratchpad. -/
def pGap : Path := tPath [(4, 0xFFFFFF0000000000)]
/-- The world in which a bulk copy has still to bring that line. -/
def sGap : State := { inG (tGroup pGap) with teams := [{ tTeam with rings :=
  [{ k := 0, core := 0, base := 0, size := 256, stages := [{ st := 1, phase := false, absent := [0] }] }] }] }
/-- Its executor. -/
def xGap : Ex := exG (tGroup pGap) pGap

/-- A group that ROLES names and one that it does not; an earlier access outstanding; lanes recorded and not; an arrival that the
open phase refuses; a line that holds the awaited value, one that does not, and one that is absent. -/
theorem witness_WaitingWordsComplete :
    (xL.g = some gL ∧ Ready sL xL (barRule sL) {} none ∧ namesRole 1 gL = true ∧ gL.spawned = none ∧ namesRole 2 gL = false ∧
      sL.ops = [] ∧ (sameAgent tStore.who xL.who && pL.anc.contains tStore.pid) = true ∧ alreadyIn sL xL gL 7 = false ∧
      (recordLanes sL xL gL 7 1).isSome = true ∧ recordLanes (sBar (some 3) []) xL gL 7 1 = none ∧
      alreadyIn (sBar none [(768, 1)]) xL gL 7 = true) ∧
    (Ready (inG gHalf) xHalf (barRule (inG gHalf)) {} none ∧ (recordLanes (inG gHalf) xHalf gHalf 0 0).isSome = true) ∧
    (Ready sL xL syncGrp { ss := [4, 6], sd := [6, 7] } none ∧
      (match onePlace sL xL { memKind sL xL mW4 false false with watch := true } (pathEa pL mW4 true) with
        | .ok (pl, t) => !placeLost t 0 pl && !placeAbsent t pl && decide (watches t 0 0 < 64) && mayRead t xL mW4 pl && !homeSilent t 0 pl &&
            (waitRead t xL pl 4 .die 0).1.1 == 0
        | _ => false) = true ∧
      pL.cut = false ∧ ({ pL with cut := true } : Path).cut = true ∧
      (match onePlace sGap xGap { memKind sGap xGap mW4 false false with watch := true } (pathEa pGap mW4 true) with
        | .ok (pl, t) => !placeLost t 0 pl && placeAbsent t pl
        | _ => false) = true ∧
      (rdS pL 6).toNat % 2 ^ 32 = 0 ∧ (rdS { pL with view := [(4, 0x3000), (6, 5)] } 6).toNat % 2 ^ 32 = 5) :=
  ⟨⟨rfl, ready_of rfl rfl (by decide +kernel), by decide +kernel⟩,
    ⟨ready_of rfl rfl (by decide +kernel), by decide +kernel⟩, ready_of rfl rfl (by decide +kernel), by decide +kernel⟩

/-! ### Matrix and ring words -/

/-- The path at a matrix word: triples at s8, s12 and s16. -/
def pM : Path := tPath [(8, 0x3000), (9, 64), (12, 0x4000), (13, 64), (16, 0x00FFFFFF)]
/-- Its group. -/
def gM : Group := tGroup pM
/-- Its world. -/
def sM : State := inG gM
/-- Its executor. -/
def xM : Ex := exG gM pM
/-- The registers of a triple. -/
def three (r : Nat) (l : List Nat) : List Nat := l.map fun k => r + k
/-- A queued operation. -/
def tMat (k : Nat) : MatOp :=
  { num := k, gid := 768, pid := 1, team := 769, pc := 0x1000, kind := .mzero, zd := 0, a := [], b := [], k := [], step := 0, row := 0, col := 0,
    sys := false, bseg := none, aseg := none, flags := 0, await := none, stopped := false,
    halt := none }

/-- A team that takes the engine, and one that holds it; a stream that has room and one that is full; each word's registers and
alignments, in the scaled and the plain forms, and the greatest count of `mloop`. -/
theorem witness_MatrixWordsComplete :
    xM.g = some gM ∧ (binding sM gM).isSome = true ∧
    (∀ e ∈ ([(matRule, {}, none), (matRule, { ss := three 8 [0, 1], sd := three 8 [2] }, none),
      (matRule, { ss := three 8 [0, 1] ++ three 12 [0, 1] ++ three 16 [1, 2], sd := three 8 [2] ++ three 12 [2] ++ three 16 [0] }, none),
      (matRule, { ss := three 8 [0, 1] ++ three 12 [0, 1] ++ [], sd := three 8 [2] ++ three 12 [2] ++ [] }, none),
      (matRule, { ss := three 8 [0, 1, 2] ++ three 12 [0, 1, 2] ++ [16] }, none),
      (matRule, { ss := three 8 [0, 1, 2] ++ three 12 [0, 1, 2] ++ three 16 [0, 1, 2] }, none),
      (matRule, { ss := three 8 [0, 1] ++ three 12 [0, 1] ++ [16], sd := three 8 [2] ++ three 12 [2] }, none),
      (matRule, { ss := three 8 [0, 1], sd := three 8 [2] }, none)] : List (Rule × Use × Option Head)), Ready sM xM e.1 e.2.1 e.2.2) ∧
    ([0, 1, 2].all fun k => (rdSk pM 8 k).toNat % 64 == 0 && (rdSk pM 12 k).toNat % 64 == 0) = true ∧
    segAlign (.fp .e4m3) = 16 ∧ segAlign (.fp .e2m3) = 4 ∧ (rdS pM 16).toNat < 2 ^ 24 ∧ (rdS pM 12).toNat % 8 = 0 ∧ tileBad sM gM 31 = false ∧
    streamLen (bindEngine sM gM) gM 3 < 8 ∧
    (let full := { sM with cores := [{ tCore with bind := some 769, strm := [(3, (List.range 8).map tMat)] }] }
     (binding full gM).isSome = true ∧ 8 ≤ streamLen full gM 3) :=
  ⟨rfl, by decide +kernel, ready_all _ rfl rfl (by decide +kernel), by decide +kernel⟩

/-- The path at a ring word: s5 the address of a ring, s7 its stages' bytes, s6 the number of the last of sixteen stages. -/
def pR : Path := tPath [(5, 0xFFFFFF0000000000), (7, 256), (6, 15)]
/-- Its group. -/
def gR : Group := tGroup pR
/-- A team with ring 7, whose last stage is `st`. -/
def ringTeam (st : Stage) : Team :=
  { tTeam with rings := [{ k := 7, core := 0, base := 0, size := 256, stages := List.replicate 15 { st := 0, phase := false, absent := [] } ++ [st] }] }
/-- The world of that team. -/
def sR (st : Stage) : State := { inG gR with teams := [ringTeam st] }
/-- The executor. -/
def xR : Ex := exG gR pR

/-- A new ring of sixteen stages that fills the scratchpad, and one over a ring whose stages are idle; the last stage in each of
its four states, with lines that are absent, and with another path that waits for it. -/
theorem witness_RingWordsComplete : xR.g = some gR ∧
    (Ready (inG gR) xR ringRule { ss := [5, 7] } none ∧ team? (inG gR) gR.team = some tTeam ∧ (rdS pR 5).toNat % 256 = 0 ∧
      (rdS pR 7).toNat % 256 = 0 ∧ (rdS pR 7).toNat ≠ 0 ∧ bulkDest tTeam gR.tcore (rdS pR 5) (256 * 16) = some (0, 0) ∧ tTeam.rings = [] ∧
      (∀ r, ring? (ringTeam { st := 0, phase := true, absent := [] }) 7 = some r → r.idle = true)) ∧
    (∀ k < 4, let st : Stage := { st := k, phase := true, absent := [] }
      ((ring? (ringTeam st) 7).bind fun r => r.stages[(rdS pR 6).toNat]?) = some st ∧ team? (sR st) gR.team = some (ringTeam st) ∧
      rrelReady (sR st) xR gR st = true) ∧
    (Ready (sR { st := 2, phase := false, absent := [] }) xR ringRule { ss := [6], sd := [4] } none ∧
      Ready (sR { st := 3, phase := false, absent := [5] }) xR ringRule { ss := [6] } none ∧
      rrelReady (sR { st := 3, phase := false, absent := [5] }) xR gR { st := 3, phase := false, absent := [5] } = false) ∧
    (let w : Path := { pR with pid := 2, wait := .racq 769 7 15 4 true 0 }
     let s := { sR { st := 2, phase := false, absent := [] } with
       groups := [{ gR with stack := { a := some pR, b := some w, rest := [] } }], waiters := [(769, 7, 15, 768, 2, 0)] }
     (s.waiters.any fun w => w.1 == 769 && w.2.1 == 7 && w.2.2.1 == 15 && waitsIn s true w) = true) := by
  refine ⟨rfl, ⟨ready_of rfl rfl (by decide +kernel), rfl, by decide +kernel, by decide +kernel, by decide +kernel, by decide +kernel, rfl, ?_⟩,
    by decide +kernel, ⟨ready_of rfl rfl (by decide +kernel), ready_of rfl rfl (by decide +kernel), by decide +kernel⟩, by decide +kernel⟩
  intro r h
  cases h
  decide +kernel

end Sys2Proof.Machine
end

