-- ==== Sys2Proof/Tests/WitnessSystem.lean ====
section
/-! SUPPORT. Witnesses: for each statement about queue, copy, handler and retired words, a concrete state and operands that meet its
hypotheses, for each of its clauses. -/
namespace Sys2Proof.Machine

open Sys2Proof

set_option Elab.async false

/-- Whether a search found what a test asks of it. -/
def okAnd {ε α : Type} (e : Except ε α) (f : α → Bool) : Bool := match e with
  | .ok v => f v
  | .error _ => false

/-! ### Queue and copy words -/

/-- A packet of queue 1. -/
def tPacket (seq typ : Nat) : Packet :=
  { seq, typ, flags := 0, tlva := 0, tlval := 0, closed := false, done := false, acked := none, status := 0, ran := [], vouched := false,
    waitTl := none, guest := none, data := [1], never := false }

/-- The path of a dispatch program, at a LAUNCH packet in s16 to s31 whose descriptor is at 0x4000; s2 is the packet's number. -/
def pQ : Path :=
  { tPath [(1, 9), (2, 1), (16, 0x0100000100020001), (19, 0x4000), (21, 0x0000000100000001), (22, 0x0000000100000001), (23, 0x0000010000000000),
           (24, 0x0000000100000000)] with sys := true }
/-- The same with a WIDTH that is no code. -/
def pQ' : Path := { pQ with view := sset 0 pQ.view 16 0x01FF000100020001 }
/-- Its thread. -/
def qQ : QThread := tThread pQ
/-- Queue 1 with an open packet. -/
def uQ : Queue := { tQueue with packets := [tPacket 1 1], r := 2, w := 2 }
/-- Its world, with the descriptor: entry 0 at 0x1000, ISA level 3. -/
def sQ : State := { inQ qQ uQ with mem := [(0x2029, 0x10), (0x4001, 0x10), (0x401E, 3)] }
/-- Its executor. -/
def xQ : Ex := exQ pQ
theorem here_Q : exOf sQ xQ.who = some xQ := rfl

/-- A packet of each sort in the queue's ring: bytes of a TEAR, of one with a wrong size, and of one that waits for its
predecessors. -/
def ringMem (b0 b1 b2 : Byte) : State :=
  { inQ qQ { tQueue with w := 2, packets := [tPacket 0 1] } with mem := ssetN 0 [(0x2029, 0x10)] 0x8000 [b0, b1, b2] }
/-- A packet of a type whose timeline is at `va`. -/
def ringTl (t : Byte) (va : Nat) (ops : List MemOp) : State :=
  { inQ qQ { tQueue with w := 1 } with mem := ssetN 0 [(0x2029, 0x10)] 0x8000 ([t, 0, 1] ++ List.replicate 21 0 ++ toBytes 8 va), ops }
/-- What a test asks of the packet at the head of that queue. -/
def atHead (s : State) (f : State → Queue → List Byte → Bool) : Bool :=
  let w := ((queue? s 0 1).map (waitgeTest s)).getD s
  (queue? w 0 1).any fun q => q.r != q.w && !q.halted &&
    match packetAt (modQueue w 0 q.qid fun q => { q with kicked := false }) q with
    | .ok (some raw, u) => packetErr raw == none && mayStart q (le raw 1 1) && f u q raw
    | _ => false

/-- The queue after `qpop` has taken its kick. -/
def poppedQ (s : State) : State := modQueue s 0 1 fun q => { q with kicked := false }

/-- A full mailbox. -/
def fullBox (s : State) : State := modDie s 0 fun d => { d with mailbox := List.replicate 256 (0, 0, 0) }

/-- The checks of a launch come to an answer where the descriptor can be read. -/
theorem launch_ok {s : State} {x : Ex} {raw : List Byte} (h : okAnd (agentRead s x.die x.pasid (packet46 raw).desc 64
    { devKind s x.pasid false 8 with user := x.user, secure := x.secure }) (fun _ => true) = true) :
    ∃ e u, launchCheck s x raw = .ok (e, u) := by
  unfold launchCheck
  dsimp only
  split
  · exact ⟨_, _, rfl⟩
  · split
    · rename_i e
      exact absurd h (by rw [e]; exact Bool.false_ne_true)
    · rename_i e
      exact absurd h (by rw [e]; exact Bool.false_ne_true)
    · split <;> exact ⟨_, _, rfl⟩

/-- The bytes of the packet in s16 to s31. -/
def launchRaw (p : Path) : List Byte := ((List.range 16).map fun k => toBytes 8 (rdSk p (16 : SReg) k).toNat).flatten

/-- An earlier store of the thread. -/
def tEarlier : MemOp :=
  { id := 3, who := .qthr 0 0, pid := 1, anc := [1], pc := 0, kind := .st, size := 8, scope := .weak, ord := .plain, ch := 0, dest := .nowhere,
    todo := [], begun := false, since := 0, counted := true, leased := [] }

/-- `qack` of an open packet and of one that is not; a launch whose descriptor is sound and one whose packet is not; a thread with
a queue and one without, a mailbox with room and a full one; a `qsleep` with and without an event; a `qpop` of a queue that is
empty, halted, and at a packet that is sound, malformed, and not yet to start. -/
theorem witness_QueueWordsComplete :
    (thread sQ xQ = some qQ ∧ Ready sQ xQ (ruleQ true) { ss := [2, 4, 5] } none ∧ (openPacket sQ qQ (rdS pQ 2)).isSome = true ∧
      openPacket sQ qQ (rdS pQ 1) = none) ∧
    (Ready sQ xQ { ruleQ false with q := !(curUser sQ && (2 : SReg) != 0) } { ss := sbNamed sQ 2 ++ (List.range 16).map (fun k => 16 + k), sd := [3] } none ∧ (attributed sQ xQ qQ 2).isSome = true ∧
      attributed sQ xQ qQ 1 = none ∧ stillOut sQ xQ = false ∧
      okAnd (launchCheck (releaseBy sQ 0 .sys) xQ (launchRaw pQ')) (fun e => e.1.isLeft) = true ∧ stillOut { sQ with ops := [tEarlier] } xQ = true) ∧
    (∃ e u, launchCheck (releaseBy sQ 0 .sys) xQ (launchRaw pQ) = .ok (e, u)) ∧
    (Ready sQ xQ (ruleQ false) { ss := [1] } none ∧ Ready sQ xQ (ruleQ true) { ss := [1] } none ∧ qQ.bound = some 1 ∧
      (mailboxPush (releaseBy sQ 0 .sys) 0 9 1 0).isSome = true ∧ mailboxPush (releaseBy (fullBox sQ) 0 .sys) 0 9 1 0 = none ∧
      thread (inQ { qQ with bound := none } uQ) xQ = some { qQ with bound := none }) ∧
    (Ready sQ xQ (ruleQ true) { sd := [3] } none ∧ qQ.events &&& (qQ.sleepm.setWidth 64 ||| 0x80#64) = 0 ∧
      ({ qQ with events := 0x80 } : QThread).events &&& (qQ.sleepm.setWidth 64 ||| 0x80#64) ≠ 0) ∧
    (Ready sQ xQ (ruleQ true) { sd := 2 :: (List.range 16).map fun k => 32 + k } none ∧ boundQueue (waitgeTest sQ uQ) qQ = some uQ ∧ uQ.r = uQ.w ∧
      (let q := { uQ with w := 3, halted := true }
       boundQueue (waitgeTest (inQ qQ q) q) qQ = some q) ∧
      (∀ e ∈ [(7, 0, 1, none, true), (7, 0, 3, some 2, true), (7, 1, 1, none, false)],
        let s := ringMem e.1 e.2.1 e.2.2.1
        (boundQueue ((boundQueue s qQ).map (waitgeTest s) |>.getD s) qQ).any (fun q => q.r != q.w && !q.halted && okAnd (packetAt (poppedQ s) q) fun r =>
          r.1.any fun raw => packetErr raw == e.2.2.2.1 && mayStart q (le raw 1 1) == e.2.2.2.2 && le raw 0 1 == 7) = true)) ∧
    (atHead (ringTl 0 0 []) (fun _ _ raw => le raw 0 1 == 0) = true ∧
      atHead (ringTl 4 0x50008 [tEarlier]) (fun u _ raw => le raw 0 1 == 4 && stillOut u xQ) = true ∧
      (∀ e ∈ [(0x50008, true), (0x900000, false)], atHead (ringTl 4 e.1 []) (fun u q raw => le raw 0 1 == 4 && !stillOut u xQ &&
        !tlWaits u 0 q.pasid (BitVec.ofNat 64 (le raw 24 8)) (queueSecure u q) && isOk (tlSignal (consume u q raw) q.die q.pasid (BitVec.ofNat 64 (le raw 24 8))
          (BitVec.ofNat 64 (le raw 32 8)) (queueSecure (consume u q raw) q)) == e.2) = true) ∧
      (∀ e ∈ [(0x50008, true), (0x900000, false)], atHead (ringTl 5 e.1 []) (fun u q raw => le raw 0 1 == 5 &&
        (waitgeCheck (consume u q raw) q (BitVec.ofNat 64 (le raw 24 8))).isNone == e.2) = true)) := by
  refine ⟨⟨rfl, ready_of rfl here_Q (by decide +kernel), by decide +kernel, by decide +kernel⟩,
    ⟨ready_of rfl here_Q (by decide +kernel), by decide +kernel⟩, launch_ok (by decide +kernel),
    ⟨ready_of rfl here_Q (by decide +kernel), ready_of rfl here_Q (by decide +kernel), rfl, by decide +kernel, by decide +kernel, rfl⟩,
    ⟨ready_of rfl here_Q (by decide +kernel), by decide +kernel, by decide +kernel⟩,
    ⟨ready_of rfl here_Q (by decide +kernel), by decide +kernel⟩, by decide +kernel⟩

/-- A queue whose ring is not mapped: `qpop` meets a cause at the packet. -/
theorem witness_packet_not_readable :
    (let q := { tQueue with w := 1, ring := 0x900000 }
     let s := inQ qQ q
     (boundQueue ((boundQueue s qQ).map (waitgeTest s) |>.getD s) qQ).any (fun q => q.r != q.w && !q.halted && match packetAt (poppedQ s) q with
       | .error (.trap _, _) => true
       | _ => false)) = true := by decide +kernel

/-- The operands of the copy words, in s16 to s23: each in range for every kind. -/
def pC2 : Path := { tPath [(2, 1), (18, 0x3000), (19, 1), (20, 64), (21, 2), (22, 64), (23, 64)] with sys := true }
/-- Its thread's executor and world. -/
def sC : State := inQ (tThread pC2) uQ
theorem here_C : exOf sC (exQ pC2).who = some (exQ pC2) := rfl
/-- A copy program's world. -/
def sP : State := inC (tCopy pC2)
theorem here_P : exOf sP (exC pC2).who = some (exC pC2) := rfl

/-- Every kind of copy word, of a thread and of a program, with operands in range, an open packet, and an earlier store to wait
for. -/
theorem witness_CopyWordsComplete :
    (∀ e ∈ [(CopyKind.cpy, true), (.prog, false), (.cpy2d, true), (.cpyg, true), (.cpys, true), (.cfill, true)],
      Ready sC (exQ pC2) (copyRule sC e.2 3 2 (badOperand sC e.1 16))
        { ss := sbNamed sC 2 ++ (List.range (copyWords e.1)).map (fun j => 16 + j), sd := if onThread sC then [3] else [] } none) ∧
    (thread sC (exQ pC2) = some (tThread pC2) ∧ (attributed sC (exQ pC2) (tThread pC2) 2).isSome = true ∧
      writesPending sC (exQ pC2) = false ∧ writesPending { sC with ops := [tEarlier] } (exQ pC2) = true) ∧
    (∀ k ∈ [CopyKind.cpy, .cpy2d, .cpyg, .cpys, .cfill],
      Ready sP (exC pC2) (copyRule sP true 0 0 (badOperand sP k 16))
      { ss := sbNamed sP 0 ++ (List.range (copyWords k)).map (fun j => 16 + j), sd := if onThread sP then [0] else [] } none) ∧
    (cc? sP 0 0).bind (fun c => c.ops.head?) = some tCopyOp ∧
    (∀ frame ∈ [true, false], Ready sP (exC pC2)
      { g := false, q := false, c := true, cls := .control, sys := frame, ill := (badOperand sP (.reform 2 frame) 16).map (BitVec.ofNat 64) }
      { ss := (List.range 4).map fun j => 16 + j } none) := by
  refine ⟨fun e he => ready_of rfl here_C ?_, ⟨rfl, by decide +kernel, by decide +kernel, by decide +kernel⟩,
    fun k hk => ready_of rfl here_P ?_, rfl, fun f hf => ready_of rfl here_P ?_⟩
  · revert e; decide +kernel
  · revert k; decide +kernel
  · revert f; decide +kernel

/-! ### Handler and retired words -/

/-- The path of a handler: s8 a page of the kernel, s9 and s10 a leaf and its context, s12 the pool's second class, s13 an entry that no
group has. -/
def pH : Path :=
  { tPath [(4, 3), (6, 8191), (8, 0x4000), (9, 0x04000000000001DF), (10, 0x00100001), (14, 5)] with sys := true }
/-- Its group. -/
def gHd : Group := tHandler pH
/-- Its world: the pool of class 1 has one frame, whose address stands at 0x7000. -/
def sH : State := { inG gHd with mem := [(0x48, 1), (0x51, 0x70), (0x58, 1), (0x2029, 0x10), (0x7001, 0x90)] }
/-- Its executor. -/
def xH : Ex := { exG gHd pH with user := false }
theorem here_H : exOf sH xH.who = some xH := rfl

/-- A walker group at its `tret`. -/
def gWalk : Group := { gHd with gid := 0, role := none }
/-- Its world. -/
def sWalk : State := { tWorld with groups := [gWalk], cur := some (.grp 0 0) }
/-- Its executor. -/
def xWalk : Ex := { who := .grp 0 0, p := pH, g := some gWalk, die := 0, core := 0, pasid := groupPasid sWalk gWalk, user := false, secure := false }

/-- An outstanding access through the tests' page. -/
def tUse : MemOp :=
  { id := 3, who := .grp 768 0, pid := 1, anc := [1], pc := 0x1000, kind := .ld, size := 4, scope := .weak, ord := .plain, ch := 0, dest := .nowhere,
    todo := [{ lane := 0, va := 0x4000, place := .fab 0x4000 0 1 4 false, data := [], cmp := [] }], begun := false, since := 0, counted := true,
    leased := [] }

/-- An outstanding store of the handler's path into the page of an image, and one into the record of a pool. -/
def tToImage : MemOp := { tUse with kind := .st, pid := 1, anc := [1] }
def tPool (a : Nat) : MemOp := { tToImage with todo := [{ lane := 0, va := 0, place := .fab a 0 1 4 false, data := [], cmp := [] }] }

/-- A `tret` of a handler level, of a walker whose eight lanes are together and whose are not, and with a window open; a sound leaf
for `tlbw`; entries in use and not; an image that the last page of a leaf holds,
with a store to it outstanding and with none. -/
theorem witness_TranslationWordsComplete :
    (Ready sH xH { ruleHandler with ctl := true } {} none ∧ xH.g = some gHd ∧ pH.wins = [] ∧ gHd.isWalker = false ∧ isOk (leaveHandler (noteIssue sH xH) gHd pH) = true ∧
      isOk (leaveHandler (noteIssue sH xH) { gHd with frames := [{ placedFrame pH with resume := 4 }] } pH) = false) ∧
    (Ready sWalk xWalk { ruleHandler with ctl := true } {} none ∧ gWalk.isWalker = true ∧ gWalk.frames.length = 1 ∧ walkerAlone gWalk pH = true ∧
      walkerAlone gWalk { pH with mask := 0x7F } = false) ∧
    (Ready sH xH ruleHandler { ss := [8, 9, 10] } none ∧ (∀ n ∈ [0, 2, 4, 5, 7], tlbLeafOk (rdSk pH 8 1) n = true)) ∧
    (Ready sH xH ruleHandler { ss := [8, 9] } none ∧
      (∀ mode < 4, entryInUse sH 0 (some 0) (invHits mode 1 0x4000) tCore.tlb = false ∧ entryInUse sH 0 none (invHits mode 1 0x4000) [] = false) ∧
      entryInUse { sH with ops := [tUse] } 0 (some 0) (invHits 0 1 0x4000) tCore.tlb = true ∧
      entryInUse { sH with ops := [tUse] } 0 none (invHits 3 1 0x4000) [tLeaf] = true) ∧
    (Ready sH xH ruleHandler { ss := [8, 6] } none ∧ (rdS pH 6).toNat ≤ 8191 ∧ (rdS pH 8).toNat % 16384 = 0 ∧ inWindow (rdS pH 8) = false ∧
      okAnd (groupPlaces sH xH gHd (sysKind sH xH false true 16) true ((List.range 4).map fun k => (0, rdS pH 8 + BitVec.ofNat 64 (4096 * k))))
        (fun e => mayReadPages e.2 xH (e.1.map fun e => e.2.2) && !mayReadPages { e.2 with ops := [tToImage] } xH (e.1.map fun e => e.2.2)) = true) :=
  ⟨⟨ready_of rfl here_H (by decide +kernel), rfl, rfl, rfl, by decide +kernel, by decide +kernel⟩,
    ⟨ready_of rfl rfl (by decide +kernel), rfl, rfl, by decide +kernel, by decide +kernel⟩,
    ⟨ready_of rfl here_H (by decide +kernel), by decide +kernel⟩,
    ⟨ready_of rfl here_H (by decide +kernel), by decide +kernel, by decide +kernel, by decide +kernel⟩,
    ready_of rfl here_H (by decide +kernel), by decide +kernel, by decide +kernel, by decide +kernel, by decide +kernel⟩

/-- An empty pool, class 0, and class 1 with one frame; requests and messages with room; an entry of the group table in use and
one that is not; `hlt` of a group, of a Q thread and of a copy program. -/
theorem witness_SystemWordsComplete :
    (Ready sH xH ruleHandler { sd := [5] } none ∧
      okAnd (onePlace sH xH (sysKind sH xH true false 8) 0) (fun e => poolFree e.2 xH e.1 && (recordBad e.2 xH e.1).isNone &&
        !poolFree { e.2 with ops := [tPool 8] } xH e.1 && recordBad { e.2 with pois := [(0, true)] } xH e.1 == some 0 &&
        wordBad { e.2 with pois := [(0x380, true)] } xH (.fab 0x7000 0 1 4 false) 8 && !mayAct { e.2 with ops := [tPool 0x7000] } xH .ld 8 .die .plain (.fab 0x7000 0 1 4 false) &&
        (readWord (acquireNear e.2 0 0) xH (e.1.add 8) 8).1 == (readWord e.2 xH e.1 8).1) = true ∧
      okAnd (onePlace sH xH (sysKind sH xH true false 8) 64) (fun e =>
        (readWord (acquireNear e.2 0 0) xH (e.1.add 8) 8).1 == 1 && (readWord e.2 xH e.1 8).1 == 0 && (readWord e.2 xH (e.1.add 16) 8).1 == 0x7000 &&
          (readWord e.2 xH (e.1.add 24) 4).1 == 1 && poolFree e.2 xH e.1 && (recordBad e.2 xH e.1).isNone &&
          okAnd (onePlace e.2 xH (sysKind e.2 xH false false 8) 0x7000) fun f => mayAct f.2 xH .ld 8 .die .plain f.1 && !wordBad f.2 xH f.1 8) = true) ∧
    Ready sH xH ruleHandler { ss := [8, 9], sd := [10, 11] } none ∧
    (Ready sH xH ruleHandler { ss := [8, 9, 10] } none ∧ Ready sH xH ruleHandler { ss := [12, 13, 14] } none ∧
      (let who := fun (n : Nat) => sH.groups.find? fun g => g.die == 0 && g.core == 0 && g.entry == n && !g.isWalker && !g.ended
       (rdSk pH 12 2).toNat % 1024 = 5 ∧ who 5 = none ∧ who 0 = some gHd) ∧
      (sendPri (advance sH xH) 1 0x4000 true 768 1).isSome = true) ∧
    (Ready sH xH ruleHandler { ss := (List.range 8).map (fun k => 16 + k), sd := [5] } none ∧ writesPending sH xH = false ∧
      predPending sH xH 0b0101000#7 0 = false ∧ writesPending { sH with ops := [tToImage] } xH = true ∧
      (quadSend (releaseBy sH 0 .pkg) 0 ((List.range 8).map fun k => rdSk pH 16 k)).isSome = true) ∧
    (let r : Rule := { g := true, q := true, c := true, cls := .handler, priv := true }
     Ready sH xH r { ss := [4] } none ∧ Ready sQ xQ r { ss := [4] } none ∧ Ready sP (exC pC2) r { ss := [4] } none ∧
     Ready sWalk xWalk r { ss := [4] } none ∧ gHd.isWalker = false ∧ gWalk.isWalker = true) :=
  ⟨⟨ready_of rfl here_H (by decide +kernel), by decide +kernel, by decide +kernel⟩, ready_of rfl here_H (by decide +kernel),
    ⟨ready_of rfl here_H (by decide +kernel), ready_of rfl here_H (by decide +kernel), by decide +kernel, by decide +kernel⟩,
    ⟨ready_of rfl here_H (by decide +kernel), by decide +kernel, by decide +kernel, by decide +kernel⟩,
    ready_of rfl here_H (by decide +kernel), ready_of rfl here_Q (by decide +kernel), ready_of rfl here_P (by decide +kernel),
    ready_of rfl rfl (by decide +kernel), rfl, rfl⟩

/-- The path at a retired word. -/
def pT : Path := tPath [(1, 0x3000)]
/-- Its group. -/
def gT : Group := tGroup pT

/-- Active lanes and none; the two microcoded words, the two trapped ones, and words that are no instruction. -/
theorem witness_RetiredWordsComplete :
    (let x := exG gT pT
     let s := inG gT
     let hd : Head := ⟨0, false, false, 0, false⟩
     let idle : Head := ⟨0, false, false, 3, false⟩
     x.g = some gT ∧ activeOf gT pT hd ≠ 0 ∧ activeOf gT pT idle = 0 ∧ x.active none ≠ 0 ∧ s.cur = some x.who ∧ exOf s x.who = some x ∧
     x.held = false) ∧
    (∀ e ∈ ([(vecRule, { vs := [1, 2, 3], vd := [1] }, some ⟨0, false, false, 0, false⟩),
      (vecRule, { vs := [2, 3], vd := [1] }, some ⟨3, false, false, 3, false⟩), ({ syncGrp with g := barAdmits (inG gT) }, {}, none),
      (memRule, { vs := [], vd := [5], ss := [1] }, some ⟨0, false, false, 0, false⟩),
      (memRule, { vs := [], vd := [5], ss := [1] }, some ⟨0, false, false, 3, false⟩)] : List (Rule × Use × Option Head)),
        Ready (inG gT) (exG gT pT) e.1 e.2.1 e.2.2) :=
  ⟨⟨rfl, by decide +kernel, by decide +kernel, by decide +kernel, rfl, rfl, rfl⟩, ready_all _ rfl rfl (by decide +kernel)⟩

/-- A group, a Q thread and a copy program that issue. -/
theorem witness_RemovedWordsRaiseIllegal :
    (let stands := fun (s : State) (x : Ex) => s.cur = some x.who ∧ exOf s x.who = some x ∧ x.held = false
     stands (inG gT) (exG gT pT) ∧ stands sQ xQ ∧ stands sP (exC pC2)) :=
  ⟨⟨rfl, rfl, rfl⟩, ⟨rfl, rfl, rfl⟩, rfl, rfl, rfl⟩

end Sys2Proof.Machine
end

