-- ==== Sys2Proof/Tests/WitnessEvents.lean ====
section
/-! SUPPORT. Witnesses: for each statement about completions, wakes and the engines, a concrete state and operands that meet its
hypotheses, for each of its clauses. -/
namespace Sys2Proof.Machine

open Sys2Proof

set_option Elab.async false

/-! ### Completions and wakes -/

/-- Outstanding: a computation, a bulk copy, a leased line and an imprecise cause. -/
def sOut : State :=
  { tWorld with groups := [{ gA with late := [{ trap := { cause := .poison, va := 0x3000 }, pc := 0x1008, resume := 0, gid := 768, pid := 1 }] }],
                ops := [tOp 3 (.alu [(320, 7)] [] 0) []], bulks := [tBulk], leases := [{ line := 64, die := 0, since := 0, old := [], repl := false }], now := 2000 }

/-- The same world with a page of die 1 as the source, the loss of which die 0 has acted on or not. -/
def sFarBulk (known : Bool) : State :=
  { sOut with dies := [{ Die.reset 0 with down := if known then [1] else [] }, { Die.reset 1 with lost := true }],
              bulks := [{ tBulk with src := [{ off := 0, len := 4096, place := .fab (fabAddr 1 0x3000) 0 1 4 false }] }] }

/-- Each kind of outstanding work; the source of a bulk copy at a home that answers, at one that is lost, and with a unit whose tag is
wrong; a lease that is over, and one that is not: an atomic of its die waits on the line. -/
theorem witness_MemoryEventsComplete :
    (∃ o wv ws fl, sOut.ops.find? (fun o => o.id == 3) = some o ∧ o.kind = .alu wv ws fl ∧ awaitsAts sOut 3 = false) ∧
    (sOut.bulks.find? (fun b => b.id == 1) = some tBulk ∧ 0 ∈ tBulk.todo ∧ (grp? sOut tBulk.gid).any (fun g => sourceReady sOut tBulk g.die 0) = true ∧
      (spanPlace tBulk.src 0).any (fun p => isHbm p && placeGran p == granOf sOut (placeAddr p)) = true ∧ ∀ z, unitFailed sOut z = false) ∧
    (let units := sourceUnits sOut tBulk.src (chunkReads tBulk 0).1 (chunkReads tBulk 0).2
     units ≠ [] ∧ (∀ u ∈ units, placeLost sOut 0 u.2 = false) ∧ (∀ u ∈ units, isHbm u.2 = true → placeGran u.2 = granOf sOut (placeAddr u.2)) ∧
     (decodeSource (.errors 1 none) 0 units sOut).2 = none ∧
     (decodeSource .clean 0 [(0, .fab 0x3000 0 1 0 false)] sOut).2 = some 0) ∧
    (∀ b ∈ (sFarBulk true).bulks, sourceReady (sFarBulk true) b 0 0 = true ∧
      ((sourceUnits (sFarBulk true) b.src (chunkReads b 0).1 (chunkReads b 0).2).find? fun u => placeLost (sFarBulk true) 0 u.2).isSome = true) ∧
    (∃ l, sOut.leases.find? (fun l => l.line == 64) = some l ∧ leaseOver sOut l = true ∧
      leaseOver { sOut with now := 9, ops := [tOp 4 (.atom .add) [{ tAcc 0 (.fab 64 0 1 4 false) with cmp := [] }]] } l = false) ∧
    (∃ g r l, grp? sOut 768 = some g ∧ g.isWalker = false ∧ g.late = r :: l) :=
  ⟨⟨_, _, _, _, rfl, rfl, rfl⟩, ⟨rfl, by decide, by decide +kernel, by decide +kernel, none_failed (by decide +kernel)⟩,
    by decide +kernel, by decide +kernel, ⟨_, rfl, by decide +kernel, by decide +kernel⟩,
    ⟨_, _, _, rfl, rfl, rfl⟩⟩

/-- The tests' group with a path that waits. -/
def tWaiting (w : Wait) : Group := { gA with stack := { a := some { pA with wait := w }, b := none, rest := [] } }
/-- The world in which it waits, `n` cycles after reset. -/
def sWait (w : Wait) (n : Nat) : State := { tWorld with groups := [tWaiting w], now := n }
/-- A wait for the line at 0x3000 to lose a value. -/
def tWchg (want : W64) : Wait := .wchg (.fab 0x3000 0 1 4 false) 4 want 5 0 true .die 0
/-- A team with ring 7, whose stage 0 is in a state. -/
def sStage (w : Wait) (st : Nat) : State :=
  { sWait w 0 with teams := [ringTeam { st, phase := false, absent := [] }],
                   waiters := [(769, 7, 15, 768, 1, 0)] }
/-- A queue with a WAITGE packet that waits for the last timeline of the page to reach a value. -/
def qWait (v : W64) : Queue := { tQueue with packets := [{ tPacket 1 5 with waitTl := some (0x50FF8, v) }] }

/-- Waits of each kind, whose end has come and has not. -/
theorem witness_WakesEnd :
    ((pathEx (sWait (.twait 0 511 9 5 .die) 0) 768 1).any (fun x => x.p.wait == .twait 0 511 9 5 .die) = true ∧ (9#64).toNat ≤ (9#64).toNat ∧
      (8#64).toNat < (9#64).toNat ∧ dieUp tWorld 0 = true ∧ dieUp tWorld 7 = false ∧ 7 < 16) ∧
    ((pathEx (sWait (tWchg 0) 0) 768 1).any (fun x => x.p.wait == tWchg 0 && !placeLost (sWait (tWchg 0) 0) x.die (.fab 0x3000 0 1 4 false) &&
      !(leasedAway (sWait (tWchg 0) 0) x.die (.fab 0x3000 0 1 4 false) || placeAbsent (sWait (tWchg 0) 0) (.fab 0x3000 0 1 4 false) ||
        homeSilent (sWait (tWchg 0) 0) x.die (.fab 0x3000 0 1 4 false) || beingSaved (sWait (tWchg 0) 0) x) && (waitRead (sWait (tWchg 0) 0) x (.fab 0x3000 0 1 4 false) 4 .die 0).1.1 == 0 &&
      decide (clk (sWait (tWchg 0) 0) x.die < 1048576) && decide (1048576 ≤ clk (modDie (sWait (tWchg 0) 0) 0 fun d => { d with cyc := 16777216 }) x.die)) = true) ∧
    ([(false, 0), (true, 2)].all fun e =>
      let s := sStage (.racq 769 7 15 5 e.1 0) e.2
      ((team? s 769).bind fun t => stage? t 7 15).map (fun st => st.st) == some e.2 &&
      firstWaiter s (s.waiters.filter fun w => w.1 == 769 && w.2.1 == 7 && w.2.2.1 == 15 && waitsIn s e.1 w) == some (769, 7, 15, 768, 1, 0) &&
      (exOf s (.grp 768 0)).isSome) = true ∧
    (∀ e ∈ [1, 3], let s := sStage (.rrel 769 7 15) e
      (exOf s (.grp 768 0)).any (fun x => (grp? s 768).any fun g => ((team? s 769).any fun t => (stage? t 7 15).any fun st =>
        rrelReady s x g st && isOk (giveStage s x t st 7 15) && !rrelReady { s with ops := [tStore] } x g st)) = true) ∧
    ([0, 1].all fun (v : W64) => (qWait v).packets.find? (fun p => p.waitTl.isSome) == (qWait v).packets.head? &&
      ((queueTlValue { tWorld with queues := [qWait v] } (qWait v) 0x50FF8).map fun e => e.1) == some 0) = true ∧
    ([0, 1].all fun (ev : W64) => (exOf (inQ { tThread pQ with asleep := some 4, events := ev } tQueue) (.qthr 0 0)).isSome) = true ∧
    (({ tThread pQ with events := 0 } : QThread).arrived = 0 ∧ ({ tThread pQ with events := 1 } : QThread).arrived ≠ 0) := by
  refine ⟨?_, ?_, ?_, ?_, ?_, ?_, ?_⟩ <;> decide +kernel

/-- A path that spins in a block. -/
def spun : Path := { pA with blk := some { len := 1, live := 0, entry := true, handler := false, loop := false, spin := true, reconv := 0, pf := 0 } }

/-- A phase that its one participant has reached and one that it has not, with the participant killed; a path that has spun or been
spilled for its count, and one that waits to enter a handler; a request for a walker of the die kernel's and for the vendor's. -/
theorem witness_WakesAndTurnsComplete :
    (∀ b < 8, let t : Team := { tTeam with bars := [(b, { Bar.fresh with roles := some 1, lanes := [(768, 0xFF)], arrived := [768] })], killed := [768] }
      t.st = .resident ∧ phaseDone { sA with teams := [t] } t b = true ∧ phaseDone sA tTeam b = false) ∧
    (spunOut 4096 (some spun) = true ∧ spunOut 4095 (some spun) = false ∧
      (let k : Stack := { a := some pA, b := some { pA with pid := 2 }, rest := [.path { pA with pid := 3 }] }
       ((k.rest.filterMap spilledReady).any fun p => decide (p.slotAt + 16384 ≤ 16384)) = true)) ∧
    (let d : Pend := { trap := { cause := .trap }, pc := 0x1008, resume := 0x1010, gid := 768, pid := 1 }
     let p : Path := { pA with wait := .trapping, pend := some d }
     let g := tGroup p
     g.stack.paths.find? (fun p => p.pid == 1) = some p ∧ (tryEnter (inG g) g p d.trap d.pc d.resume).isSome = true ∧
     tryEnter { inG g with ops := [tOp 3 (.alu [] [] 0) []] } g p d.trap d.pc d.resume = none) ∧
    (let m : Miss := { gid := 768, pid := 1, pasid := 1, va := 0x900000, write := false, fetch := false, hroot := false, mat := false, lanes := 0xFF }
     let s := { sA with cores := [{ tCore with missQ := [m] }] }
     core? s 0 0 = some { tCore with missQ := [m] } ∧ (die? s 0).any (fun d => d.walker.isNone) = true ∧
     (die? (modDie s 0 fun d => { d with walker := some 0x4000 }) 0).any (fun d => d.walker == some 0x4000) = true) := by
  refine ⟨by decide +kernel, ⟨by decide +kernel, by decide +kernel, by decide +kernel⟩, ⟨rfl, by decide +kernel, by decide +kernel⟩, rfl, rfl, rfl⟩

/-! ### Matrix and copy engines -/

/-- The world whose core holds matrix operations of the tests' group. -/
def sEng (l : List MatOp) (f : Group → Group) : State :=
  { tWorld with groups := [f gA], cores := [{ tCore with bind := some 769, strm := [(3, l)] }] }

/-- A load of tile 0 from a page that no table maps. -/
def tAbsent : MatOp := { tMat 1 with kind := .mld (.fp .f32), a := [0x900000, 64, 0x00010001] }

/-- A stream whose head clears a tile, one whose head's page is absent, and one with no operation, with the vendor walker and
with the die kernel's; a fault to deliver at a boundary, and one inside a handler that is full. -/
theorem witness_MatrixEventsComplete :
    (∃ e, engOf (sEng [tMat 1, tMat 2] id) 0 0 3 .clean = some e ∧ e.o.kind = .mzero) ∧
    ((core? (sEng [tMat 1, tMat 2] id) 0 0).any (fun c => sget [] c.strm 3 == [tMat 1, tMat 2]) = true ∧ (grp? (sEng [] id) 768).isSome = true ∧
      (tMat 1).stopped = false ∧ (tMat 2).num ≠ (tMat 1).num ∧ (tMat 1).rowsDone = true ∧ (tMat 1).kind = .mzero) ∧
    (let u := runHead (sEng [tAbsent] id) 0 0 3 .clean
     (engOf u 0 0 3 .clean).any (fun e => e.o.await.any (fun w => w.1 == 0x900000#64 && !e.g.ended &&
       (match walkLeaf u 0 (groupPasid u e.g) w.1 with
        | .error (.trap t) => t.cause == .pageFault
        | _ => false))) = true) ∧
    engOf (runHead (sEng [] id) 0 0 3 .clean) 0 0 3 .clean = none ∧
    (∃ d, die? (sEng [tMat 1] id) 0 = some d ∧ d.walker = none) ∧
    (∃ d, die? (modDie (sEng [tMat 1] id) 0 fun d => { d with walker := some 0x4000 }) 0 = some d ∧ d.walker.isSome = true) ∧
    (let f := fun (g : Group) => { g with mfault := [(3, 0x900000, 0x10)] }
     ∃ p g', grp? (sEng [] f) 768 = some (f gA) ∧ (f gA).frames = [] ∧ (f gA).stack.a = some p ∧ p.pid = 1 ∧ p.atHdr = false ∧ p.wait = .run ∧
       grp? (modGrp { sEng [] f with waiters := [] } 768 fun g => { g.modPid 1 (fun p => { p with wait := .run }) with mfault := [] }) 768 = some g') :=
  ⟨⟨_, rfl, rfl⟩, by decide +kernel, by decide +kernel, rfl, ⟨_, rfl, rfl⟩, ⟨_, rfl, rfl⟩, _, _, rfl, rfl, rfl, rfl, rfl, rfl, rfl⟩

/-- A write of a work to another module that is not acknowledged. -/
def tFar (w : TxWork) : LinkTx :=
  { src := 0, dst := 1, tag := 5, req := { write := true, addr := 2 ^ 43, len := 8, data := [] }, circuit := some 66, acc := none, work := some w }

/-- A stream whose rows are done, with such a write and without; an `mst` whose signal is performed. -/
theorem witness_far_writes_of_a_stream :
    farOut (sEng [tMat 1] id) (.matrix 0 0 3) = false ∧ farOut { sEng [tMat 1] id with links := [tFar (.matrix 0 0 3)] } (.matrix 0 0 3) = true ∧
    (let o := { tMat 1 with kind := .mst (.fp .f32) .rne false false true, row := 64, signalled := true }
     o.rowsDone = true ∧ o.signalled = true ∧ (core? (sEng [o] id) 0 0).any (fun c => sget [] c.strm 3 == [o]) = true) := by decide +kernel

/-- A copy operation of context 0: 64 bytes from 0x3000. -/
def cpyOp (dst : W64) : CopyOp := { tCopyOp with kind := .cpy, args := [0, 0, dst, 0x3000, 64] }
/-- The world of that operation. -/
def sCpy (o : CopyOp) : State := { tWorld with copies := [{ CopyCtx.reset 0 0 with pasid := 1, ops := [o], count := 1 }] }
/-- Whether a run of a copy performed all of it. -/
def CopyEnd.isAll : CopyEnd → Bool
  | .all _ => true
  | _ => false
/-- Whether a run of a copy met a cause. -/
def CopyEnd.isTrap : CopyEnd → Bool
  | .stop _ (.trap _ _) => true
  | _ => false

/-- A copy operation whose bytes are written, with a write to another module that is not acknowledged. -/
theorem witness_far_writes_of_a_copy :
    (let o := cpyOp 0x4000
     let s := { sCpy o with links := [tFar (.copy 0 0)] }
     (cc? s 0 0).any (fun x => copyOf s 0 0 == some o && copyTurn s 0 0 && match copyRun (copOf (serveTurn s 0 0) x .clean) o.work (serveTurn s 0 0) with
       | .all t => farOut t (.copy 0 0)
       | _ => false)) = true := by decide +kernel

/-- An operation that can be performed whole, and one whose destination is not mapped; a program to start and one that has ended; a
stopped operation and one that has not stopped. -/
theorem witness_CopyEventsComplete :
    (let o := cpyOp 0x4000
     let s := sCpy o
     (cc? s 0 0).any (fun x => copyOf s 0 0 == some o && copyTurn s 0 0 && (copyRun (copOf (serveTurn s 0 0) x .clean) o.work (serveTurn s 0 0)).isAll) = true ∧
       o.kind ≠ .prog ∧ copyTurn tWorld 0 0 = false) ∧
    (let o := cpyOp 0x900000
     let s := sCpy o
     (cc? s 0 0).any (fun x => copyOf s 0 0 == some o && (copyRun (copOf s x .clean) o.work s).isTrap) = true) ∧
    (∀ pos ∈ [0, 1], let o := { tCopyOp with pos }
      let s := sCpy o
      (cc? s 0 0).any (fun x => copyOf s 0 0 == some o && o.kind == .prog && x.prog.isNone && copyTurn s 0 0) = true) ∧
    (∀ stop ∈ [none, some ({ cause := .pageFault } : Trap)], let o := { tCopyOp with stop }
      let s := sCpy o
      (cc? s 0 0).any (fun x => x.ops.head? == some o && canResume x == (stop.isSome && o.kind != .prog)) = true) := by decide +kernel

end Sys2Proof.Machine
end

