-- ==== Sys2Proof/Tests/WitnessHost.lean ====
section
/-! SUPPORT. Witnesses: for each statement about queues, contexts, teams and the host, a concrete state and operands that meet its
hypotheses, for each of its clauses. -/
namespace Sys2Proof.Machine

open Sys2Proof

set_option Elab.async false

/-! ### Queues and contexts -/

/-- The world with one queue and its thread. -/
def withQ (q : Queue) (t : QThread) : State := { tWorld with queues := [q], qthreads := [t] }
/-- A queue that no thread serves. -/
def idleQ : Queue := { tQueue with bound := none, prio := 3 }
/-- A descriptor that keeps every limit of R338: 2^20 slots, priority 7, the last vectors. -/
def tDesc : List W64 := [0x8000, 0x0000000700100000, 0x9000, 0x9100, 0x50FF8, 0x50FF0, 0x0000000007FF07FF, 0x9300]
/-- A GUEST packet for socket 1, and a TEAR. -/
def guestQ : Queue := { tQueue with packets := [tPacket 1 6, tPacket 2 7] }
/-- The world in which the guest of socket 1 is up. -/
def sGuest : State := { withQ guestQ (QThread.reset 0 0) with guests := [Guest.reset 0, { Guest.reset 1 with up := true }] }

/-- Kicks of the last value, of the most that is in range and of ones that are not; sizes of device registers; a descriptor at its
limits; a queue and a thread that can be bound, with and without a program; an unbinding; a restart at R_q and at W_q; a GUEST
packet. -/
theorem witness_QueueEventsComplete :
    ((queue? (withQ tQueue (tThread pQ)) 0 1).any (fun q => q.w == 0 && q.r + q.size == 4) = true ∧ (0#64).toNat = 0 ∧ (4#64).toNat ≤ 4 ∧
      ¬ (5#64).toNat ≤ 4) ∧
    (devSizeOk 0x6000000100 8 = true ∧ devSizeOk 0x6000000100 4 = false ∧ devSizeOk 0x6000020000 4 = true) ∧
    (dieUp tWorld 0 = true ∧ 65535 < 65536 ∧ queue? tWorld 0 65535 = none ∧ ctx? tWorld 1 = some tCtx ∧ goingAway tWorld 1 = false ∧
      tDesc.length = 8 ∧ descriptorOk tWorld 0 1 tDesc = true) ∧
    (let s := withQ idleQ (QThread.reset 0 0)
     dieUp s 0 = true ∧ queue? s 0 1 = some idleQ ∧ qt? s 0 0 = some (QThread.reset 0 0) ∧ idleQ.bound = none ∧ (QThread.reset 0 0).idle = true ∧ 3 ≤ idleQ.prio ∧
     ({ tThread pQ with bound := none, asleep := some 4 } : QThread).idle = true ∧ ccxFree s 0 0 idleQ.pasid = true ∧ goingAway s idleQ.pasid = false) ∧
    (qt? (withQ tQueue (tThread pQ)) 0 0 = some (tThread pQ) ∧ (tThread pQ).bound = some 1) ∧
    (let q : Queue := { tQueue with halted := true, r := 1, w := 3 }
     queue? (withQ q (tThread pQ)) 0 1 = some q ∧ q.halted = true ∧ q.r ≤ 1 ∧ 3 ≤ q.w ∧ goingAway (withQ q (tThread pQ)) q.pasid = false) ∧
    ((openOf sGuest 0 1 1 6).any (fun e => (guest? sGuest (word e.2.data 0).toNat).any fun g => g.up && !g.fenced && e.2.guest.isNone) = true) := by
  refine ⟨by decide +kernel, by decide +kernel, ⟨rfl, by decide, rfl, rfl, rfl, rfl, by decide +kernel⟩,
    ⟨rfl, rfl, rfl, rfl, rfl, by decide, rfl, by decide +kernel, rfl⟩, ⟨rfl, rfl⟩, ⟨rfl, rfl, by decide, by decide, rfl⟩, by decide +kernel⟩

/-- A teardown that waits, and a context in quarantine. -/
def tTear : Tear := { pasid := 1, die := 0, qid := 1, seq := 2, step := 3, since := 0, shoot := 0 }
/-- The world `n` cycles into it, with an access of the context outstanding or not. -/
def sTear (n : Nat) (ops : List MemOp) : State := { inG gHd with tears := [tTear], ops, now := n }
/-- The world with a context in quarantine. -/
def sQuar (n : Nat) : State := { tWorld with quarantine := [(1, 0)], now := n }

/-- A PASID that is free; a TEAR; a drain that is over, that goes on, and that has lasted its second; a quarantine that goes on and
one that is over; a function of the module; the last virtual function. -/
theorem witness_ContextEventsComplete :
    (modeOf 2 = some .save ∧ 2 ^ 20 - 1 < 2 ^ 20 ∧ ctx? tWorld (2 ^ 20 - 1) = none ∧ goingAway tWorld (2 ^ 20 - 1) = false ∧
      (fnDie tWorld 0).any (dieUp tWorld) = true) ∧
    ((openOf sGuest 0 1 2 7).isSome = true ∧ goingAway sGuest 1 = false ∧ ctx? sGuest 1 = some tCtx) ∧
    ((∀ n l, (sTear n l).tears.find? (fun t => t.pasid == 1 && t.step == 3) = some tTear) ∧ pasidIdle (sTear 0 []) 1 = true ∧
      pasidIdle (sTear 0 [tUse]) 1 = false ∧ 0 < tTear.since + 1000000 * Config.usCycles) ∧
    ((∀ n, (sQuar n).quarantine.find? (fun q => q.1 == 1) = some (1, 0)) ∧ 0 < 0 + 1000000 * Config.usCycles) ∧
    (fnDie tWorld 1).isSome = true ∧ (63 < 64 ∧ 1 < 2 ∧ sget 0 tWorld.vfPort 63 = 0) :=
  ⟨⟨rfl, by decide, by decide +kernel, by decide +kernel, by decide +kernel⟩, ⟨by decide +kernel, rfl, rfl⟩,
    ⟨fun _ _ => rfl, by decide +kernel, by decide +kernel, by decide⟩, ⟨fun _ => rfl, by decide⟩, rfl, by decide, by decide, rfl⟩

/-! ### Teams -/

/-- A launch that has a team to admit. -/
def pending : Launch := { tLaunch with next := 0 }
/-- The world of that launch, with an idle core. -/
def sAdmit : State := { tWorld with launches := [pending], teams := [] }
/-- The tests' team, of which nothing is left on its core. -/
def sEnded : State := { inG { gHd with exited := 0xFF, frames := [], stack := { a := none, b := none, rest := [] } } with cur := none }
/-- The tests' world with a context of a mode. -/
def sMode (m : PreMode) : State := { tWorld with contexts := [{ tCtx with mode := m }] }
/-- A team that is being stopped. -/
def sStop (ops : List MemOp) : State := { inG (tGroup pT) with teams := [{ tTeam with st := .stopping }], ops }
/-- A team saved from die 0. -/
def savedTeam : Team := { tTeam with st := .saved 0, image := [tGroup pT], groups := 1 }
/-- Its world. -/
def sSaved : State := { tWorld with teams := [savedTeam] }

/-- A team to be dropped, of a launch that may be started again. -/
def sDrop (ops : List MemOp) : State :=
  { inG (tGroup pT) with teams := [{ tTeam with st := .dropping }], launches := [{ tLaunch with pk := { tLaunch.pk with flags := 8 } }], ops }
/-- A COSCHED grid of two saved teams, and two idle cores. -/
def sPair : State :=
  { tWorld with cores := [tCore, Core.reset 0 1], launches := [{ tLaunch with pk := { tLaunch.pk with flags := 4 } }],
                teams := [savedTeam, { savedTeam with tid := 771, image := [{ tGroup pT with gid := 772, team := 771 }] }] }

/-- A launch whose team fits; one that has waited and one that has not; a team whose groups have ended, with work outstanding and
with none; contexts of the three modes, and launches that may be started again and may not; a stopping team and one to be dropped, with
work outstanding and with none; a saved team whose place is free, and a saved grid, asked for as a whole and not. -/
theorem witness_TeamEventsComplete :
    (launch? sAdmit 770 = some pending ∧ pending.pk.cosched = false ∧ 0 < pendingTeams pending ∧ keptOff sAdmit pending (nextIndex pending) 0 = false ∧
      placeOk sAdmit pending 0 [0] = true) ∧
    (pending.reported = false ∧ pending.next < gridTeams pending ∧ ¬ tLaunch.next < gridTeams tLaunch ∧ tLaunch.redo = [] ∧
      0 < pending.since + 10000 * Config.usCycles ∧ pending.since + 10000 * Config.usCycles ≤ 10000 * Config.usCycles) ∧
    (let l := { pending with pk := { pending.pk with flags := 4 } }
     let s := { sAdmit with launches := [l] }
     launch? s 770 = some l ∧ l.pk.cosched = true ∧ 0 < pendingTeams l ∧ [(0, [0])].length = pendingTeams l ∧ leaving s l = false ∧
       keptOff s l (nextIndex l) 0 = false ∧ placeOk s l 0 [0] = true ∧ ([] : List (Nat × List Nat)).length ≠ pendingTeams l) ∧
    (team? sEnded 769 = some tTeam ∧ tTeam.onCores = true ∧ (∀ g ∈ sEnded.groups, g.team = 769 → g.ended = true) ∧
      countersZero (reportStopped sEnded tTeam) (groupsOf (reportStopped sEnded tTeam) 769) = true ∧
      streamsEmpty (reportStopped sEnded tTeam) (groupsOf (reportStopped sEnded tTeam) 769) = true ∧
      (let u := { sEnded with ops := [tUse] }
       countersZero (reportStopped u tTeam) (groupsOf (reportStopped u tTeam) 769) = false)) ∧
    (∀ m, team? (sMode m) 769 = some tTeam ∧ launch? (sMode m) tTeam.launch = some tLaunch ∧
      ctx? (sMode m) tLaunch.pasid = some { tCtx with mode := m }) ∧
    (tLaunch.pk.flags / 8 % 2 ≠ 1 ∧ (launch? (sDrop []) 770).any (fun l => l.pk.flags / 8 % 2 == 1) = true ∧
      team? (sDrop []) 769 = some { tTeam with st := .dropping } ∧ quiet (sDrop []) 769 = true ∧ quiet (sDrop [tUse]) 769 = false ∧
      quiet (sStop []) 769 = true ∧ quiet (sStop [tUse]) 769 = false) ∧
    (team? (sStop []) 769 = some { tTeam with st := .stopping } ∧ countersZero (sStop []) (groupsOf (sStop []) 769) = true ∧
      countersZero (sStop [tUse]) (groupsOf (sStop [tUse]) 769) = false ∧
      (let u := releaseBy (stopStreams (sStop []) { tTeam with st := .stopping }) 0 .pkg
       countersZero u (groupsOf (sStop []) 769) = true ∧ (team? u 769).any (fun v => v.st == .stopping) = true)) ∧
    (team? sSaved 769 = some savedTeam ∧ launch? sSaved 770 = some tLaunch ∧ placeOk sSaved tLaunch 0 [0] = true ∧
      enginesFree sSaved savedTeam 0 [0] = true ∧ keptOff sSaved tLaunch (teamIndex tLaunch savedTeam) 0 = false ∧ (resumeOn sSaved savedTeam 0 0 [0]).isSome = true ∧
      resumeWhole sSaved 769 [] = true) ∧
    (resumeWhole sPair 769 [771] = true ∧ resumeWhole sPair 769 [] = false ∧
      (resumeTeam sPair 769 0 [0]).any (fun u => (resumeTeam u 771 0 [1]).isSome) = true) := by
  refine ⟨⟨rfl, rfl, by decide, by decide +kernel, by decide +kernel⟩, by decide, by decide +kernel, ⟨rfl, rfl, ?_, by decide +kernel, by decide +kernel, by decide +kernel⟩,
    fun m => ⟨rfl, rfl, rfl⟩, ⟨by decide, by decide +kernel, rfl, by decide +kernel⟩,
    ⟨rfl, by decide +kernel⟩, ⟨rfl, rfl, by decide +kernel⟩, by decide +kernel⟩
  intro g h _
  rw [List.mem_singleton.mp h]
  rfl

/-! ### The host -/

/-- A page request of the tests' group. -/
def tPri : PriReq := { id := 9, fn := 0, pasid := 1, va := 0x900000, gid := 768, pid := 1 }
/-- A translation request of an `ats`. -/
def tAts : AtsReq :=
  { id := 9, fn := 0, pasid := 1, va := 0x900000, write := true, die := 0, who := .grp 768 0, pid := 1, use := .instr 3 4, since := 0 }
/-- The tables of the tests' context, whose one page is a gigabyte from address 0. -/
def sTables : State :=
  { modDie (withQ tQueue (tThread pQ)) 0 (fun d => { d with ptbase := [(1, 0x10000)] }) with
    mem := [(0x10000, 0x01), (0x10001, 0x10), (0x10002, 0x01), (0x11000, 0x01), (0x11001, 0x20), (0x11002, 0x01), (0x12000, 0xDF), (0x12001, 0x01), (0x12007, 0x04)] }

/-- A translated address that the context's tables map and one that they do not, with a queue for the fault and with none; a page request
that fails, of a group that is there and of one that has gone. -/
theorem witness_host_answers :
    (let table := fun (s : State) => ((die? s 0).map fun d => (sget 0 d.ptbase 1).toNat).getD 0
     frameMapped sTables 0x3000 levels (table sTables) = true ∧ frameMapped sTables (2 ^ 40) levels (table sTables) = false ∧
     (lowestQueue sTables 0 1).isSome = true ∧ frameMapped tWorld 0x3000 levels (table tWorld) = false ∧ lowestQueue tWorld 0 1 = none) ∧
    (∀ gid ∈ [768, 5], let s := { inG (tGroup pT) with pris := [{ id := 9, fn := 0, pasid := 1, va := 0x900000, gid, pid := 1 }] }
     ((grp? s gid).bind fun g => g.path? 1).isSome = (gid == 768)) := by decide +kernel

/-- A host write and a host read. -/
def tReq (write : Bool) : LinkReq := { write, addr := 0x3000, len := 2, data := if write then [1, 2] else [] }

/-- Requests on their way and answered; one that has waited and one that has not; a range to invalidate; a host access to HBM,
with no PASID or with one that is not quarantined, and one of a quarantined PASID; a frame that the device holds and one that it does not; a supervisor core. -/
theorem witness_HostEventsComplete :
    ({ tWorld with pris := [tPri] }.pris.find? (fun p => p.id == 9) = some tPri ∧ tWorld.pris.find? (fun p => p.id == 9) = none) ∧
    ([tAts].find? (fun a => a.id == 9) = some tAts ∧ [tUse].find? (fun o => o.id == 3) = some tUse ∧ 2 < 3 ∧
      tAts.since + 100 * Config.usCycles ≤ 100 * Config.usCycles ∧ 0 < tAts.since + 100 * Config.usCycles) ∧
    ((startShoot tWorld ((fnDie tWorld (fnOf tWorld 1)).getD 0) 1 0x3000 4096 (some 1)).isSome = true) ∧
    (fnDie tWorld 0 = some 0 ∧ dieUp tWorld 0 = true ∧
      (homePlace tWorld (tReq true).addr).any (fun p => isHbm p && !lent tWorld (placeAddr p)) = true ∧
      (∃ q ∈ (sQuar 0).quarantine, q.1 = 1) ∧ ∀ q ∈ tWorld.quarantine, q.1 ≠ 1) ∧
    (3 ∈ { tWorld with hostCache := [3] }.hostCache ∧ 3 ∉ tWorld.hostCache ∧ 63 < 64) :=
  ⟨⟨rfl, rfl⟩, by decide +kernel, by decide +kernel, ⟨rfl, rfl, by decide +kernel, ⟨_, List.mem_singleton.mpr rfl, rfl⟩, fun _ h => nomatch h⟩,
    List.mem_singleton.mpr rfl, List.not_mem_nil, by decide⟩

end Sys2Proof.Machine
end

