-- ==== Sys2Proof/Tests/WitnessPlatform.lean ====
section
/-! SUPPORT. Witnesses: for each statement about dies, links, guests, scans, boot, words and steps, a concrete state and operands
that meet its hypotheses, for each of its clauses. -/
namespace Sys2Proof.Machine

open Sys2Proof

set_option Elab.async false

/-! ### Messages -/

/-- The tests' world after a die has sent a message. -/
def sMsg (sender : Nat) (m : List W64) : State := { tWorld with quad := [(sender, m)], cur := none }
/-- The state in which die 0 has taken that message. -/
def uMsg (sender : Nat) (m : List W64) : State := acquirePkg (modDie (sMsg sender m) 0 fun d => { d with qpos := 1 }) 0
/-- A message of a kind, with a byte, PASID 1 and die 1. -/
def tMsg (kind byte : Nat) (id : W64) : List W64 := msg8 (msgHead kind byte 1 1) 0x3000 4096 id
/-- A translation that a shoot-down has marked. -/
def marked : Tlb := { tLeaf with marks := [9] }
/-- A world with that translation and an access that uses it. -/
def sMark : State :=
  { inG gHd with dies := [{ Die.reset 0 with cache := [marked], qpos := 1 }, Die.reset 1], ops := [tUse], quad := [(1, tMsg 3 0 9)] }

/-- A world in which die 0 has been declared lost, before the next message that reaches it. -/
def sDown : State := { tWorld with quad := [(1, downMsg 0), (1, tMsg 7 0 0)], dies := [{ Die.reset 0 with qpos := 1 }, Die.reset 1] }

/-- Messages of every kind, of which one stands after the DIE_DOWN of its sender and one after that of its receiver; a COMMIT whose entry is in use and one whose is
not; beats that have lasted and that have not. -/
theorem witness_MessageEventsComplete :
    (∀ e ∈ [(1, 0, 0), (1, 0, 9), (2, 0, 9), (3, 0, 9), (4, 2, 9), (5, 0, 0), (6, 0, 0), (7, 0, 0), (8, 129, 0), (9, 0, 0), (0, 0, 0), (10, 0, 0)],
      let m := tMsg e.1 e.2.1 (BitVec.ofNat 64 e.2.2)
      let s := sMsg 1 m
      (die? s 0).any (fun d => !d.lost && s.quad[d.qpos]? == some (1, m)) = true ∧ discarded s 0 1 = false ∧ msgKind m = e.1 ∧
        (word m 3).toNat = e.2.2 ∧ msgByte m = e.2.1 ∧ msgDie m = 1) ∧
    (quadSend (prepareAt (uMsg 1 (tMsg 2 0 9)) 0 1 (tMsg 2 0 9)) 0 (ackMsg 0 2 9)).isSome = true ∧
    (quadSend (commitAt (uMsg 1 (tMsg 3 0 9)) 0 9) 0 (ackMsg 0 3 9)).isSome = true ∧
    (entryInUse (uMsg 1 (tMsg 3 0 9)) 0 none (fun t => t.marks.contains 9) (allTlbs (uMsg 1 (tMsg 3 0 9)) 0) = false ∧
      entryInUse sMark 0 none (fun t => t.marks.contains 9) (allTlbs sMark 0) = true) ∧
    (die? (uMsg 1 (tMsg 8 129 0)) 0).isSome = true ∧
    (let s := { tWorld with quad := [(0, downMsg 1), (1, tMsg 7 0 0)], dies := [{ Die.reset 0 with qpos := 1 }, Die.reset 1] }
     (die? s 0).any (fun d => s.quad[d.qpos]? == some (1, tMsg 7 0 0)) = true ∧ discarded s 1 1 = true) ∧
    tWorld.quad[0]? = none ∧
    ((sDown.quad.take 2).any fun m => msgKind m.2 == 6 && msgDie m.2 == 0) = true ∧ ((tWorld.quad.take 1).any fun m => msgKind m.2 == 6 && msgDie m.2 == 0) = false ∧
    (∀ e ∈ [1, 2, 3, 7], let s := { tWorld with quad := [(1, tMsg e 0 9)] }
      ((s.quad.take 1).any fun m => msgKind m.2 == 6 && msgDie m.2 == 0) = false) ∧
    (sget 0 (Die.reset 0).beats 16 + 1000 * Config.usCycles ≤ 1000 * Config.usCycles ∧ 0 < sget 0 (Die.reset 0).beats 16 + 1000 * Config.usCycles ∧
      sget 0 (Die.reset 0).beats 1 + 10000 * Config.usCycles ≤ 10000 * Config.usCycles ∧ dieUp tWorld 1 = true ∧
      (quadSend tWorld 0 (msg8 (msgHead 7 0 0 0) 0 0 0)).isSome = true ∧ (quadSend tWorld 0 (downMsg 1)).isSome = true ∧
      (quadSend tWorld 0 (downMsg 0)).isSome = true) := by decide +kernel

/-! ### Links and guests -/

/-- All dies, of which die 3 serves socket 0, where the tests' context has its pages. -/
def sLink : State :=
  { tWorld with dies := modWhere State.reset.dies (fun d => d.die == 3) fun d => { d with cache := [tLeaf] }, linkDone := [(1, 5, [], false)] }
/-- A guest that the device listens to, bound to the tests' context. -/
def tGuest : Guest :=
  { Guest.reset 0 with up := true, bound := [1], packets := [(0, 1, 7)], waits := [(9, 0)], quiesce := [(1, 0)] }
/-- Its world. -/
def sHeard : State := { sLink with guests := [tGuest, Guest.reset 1], queues := [guestQ] }
/-- A record of a guest: SOURCE 4, queue 1, number 7. -/
def tReport : List W64 := [0x0000000000000004, 0, 0, 0, 7, 0, 1, 0]

/-- An atomic of another module. -/
def tRmw : LinkReq := { write := false, addr := fabAddr 3 0x3000, len := 4, data := [1, 0, 0, 0], rmw := some (.atom .add) }
/-- A kept transaction, for an access or for none. -/
def tKept (acc : Option (Nat × Nat × W64)) : LinkTx := { src := 0, dst := 0, tag := 5, req := tReq false, circuit := some 0, acc }
/-- A read that was outstanding on a circuit when it was torn down, and the world that knows. -/
def sTorn : State := { sLink with links := [tKept none], circuits := sset 0 [] (linkKey 2 0 0) 99 }
/-- The same over an optical circuit, which joins die 2 to another module. -/
def sTornOpt : State :=
  { sLink with links := [{ tKept none with circuit := some 66 }], circuits := sset 0 [] (linkKey 2 0 66) 99 }

/-- Transactions over no circuit and over the circuit of a pair, new and repeated, at its home and with a mismatch: a
write, a read and an atomic; answers to a kept transaction, for no access, for a load and for an atomic; replays below the limit and
at it; a reroute; a guest's link; each message of a guest that the device listens to. -/
theorem witness_LinkAndGuestEventsComplete :
    (dieUp sLink 3 = true ∧ arrivesBy sLink 3 3 none = none ∧ arrivesBy sLink 1 2 (some 66) = some 66 ∧
      linkPlace sLink (2 ^ 43) = none ∧ (linkPlace sLink (fabAddr 3 0x6000000100)).any (fun p => devRefuses p { tRmw with addr := 0 }) = true ∧
      (linkPlace sLink (fabAddr 2 0x3000)).any (fun p => servingDie p != 3 && !devRefuses p (tReq true)) = true ∧ (sLink.linkDone.find? fun e => e.1 == 1 && e.2.1 == 5) = some (1, 5, [], false) ∧
      (sLink.linkDone.find? fun e => e.1 == 3 && e.2.1 == 5) = none ∧
      (linkPlace sLink (fabAddr 3 0x3000)).any (fun p => servingDie p == 3 && !lent sLink (placeAddr p) &&
        !devRefuses p (tReq true) && (readPlace sLink 3 64 p 4 .sys 0 plainChoice).1.all fun e => !e.2) = true ∧
      devRefuses (.fab (fabAddr 3 0x6000000100) 2 0 0 false) { tReq false with len := 4 } = true ∧ (tRmw.write = false ∧ tRmw.rmw.isSome = true ∧ rmwNew tRmw 7 = some 8) ∧
      arrivesBy sLink 0 1 none = some 0 ∧ 7 ≤ sget 0 { sLink with circuits := sset 0 [] (linkKey 1 0 0) 7 }.circuits (linkKey 1 0 0) ∧ sget 0 sLink.circuits (linkKey 1 0 0) < 7 ∧
      (die? sLink 0).any (fun d => connV (sget 0 d.conn 0) && !connOpt (sget 0 d.conn 0) && endsOn 0 (sget 0 d.conn 0)) = true ∧
      sget 0 (flitSeen sLink 0 0 5).circuits (linkKey 0 0 0) < 8 ∧
      (let s := { sLink with circuits := sset 0 (sset 0 [] (linkKey 0 0 0) 8) (linkKey 3 0 0) 6 }
       8 ≤ sget 0 (flitSeen s 0 0 5).circuits (linkKey 0 0 0) ∧ sget 0 s.circuits (linkKey 3 0 0) = 5 + 1 ∧ sget 0 s.circuits (linkKey 3 0 0) ≠ 4 + 1) ∧
      sget 0 sLink.circuits (linkKey 2 0 0) = 0 ∧
      (∃ d ∈ sTorn.dies, d.die = 0 ∧ connOpt (sget 0 d.conn 0) = false ∧ sget 0 sTorn.circuits (linkKey 2 0 0) ≠ 0) ∧
      (∃ d ∈ sTornOpt.dies, d.die = 0 ∧ connOpt (sget 0 d.conn 66) = true ∧ sget 0 sTornOpt.circuits (linkKey 2 0 66) ≠ 0 ∧
        (sTornOpt.links.filter fun x => x.die == 0 && x.circuit == some 66 && x.torn sTornOpt) ≠ [])) ∧
    ((tKept none).torn sTorn = true ∧ (tKept none).torn { sLink with links := [tKept none] } = false) ∧
    (({ sLink with links := [tKept none] }.links.find? fun t => t.tag == 5) = some (tKept none) ∧ sLink.links.find? (fun t => t.tag == 5) = none ∧
      (tKept (some (3, 0, 0x4000))).torn sLink = false ∧
      (tKept (some (3, 0, 0x4000))).acc = some (3, 0, 0x4000) ∧ ({ sLink with ops := [tUse] }.ops.find? fun o => o.id == 3) = some tUse ∧
      (tUse.todo.find? fun a => a.lane == 0 && a.va == 0x4000#64).isSome = true ∧ tUse.kind.writes = false ∧ ordAcq tUse.ord = false ∧
      OpKind.cas.reads = true ∧ OpKind.cas.writes = true ∧ ({ data := [], bad := true } : Reply).bad = true ∧
      ({ data := [] } : Reply).crcOk = true ∧ ({ data := [], crcOk := false } : Reply).crcOk = false) ∧
    (guest? sLink 0 = some (Guest.reset 0) ∧ (Guest.reset 0).heard = false ∧ dieUp sLink (socketDie 0) = true) ∧
    (guest? sHeard 0 = some tGuest ∧ tGuest.heard = true ∧ ctx? sHeard 1 = some tCtx ∧ goingAway sHeard 1 = false ∧
      ({ tGuest with bound := [] } : Guest).bound.contains 1 = false ∧ tGuest.bound.contains 1 = true ∧
      (sHeard.quarantine.any fun q => q.1 == 1) = false ∧ ({ sHeard with quarantine := [(1, 0)] }.quarantine.any fun q => q.1 == 1) = true ∧
      (guestPlace sHeard 0 1 0x3000 { tReq true with addr := 0x3000 }).any (fun e => !lent sHeard (placeAddr e.1) && !homeSilent sHeard (socketDie 0) e.1) = true ∧
      guestPlace sHeard 0 1 0x900000 (tReq true) = none) ∧
    (tGuest.packets.find? (fun p => p.2.2 == 7) = some (0, 1, 7) ∧ tGuest.packets.find? (fun p => p.2.2 == 8) = none ∧
      reportOk tReport = true ∧ (reportQueue sHeard tGuest tReport).isSome = true ∧ reportOk [0] = false ∧
      (∃ n ∈ tGuest.waits, n.1 = 9) ∧ (∃ n ∈ tGuest.waits, n.2 + 10 * Config.usCycles ≤ 10 * Config.usCycles) ∧
      (∀ n ∈ tGuest.waits, 0 < n.2 + 10 * Config.usCycles) ∧ (∃ t ∈ tGuest.quiesce, t.2 + 100 * Config.usCycles ≤ 100 * Config.usCycles) ∧
      ∀ t ∈ tGuest.quiesce, 0 < t.2 + 100 * Config.usCycles) :=
  by
  refine ⟨?_, ?_, ?_, ?_, ?_, ?_⟩ <;> decide +kernel

/-! ### Scans, power and boot -/

/-- A die whose Pavane is in a phase at core 0. -/
def sPav (ph : PavPhase) (c : Core) : State := { tWorld with dies := [{ Die.reset 0 with pavPhase := ph }, Die.reset 1], cores := [c], groups := [tGroup (tPath [])] }

/-- A block in each world; Pavane in each phase, at a core that is empty and at one that is not, on a core with and without a fold;
a core out of service; a die that is not yet gated; both sides of 115 °C. -/
theorem witness_ScanAndPowerEventsComplete :
    (die? tWorld 0).any (fun d => !d.lost && decide (d.gate < 15)) = true ∧
    (tWorld.secure.contains (.core 0 0) = false ∧ { tWorld with secure := [.core 0 0] }.secure.contains (.core 0 0) = true) ∧
    nextVisit tWorld 0 63 = some 0 ∧
    (coreEmpty (sPav .drain tCore) 0 0 = false ∧ coreEmpty { sPav .asked tCore with groups := [] } 0 0 = true ∧
      (die? (sPav .drain tCore) 0).any (fun d => d.pavPhase == .drain && decide (d.pavAt + 4000 * Config.usCycles ≤ 4000 * Config.usCycles) &&
        decide (0 < d.pavAt + 4000 * Config.usCycles)) = true ∧
      (die? (sPav .asked tCore) 0).any (fun d => d.pavPhase == .asked && decide (d.pavAt + 100000 * Config.usCycles ≤ 100000 * Config.usCycles)) = true) ∧
    (core? (sPav .scan tCore) 0 0 = some tCore ∧ tCore.fold = none ∧
      core? (sPav .scan { tCore with fold := some 3 }) 0 0 = some { tCore with fold := some 3 } ∧ (3 : Nat) ≠ 4) ∧
    (core? (sPav .idle { tCore with st := .out }) 0 0).any (fun c => c.st == .out) = true ∧ 114 < 115 ∧ tWorld.stopped = false := by
  decide +kernel

/-- What a boot ROM finds of an image of a stage. -/
def tImage (stage : Nat) : BootImage := { hash := [1], key := [2], signature := [3], version := 0, selfTest := true, linkTrain := true, stage }
/-- The world in which die 0 is at a stage of its boot and has sent its first request a number of times. -/
def sBoot (b : BootSt) (want : List BootReq) (asks : Nat) : State := modDie tWorld 0 fun d => { d with boot := b, want, asks, whole := true }

/-- A die at each stage of its boot, with its image read whole and not; a request that is sent first, one that may be sent again, and
ones that may not, before and after the start has failed; answers that are asked for and not; the last die to be ready and one before it; the
limits of the interface's arguments. -/
theorem witness_BootAndManagementEventsComplete :
    (∀ e ∈ [(BootSt.rom, 1), (BootSt.firmware, 2)], (die? (sBoot e.1 [] 0) 0).any (fun d => !d.lost && d.boot == e.1 && d.whole) = true ∧
      (tImage e.2).stage = e.2) ∧
    (die? tWorld 0).any (fun d => !d.whole && d.asks == 0 && d.boot != .ready && d.boot != .failed) = true ∧
    (∀ e ∈ [(BootSt.rom, 1), (.rom, 4), (.failed, 4)], (die? (sBoot e.1 [.getRecord] e.2) 0).any (fun d => d.boot == e.1 && d.asks == e.2 &&
      d.want == [.getRecord] && decide (d.bootAt + 1000000 * Config.usCycles ≤ 1000000 * Config.usCycles) &&
      decide (0 < d.bootAt + 1000000 * Config.usCycles)) = true) ∧
    (asked (sBoot .rom [.readImage 1 4096] 1) 0 (.readImage 1 4096) = true ∧ asked tWorld 0 (.readImage 1 4096) = false ∧
      asked (sBoot .rom [.getRecord] 1) 0 .getRecord = true ∧ asked tWorld 0 .getRecord = false ∧
      asked (sBoot .ready [.putRecord] 1) 0 .putRecord = true ∧ asked tWorld 0 .putRecord = false) ∧
    (die? (sBoot .kernel [] 0) 0).any (fun d => d.boot == .kernel) = true ∧
    (let two := fun (b : BootSt) => { tWorld with dies := [{ Die.reset 0 with boot := .kernel }, { Die.reset 1 with boot := b }] }
     (∀ e ∈ (modDie (two .ready) 0 fun d => { d with boot := .ready }).dies, e.lost = true ∨ e.boot = .ready) ∧
     (∃ e ∈ (modDie (two .rom) 0 fun d => { d with boot := .ready }).dies, e.lost = false ∧ e.boot ≠ .ready)) ∧
    (0 < 16 ∧ 16 ≤ 16 ∧ (List.replicate 4096 (0 : Byte)).length = 4096 ∧ (List.replicate 4095 (0 : Byte)).length < 4096 ∧
      4096 < (List.replicate 4097 (0 : Byte)).length) ∧ sget [] tWorld.fuses.owners 2 = [] := by decide +kernel

/-! ### Words and steps -/

/-- Well-formed instructions with operands at the ends of their ranges. -/
theorem witness_DecodeOfEncode : ∀ e ∈ ([
    (.scmp .i32 .lt 1 2 3, 0x2500_0084_1804_0002), (.br (.nz 9) 0xFFFFFFF4, 0x0100_0482_FFFF_FFF4),
    (.vadd ⟨0, false, false, 0, false⟩ .i8 7 7 2 true, 0x3000_00E0_E040_0001), (.hlt 63, 0xE900_007E_0000_0000),
    (.vadd ⟨0, false, false, 7, true⟩ .i8 255 255 255 true, 0x3001_FFFF_FFE0_0001)] : List (Instr × W64)),
    WellFormed e.1 ∧ encode e.1 = some e.2 := by decide +kernel

/-- A word that decodes, and one whose opcode is unassigned. -/
theorem witness_EncodeOfDecode : decode 0x2500_0084_1804_0002 = .ok (.scmp .i32 .lt 1 2 3) ∧
    decode 0xFFFF_FFFF_FFFF_FFFF = .ok (.unassignedOpcode 0xFFFF_FFFF_FFFF_FFFF) := by decide +kernel

/-- The world in which the schedule's next item is the tests' group. -/
def sNext (p : Path) : State := { inG (tGroup p) with agenda := [.issue (.grp 768 0)], cur := none }
/-- The world in which its next item is the tests' thread, whose block is at `h`. -/
def sNextQ (h : W64) : State := { inQ (tThread { pQ with pc := h }) tQueue with agenda := [.issue (.qthr 0 0)], cur := none }

/-- A path at a word that decodes, at one that does not, at a header, at a boundary with a cause to take, and at a word that it
cannot fetch; an event that may happen; an empty schedule. -/
theorem witness_StepRunsDecoded :
    ([0x2800_0180_0000_0005, 0x2500_0084_1804_000F].all fun (w : W64) =>
      let s := sNext { pT with code := [w] }
      (exOf s (.grp 768 0)).any fun x => mayIssue s x && (boundary s x).isNone && !x.p.atHdr && !x.held && isOk (fetchWord s x)) = true ∧
    (isOk (decode 0x2800_0180_0000_0005) = true ∧ isOk (decode 0x2500_0084_1804_000F) = false) ∧
    ((let s := sNext { pT with atHdr := true }
      (exOf s (.grp 768 0)).any fun x => mayIssue s x && (boundary s x).isNone && x.p.atHdr) = true) ∧
    ((let s := sNextQ 0x900000
      (exOf s (.qthr 0 0)).any fun x => mayIssue s x && (boundary s x).isNone && !x.p.atHdr && !x.held && !isOk (fetchWord s x)) = true) ∧
    ((let g := { tGroup pT with late := [{ trap := { cause := .poison }, pc := 0x1008, resume := 0, gid := 768, pid := 1 }] }
      let s := { inG g with agenda := [.issue (.grp 768 0)] }
      (exOf s (.grp 768 0)).any fun x => mayIssue s x && (boundary s x).isSome) = true) ∧
    (isEvent (.setLimit 4000) = true ∧ eventOk tWorld (.setLimit 4000) = true) ∧ tWorld.agenda = [] := by decide +kernel

theorem witness_NoStepStops : (inG gHd).cur = some (.grp 768 0) := rfl

theorem witness_StepKeepsCanonical : Canonical State.reset ∧ ∃ t, step State.reset = .next t := ⟨⟨rfl, rfl, rfl⟩, _, rfl⟩

end Sys2Proof.Machine
end

