-- ==== Sys2Proof/Tests/WitnessWords.lean ====
section
/-! SUPPORT. Witnesses: for each statement about register, control and handler words, a concrete state and operands that meet its
hypotheses, for each of its clauses. -/
namespace Sys2Proof.Machine

open Sys2Proof

set_option Elab.async false

/-- A plain head: every lane of the path, no lookahead. -/
def tHead : Head := ⟨0, false, false, 0, false⟩

/-- The group at an instruction with its registers clear. -/
def gS : Group := tGroup (tPath [])
/-- The world of that group. -/
def sS : State := inG gS
/-- Its executor. -/
def xS : Ex := exG gS (tPath [])

theorem here_S : exOf sS xS.who = some xS := rfl

theorem witness_ScalarWordsComplete : ∀ e ∈ ([(ruleAll, { ss := [1, 2], sd := [63] }, none), (ruleAll, { ss := [1], sd := [1] }, none),
    (ruleAll, { ss := [0, 1, 63], sd := [0] }, none), (ruleAll, { sd := [63] }, none), (ruleAll, { ss := [63], sd := [63] }, none)] :
      List (Rule × Use × Option Head)), Ready sS xS e.1 e.2.1 e.2.2 :=
  ready_all _ rfl here_S (by decide +kernel)

/-- The clauses of the division rule where they meet: at divisor 0, at MIN ÷ −1 and on either side of it. -/
theorem witness_DivisionRule :
    (∃ b : Int, b = 0) ∧ (∃ (ty : IntTy) (a b : Int), ty.isI = true ∧ a = tyMin ty ∧ b = -1) ∧
    ((-1 : Int) ≠ 0 ∧ ¬(IntTy.i32.isI = true ∧ tyMin .i32 + 1 = tyMin .i32 ∧ (-1 : Int) = -1)) ∧
    ((1 : Int) ≠ 0 ∧ ¬(IntTy.i32.isI = true ∧ tyMin .i32 = tyMin .i32 ∧ (1 : Int) = -1)) ∧
    ((-1 : Int) ≠ 0 ∧ ¬(IntTy.n32.isI = true ∧ (0 : Int) = tyMin .n32 ∧ (-1 : Int) = -1)) :=
  ⟨⟨0, rfl⟩, ⟨.i32, _, -1, rfl, rfl, rfl⟩, by decide +kernel, by decide +kernel, by decide +kernel⟩

/-- The least and the greatest bit of a 32-bit value, under the counts 0, 31 and 33. -/
theorem witness_ShiftRule : (∀ i ∈ [0, 31], 0 < 32 ∧ 2 ^ 32 - 1 < 2 ^ 32 ∧ i < 32) ∧ shiftCount 32 33 = 1 ∧ shiftCount 32 31 = 31 := by
  decide +kernel

/-- The ends of a type's range. -/
theorem witness_NarrowingRule : ∀ v ∈ [tyMin .i64, tyMax .i64], IntTy.i64.width ≤ 64 ∧ tyMin .i64 ≤ v ∧ v ≤ tyMax .i64 := by
  decide +kernel

theorem witness_VectorIntegerWordsComplete : ∀ e ∈ ([(vecRule, { vs := [1, 2], vd := [255] }, some tHead),
    (vecRule, { vs := [1], vd := [1] }, some tHead), (vecRule, { vs := [0, 1, 255], vd := [0] }, some ⟨0, true, true, 15, true⟩)] :
      List (Rule × Use × Option Head)), Ready sS xS e.1 e.2.1 e.2.2 :=
  ready_all _ rfl here_S (by decide +kernel)

theorem witness_MoveFieldAndMaskWordsComplete : (∀ e ∈ ([(vecRule, { vs := [1, 2] }, some tHead), (vecRule, {}, some tHead),
    (vecRule, { ss := [63] }, some tHead), (vecRule, { sd := [63] }, some tHead), (vecRule, { vs := [1, 2], vd := [3] }, some tHead),
    (vecRule, { vs := [1, 2, 3], vd := [3] }, some tHead), (vecRule, { vs := [2, 3], vd := [4, 5] }, some tHead),
    (vecRule, { vs := [2, 3, 4, 5], vd := [6, 7] }, some tHead), (vecRule, { vd := [254, 255], ss := [5] }, some tHead),
    (vecRule, { vd := [255] }, some tHead)] : List (Rule × Use × Option Head)), Ready sS xS e.1 e.2.1 e.2.2) ∧ xS.g = some gS :=
  ⟨ready_all _ rfl here_S (by decide +kernel), rfl⟩

/-- A value of FP32, and the greatest number of E2M1. -/
theorem witness_RoundingRule : (FpTy.f32 ≠ .e8m0 ∧ 0x3F800000 < 2 ^ (fmtShape .f32).w ∧ ∃ n m e, readFp .f32 0x3F800000 = .fin n m e) ∧
    (FpTy.e2m1 ≠ .e8m0 ∧ 7 < 2 ^ (fmtShape .e2m1).w ∧ ∃ n m e, readFp .e2m1 7 = .fin n m e) :=
  ⟨⟨by decide, by decide, _, _, _, rfl⟩, by decide, by decide, _, _, _, rfl⟩

theorem witness_FloatWordsComplete : ∀ e ∈ ([(vecRule, { vs := fpRegs .f64 2 ++ fpRegs .f64 4, vd := fpRegs .f64 6 }, some tHead),
    (vecRule, { vs := fpRegs .f32 2, vd := fpRegs .f32 2 }, some tHead),
    (vecRule, { vs := fpRegs .f32 1 ++ fpRegs .f32 2 ++ fpRegs .f32 3, vd := fpRegs .f32 4 }, some tHead),
    (vecRule, { vs := 9 :: fpRegs .f64 2, vd := fpRegs .f64 254 }, some tHead), (vecRule, { vs := fpRegs .e8m0 2, vd := [3] }, some tHead),
    (vecRule, { vs := fpRegs .f32 1 ++ fpRegs .f32 2 }, some tHead), (vecRule, { vs := cvtRegs (.int .i64) 2, vd := fpRegs .f64 4 }, some tHead),
    (vecRule, { vs := fpRegs .f64 2, vd := intRegs .i64 4 }, some tHead), (vecRule, { vs := runRegs 8 (FpTy.perReg .e2m1), vd := [1] }, some tHead),
    (vecRule, { vs := [1], vd := runRegs 248 (FpTy.perReg .e2m1) }, some tHead), (vecRule, { vs := runRegs 4 4, vd := runRegs 8 3 }, some tHead),
    (vecRule, { vs := runRegs 4 3, vd := runRegs 252 4 }, some tHead)] : List (Rule × Use × Option Head)), Ready sS xS e.1 e.2.1 e.2.2 :=
  ready_all _ rfl here_S (by decide +kernel)

/-- Each of its three cases: no active lane, LA = 0 and a lookahead. -/
theorem witness_LongFloatWordsComplete : (∀ h ∈ [tHead, ⟨15, false, true, 0, false⟩, ⟨1, false, false, 3, false⟩],
    ∀ u ∈ [{ vs := fpRegs .f32 1, vd := fpRegs .f32 2 }, { vs := fpRegs .f64 2, vd := fpRegs .f64 4 },
      { vs := (8 : Nat) :: (runRegs 0 4 ++ runRegs 4 4 ++ [9]), vd := [8] }], Ready sS xS vecRule u (some h)) ∧
    xS.g = some gS ∧ activeOf gS xS.p tHead ≠ 0 ∧ activeOf gS xS.p ⟨1, false, false, 3, false⟩ = 0 ∧ (⟨15, false, true, 0, false⟩ : Head).la ≠ 0 := by
  refine ⟨fun h hh u hu => ready_of rfl here_S ?_, rfl, by decide +kernel⟩
  revert h u
  decide +kernel

theorem witness_RegisterWordsFrame :
    (ill (.sadd .i64 3 1 2 true) = none ∧ scalarForm (.sadd .i64 3 1 2 true) = some { use := { ss := [1, 2], sd := [3] } } ∧
      Ready sS xS ruleAll { ss := [1, 2], sd := [3] } none) ∧
    (ill (.vfsqrt ⟨3, false, false, 0, false⟩ .f64 4 2 .rne) = none ∧
      vectorForm (.vfsqrt ⟨3, false, false, 0, false⟩ .f64 4 2 .rne) =
        some { use := { vs := [2, 3], vd := [4, 5] }, head := some ⟨3, false, false, 0, false⟩, fp := true, long := some 3 } ∧
      Ready sS xS vecRule { vs := [2, 3], vd := [4, 5] } (some ⟨3, false, false, 0, false⟩)) :=
  ⟨⟨rfl, rfl, ready_of rfl here_S (by decide +kernel)⟩, rfl, rfl, ready_of rfl here_S (by decide +kernel)⟩

/-- Inside a block, at its end, and at its end where a reconvergence header follows. -/
theorem witness_PathStepRule : 1 < { tPath [] with left := 2 }.left ∧ (tPath []).left ≤ 1 ∧
    ((tPath []).reconv ≠ some ((tPath []).pc + 8) ∨ (tPath []).wins ≠ []) ∧
    ({ tPath [] with reconv := some 0x1010 }.reconv = some ((tPath []).pc + 8) ∧ (tPath []).wins = []) := by decide +kernel

/-- The last lane, on the register written and on another, and a mask register that is not m0. -/
theorem witness_RegistersReadWhatWasWritten : (63 < 64 ∧ 0 < 64) ∧ (15 : MReg) ≠ 0 := by decide

/-! ### Control -/

/-- The path with s9 = 5, s1 a header and s2 no word. -/
def pB : Path := { tPath [(1, 0x2000), (2, 0x2004), (9, 5)] with blk := some { len := 1, live := 0, entry := true, handler := false, loop := false, spin := false, reconv := 16, pf := 0 } }
/-- The group of that path; m4 names half of its lanes, m5 all and m6 none. -/
def gB : Group := { tGroup pB with masks := [(4, 0xF0), (5, 0xFF)] }
/-- Its executor. -/
def xB : Ex := exG gB pB
theorem here_B : exOf (inG gB) xB.who = some xB := rfl

/-- A path under a header that names no reconvergence header. -/
def pN : Path := { pB with blk := some { len := 1, live := 0, entry := true, handler := false, loop := false, spin := false, reconv := 0, pf := 0 } }
/-- Its group. -/
def gN : Group := { tGroup pN with masks := [(4, 0xF0)] }

/-- A path with a window open. -/
def pW : Path := { pB with wins := [{ op := 3, left := 2, vds := [], sds := [], fp := true }] }
/-- Its group. -/
def gW : Group := tGroup pW

/-- The needs of branches; taken and not; targets that pass and fail; a `brm` that waits, takes all, takes none and splits with
and without RECONV. -/
theorem witness_BranchWordsComplete :
    (∀ e ∈ ([({ ruleCtl with q := true, c := true }, { ss := [9] }, none), ({ ruleCtl with q := false, c := false }, {}, none),
      (ruleCtl, { ss := [1] }, none), (ruleCtl, { sd := [63] }, none), (ruleCtl, { ss := [1], sd := [63] }, none),
      ({ ruleGrp .control with ctl := true }, {}, none)] : List (Rule × Use × Option Head)), Ready (inG gB) xB e.1 e.2.1 e.2.2) ∧
    (brTaken xB (.z 9) = false ∧ brTaken xB (.nz 9) = true ∧ targetCheck (inG gB) xB (target pB 8) = none ∧
      targetCheck (inG gB) xB (rdS pB 2) = some { cause := .badTarget, va := 0x2004 } ∧ targetCheck (inG gB) xB (rdS pB 1) = none) ∧
    (xB.g = some gB ∧ pB.wins = [] ∧ (let m := rdM gB pB 0
      m &&& ~~~ (m &&& rdM gB pB 5) = 0 ∧ m &&& rdM gB pB 6 = 0 ∧ m &&& ~~~ (m &&& rdM gB pB 6) ≠ 0 ∧ m &&& rdM gB pB 4 ≠ 0 ∧
      m &&& ~~~ (m &&& rdM gB pB 4) ≠ 0) ∧ targetCheck (inG gB) xB (pB.pc + 8) = none ∧ (pB.blk.map fun b => b.reconv) = some 16 ∧ gB.frames = []) ∧
    ((pN.blk.map fun b => b.reconv) = some 0 ∧ Ready (inG gN) (exG gN pN) { ruleGrp .control with ctl := true } {} none ∧
      targetCheck (inG gN) (exG gN pN) (pN.pc + 8) = none) ∧
    (pW.wins ≠ [] ∧ Ready (inG gW) (exG gW pW) { ruleGrp .control with ctl := true } {} none) :=
  ⟨ready_all _ rfl here_B (by decide +kernel), by decide +kernel, ⟨rfl, by decide +kernel⟩,
    ⟨by decide +kernel, ready_of rfl rfl (by decide +kernel), by decide +kernel⟩, by decide +kernel, ready_of rfl rfl (by decide +kernel)⟩

/-- The handler of a group whose stack holds two join entries less than the limit: a `brm` may split there. -/
theorem witness_brm_in_handler : (tHandler pB).frames ≠ [] ∧ (tHandler pB).stack.entries + 2 ≤ 34 := by decide +kernel

/-- A `brm` whose target lies in the other half, one that falls through to a word that is no header, and one in a handler whose stack is
full. -/
theorem witness_brm_fails :
    (let s := { inG gB with cores := [{ tCore with imem := [((pB.pc.toNat + 8) % 16384 / 8, 0x0A00000000000000)] }] }
     Ready s xB { ruleGrp .control with ctl := true } {} none ∧ targetCheck s xB (target pB 0x80000000) = some { cause := .priv, va := target pB 0x80000000 } ∧
     targetCheck s xB (target pB 8) = none ∧ (targetCheck s xB (pB.pc + 8)).isSome = true) ∧
    (let g := { gB with frames := (tHandler pB).frames, stack := { a := some pB, b := none, rest := List.replicate 40 (.path pB) } }
     Ready (inG g) (exG g pB) { ruleGrp .control with ctl := true } {} none ∧ g.frames ≠ [] ∧ 34 < g.stack.entries + 2 ∧
     (let m := rdM g pB 0
      m &&& rdM g pB 4 ≠ 0 ∧ m &&& ~~~ (m &&& rdM g pB 4) ≠ 0) ∧ targetCheck (inG g) (exG g pB) (target pB 8) = none ∧
     targetCheck (inG g) (exG g pB) (pB.pc + 8) = none ∧ (pB.blk.map fun b => b.reconv) = some 16) :=
  ⟨⟨ready_of rfl rfl (by decide +kernel), by decide +kernel⟩, ready_of rfl rfl (by decide +kernel), by decide +kernel⟩

/-- The world in which word 5 of the frame is no header. -/
def sT : State := { sS with cores := [{ tCore with imem := [(5, 0x0A00000000000000)] }] }

/-- Each target: off a word, not canonical, of the other half, in no frame, at a header and at another word. -/
theorem witness_TargetChecks :
    (0x2004#64).toNat % 8 ≠ 0 ∧ (xS.g = some gS ∧ (0x0400000000000000#64).toNat % 8 = 0 ∧ canonical 0x0400000000000000 = false) ∧
    (canonical 0xFF00000000001000 = true ∧ negHalf 0xFF00000000001000 = true ∧ xS.user = true) ∧
    (canonical 0x100000 = true ∧ (negHalf 0x100000 && xS.user) = false ∧ codeWord sT xS.die xS.core xS.pasid 0x100000 = none) ∧
    (codeWord sT xS.die xS.core xS.pasid 0x1000 = some 0 ∧ headerOf 0 ≠ none) ∧
    (codeWord sT xS.die xS.core xS.pasid 0x28 = some 0x0A00000000000000 ∧ headerOf 0x0A00000000000000 = none) ∧
    ((exQ (tPath [])).g = none ∧ (0x2000#64).toNat % 8 = 0) :=
  ⟨by decide +kernel, ⟨rfl, by decide +kernel⟩, by decide +kernel, by decide +kernel, by decide +kernel, by decide +kernel, rfl, by decide +kernel⟩

/-- `nop`, `yield`, the traps, an `exit` that waits and one that ends, of a group, of a Q thread; a `spawn` that finds too few
slots (five of four), and one that takes the last. -/
theorem witness_PathWordsComplete :
    (∀ e ∈ ([(ruleAll, {}, none), (ruleGrp .control, {}, none), ({ ruleCtl with g := true }, {}, none),
      ({ ruleGrp .control with g := true }, { ss := [10, 12, 13], sd := [7] }, none)] : List (Rule × Use × Option Head)),
        Ready sS xS e.1 e.2.1 e.2.2) ∧
    xS.user = true ∧ xS.p.wins = [] ∧ xS.g = some gS ∧ team? sS gS.team = some tTeam ∧
    Ready (inG gW) (exG gW pW) { ruleCtl with g := true } {} none ∧ pW.wins ≠ [] ∧
    (Ready (inQ (tThread (tPath [])) tQueue) (exQ (tPath [])) { ruleCtl with g := true } {} none ∧ (exQ (tPath [])).g = none ∧ (tPath []).wins = []) ∧
    ((freeSlots sS tTeam gS.tcore).length < 5 ∧ 4 ≤ (freeSlots sS tTeam gS.tcore).length) ∧ exOf sS (.grp 768 0) = some xS :=
  ⟨ready_all _ rfl here_S (by decide +kernel), rfl, rfl, rfl, rfl, ready_of rfl rfl (by decide +kernel), by decide +kernel,
    ⟨ready_of rfl rfl (by decide +kernel), rfl, rfl⟩, by decide +kernel, rfl⟩

/-! ### System registers and traps -/

theorem witness_SystemRegisterWordsComplete :
    (∀ n ∈ [(0x18 : BitVec 12), 0x31], Ready sS xS (sysRule xS.user n.toNat false) { sd := [4] } none) ∧
    (∀ n ∈ [(0x18 : BitVec 12), 0], Ready sS xS (sysRule xS.user n.toNat true) { ss := [4] } none) ∧ xS.p.wins = [] ∧
    Ready (inG gW) (exG gW pW) (sysRule true 0x18 false) { sd := [4] } none ∧
    Ready (inG gW) (exG gW pW) (sysRule true 0x18 true) { ss := [4] } none ∧ ∃ w ∈ pW.wins, w.fp = true :=
  ⟨fun n hn => ready_of rfl here_S (by revert n; decide +kernel), fun n hn => ready_of rfl here_S (by revert n; decide +kernel), rfl,
    ready_of rfl rfl (by decide +kernel), ready_of rfl rfl (by decide +kernel), by decide +kernel⟩

/-- The first and last numbers of each range of readable registers, and the records that the reads go to. -/
theorem witness_SystemRegisterAccess :
    (∀ n ∈ [0, 0x0E, 0x10, 0x11, 0x18, 0x19, 0x20, 0x24, 0x30, 0x31],
      n ≤ 0x0E ∨ n = 0x10 ∨ n = 0x11 ∨ n = 0x18 ∨ n = 0x19 ∨ (0x20 ≤ n ∧ n ≤ 0x24) ∨ n = 0x30 ∨ n = 0x31) ∧
    (∀ n ∈ [0x400, 0x406, 0x408], 0x400 ≤ n ∧ n ≤ 0x408) ∧ (∀ n ∈ [0x20, 0x23], 0x20 ≤ n ∧ n ≤ 0x23) ∧
    xS.g = some gS ∧ team? sS gS.team = some tTeam ∧ gS.role = some .general ∧ (die? sS xS.die).isSome = true ∧ (ctx? sS xS.pasid).isSome = true :=
  ⟨by decide, by decide, by decide, rfl, rfl, rfl, rfl, rfl⟩

theorem witness_HandlerEntryRule : grp? sS 768 = some gS := rfl

/-- The group in handler mode: a return that is whole, one with a lane missing, and one to no word. -/
def gH : Group := tHandler { tPath [(7, 5)] with sys := true }
/-- Its frame. -/
def fH : Frame := placedFrame { tPath [(7, 5)] with sys := true }

theorem witness_HandlerReturnRule : grp? (inG gH) 768 = some gH ∧ gH.frames = [fH] ∧
    (let p := { tPath [(7, 5)] with sys := true }
     (p.mask &&& fH.lanes = fH.lanes ∧ gH.stack.paths.length = 1 ∧ gH.stack.rest = []) ∧ fH.resume.toNat % 8 = 0 ∧
     ¬({ p with mask := 0x7F }.mask &&& fH.lanes = fH.lanes) ∧ ¬({ fH with resume := 0x1004 }.resume.toNat % 8 = 0) ∧
     (fH.resume = (tPath []).pc ∨ fH.resume ≠ fH.pc + 8 ∨ (tPath []).atHdr = true ∨ (tPath []).pc = fH.pc)) :=
  ⟨rfl, rfl, by decide +kernel⟩

/-- One executor for each check that fails, every check before it passed (R68). -/
theorem witness_IssueChecksInOrder :
    (sS.cur = some xS.who ∧ exOf sS xS.who = some xS ∧ xS.held = false) ∧
    (let fits := fun (x : Ex) (r : Rule) (u : Use) => r.admits x.who && u.fits x && (!r.ctl || x.p.left == 1)
     let feed := exG { gS with role := some .feed } (tPath [])
     let two := exG { gS with stack := { gS.stack with b := some { tPath [] with pid := 2 } } } (tPath [])
     let late := { xS with p := { tPath [] with wins := [{ op := 1, left := 1, vds := [5], sds := [], fp := false }] } }
     let marked := { xS with p := { tPath [] with spois := 2 } }
     fits xS (ruleQ true) {} = false ∧ fits xS ruleAll { sd := [64] } = false ∧ fits { xS with p := { tPath [] with left := 2 } } ruleCtl {} = false ∧
     (fits xS { ruleAll with ill := some 2 } {} = true ∧ ({ ruleAll with ill := some 2 } : Rule).privOk xS = true ∧ ({ ruleAll with ill := some 2 } : Rule).ill = some 2) ∧
     (fits xS ruleHandler {} = true ∧ ruleHandler.ill = none ∧ ruleHandler.privOk xS = false) ∧
     (fits feed vecRule {} = true ∧ vecRule.privOk feed = true ∧ vecRule.roleFits feed = false) ∧
     (fits two matRule {} = true ∧ matRule.privOk two = true ∧ matRule.roleFits two = true ∧ matRule.unsplit two = false) ∧
     (fits xS { ruleGrp .sync with gone := true } {} = true ∧ ({ ruleGrp .sync with gone := true } : Rule).unsplit xS = true ∧ xS.active none ≠ 0) ∧
     (fits late vecRule { vd := [5] } = true ∧ vecRule.unsplit late = true ∧ vecRule.hint = false ∧ ({ vd := [5] } : Use).hazard late.p = true) ∧
     (fits marked ruleAll { ss := [1] } = true ∧ ({ ss := [1] } : Use).hazard marked.p = false ∧
       ({ ss := [1] } : Use).poisoned marked (marked.active none) = true)) :=
  ⟨⟨rfl, rfl, by decide +kernel⟩, by decide +kernel⟩

end Sys2Proof.Machine
end

section
/-! The device's own events: contexts and their end, Pavane and power, resets, boot and management (O46, O51, O52). Each event
has its equations, one per case; the obligations are put together from them. -/
namespace Sys2Proof.Machine

/-! ### Dies and folds -/

/-- The die found under a number has that number. -/
theorem die_of_die? {s : State} {n : Nat} {d : Die} (h : die? s n = some d) : d.die = n :=
  eq_of_beq (List.find?_some (p := fun x : Die => x.die == n) h)

/-- A die that passes a test is found by it. -/
theorem die?_filter_pos {s : State} {n : Nat} {d : Die} {ok : Die → Bool} (h : die? s n = some d) (hok : ok d = true) :
    (die? s n).filter ok = some d := by rw [h, Option.filter_some, if_pos hok]

/-- A die that fails a test is not found by it. -/
theorem die?_filter_neg {s : State} {n : Nat} {d : Die} {ok : Die → Bool} (h : die? s n = some d) (hok : ok d = false) :
    (die? s n).filter ok = none := by rw [h, Option.filter_some, hok]; rfl

/-- A field that every step of a fold leaves alone, the fold leaves alone. -/
theorem foldl_keeps {α β : Type} (f : State → α → State) (field : State → β) (h : ∀ s a, field (f s a) = field s) (l : List α)
    (s : State) : field (l.foldl f s) = field s := by
  induction l generalizing s with
  | nil => rfl
  | cons a l ih => exact (ih (f s a)).trans (h s a)

/-! ### Contexts and their end -/

theorem exec_contextCreate_free {s : State} {pasid fn mode : Nat} {m : PreMode} (htb : W64) (hm : modeOf mode = some m) (hp : pasid < 2 ^ 20)
    (hc : ctx? s pasid = none) (hg : goingAway s pasid = false) (hf : (fnDie s fn).any (dieUp s) = true) :
    exec (.contextCreate pasid fn mode htb) s = .next { s with contexts := s.contexts ++
      [{ pasid, fn, mode := m, feat0 := 0xFFF, feat1 := 0, htb, retcnt := 0, retlast := 0 }] } := by
  show execContextCreate pasid fn mode htb s = _
  have hin : ¬ 2 ^ 20 ≤ pasid := Nat.not_le.mpr hp
  simp only [execContextCreate, hm, hc, hg, hf, decide_eq_false hin]
  rfl

theorem exec_tear_open {s : State} {die qid seq : Nat} {q : Queue} {p : Packet} (h : openOf s die qid seq 7 = some (q, p)) :
    exec (.tear die qid seq) s = .next (tearContext s die qid q.pasid seq) := by
  show execTear die qid seq s = _
  simp only [execTear, h]

theorem tearContext_live {s : State} {pasid : Nat} {c : Context} (die qid seq : Nat) (hg : goingAway s pasid = false) (hc : ctx? s pasid = some c) :
    let u := { s with queues := modWhere s.queues (fun q => q.pasid == pasid) endQueue }
    let v := (teamsOf u pasid).foldl removeTeam u
    let w := askQuiesce { v with launches := v.launches.filter fun l => l.pasid != pasid,
                                 copies := modWhere v.copies (fun c => c.pasid == pasid) abortCopies } pasid
    tearContext s die qid pasid seq =
      tearGoesOn { w with tears := w.tears ++ [{ pasid, die, qid, seq, step := 3, since := w.now, shoot := 0 }] } pasid :=
  if_neg (by simp [hg, hc])

section Drain
variable {s : State} {pasid : Nat} {t : Tear} (ht : s.tears.find? (fun t => t.pasid == pasid && t.step == 3) = some t)
include ht

/-- The drain of step 3 goes on while something is outstanding and its second has not passed (R344). -/
theorem tearGoesOn_draining (hi : pasidIdle s pasid = false) (hn : s.now < t.since + 1000000 * Config.usCycles) : tearGoesOn s pasid = s := by
  simp only [tearGoesOn, ht, hi, decide_eq_false (Nat.not_le.mpr hn)]
  rfl

/-- The drain of step 3 ends once everything has completed or its second has passed (R344). -/
theorem tearGoesOn_drained (h : pasidIdle s pasid = true ∨ t.since + 1000000 * Config.usCycles ≤ s.now) : tearGoesOn s pasid = tearShoot s t := by
  simp only [tearGoesOn, ht]
  exact if_pos (by simpa using h)

end Drain

/-- A context that is forgotten is no longer found. -/
theorem ctx?_forget (s : State) (pasid : Nat) : ctx? (forget s pasid) pasid = none := by
  simp [ctx?, forget]

theorem exec_quarantineEnd {s : State} {pasid : Nat} {q : Nat × Nat} (h : s.quarantine.find? (fun q => q.1 == pasid) = some q) :
    exec (.quarantineEnd pasid) s = .next (if s.now < q.2 + 1000000 * Config.usCycles then s else forget s pasid) := by
  show execQuarantineEnd pasid s = _
  simp only [execQuarantineEnd, h]

theorem exec_virtualFunctionAssign_free {s : State} {vf port : Nat} (hv : vf < 64) (hp : port < 2) (h : sget 0 s.vfPort vf = 0) :
    exec (.virtualFunctionAssign vf port) s = .next { s with vfPort := sset 0 s.vfPort vf (port + 1), late := sclear (3 * (vf + 2)) 3 s.late } :=
  congrArg Host.Outcome.next (if_neg (by simp [h]; omega))

/-- Settles O46: each event of a context's life by its own equation. -/
theorem contextEventsComplete : Obligations.ContextEventsComplete := by
  intro s die qid seq pasid fn mode vf port htb
  refine ⟨fun m => exec_contextCreate_free htb, fun q p => exec_tear_open, fun c => tearContext_live die qid seq, fun t ht => ⟨?_, ?_⟩,
    fun q hq => ⟨?_, ?_⟩, fun _ => rfl, exec_virtualFunctionAssign_free⟩
  · exact fun hi hn => congrArg Host.Outcome.next (tearGoesOn_draining ht hi hn)
  · exact fun h => congrArg Host.Outcome.next (tearGoesOn_drained ht h)
  · intro hn
    rw [exec_quarantineEnd hq, if_pos hn]
  · intro hn
    rw [exec_quarantineEnd hq, if_neg (Nat.not_lt.mpr hn)]
    exact ⟨rfl, ctx?_forget s pasid⟩

/-! ### Worlds and Pavane -/

theorem exec_worldChange_same {s : State} {b : Block} {sec : Bool} (h : s.secure.contains b = sec) : exec (.worldChange b sec) s = .next s :=
  congrArg Host.Outcome.next (if_pos h)

theorem exec_worldChange_other {s : State} {b : Block} {sec : Bool} (h : s.secure.contains b ≠ sec) :
    exec (.worldChange b sec) s = .next (let t := stopBlock s b
      { t with secure := if sec then b :: t.secure else t.secure.filter fun x => x != b }) :=
  congrArg Host.Outcome.next (if_neg h)

theorem exec_coreReturn_out {s : State} {die core : Nat} {c : Core} (h : core? s die core = some c) (hc : c.st = .out) :
    exec (.coreReturn die core) s = .next (setCore s die core .inService) :=
  congrArg Host.Outcome.next (if_pos (by simp [h, hc]))

section Pavane
variable {s : State} {die : Nat} {d : Die} (hd : die? s die = some d) (hl : d.lost = false)
include hd hl

/-- The Pavane of a working die answers to the phase it is in. -/
theorem pavDie_of_phase {ok : PavPhase → Bool} (h : ok d.pavPhase = true) : pavDie s die ok = some d :=
  die?_filter_pos hd (by simp [hl, h])

/-- A visit starts with the drain of the next core in service (R317). -/
theorem exec_pavaneDrainStart_idle {c : Nat} (hp : d.pavPhase = .idle) (hc : nextVisit s die d.pavCore = some c) :
    exec (.pavaneDrainStart die) s = .next (setPavane (setCore s die c .draining) die c .drain) := by
  show execPavaneDrainStart die s = _
  simp only [execPavaneDrainStart, pavDie_of_phase hd hl (ok := fun p => p == .idle) (by simp [hp]), hc]

theorem exec_pavaneDrainTimeout_drain (hp : d.pavPhase = .drain) :
    exec (.pavaneDrainTimeout die) s = .next (if s.now < d.pavAt + 4000 * Config.usCycles ∨ coreEmpty s die d.pavCore then s
      else setPavane (preempt s die [d.pavCore] none) die d.pavCore .asked) := by
  show execPavaneDrainTimeout die s = _
  simp only [execPavaneDrainTimeout, pavDie_of_phase hd hl (ok := fun p => p == .drain) (by simp [hp])]

/-- A core that is still not empty 100 ms after the request is skipped (R318). -/
theorem exec_pavaneSkip_held (hp : d.pavPhase = .asked) (he : coreEmpty s die d.pavCore = false)
    (hn : d.pavAt + 100000 * Config.usCycles ≤ s.now) : exec (.pavaneSkip die) s =
      .next (leaveCore (logFlight s die 0x03 0 d.pavCore (scanOf s die d.pavCore) 0) die d.pavCore .inService) := by
  show execPavaneSkip die s = _
  simp only [execPavaneSkip, pavDie_of_phase hd hl (ok := fun p => p == .asked) (by simp [hp])]
  exact congrArg Host.Outcome.next (if_neg (by simpa [he] using hn))

/-- A core that holds no group is scanned (R317). -/
theorem exec_pavaneScanStart_empty (hp : d.pavPhase = .drain ∨ d.pavPhase = .asked) (he : coreEmpty s die d.pavCore = true) :
    exec (.pavaneScanStart die) s =
      .next (setPavane (modCore s die d.pavCore fun c => { c with st := .scanning, scan := c.scan + 1 }) die d.pavCore .scan) := by
  show execPavaneScanStart die s = _
  simp only [execPavaneScanStart, pavDie_of_phase hd hl (ok := fun p => p == .drain || p == .asked) (by simpa using hp), he]
  rfl

/-- A scan's result is judged by the core that was scanned, and the visit ends. -/
theorem exec_pavaneScanResult_scan {c : Core} (r : ScanResult) (hp : d.pavPhase = .scan) (hc : core? s die d.pavCore = some c) :
    exec (.pavaneScanResult die r) s = .next (leaveCore (scanEnd s c r).1 die d.pavCore (scanEnd s c r).2) := by
  show execPavaneScanResult die r s = _
  simp only [execPavaneScanResult, pavDie_of_phase hd hl (ok := fun p => p == .scan) (by simp [hp]), hc]

end Pavane

/-- An unsound lane of a core with no fold folds it (R323). -/
theorem scanEnd_lane_unfolded {c : Core} (s : State) (p : Nat) (h : c.fold = none) :
    scanEnd s c (.failLane p) = (scanFail s c (some p) true, .inService) := by simp [scanEnd, h]

/-- The folded lane that is still unsound is no new failure (log entry 25). -/
theorem scanEnd_lane_folded {c : Core} (s : State) {p : Nat} (h : c.fold = some p) :
    scanEnd s c (.failLane p) = (scanPass s c (some p), .inService) := by simp [scanEnd, h]

/-- A second unsound lane puts the core out of service (R319). -/
theorem scanEnd_lane_second {c : Core} (s : State) {p q : Nat} (h : c.fold = some q) (hq : q ≠ p) :
    scanEnd s c (.failLane p) = (scanFail s c (some p) false, .out) := by simp [scanEnd, h, hq]

/-! ### Power and temperature -/

theorem gateMore_below {s : State} {die : Nat} {d : Die} (hd : die? s die = some d) (hl : d.lost = false) (hg : d.gate < 15) :
    gateMore s die = logFlight (modDie s die fun x => { x with gate := x.gate + 1 }) die 0x40 8 0 (d.gate + 1) s.limit := by
  simp only [gateMore, hd]
  exact if_neg (by simpa [hl] using hg)

theorem exec_thermalTrip_cool {s : State} {temp : Nat} (die : Nat) (h : temp < 115) : exec (.thermalTrip die temp) s = .next s :=
  congrArg Host.Outcome.next (if_pos (Or.inl h))

/-- The records of a trip, on every working die (R18). -/
def tripLogged (s : State) (temp : Nat) : State := (s.dies.filter fun d => !d.lost).foldl (fun s d => logFlight s d.die 0x41 8 0 temp 0) s

/-- A trip changes what the flight recorders hold, and no memory, group or message out. -/
theorem tripLogged_frame (s : State) (temp : Nat) :
    (tripLogged s temp).mem = s.mem ∧ (tripLogged s temp).groups = s.groups ∧ (tripLogged s temp).outbox = s.outbox := by
  refine ⟨foldl_keeps _ State.mem ?_ _ s, foldl_keeps _ State.groups ?_ _ s, foldl_keeps _ State.outbox ?_ _ s⟩ <;> exact fun _ _ => rfl

theorem exec_thermalTrip_hot {s : State} {die temp : Nat} (ht : 115 ≤ temp) (hd : die < 12) (hs : s.stopped = false) :
    exec (.thermalTrip die temp) s = .next (emit { tripLogged s temp with stopped := true } .thermalTrip) :=
  congrArg Host.Outcome.next (if_neg (by simp [hs]; omega))

/-- Settles O51: Pavane by the phase it is in, the rest by each event's own equation. -/
theorem scanAndPowerEventsComplete : Obligations.ScanAndPowerEventsComplete := by
  intro s die core temp b sec d hd hl
  refine ⟨exec_worldChange_same, exec_worldChange_other, fun c => exec_pavaneDrainStart_idle hd hl, ?_, ?_, exec_pavaneSkip_held hd hl,
    exec_pavaneScanStart_empty hd hl, fun c hp hc => ?_, fun c => exec_coreReturn_out, fun hg => ?_, exec_thermalTrip_cool die, fun ht h12 hs => ?_⟩
  · intro hp he hn
    rw [exec_pavaneDrainTimeout_drain hd hl hp, if_neg (by simpa [he] using hn)]
  · intro hp hn
    rw [exec_pavaneDrainTimeout_drain hd hl hp, if_pos (Or.inl hn)]
  · have judged := fun r => exec_pavaneScanResult_scan hd hl r hp hc
    refine ⟨judged .pass, fun p hf => ?_, fun p hf => ?_, fun p q hf hq => ?_, judged .failOther⟩
    · rw [judged, scanEnd_lane_unfolded s p hf]
    · rw [judged, scanEnd_lane_folded s hf]
    · rw [judged, scanEnd_lane_second s hf hq]
  · exact ⟨congrArg Host.Outcome.next (gateMore_below hd hl hg), congrArg Host.Outcome.next (gateMore_below hd hl hg)⟩
  · obtain ⟨hmem, hgroups, hout⟩ := tripLogged_frame s temp
    exact ⟨_, exec_thermalTrip_hot ht h12 hs, rfl, hmem, hgroups, congrArg (· ++ [Out.thermalTrip]) hout⟩

/-! ### Boot -/

/-- An image is accepted just when the ROM's own tests pass and the image is sound: its hash, its key, its signature and its version
(R360, R362). -/
theorem imageFails_eq_none_iff (f : Fuses) (st : BootSt) (image : List Byte) (img : BootImage) :
    imageFails f st image img = none ↔ (st = .rom → img.selfTest = true ∧ img.linkTrain = true) ∧ img.hash = shake256 64 image ∧
      keyFails f (shake256 64 img.key) = none ∧ ed448Verify img.key image img.signature = true ∧ f.version ≤ img.version := by
  unfold imageFails
  by_cases hself : st = .rom ∧ (!img.selfTest) = true
  · obtain ⟨rfl, hfails⟩ := hself
    simp_all
  by_cases hlink : st = .rom ∧ (!img.linkTrain) = true
  · obtain ⟨rfl, hfails⟩ := hlink
    simp_all
  have tested : st = .rom → img.selfTest = true ∧ img.linkTrain = true := fun h => by simpa [h] using And.intro hself hlink
  rw [if_neg hself, if_neg hlink, and_iff_right tested]
  by_cases hhash : img.hash = shake256 64 image
  · cases keyFails f (shake256 64 img.key) with
    | some r => simp [hhash]
    | none => cases ed448Verify img.key image img.signature <;> simp [hhash]
  · simp [hhash]

section Boot
variable {s : State} {die : Nat} {d : Die} (hd : die? s die = some d) (hl : d.lost = false)
include hd

/-- A stage whose image has not been read whole verifies nothing yet. -/
theorem exec_bootRomStart_partial (img : BootImage) (hw : d.whole = false) : exec (.bootRomStart die img) s = .next s := by
  show execBootRomStart die img s = _
  simp only [execBootRomStart, die?_filter_neg hd (ok := fun d => !d.lost && d.whole && (d.boot == .rom || d.boot == .firmware)) (by simp [hw])]

/-- No request is sent, so none can go unanswered. -/
theorem exec_bootRequestTimeout_unsent (ha : d.asks = 0) : exec (.bootRequestTimeout die) s = .next s := by
  show execBootRequestTimeout die s = _
  simp only [execBootRequestTimeout, die?_filter_neg hd (ok := fun d => !d.lost && d.asks != 0) (by simp [ha])]

include hl

section Verify
variable {img : BootImage} (hb : d.boot = .rom ∨ d.boot = .firmware) (hi : img.stage = bootStage d.boot + 1) (hw : d.whole = true)
include hb hw

/-- The die has an image to verify: it works, it is at the ROM's or the firmware's stage, and the image is whole. -/
theorem verifying : (die? s die).filter (fun d => !d.lost && d.whole && (d.boot == .rom || d.boot == .firmware)) = some d :=
  die?_filter_pos hd (by simpa [hl, hw] using hb)

include hi


/-- A stage that has read its image whole refuses it for the reason it finds (R360, R362). -/
theorem exec_bootRomStart_refused {stage reason : Nat} (hf : imageFails s.fuses d.boot d.image img = some (stage, reason)) :
    exec (.bootRomStart die img) s = .next (startFails s die stage reason) := by
  show execBootRomStart die img s = _
  simp only [execBootRomStart, verifying hd hl hb hw, hf]
  exact congrArg Host.Outcome.next (if_neg fun h => h hi)

/-- A stage that has read its image whole and finds no fault accepts it (R360). -/
theorem exec_bootRomStart_accepted (hf : imageFails s.fuses d.boot d.image img = none) :
    exec (.bootRomStart die img) s = .next (acceptImage s d) := by
  show execBootRomStart die img s = _
  simp only [execBootRomStart, verifying hd hl hb hw, hf]
  exact congrArg Host.Outcome.next (if_neg fun h => h hi)

end Verify

theorem exec_bootRequestTimeout_sent (ha : d.asks ≠ 0) : exec (.bootRequestTimeout die) s =
    .next (if s.now < d.bootAt + 1000000 * Config.usCycles then s else if d.asks < 4 then askBoot s die else bootSilent s d) := by
  show execBootRequestTimeout die s = _
  simp only [execBootRequestTimeout, die?_filter_pos hd (ok := fun d => !d.lost && d.asks != 0) (by simp [hl, ha])]

theorem askBoot_first {r : BootReq} {l : List BootReq} (hw : d.want = r :: l) :
    askBoot s die = emit (modDie s die fun x => { x with asks := x.asks + 1, bootAt := s.now }) (.bootRequest die r s.bootwhy) := by
  simp only [askBoot, die?_filter_pos hd (ok := fun d => !d.lost) (by simp [hl]), hw]

/-- A die that has not reported within 30 s of the release of reset fails the start (R362). -/
theorem exec_bootReadyTimeout_late (hn : 30000000 * Config.usCycles ≤ s.now) (hr : d.boot ≠ .ready) (hf : d.boot ≠ .failed) :
    exec (.bootReadyTimeout die) s = .next (startFails s die 2 4) := by
  show execBootReadyTimeout die s = _
  simp only [execBootReadyTimeout, die?_filter_pos hd (ok := fun d => !d.lost && d.boot != .ready && d.boot != .failed) (by simp [hl, hr, hf])]
  exact congrArg Host.Outcome.next (if_neg (Nat.not_lt.mpr hn))

theorem exec_dieKernelReady_kernel (hb : d.boot = .kernel) :
    let t := modDie s die fun d => { d with boot := .ready }
    exec (.dieKernelReady die) s = .next (if t.dies.all fun d => d.lost || d.boot == .ready then startDone t else t) :=
  congrArg Host.Outcome.next (if_neg (by simp [hd, hl, hb]))

omit hl in
theorem exec_readFr_count {seq count : Nat} (h0 : 0 < count) (h16 : count ≤ 16) : exec (.readFr die seq count) s =
    .next (answer s (0 :: ((d.flight.filter fun r => decide (seq ≤ r.seq)).take count).flatMap FlightRec.bytes)) := by
  show execReadFr die seq count s = _
  have inRange : ¬(count = 0 ∨ 16 < count) := by omega
  simp [execReadFr, hd, if_neg inRange, flightFrom, die_of_die? hd]

end Boot

/-- A start is done when no die is left that works and is not ready. -/
theorem allReady_iff (l : List Die) :
    (l.all fun d => d.lost || d.boot == .ready) = true ↔ ∀ e ∈ l, e.lost = true ∨ e.boot = .ready := by simp

section Requests
variable {s : State} {die image offset : Nat} {bytes : List Byte}

/-- A reply that is too long, or that was not asked for, is no reply (R359). -/
theorem exec_readImage_ignored (h : 4096 < bytes.length ∨ asked s die (.readImage image offset) = false) :
    exec (.readImage die image offset bytes) s = .next s :=
  congrArg Host.Outcome.next (if_pos (by simpa using h))

theorem exec_readImage_asked (hb : bytes.length ≤ 4096) (h : asked s die (.readImage image offset) = true) :
    exec (.readImage die image offset bytes) s =
      .next (let t := modDie s die fun d => { d with image := d.image ++ bytes, whole := decide (bytes.length < 4096) }
             if bytes.length < 4096 then bootAnswered t die else wantNext t die [.readImage image (offset + 4096)]) :=
  congrArg Host.Outcome.next (if_neg (by simpa [h] using hb))

/-- MINIMAL is none of the record's reserved bits. -/
theorem minimal_of_record (t : State) (rec : W64) : minimal { t with bootwhy := rec &&& 0xF0FFFFF1#64 } = rec.getLsbD 0 := by
  simp [minimal]

theorem exec_getStartRecord_unasked (rec : W64) (h : asked s 0 .getRecord = false) : exec (.getStartRecord rec) s = .next s :=
  congrArg Host.Outcome.next (if_pos (by simp [h]))

theorem exec_getStartRecord_asked (rec : W64) (h : asked s 0 .getRecord = true) :
    let t := { bootAnswered s 0 with bootwhy := rec &&& 0xF0FFFFF1#64 }
    exec (.getStartRecord rec) s = .next (if rec.getLsbD 0 then onlyDie0 t else t) := by
  intro t
  rw [← minimal_of_record (bootAnswered s 0) rec]
  exact congrArg Host.Outcome.next (if_neg (by simp [h]))

theorem exec_putStartRecord_unasked (h : asked s 0 .putRecord = false) : exec .putStartRecord s = .next s :=
  congrArg Host.Outcome.next (if_neg (by simp [h]))

theorem exec_putStartRecord_asked (h : asked s 0 .putRecord = true) :
    exec .putStartRecord s = .next { bootAnswered s 0 with startRec := s.bootwhy } :=
  congrArg Host.Outcome.next (if_pos h)

end Requests

/-! ### Fuses and management -/

theorem exec_fuseBlow_ownerKey {s : State} {slot : Nat} (h : List Byte) (hs : slot = 1 ∨ slot = 2) (he : sget [] s.fuses.owners slot = []) :
    exec (.fuseBlow (.ownerKey slot h)) s = .next { s with fuses := { s.fuses with owners := sset [] s.fuses.owners slot h } } := by
  have blank : ¬(slot = 0 ∨ 2 < slot ∨ sget [] s.fuses.owners slot ≠ []) := by
    rcases hs with rfl | rfl <;> simp [he]
  exact congrArg (fun f => Host.Outcome.next { s with fuses := f }) (if_neg blank)

theorem clearMinimalBit_clears (s : State) : (clearMinimalBit s).bootwhy.getLsbD 0 = false := by
  unfold clearMinimalBit
  split
  · simp
  · next h => simpa using h

theorem exec_setLimit_inRange {s : State} {watts : Nat} (h1 : 4000 ≤ watts) (h2 : watts ≤ 8200) :
    exec (.setLimit watts) s = .next (answer { s with limit := watts } [0]) :=
  congrArg Host.Outcome.next (if_pos ⟨h1, h2⟩)

theorem exec_setLimit_outOfRange {s : State} {watts : Nat} (h : watts < 4000 ∨ 8200 < watts) :
    exec (.setLimit watts) s = .next (answer s [1]) :=
  congrArg Host.Outcome.next (if_neg (by omega))

theorem exec_pldmRequest_open {kind : Nat} (s : State) (die : Nat) (h : kind ≠ 2) : exec (.pldmRequest kind die) s = .next (openAnswer s) :=
  congrArg Host.Outcome.next (if_neg h)

/-- Settles O52: the resets by what they carry over, the boot of a die by its stage and its requests, and each answer by its own
equation. -/
theorem bootAndManagementEventsComplete : Obligations.BootAndManagementEventsComplete := by
  intro s die kind watts seq count image offset img bytes rec slot h ver answered
  refine ⟨⟨_, rfl, rfl, rfl, rfl, rfl, rfl, rfl, rfl, rfl, rfl, rfl, rfl, rfl⟩,
    ⟨_, rfl, rfl, rfl, rfl, rfl, rfl, rfl, rfl, rfl, rfl, rfl, rfl, rfl, rfl, rfl⟩,
    fun d hd hl => ⟨?_, exec_bootRomStart_partial hd img, ?_, ?_, exec_bootReadyTimeout_late hd hl, ?_, exec_readFr_count hd⟩,
    ⟨exec_readImage_ignored, ?_, ?_⟩, exec_getStartRecord_unasked rec, exec_getStartRecord_asked rec,
    exec_putStartRecord_unasked, exec_putStartRecord_asked, rfl, rfl, exec_fuseBlow_ownerKey h,
    ⟨rfl, rfl, clearMinimalBit_clears s⟩, rfl, rfl, exec_setLimit_inRange, exec_setLimit_outOfRange, rfl, rfl, rfl,
    exec_pldmRequest_open s die⟩
  · rintro st n hn rfl hi hw
    have hb : d.boot = .rom ∨ d.boot = .firmware := hn.imp And.left And.left
    have hstage : img.stage = bootStage d.boot + 1 := by
      rcases hn with ⟨hst, rfl⟩ | ⟨hst, rfl⟩ <;> rw [hi, hst] <;> rfl
    refine ⟨imageFails_eq_none_iff s.fuses d.boot d.image img, ?_⟩
    cases hf : imageFails s.fuses d.boot d.image img with
    | some e => exact exec_bootRomStart_refused hd hl hb hstage hw hf
    | none => rw [exec_bootRomStart_accepted hd hl hb hstage hw hf, acceptImage, die_of_die? hd]
  · rintro (ha | hn)
    · exact exec_bootRequestTimeout_unsent hd ha
    · by_cases ha : d.asks = 0
      · exact exec_bootRequestTimeout_unsent hd ha
      · rw [exec_bootRequestTimeout_sent hd hl ha, if_pos hn]
  · intro ha hn
    rw [exec_bootRequestTimeout_sent hd hl ha, if_neg (Nat.not_lt.mpr hn)]
    refine ⟨fun r l hw h4 => ?_, fun h4 hf => ?_, fun h4 hf => ?_⟩
    · rw [if_pos h4, askBoot_first hd hl hw]
    · rw [if_neg (Nat.not_lt.mpr h4), bootSilent, if_neg hf, die_of_die? hd]
    · rw [if_neg (Nat.not_lt.mpr h4), bootSilent, if_pos hf, die_of_die? hd]
  · intro hb t
    have ready := exec_dieKernelReady_kernel hd hl hb
    refine ⟨fun hall => ?_, fun ⟨e, he, hlost, hboot⟩ => ?_⟩
    · exact ready.trans (congrArg Host.Outcome.next (if_pos ((allReady_iff t.dies).mpr hall)))
    · refine ready.trans (congrArg Host.Outcome.next (if_neg fun hall => ?_))
      rcases (allReady_iff t.dies).mp hall e he with hl' | hr
      · exact Bool.false_ne_true (hlost.symm.trans hl')
      · exact hboot hr
  · intro hb ha
    rw [exec_readImage_asked hb.le ha, if_neg hb.not_lt]
  · intro hb ha
    rw [exec_readImage_asked hb.le ha, if_pos hb]

end Sys2Proof.Machine
end

section
/-! Branches, calls and `brm` (O13): where a transfer goes, and each outcome of a `brm`. -/
namespace Sys2Proof.Machine

/-! ### Ready words -/

/-- A ready word ends as its body does. -/
theorem exec_ready {i : Instr} {s : State} {x : Ex} {r : Rule} {u : Use} {h : Option Head} (body : Body)
    (hi : exec i s = issue s r u h body) (hr : Ready s x r u h) : exec i s = .next (bodyEnd s x (body x)) :=
  hi.trans (issue_ready hr body)

/-! ### Transfers -/

theorem goto_pass {s : State} {x : Ex} {h : W64} (before : State → State) (hc : targetCheck s x h = none) :
    goto s x h before = .ok (transfer (before s) x h) := by rw [goto, hc]

theorem goto_fail {s : State} {x : Ex} {h : W64} {t : Trap} (before : State → State) (hc : targetCheck s x h = some t) :
    goto s x h before = .error (.trap t) := by rw [goto, hc]

/-- A ready word whose body is a transfer goes to its target, or raises the check that the target fails (R55). -/
theorem exec_goto {i : Instr} {s : State} {x : Ex} {r : Rule} {u : Use} {h : Option Head} {body : Body} {to' : W64}
    (before : State → State) (hi : exec i s = issue s r u h body) (hr : Ready s x r u h) (hb : body x = goto s x to' before) :
    (targetCheck s x to' = none → exec i s = .next (transfer (before s) x to')) ∧
    (∀ t, targetCheck s x to' = some t → exec i s = .next (raiseOn s x.who t x.p.pc)) := by
  rw [exec_ready body hi hr, hb]
  exact ⟨fun hc => by rw [goto_pass before hc, bodyEnd_ok], fun t hc => by rw [goto_fail before hc, bodyEnd_trap]⟩

/-- The displacement of a target counts words (R61). -/
theorem words_signExtend (d : W32) : BitVec.ofInt 64 (d.toInt * 8) = d.signExtend 64 * 8 := BitVec.ofInt_mul ..

theorem exec_br_not_taken {s : State} {x : Ex} {cc : BrCond} {disp : W32} (ht : brTaken x cc = false)
    (hr : Ready s x { ruleCtl with q := !condMasked cc, c := !condMasked cc } { ss := condReads cc } none) :
    exec (.br cc disp) s = .next (advance s x) := by
  show execBr cc disp s = _
  rw [execBr, issue_ready hr, if_neg (by simp [ht]), bodyEnd_ok]

theorem exec_br_taken {s : State} {x : Ex} {cc : BrCond} {disp : W32} (ht : brTaken x cc = true)
    (hr : Ready s x { ruleCtl with q := !condMasked cc, c := !condMasked cc } { ss := condReads cc } none) :
    (targetCheck s x (target x.p disp) = none → exec (.br cc disp) s = .next (transfer s x (target x.p disp))) ∧
    (∀ t, targetCheck s x (target x.p disp) = some t → exec (.br cc disp) s = .next (raiseOn s x.who t x.p.pc)) :=
  exec_goto id (body := fun x => if brTaken x cc then goto s x (target x.p disp) id else .ok (advance s x)) rfl hr (if_pos ht)

/-- Which branches are taken (R106). -/
theorem brTaken_iff {x : Ex} {g : Group} (hx : x.g = some g) (sa : SReg) (ma : MReg) :
    (brTaken x (.z sa) = true ↔ rdS x.p sa = 0) ∧ (brTaken x (.nz sa) = true ↔ rdS x.p sa ≠ 0) ∧
    (brTaken x (.lt sa) = true ↔ (rdS x.p sa).toInt < 0) ∧ (brTaken x (.ge sa) = true ↔ 0 ≤ (rdS x.p sa).toInt) ∧
    (brTaken x (.any ma) = true ↔ rdM g x.p 0 &&& rdM g x.p ma ≠ 0) ∧
    (brTaken x (.all ma) = true ↔ rdM g x.p 0 &&& ~~~ (rdM g x.p ma) = 0) ∧
    (brTaken x (.none ma) = true ↔ rdM g x.p 0 &&& rdM g x.p ma = 0) := by
  simp [brTaken, hx, BitVec.msb_eq_toInt]

/-! ### `brm` -/

section Brm
variable {s : State} {x : Ex} {g : Group} {inv : Bool} {ma : MReg} {disp : W32}

/-- The lanes of a path that a `brm` sends to its target (R107). -/
def brmTaken (x : Ex) (g : Group) (inv : Bool) (ma : MReg) : Mask :=
  rdM g x.p 0 &&& (if inv then ~~~ (rdM g x.p ma) else rdM g x.p ma)

/-- What a `brm` whose path has no window comes to, by the lanes it takes (R31, R107). -/
def brmEnd (s : State) (x : Ex) (g : Group) (m t : Mask) (to' : W64) : Except Stop State :=
  if m &&& ~~~ t = 0 then goto s x to' id
  else if t = 0 then .ok (advance s x)
  else match targetCheck s x to' <|> targetCheck s x (x.p.pc + 8) with
    | some tr => .error (.trap tr)
    | none => splitPath s x g t (x.p.pc + 8) to'

theorem exec_brm_ready (hx : x.g = some g) (hr : Ready s x { ruleGrp .control with ctl := true } {} none) :
    exec (.brm inv ma disp) s = .next (if x.p.wins ≠ [] then s else
      bodyEnd s x (brmEnd s x g (rdM g x.p 0) (brmTaken x g inv ma) (target x.p disp))) := by
  show execBrm inv ma disp s = _
  rw [execBrm, issue_ready hr, withGroup_some hx]
  by_cases hw : x.p.wins = []
  · rw [if_neg (not_not.mpr hw), if_neg (not_not.mpr hw)]
    rfl
  · rw [if_pos hw, if_pos hw, bodyEnd_hold]

variable {m t : Mask} {to' : W64}

theorem brmEnd_uniform (h : m &&& ~~~ t = 0) : brmEnd s x g m t to' = goto s x to' id := if_pos h

theorem brmEnd_none_taken (h : m &&& ~~~ t ≠ 0) (h0 : t = 0) : brmEnd s x g m t to' = .ok (advance s x) := by
  rw [brmEnd, if_neg h, if_pos h0]

section Split
variable (h : m &&& ~~~ t ≠ 0) (h0 : t ≠ 0)
include h h0

theorem brmEnd_target_fails {c : Trap} (hc : targetCheck s x to' = some c) : brmEnd s x g m t to' = .error (.trap c) := by
  rw [brmEnd, if_neg h, if_neg h0, hc]
  rfl

variable (hc : targetCheck s x to' = none)
include hc

theorem brmEnd_fall_fails {c : Trap} (hf : targetCheck s x (x.p.pc + 8) = some c) : brmEnd s x g m t to' = .error (.trap c) := by
  rw [brmEnd, if_neg h, if_neg h0, hc, hf]
  rfl

theorem brmEnd_splits (hf : targetCheck s x (x.p.pc + 8) = none) :
    brmEnd s x g m t to' = splitPath s x g t (x.p.pc + 8) to' := by
  rw [brmEnd, if_neg h, if_neg h0, hc, hf]
  rfl

end Split

variable {b : Header} {fall : W64}

theorem splitPath_no_reconv (hb : x.p.blk = some b) (h0 : b.reconv = 0) : splitPath s x g t fall to' = bad .illegal := by
  simp only [splitPath, hb]
  exact if_pos h0

theorem splitPath_full (hb : x.p.blk = some b) (h0 : b.reconv ≠ 0) (hf : g.frames ≠ []) (he : 34 < g.stack.entries + 2) :
    splitPath s x g t fall to' = bad .illegal := by
  simp only [splitPath, hb, if_neg h0]
  exact if_pos (by simp [hf, he])

theorem splitPath_room (hb : x.p.blk = some b) (h0 : b.reconv ≠ 0) (he : g.frames ≠ [] → g.stack.entries + 2 ≤ 34) :
    let n := noteIssue { s with freshId := s.freshId + 3 } x
    splitPath s x g t fall to' = .ok (settle (modGrp n g.gid fun a =>
      { a with stack := splitStack (clk n a.die) s.freshId a.stack x.p t (x.p.hdr + b.reconv.signExtend 64 * 8) fall to' }) g.gid) := by
  have room : ¬(!g.frames.isEmpty && decide (34 < g.stack.entries + 2)) = true := by simpa using he
  simp only [splitPath, hb, if_neg h0, if_neg room, BitVec.ofInt_mul]
  rfl

end Brm

/-- Settles O13: a transfer by the check of its target, a `brm` by the lanes it takes. -/
theorem branchWordsComplete : Obligations.BranchWordsComplete := by
  refine ⟨fun s x cc sa link disp => ⟨fun hr => ⟨fun ht => exec_br_not_taken ht hr, fun ht => exec_br_taken ht hr⟩,
      fun hr => ?_, fun hr => ?_, fun hr => ?_⟩, fun x g sa ma disp hx => ?_, fun s x g inv ma disp hx hr => ?_⟩
  · exact ⟨exec_goto id (i := .jmpi sa) rfl hr rfl, exec_goto id (i := .ret sa) rfl hr rfl⟩
  · exact exec_goto (fun s => setS s x link (x.p.pc + 8)) (i := .call link disp) rfl hr rfl
  · exact exec_goto (fun s => setS (noteCall s x) x link (x.p.pc + 8)) (i := .calli link sa) rfl hr rfl
  · exact ⟨congrArg (x.p.pc + ·) (words_signExtend disp), rfl, brTaken_iff hx sa ma⟩
  · intro m t to' fall i
    have acts : x.p.wins = [] → exec i s = .next (bodyEnd s x (brmEnd s x g m t to')) := fun hw =>
      (exec_brm_ready hx hr).trans (by rw [if_neg (not_not.mpr hw)]; rfl)
    refine ⟨fun hw => (exec_brm_ready hx hr).trans (by rw [if_pos hw]), fun hw hu hc => ?_, fun hw hu c hc => ?_, fun hw hu h0 => ?_,
      fun hw hu h0 => ⟨fun c hc => ?_, fun c hc hf => ?_⟩, fun hw hu h0 hc hf b hb => ⟨fun hz => ?_, fun hz hh he => ?_, fun hz he => ?_⟩⟩
    · rw [acts hw, brmEnd_uniform hu, goto_pass id hc, bodyEnd_ok, id]
    · rw [acts hw, brmEnd_uniform hu, goto_fail id hc, bodyEnd_trap]
    · rw [acts hw, brmEnd_none_taken hu h0, bodyEnd_ok]
    · rw [acts hw, brmEnd_target_fails hu h0 hc, bodyEnd_trap]
    · rw [acts hw, brmEnd_fall_fails hu h0 hc hf, bodyEnd_trap]
    · rw [acts hw, brmEnd_splits hu h0 hc hf, splitPath_no_reconv hb hz]; rfl
    · rw [acts hw, brmEnd_splits hu h0 hc hf, splitPath_full hb hz hh he]; rfl
    · rw [acts hw, brmEnd_splits hu h0 hc hf, splitPath_room hb hz he, bodyEnd_ok]

end Sys2Proof.Machine
end

section
/-! `nop`, `yield`, the software traps, `exit` and `spawn` (O15). -/
namespace Sys2Proof.Machine

theorem exec_nop_ready {s : State} {x : Ex} (hr : Ready s x ruleAll {} none) : exec .nop s = .next (advance s x) :=
  exec_ready (fun x => .ok (advance s x)) rfl hr

/-- `yield` marks its path, and the traps raise their causes with the immediate (R112, R114). -/
theorem exec_pathWord_ready {s : State} {x : Ex} (imm : BitVec 33) (hr : Ready s x (ruleGrp .control) {} none) :
    exec .yield s = .next (advance (modPath s x.who x.p.pid fun p => { p with yielded := true }) x) ∧
    exec (.trap imm) s = .next (raiseOn s x.who { cause := .trap, aux := imm.signExtend 64 } x.p.pc) ∧
    exec (.brk imm) s = .next (raiseOn s x.who { cause := .brk, aux := imm.signExtend 64 } x.p.pc) :=
  ⟨exec_ready (fun x => .ok (advance (modPath s x.who x.p.pid fun p => { p with yielded := true }) x)) rfl hr,
    exec_ready (fun _ => .error (.trap { cause := .trap, aux := imm.signExtend 64 })) rfl hr,
    exec_ready (fun _ => .error (.trap { cause := .brk, aux := imm.signExtend 64 })) rfl hr⟩

/-! ### `exit` -/

/-- The mode by which `exit` and `spawn` choose their row of the opcode map is the issuer's. -/
theorem curUser_ready {s : State} {x : Ex} {r : Rule} {u : Use} {h : Option Head} (hr : Ready s x r u h) : curUser s = x.user := by
  simp [curUser, curEx, hr.cur, hr.here]

section Exit
variable {s : State} {x : Ex} (hr : Ready s x { ruleCtl with g := x.user } {} none)
include hr

theorem exec_exit_ready : exec .exit s = .next (if x.p.wins ≠ [] then s else match x.g with
    | some g => exitPath s x g
    | none => exitProgram s x) := by
  show execExit s = _
  rw [execExit, curUser_ready hr, issue_ready hr]
  by_cases hw : x.p.wins = []
  · rw [if_neg (not_not.mpr hw), if_neg (not_not.mpr hw)]
    cases x.g <;> rfl
  · rw [if_pos hw, if_pos hw, bodyEnd_hold]

/-- `exit` waits for the long-latency instructions of its path (R110). -/
theorem exec_exit_waits (hw : x.p.wins ≠ []) : exec .exit s = .next s := by rw [exec_exit_ready hr, if_pos hw]

theorem exec_exit_group {g : Group} (hw : x.p.wins = []) (hx : x.g = some g) : exec .exit s = .next (exitPath s x g) := by
  rw [exec_exit_ready hr, if_neg (not_not.mpr hw), hx]

theorem exec_exit_program (hw : x.p.wins = []) (hx : x.g = none) : exec .exit s = .next (exitProgram s x) := by
  rw [exec_exit_ready hr, if_neg (not_not.mpr hw), hx]

end Exit

/-- An issue changes the count of its group, nothing else of any group. -/
theorem grp?_noteIssue {s : State} (x : Ex) {gid : Nat} {g : Group} (h : grp? s gid = some g) :
    ∃ n, grp? (noteIssue s x) gid = some { g with issued := n } := by
  unfold noteIssue
  split
  · next k slot g1 hw hx =>
    have counted : ∃ n, grp? (modGrp s k fun g => { g with issued := g.issued + 1 }) gid = some { g with issued := n } := by
      rw [grp?_modGrp s k gid (fun g => { g with issued := g.issued + 1 }) (fun _ => rfl), h]
      by_cases hk : g.gid = k
      · exact ⟨_, congrArg some (if_pos hk)⟩
      · exact ⟨_, congrArg some (if_neg hk)⟩
    dsimp only
    split
    · exact counted
    · rw [grp?_noteRan]
      exact counted
  · exact ⟨_, h⟩

/-- Settling a group changes its stack, and the mark of views that differed in GSTAT. -/
theorem grp?_settle {s : State} {gid : Nat} {g : Group} (h : grp? s gid = some g) :
    ∃ k w, grp? (settle s gid) gid = some { g with stack := k, gstat := w } := by
  simp only [settle, h]
  exact ⟨_, _, grp?_modGrp_self _ (fun _ => rfl) h⟩

/-- A path that exits leaves its lanes marked, and its group's registers as they were (R33). -/
theorem grp?_exited {s : State} (x : Ex) {gid : Nat} {g : Group} (h : grp? s gid = some g) :
    let m := modGrp (noteIssue s x) gid fun g =>
      { g with exited := g.exited ||| (x.p.mask &&& fullMask g.width), stack := removePath g.stack x.p }
    ∃ g', grp? (settle m gid) gid = some g' ∧ g'.exited = g.exited ||| (x.p.mask &&& fullMask g.width) ∧
      g'.vregs = g.vregs ∧ g'.masks = g.masks ∧ g'.fpfl = g.fpfl ∧ g'.frames = g.frames := by
  obtain ⟨n, hn⟩ := grp?_noteIssue x h
  obtain ⟨k, w, hs⟩ := grp?_settle (grp?_modGrp_self (fun g =>
    { g with exited := g.exited ||| (x.p.mask &&& fullMask g.width), stack := removePath g.stack x.p }) (fun _ => rfl) hn)
  exact ⟨_, hs, rfl, rfl, rfl, rfl, rfl⟩

/-! ### `spawn` -/

/-- A fold each step of which adds one group adds as many as it has steps, each with what a step gives its own. -/
theorem foldl_adds_groups {α : Type} (f : State → α → State) (P : Group → Prop)
    (h : ∀ s a, ∃ g, (f s a).groups = s.groups ++ [g] ∧ P g) (l : List α) (s : State) :
    ∃ gs, (l.foldl f s).groups = s.groups ++ gs ∧ gs.length = l.length ∧ ∀ g ∈ gs, P g := by
  induction l generalizing s with
  | nil => exact ⟨[], (List.append_nil _).symm, rfl, by simp⟩
  | cons a l ih =>
    obtain ⟨g, hg, hP⟩ := h s a
    obtain ⟨gs, hgs, hlen, hall⟩ := ih (f s a)
    exact ⟨g :: gs, by simp [hgs, hg], by simp [hlen], List.forall_mem_cons.mpr ⟨hP, hall⟩⟩

/-- A group as `spawn` makes it of its spawner (R42, R50, R111): one path with every lane at the entry header. -/
def SpawnedFrom (g : Group) (e : W64) (a : Group) : Prop :=
  a.team = g.team ∧ a.role = g.role ∧ a.width = g.width ∧ a.ehdr = e ∧ a.fpfl = 0 ∧ a.exited = 0 ∧
    ∃ p, a.stack.a = some p ∧ a.stack.b = none ∧ p.pc = e ∧ p.atHdr = true ∧ p.mask = fullMask g.width

theorem spawnOne_adds (x : Ex) (g : Group) (t : Team) (e : W64) (args : List W64) (s : State) (slot : Nat) :
    ∃ a, (spawnOne x g t e args s slot).groups = s.groups ++ [a] ∧ SpawnedFrom g e a :=
  ⟨_, rfl, rfl, rfl, rfl, rfl, rfl, rfl, _, rfl, rfl, rfl, rfl, rfl⟩

/-- What a ready `spawn` does, by how many pool slots are free (R42, R111). -/
theorem exec_spawn_ready {s : State} {x : Ex} {g : Group} {t : Team} {sd se sb : SReg} {nm1 : BitVec 4} {argc : BitVec 3}
    (hx : x.g = some g) (ht : team? s g.team = some t)
    (hr : Ready s x { ruleGrp .control with g := x.user }
      { ss := se.toNat :: (List.range argc.toNat).map (fun k => sb.toNat + k), sd := [sd.toNat] } none) :
    exec (.spawn sd se sb nm1 argc) s = .next (
      let free := freeSlots s t g.tcore
      let args := (List.range argc.toNat).map fun k => rdSk x.p sb k
      let new := (free.take (nm1.toNat + 1)).foldl (spawnOne x g t (rdS x.p se) args) s
      if free.length < nm1.toNat + 1 then advance (setS s x sd 0) x
      else advance (setS new x sd (BitVec.ofNat 64 (nm1.toNat + 1))) x) := by
  show execSpawn sd se sb nm1 argc s = _
  simp only [execSpawn, curUser_ready hr, issue_ready hr, withGroup_some hx, ht]
  split <;> rfl

/-- Settles O15: each word by its own equation, the spawned groups by induction on the slots taken. -/
theorem pathWordsComplete : Obligations.PathWordsComplete := by
  refine ⟨fun s x imm => ⟨exec_nop_ready, exec_pathWord_ready imm,
      fun hr => ⟨exec_exit_waits hr, fun hw => ⟨fun g => exec_exit_group hr hw, exec_exit_program hr hw⟩⟩⟩,
    fun s x g t sd se sb nm1 argc hx ht hr => ?_, fun s x gid slot hh g hx => ?_⟩
  · intro n free args new
    refine ⟨fun hn => ?_, fun hn => ?_, fun hn => ?_⟩
    · exact (exec_spawn_ready hx ht hr).trans (congrArg Host.Outcome.next (if_pos hn))
    · exact (exec_spawn_ready hx ht hr).trans (congrArg Host.Outcome.next (if_neg (Nat.not_lt.mpr hn)))
    · obtain ⟨l, hl, hlen, hall⟩ := foldl_adds_groups _ (SpawnedFrom g (rdS x.p se)) (spawnOne_adds x g t (rdS x.p se) args) (free.take n) s
      exact ⟨l, hl, by rw [hlen, List.length_take, min_eq_left hn], hall⟩
  · obtain ⟨g₀, hg, hx₀, -⟩ := exOf_grp hh
    obtain rfl : g₀ = g := Option.some.inj (hx₀.symm.trans hx)
    obtain rfl := grp?_gid hg
    exact ⟨rfl, grp?_exited x hg⟩

end Sys2Proof.Machine
end

section
/-! The collectives (O21): where one completes and what it gives, and where it does not. -/
namespace Sys2Proof.Machine

/-! ### The rendezvous -/

/-- The paths at a path's collective word with its member mask, its own first (R146). -/
def membersAt (x : Ex) (g : Group) (P : Mask) : List Path := x.p :: g.stack.paths.filter fun q => q.parkedAt x.p.pc == some P

/-- A complete collective: its effect on the group's registers, and on every participating path, which goes on (R146). -/
def collectiveDone (s : State) (x : Ex) (g : Group) (P : Mask) (e : Effect) : State :=
  settle ((membersAt x g P).foldl (fun s q => modPath s x.who q.pid fun p => unpark (clkOf s x.who) (endsAtHeader s x) (e.path p))
    (modGrp (noteIssue s x) g.gid e.grp)) g.gid

/-- Every member of a collective's mask is at its word, and the mask is one that the word may name (R146 to R148). -/
structure AllHere (x : Ex) (g : Group) (P : Mask) : Prop where
  own     : x.p.mask &&& ~~~ P = 0
  living  : P &&& g.exited = 0
  arrived : P &&& ~~~ (lanesHeld (membersAt x g P)) = 0
  level   : ∀ f ∈ g.frames, P &&& ~~~ f.lanes = 0
  apart   : ∀ q ∈ g.stack.paths, ∀ m, q.parkedAt x.p.pc = some m → m = P ∨ m &&& P = 0

section Met
variable {i : Instr} {s : State} {x : Ex} {g : Group} {u : Use} {mm : MReg}
variable (hx : x.g = some g) (hh : AllHere x g (rdM g x.p mm)) (hr : Ready s x collRule u none)
include hx hh hr

theorem exec_collective_met {lane : Option (BitVec 6)} {eff : Group → List Path → Mask → Effect}
    (hi : exec i s = issue s collRule u none (collective s mm lane eff))
    (hl : lane.any (fun l => !(rdM g x.p mm).getLsbD l.toNat) = false) :
    exec i s = .next (collectiveDone s x g (rdM g x.p mm) (eff g (membersAt x g (rdM g x.p mm)) (rdM g x.p mm))) :=
  hi.trans (collective_met hx hr hh.own hh.living hh.arrived hh.level hh.apart hl)

end Met

section Results
variable {i : Instr} {s : State} {x : Ex} {g : Group} {vs : List Nat} {mm : MReg}
variable (hx : x.g = some g) (hh : AllHere x g (rdM g x.p mm))
include hx hh

/-- A vote writes its value into the member lanes of a mask register (R151). -/
theorem exec_vote_met {md : MReg} {f : Group → List Path → Mask → Mask} (hr : Ready s x collRule { vs } none)
    (hi : exec i s = voteOp s vs md mm f) :
    exec i s = .next (collectiveDone s x g (rdM g x.p mm)
      { grp := fun g' => wrM g' md.toNat (rdM g x.p mm) (f g (membersAt x g (rdM g x.p mm)) (rdM g x.p mm)), path := id }) := by
  rw [voteOp] at hi
  exact (exec_collective_met hx hh hr hi rfl).trans rfl

/-- A collective that gives each member lane its own value writes it into that lane of a vector register (R151 to R153). -/
theorem exec_member_met {vd : VReg} {f : Group → List Path → Mask → Nat → W32} (hr : Ready s x collRule { vs, vd := [vd.toNat] } none)
    (hi : exec i s = memberOp s vs vd mm f) :
    exec i s = .next (collectiveDone s x g (rdM g x.p mm)
      { grp := fun g' => (lanesOf (rdM g x.p mm)).foldl
          (fun a i => wrV a vd.toNat i (f g (membersAt x g (rdM g x.p mm)) (rdM g x.p mm) i)) g', path := id }) := by
  rw [memberOp] at hi
  exact (exec_collective_met hx hh hr hi rfl).trans rfl

end Results

/-! ### What the votes give -/

/-- The set of a vote reads m0 as the lanes of the participating paths, and another mask register as the issuer does (R151). -/
theorem voteSet_eq (g : Group) (part : List Path) (P : Mask) (mb : MReg) (p : Path) :
    voteSet g part P mb = (if mb = 0 then lanesHeld part else rdM g p mb) &&& P := by
  unfold voteSet
  by_cases h : mb = 0
  · rw [if_pos h, if_pos h]
  · rw [if_neg h, if_neg h, rdM, rdM, if_neg h, if_neg h]

/-- Values that all equal the first are equal among themselves. -/
theorem all_eq_head_iff {α β : Type} [BEq β] [LawfulBEq β] (l : List α) (f : α → β) :
    ((l.map f).all fun v => (l.map f).head? == some v) = true ↔ ∀ i ∈ l, ∀ j ∈ l, f i = f j := by
  cases l with
  | nil => simp
  | cons a l =>
    have head : ((a :: l).map f).head? = some (f a) := rfl
    simp only [head, List.all_map, List.all_eq_true, Function.comp_apply, beq_iff_eq, Option.some.injEq]
    exact ⟨fun h i hi j hj => (h i hi).symm.trans (h j hj), fun h i hi => h a List.mem_cons_self i hi⟩

/-! ### Where a collective does not complete -/

/-- A member mask that a path may not name: without a lane of its own, outside its handler level, or overlapping another set that is
parked at the word (R146, R147). -/
def BadMembers (x : Ex) (g : Group) (P : Mask) : Prop :=
  x.p.mask &&& ~~~ P ≠ 0 ∨ (∃ f ∈ g.frames, P &&& ~~~ f.lanes ≠ 0) ∨
    ∃ q ∈ g.stack.paths, ∃ m, q.parkedAt x.p.pc = some m ∧ m ≠ P ∧ m &&& P ≠ 0

theorem clashes_iff (q : Path) (pc : W64) (P : Mask) :
    q.clashes pc P = true ↔ ∃ m, q.parkedAt pc = some m ∧ m ≠ P ∧ m &&& P ≠ 0 := by
  unfold Path.clashes
  cases q.parkedAt pc <;> simp

theorem outside_level_iff (g : Group) (P : Mask) :
    (g.frames.any fun f => P &&& ~~~ f.lanes != 0) = true ↔ ∃ f ∈ g.frames, P &&& ~~~ f.lanes ≠ 0 := by simp

theorem any_clashes_iff (l : List Path) (pc : W64) (P : Mask) :
    (l.any fun q => q.clashes pc P) = true ↔ ∃ q ∈ l, ∃ m, q.parkedAt pc = some m ∧ m ≠ P ∧ m &&& P ≠ 0 := by
  simp only [List.any_eq_true, clashes_iff]

section Unmet
variable {i : Instr} {s : State} {x : Ex} {g : Group} {u : Use} {mm : MReg} {eff : Group → List Path → Mask → Effect}
variable (hx : x.g = some g) (hr : Ready s x collRule u none) (hi : exec i s = issue s collRule u none (collective s mm none eff))
include hx

theorem collective_bad (hb : BadMembers x g (rdM g x.p mm)) : collective s mm none eff x = bad .illegal := by
  rw [collective, withGroup_some hx]
  by_cases hown : x.p.mask &&& ~~~ (rdM g x.p mm) ≠ 0
  · exact if_pos hown
  by_cases hlev : (g.frames.any fun f => rdM g x.p mm &&& ~~~ f.lanes != 0) = true
  · exact (if_neg hown).trans (if_pos hlev)
  have hclash : (g.stack.paths.any fun q => q.clashes x.p.pc (rdM g x.p mm)) = true :=
    (any_clashes_iff ..).mpr ((hb.resolve_left hown).resolve_left (mt (outside_level_iff ..).mpr hlev))
  exact (if_neg hown).trans ((if_neg hlev).trans ((if_neg Bool.false_ne_true).trans (if_pos hclash)))

theorem collective_good (hb : ¬BadMembers x g (rdM g x.p mm)) :
    collective s mm none eff x =
      let P := rdM g x.p mm
      if (P &&& ~~~ g.exited) &&& ~~~ (lanesHeld (membersAt x g P)) ≠ 0 then
        .ok (deadlockCheck (parkAt (noteIssue { s with freshId := s.freshId + 1 } x) x (.collective P s.freshId)) g.gid)
      else if P &&& g.exited ≠ 0 then .error (.trap { cause := .collectiveExited, lanes := some (lanesHeld (membersAt x g P)) })
      else .ok (collectiveDone s x g P (eff g (membersAt x g P) P)) := by
  simp only [BadMembers, not_or] at hb
  obtain ⟨hown, hlev, hclash⟩ := hb
  rw [collective, withGroup_some hx]
  exact (if_neg hown).trans ((if_neg (mt (outside_level_iff ..).mp hlev)).trans
    ((if_neg Bool.false_ne_true).trans (if_neg (mt (any_clashes_iff ..).mp hclash))))

include hr hi

/-- ILLEGAL, COLLECTIVE_EXITED, or a wait for the other members (R35, R147, R148). -/
theorem exec_collective_unmet :
    let P := rdM g x.p mm
    let left := (P &&& ~~~ g.exited) &&& ~~~ (lanesHeld (membersAt x g P))
    (BadMembers x g P → exec i s = .next (raiseOn s x.who { cause := .illegal } x.p.pc)) ∧
    (¬BadMembers x g P → left = 0 → P &&& g.exited ≠ 0 →
      exec i s = .next (raiseOn s x.who { cause := .collectiveExited, lanes := some (lanesHeld (membersAt x g P)) } x.p.pc)) ∧
    (¬BadMembers x g P → left ≠ 0 →
      exec i s = .next (deadlockCheck (parkAt (noteIssue { s with freshId := s.freshId + 1 } x) x (.collective P s.freshId)) g.gid)) := by
  intro P left
  rw [exec_ready _ hi hr]
  refine ⟨fun hb => ?_, fun hb hl he => ?_, fun hb hl => ?_⟩
  · rw [collective_bad hx hb]; rfl
  · rw [collective_good hx hb, if_neg (not_not.mpr hl), if_pos he, bodyEnd_trap]
  · rw [collective_good hx hb, if_pos hl, bodyEnd_ok]

end Unmet

/-- Settles O21: each word as a collective with its effect, and the votes where they do not complete by what their mask lacks. -/
theorem collectivesComplete : Obligations.CollectivesComplete := by
  refine ⟨fun s x g mm md mb vd vs sd sb ss k lane hold excl ty op hx => ?_, fun s x g mm md mb hx hr => ?_⟩
  · intro P here part hown hliv harr hlev hap met vote lanes B at' from'
    have hh : AllHere x g (rdM g x.p mm) := ⟨hown, hliv, harr, hlev, hap⟩
    have hB : voteSet g part P mb = B := voteSet_eq g part P mb x.p
    refine ⟨fun hr => ⟨?_, ?_, ?_⟩, fun hr => ?_, fun hr => ?_, fun hr => ⟨?_, ?_, ?_, ?_, ?_⟩, fun hr => ?_,
      fun hr hl => ?_, fun hr hl => ?_⟩
    · rw [← hB]; exact (exec_vote_met hx hh hr (i := .voteAny md mm mb) rfl).trans rfl
    · rw [← hB]; exact (exec_vote_met hx hh hr (i := .voteAll md mm mb) rfl).trans rfl
    · rw [← hB]; exact (exec_vote_met hx hh hr (i := .voteBallot md mm mb) rfl).trans rfl
    · have same := all_eq_head_iff (lanesOf P) at'
      rw [← if_congr same rfl rfl]
      exact (exec_vote_met hx hh hr (i := .voteUni hold md mm vs) rfl).trans rfl
    · exact (exec_member_met hx hh hr (i := .shflIdx hold vd vs mm) rfl).trans rfl
    · exact (exec_member_met hx hh hr (i := .shflUp hold vd vs mm k) rfl).trans rfl
    · exact (exec_member_met hx hh hr (i := .shflDown hold vd vs mm k) rfl).trans rfl
    · exact (exec_member_met hx hh hr (i := .shflXor hold vd vs mm k) rfl).trans rfl
    · exact (exec_member_met hx hh hr (i := .vred hold op ty vd vs mm) rfl).trans rfl
    · exact (exec_member_met hx hh hr (i := .vscan hold op ty vd vs mm excl) rfl).trans rfl
    · exact (exec_collective_met hx hh hr (i := .vappend hold vd vs mm sb) rfl rfl).trans rfl
    · exact (exec_collective_met hx hh hr (i := .vreadl hold sd vs mm lane) rfl (by simpa using hl)).trans rfl
    · exact (exec_collective_met hx hh hr (i := .vwritel vd ss mm lane) rfl (by simpa using hl)).trans rfl
  · intro P part left wrong
    exact List.forall_mem_cons.mpr ⟨exec_collective_unmet hx hr rfl, List.forall_mem_cons.mpr ⟨exec_collective_unmet hx hr rfl,
      List.forall_mem_singleton.mpr (exec_collective_unmet hx hr rfl)⟩⟩

end Sys2Proof.Machine
end

section
/-! Teams: admission, retirement, pre-emption, saving and resumption (O47). -/
namespace Sys2Proof.Machine

/-! ### What an acquire leaves alone -/

/-- The teams and the groups of a state. -/
def residents (s : State) : List Team × List Group := (s.teams, s.groups)

theorem residents_taint (s : State) (hit : Place × Nat → Bool) : residents (taint s hit) = residents s := by
  unfold taint
  split <;> rfl

theorem residents_writeFab (s : State) (a : Nat) (bs : List PByte) : residents (writeFab s a bs) = residents s := by
  show residents (if bs.any fun b => b.2 then taintFab s a bs.length else s) = _
  split
  · exact residents_taint s _
  · rfl

theorem residents_tlWrite (s : State) (d t : Nat) (v : W64) : residents (tlWrite s d t v) = residents s := by
  unfold tlWrite
  split <;> rfl

theorem residents_backInvalidate (s : State) (a n : Nat) : residents (backInvalidate s a n) = residents s := by
  unfold backInvalidate
  refine foldl_keeps _ residents ?_ _ s
  exact fun _ _ => rfl

theorem residents_returnLines (s : State) (a n : Nat) : residents (returnLines s a n) = residents s := by
  unfold returnLines
  dsimp only
  split <;> rfl

theorem residents_writeMirror (s : State) (repl : Bool) (a : Nat) (bs : List PByte) :
    residents (if repl && dieUp s (fabDie (mirrorOf a)) then writeFab s (mirrorOf a) bs else s) = residents s := by
  split
  · exact residents_writeFab s _ bs
  · rfl

/-- A write at a home in the fabric, where dirty lines go back to, is none of a team's or a group's. -/
theorem residents_writeHome_fab (s : State) (a mt ccl gran : Nat) (repl : Bool) (bs : List PByte) :
    residents (writeHome s (.fab a mt ccl gran repl) bs) = residents s := by
  simp only [writeHome]
  split
  · split <;> rfl
  · split
    · exact residents_writeMirror s repl a bs
    · split
      · exact residents_tlWrite s _ _ _
      · rw [residents_writeMirror, residents_writeFab]
        split
        · exact residents_backInvalidate s a _
        · rfl

theorem residents_writeBackLine (s : State) (l : Line) : residents (writeBackLine s l) = residents s :=
  foldl_keeps _ residents (fun _ _ => (residents_writeHome_fab ..).trans (residents_returnLines ..)) _ s

theorem residents_releasePkg (s : State) (d : Nat) : residents (releasePkg s d) = residents s :=
  foldl_keeps _ residents residents_writeBackLine _ s

/-- An acquire changes copies of memory, and no team or group. -/
theorem residents_acquireAt (s : State) (d c : Nat) (sc : Scope) : residents (acquireAt s d c sc) = residents s := by
  cases sc with
  | weak | grp | team | die => rfl
  | pkg | sys => exact residents_releasePkg s d

/-! ### Admission -/

/-- The launch found under a number has that number. -/
theorem lid_of_launch? {s : State} {lid : Nat} {l : Launch} (h : launch? s lid = some l) : l.lid = lid :=
  eq_of_beq (List.find?_some (p := fun x : Launch => x.lid == lid) h)

/-- The team that a launch offers next, as it is placed (R25, R50). -/
def offeredTeam (l : Launch) (tid d : Nat) (cores : List Nat) : Team :=
  { tid, launch := l.lid, x := BitVec.ofNat 32 (nextIndex l % l.pk.gx), y := BitVec.ofNat 32 (nextIndex l / l.pk.gx % l.pk.gy),
    z := BitVec.ofNat 32 (nextIndex l / l.pk.gx / l.pk.gy), die := d, cores, groups := l.pk.groups, pool := l.pk.pool,
    scratch := l.pk.scratch, smem := [], spois := [], rings := [], bars := [], killed := [], st := .resident, faulted := false,
    image := [], mat := [], tiles := [], tpois := [], pinned := teamPin l.pk }

/-- A placement after its launch has offered the team and its cores have acquired what came before. -/
def seated (s : State) (l : Launch) (d : Nat) (cores : List Nat) : State :=
  cores.foldl (fun s c => acquireAt s d c .sys)
    (modLaunch { s with freshId := s.freshId + 1, teams := s.teams ++ [offeredTeam l s.freshId d cores] } l.lid offered)

theorem placeTeam_eq (s : State) (l : Launch) (d : Nat) (cores : List Nat) :
    placeTeam s l d cores = (groupPlan l.pk).zipIdx.foldl (addGroup l (offeredTeam l s.freshId d cores)) (seated s l d cores) := rfl

theorem residents_seated (s : State) (l : Launch) (d : Nat) (cores : List Nat) :
    residents (seated s l d cores) = (s.teams ++ [offeredTeam l s.freshId d cores], s.groups) :=
  foldl_keeps _ residents (fun s c => residents_acquireAt s d c .sys) cores _

theorem placeTeam_teams (s : State) (l : Launch) (d : Nat) (cores : List Nat) :
    (placeTeam s l d cores).teams = s.teams ++ [offeredTeam l s.freshId d cores] := by
  rw [placeTeam_eq, foldl_keeps (addGroup l (offeredTeam l s.freshId d cores)) State.teams fun _ _ => rfl]
  exact congrArg Prod.fst (residents_seated s l d cores)

/-- A placement adds a group for each place of the team's plan (R25). -/
theorem placeTeam_groups_length (s : State) (l : Launch) (d : Nat) (cores : List Nat) :
    (placeTeam s l d cores).groups.length = s.groups.length + (groupPlan l.pk).length := by
  obtain ⟨gs, hgs, hlen, -⟩ := foldl_adds_groups (addGroup l (offeredTeam l s.freshId d cores)) (fun _ => True)
    (fun _ _ => ⟨_, rfl, trivial⟩) (groupPlan l.pk).zipIdx (seated s l d cores)
  have before : (seated s l d cores).groups = s.groups := congrArg Prod.snd (residents_seated s l d cores)
  rw [placeTeam_eq, hgs, before, List.length_append, hlen, List.length_zipIdx]

section Admit
variable {s : State} {lid : Nat} {l : Launch} (hl : launch? s lid = some l)
include hl

/-- The next team of a grid that is not COSCHED is placed where it may stand (R261). -/
theorem exec_teamAdmit_one {die : Nat} {cores : List Nat} (hc : l.pk.cosched = false) (hp : 0 < pendingTeams l)
    (hk : keptOff s l (nextIndex l) die = false) (ho : placeOk s l die cores = true) :
    exec (.teamAdmit lid [(die, cores)]) s = .next (placeTeam s l die cores) := by
  show execTeamAdmit lid [(die, cores)] s = _
  have one : min 1 (pendingTeams l) = 1 := Nat.min_eq_left hp
  simp [execTeamAdmit, admitTeams, admitAt, hl, hc, one, hk, ho]

/-- A COSCHED grid is placed as a whole (R29). -/
theorem exec_teamAdmit_grid {places : List (Nat × List Nat)} {t : State} (hc : l.pk.cosched = true) (hp : 0 < pendingTeams l)
    (hn : places.length = pendingTeams l) (hv : leaving s l = false) (hk : ∀ e ∈ places, keptOff s l (nextIndex l) e.1 = false)
    (ht : places.foldl (admitAt lid) (some s) = some t) : exec (.teamAdmit lid places) s = .next t := by
  show execTeamAdmit lid places s = _
  have free : (places.any fun e => keptOff s l (nextIndex l) e.1) = false := by simpa using hk
  have may : ¬(pendingTeams l = 0 ∨ places.length ≠ pendingTeams l ∨ (true && leaving s l) = true ∨
      (places.any fun e => keptOff s l (nextIndex l) e.1) = true) := by
    simp [hp.ne', hn, hv, free]
  simp only [execTeamAdmit, admitTeams, hl, hc, if_true, if_neg may, ht, Option.getD_some]

/-- A COSCHED grid is not placed in part (R29). -/
theorem exec_teamAdmit_part {places : List (Nat × List Nat)} (hc : l.pk.cosched = true) (hn : places.length ≠ pendingTeams l) :
    exec (.teamAdmit lid places) s = .next s := by
  show execTeamAdmit lid places s = _
  simp only [execTeamAdmit, admitTeams, hl, hc, if_true]
  exact congrArg Host.Outcome.next (if_pos (Or.inr (Or.inl hn)))

omit hl in
/-- A team to be admitted has waited 10 ms, from its drop or from the start of its grid (R261, R313). -/
theorem newLong_iff : newLong s l (fun _ => true) = true ↔
    l.reported = false ∧ ((∃ e ∈ l.redo, e.2 + 10000 * Config.usCycles ≤ s.now) ∨
      (l.next < gridTeams l ∧ l.since + 10000 * Config.usCycles ≤ s.now)) := by
  simp [newLong, longAgo]

theorem exec_admissionWaitExpire : exec (.admissionWaitExpire lid) s =
    .next (if newLong s l (fun _ => true) = true then modLaunch s lid fun l => { l with held := true } else s) := by
  show execAdmissionWaitExpire lid s = _
  simp only [execAdmissionWaitExpire, hl]
  cases newLong s l (fun _ => true) <;> rfl

end Admit

/-! ### Retirement -/

/-- What becomes of a team whose groups have exited, by what of its work is outstanding (R26). -/
theorem exec_teamRetire_exited {s : State} {tid : Nat} {t : Team} (ht : team? s tid = some t) (hc : t.onCores = true)
    (he : ∀ g ∈ s.groups, g.team = tid → g.ended = true) :
    exec (.teamRetire tid) s = .next (
      let u := reportStopped s t
      if countersZero u (groupsOf u tid) = false ∨ streamsEmpty u (groupsOf u tid) = false then u
      else gridEnd (modLaunch (dropTeam u tid) t.launch fun l =>
        { l with ended := l.ended + 1, faulted := l.faulted || (team? u tid).any fun t => t.faulted }) t.launch) := by
  show execTeamRetire tid s = _
  have exited : (s.groups.all fun g => g.team != tid || g.ended) = true := by
    simpa [← imp_iff_not_or] using he
  have waits : ∀ a b : Bool, (!a || !b) = true ↔ a = false ∨ b = false := by decide
  simp only [execTeamRetire, retire, ht, hc, exited, ← waits]
  rfl

/-! ### Saving -/

section Save
variable {s : State} {tid : Nat} {t : Team} (ht : team? s tid = some t)
include ht

theorem exec_preemptSave_dropping {l : Launch} (hs : t.st = .dropping) (hl : launch? s t.launch = some l) :
    exec (.preemptSave tid) s = .next (if quiet s tid then dropAgain s l t else s) := by
  show execPreemptSave tid s = _
  simp [execPreemptSave, saveTeam, ht, hs, hl]

/-- A team that stops is saved once nothing of it is outstanding, unless the last of its work ends it (R314, R315). -/
theorem exec_preemptSave_stopping (hs : t.st = .stopping) :
    exec (.preemptSave tid) s = .next (
      let u := releaseBy (stopStreams s t) t.die .pkg
      if !quiet s tid then s
      else if !countersZero u (groupsOf s tid) || !(team? u tid).any (fun t => t.st == .stopping) then u
      else modTeam (clearSaved u t (groupsOf s tid)) tid fun v =>
        { v with st := .saved v.die, since := u.now, image := (u.groups.filter fun g => g.team == tid).map imageGroup,
                 mat := (imageMatrix u t).1, tiles := (imageMatrix u t).2.1, tpois := (imageMatrix u t).2.2 }) := by
  show execPreemptSave tid s = _
  simp only [execPreemptSave, saveTeam, ht, hs]
  rfl

/-- A team of which something is outstanding stays (R217, R313). -/
theorem exec_preemptSave_waits (hs : t.st = .stopping ∨ t.st = .dropping) (hq : quiet s tid = false)
    (hl : (launch? s t.launch).isSome = true) : exec (.preemptSave tid) s = .next s := by
  obtain ⟨l, hl⟩ := Option.isSome_iff_exists.mp hl
  rcases hs with hs | hs
  · rw [exec_preemptSave_stopping ht hs, hq]
    rfl
  · rw [exec_preemptSave_dropping ht hs hl, hq]
    rfl

end Save

/-! ### Resumption -/

theorem resumeTeam_fits {s u : State} {tid die d0 : Nat} {cores : List Nat} {t : Team} {l : Launch} (ht : team? s tid = some t)
    (hs : t.st = .saved d0) (hl : launch? s t.launch = some l) (ho : placeOk s l die cores = true)
    (he : enginesFree s t die cores = true) (hk : keptOff s l (teamIndex l t) die = false) (hu : resumeOn s t d0 die cores = some u) :
    resumeTeam s tid die cores = some u := by
  simp only [resumeTeam, ht, Option.bind_some, hs, hl, ho, he, hk]
  exact hu

theorem exec_teamResume_whole {s u v : State} {tid die : Nat} {cores : List Nat} {rest : List (Nat × Nat × List Nat)}
    (hw : resumeWhole s tid (rest.map fun e => e.1) = true) (hu : resumeTeam s tid die cores = some u)
    (hv : rest.foldl (fun r e => r.bind fun s => resumeTeam s e.1 e.2.1 e.2.2) (some u) = some v) :
    exec (.teamResume tid die { cores, rest }) s = .next v := by
  show execTeamResume tid die { cores, rest } s = _
  simp only [execTeamResume, hw, if_true, hu, hv, Option.getD_some]

theorem exec_teamResume_part {s : State} {tid die : Nat} {cores : List Nat} {rest : List (Nat × Nat × List Nat)}
    (hw : resumeWhole s tid (rest.map fun e => e.1) = false) : exec (.teamResume tid die { cores, rest }) s = .next s := by
  show execTeamResume tid die { cores, rest } s = _
  simp only [execTeamResume, hw]
  rfl

/-- Settles O47: each event of a team by its own equation; a placement by what its acquires leave alone. -/
theorem teamEventsComplete : Obligations.TeamEventsComplete := by
  intro s lid tid die cores cl rest
  refine ⟨fun l hl hc hp hk ho => ⟨exec_teamAdmit_one hl hc hp hk ho, _, placeTeam_teams s l die cores, lid_of_launch? hl,
      rfl, rfl, rfl, rfl, rfl, rfl, placeTeam_groups_length s l die cores⟩,
    fun l hl => ⟨fun hd => ?_, fun hd => ?_⟩,
    fun l places t hl => exec_teamAdmit_grid hl,
    fun l places hl => exec_teamAdmit_part hl,
    fun t ht hc he => ⟨fun hw => ?_, fun hz hs => ?_⟩,
    rfl,
    fun t l c ht hl hc => ?_,
    fun t => exec_preemptSave_waits,
    fun t l ht hs hl hq => ?_,
    fun t ht hs hq hz ⟨v, hv, hvs⟩ => ?_,
    fun t l d0 u ht hs hl ho he hk hu => ?_,
    fun hw u v => exec_teamResume_whole hw,
    exec_teamResume_part⟩
  · rw [exec_admissionWaitExpire hl, if_neg (mt newLong_iff.mp hd)]
  · rw [exec_admissionWaitExpire hl, if_pos (newLong_iff.mpr hd)]
  · rw [exec_teamRetire_exited ht hc he, if_pos hw]
  · rw [exec_teamRetire_exited ht hc he, if_neg (by simp [hz, hs])]
  · refine ⟨fun h => ?_, fun h hf => ?_, fun h hf => ?_, fun h => ?_⟩ <;> simp only [preemptTeam, hl, hc, h]
    · exact if_neg hf
    · exact if_pos hf
  · rw [exec_preemptSave_dropping ht hs hl, if_pos hq]
  · exact (exec_preemptSave_stopping ht hs).trans (congrArg Host.Outcome.next
      ((if_neg (by simp [hq])).trans (if_neg (by simp [hz, hv, hvs]))))
  · have back := resumeTeam_fits ht hs hl ho he hk hu
    exact ⟨back, fun hw => exec_teamResume_whole hw back rfl⟩

end Sys2Proof.Machine
end

section
/-! Waits, barrier phases, turns and the walker (O42). -/
namespace Sys2Proof.Machine

/-! ### Timelines -/

section Twait
variable {s : State} {die t : Nat}

/-- A die that does not answer announces nothing (R327). -/
theorem exec_twaitWake_down (hd : die < 16) (hu : dieUp s die = false) : exec (.twaitWake die t) s = .next s :=
  congrArg Host.Outcome.next (if_pos ⟨hd, by simp [hu]⟩)

theorem exec_twaitWake_up (hd : die < 16) (hu : dieUp s die = true) : exec (.twaitWake die t) s =
    .next ((groupExecs s ++ unitExecs s).foldl (wakeTwait die t (tlGet s die t)) s) := by
  show execTwaitWake die t s = _
  rw [execTwaitWake, if_neg (by simp [hu]), tlSeen, if_pos hd]

/-- What a timeline of another module announces is a free value (R177; log entry 9). -/
theorem exec_twaitWake_far (hd : 16 ≤ die) : ∃ (v : W64) (u : State), u = { s with freeCtr := u.freeCtr } ∧
    exec (.twaitWake die t) s = .next ((groupExecs u ++ unitExecs u).foldl (wakeTwait die t v) u) := by
  have far : ¬die < 16 := Nat.not_lt.mpr hd
  refine ⟨(tlSeen s die t).1, (tlSeen s die t).2, ?_, congrArg Host.Outcome.next (if_neg fun h => far h.1)⟩
  rw [tlSeen, if_neg far]
  rfl

theorem wakeTwait_twait {x : Ex} {d n : Nat} {want : W64} {sd : Nat} {sc : Scope} (v : W64) (hw : x.p.wait = .twait d n want sd sc) :
    wakeTwait die t v s x = if d = die ∧ n = t ∧ want.toNat ≤ v.toNat then endWait s x [(sd, v, false)] (some sc) else s := by
  simp only [wakeTwait, hw]

end Twait

/-! ### Lines -/

section Wchg
variable {s : State} {gid pid : Nat} {x : Ex} {pl : Place} {n : Nat} {want : W64} {sd since : Nat} {acq : Bool} {sc : Scope} {ch : BitVec 2}

/-- What keeps a `wchg` waiting: its line is away or absent, its home does not answer, or its team is to be saved (R178, R229, R314). -/
def wchgStays (s : State) (x : Ex) (pl : Place) : Bool := leasedAway s x.die pl || placeAbsent s pl || homeSilent s x.die pl || beingSaved s x

/-- A `wchg` that ends with a status, after a read of its line (R229). -/
def wchgEnds (s : State) (x : Ex) (pl : Place) (n sd : Nat) (acq : Bool) (sc : Scope) (ch : BitVec 2) (status : W64) : State :=
  let r := waitRead s x pl n sc ch
  endWait r.2 x [(sd, r.1.1, r.1.2), (sd + 1, status, false)] (if acq then some sc else none)

variable (hx : pathEx s gid pid = some x) (hw : x.p.wait = .wchg pl n want sd since acq sc ch)
include hx hw

theorem exec_wchgWake_waiting : exec (.wchgWake gid pid) s = .next (
    if placeLost s x.die pl then modPath s x.who x.p.pid fun p => { p with wait := .run }
    else if wchgStays s x pl then s
    else if (waitRead s x pl n sc ch).1.1 = want then (waitRead s x pl n sc ch).2 else wchgEnds s x pl n sd acq sc ch 0) := by
  show execWchgWake gid pid s = _
  simp only [execWchgWake, hx, wakeWchg, hw]
  rfl

theorem exec_wchgTimeout_early (hn : clk s x.die < since + 2 ^ 20) : exec (.wchgTimeout gid pid) s = .next s := by
  show execWchgTimeout gid pid s = _
  simp only [execWchgTimeout, hx, timeoutWchg, hw, decide_eq_true hn]
  rfl

theorem exec_wchgTimeout_late (hn : since + 2 ^ 20 ≤ clk s x.die) (hs : wchgStays s x pl = false) :
    exec (.wchgTimeout gid pid) s =
      .next (wchgEnds s x pl n sd acq sc ch (if (waitRead s x pl n sc ch).1.1 = want then 1 else 0)) := by
  show execWchgTimeout gid pid s = _
  simp only [wchgStays, Bool.or_eq_false_iff] at hs
  obtain ⟨⟨⟨hl, ha⟩, hq⟩, hb⟩ := hs
  simp only [execWchgTimeout, hx, timeoutWchg, hw, decide_eq_false (Nat.not_lt.mpr hn), hl, ha, hq, hb]
  rfl

end Wchg

/-! ### Rings -/

section Ring
variable {s : State} {x : Ex} {g : Group} {tm : Team} {st : Stage} {t k j sl : Nat}

/-- The waiter that has waited longest for what a stage now offers takes it (R252). -/
theorem exec_racqGrant_first {w : Nat × Nat × Nat × Nat × Nat × Nat} {n kk cc sd gidx : Nat} (ht : team? s t = some tm)
    (hst : stage? tm k j = some st) (ho : st.st = 0 ∨ st.st = 2)
    (hf : firstWaiter s (s.waiters.filter fun w => w.1 == t && w.2.1 == k && w.2.2.1 == j && waitsIn s (st.st == 2) w) = some w)
    (hg : grp? s w.2.2.2.1 = some g) (hsl : slotOf g w.2.2.2.2.1 = some sl) (hx : exOf s (.grp g.gid sl) = some x)
    (hw : x.p.wait = .racq n kk cc sd (st.st == 2) gidx) : exec (.racqGrant t k j) s =
      .next (takeStage { s with waiters := s.waiters.filter fun v => v != w } x tm st k j sd (st.st == 2)) := by
  have offers : ¬(st.st ≠ 0 ∧ st.st ≠ 2) := by omega
  show execRacqGrant t k j s = _
  simp only [execRacqGrant, grantRacq, ht, hst, if_neg offers, hf, hg, hsl, hx, hw]

/-- A waiting `rrel` makes its change once the ring's accesses and lines are there (R253). -/
theorem exec_rrelComplete_waiting {gid pid : Nat} (hg : grp? s gid = some g) (hsl : slotOf g pid = some sl)
    (hx : exOf s (.grp gid sl) = some x) (hw : x.p.wait = .rrel t k j) (ht : team? s t = some tm) (hst : stage? tm k j = some st) :
    (rrelReady s x g st = false → exec (.rrelComplete gid pid) s = .next s) ∧
    (∀ u, rrelReady s x g st = true → giveStage s x tm st k j = .ok u → exec (.rrelComplete gid pid) s = .next u) := by
  refine ⟨fun hr => ?_, fun u hr hu => ?_⟩
  · show execRrelComplete gid pid s = _
    simp only [execRrelComplete, completeRrel, hg, hsl, Option.bind_some, hx, hw, ht, hst, hr]
    rfl
  · show execRrelComplete gid pid s = _
    simp only [execRrelComplete, completeRrel, hg, hsl, Option.bind_some, hx, hw, ht, hst, hr, hu]
    rfl

end Ring

/-! ### Queues and threads -/

/-- The test of the WAITGE packet that a queue waits for (R258). -/
theorem exec_waitgeComplete_waiting {s u : State} {die qid n : Nat} {q : Queue} {p : Packet} {va v : W64} (hq : queue? s die qid = some q)
    (hp : q.packets.find? (fun p => p.waitTl.isSome) = some p) (hw : p.waitTl = some (va, v)) (hv : queueTlValue s q va = some (n, u)) :
    exec (.waitgeComplete die qid) s = .next (if v.toNat ≤ n then
      settleQueue (modPacket (modQueue u q.die q.qid fun q => { q with waited := true }) q.die q.qid p.seq
        fun p => { p with waitTl := none }) q.die q.qid else u) := by
  show execWaitgeComplete die qid s = _
  simp only [execWaitgeComplete, hq, waitgeTest, hp, waitgeDone, hw, hv]

/-- A sleeping thread wakes with the events that have arrived (R278). -/
theorem exec_qsleepWake_asleep {s : State} {die t sd : Nat} {q : QThread} {x : Ex} (hq : qt? s die t = some q)
    (hx : exOf s (.qthr die t) = some x) (ha : q.asleep = some sd) :
    exec (.qsleepWake die t) s = .next (if q.arrived = 0 then s else wakeThread s x q sd) := by
  show execQsleepWake die t s = _
  simp only [execQsleepWake, hq, hx, ha]

/-! ### Barriers -/

/-- A phase ends once every participant has reached it (R230, R266). -/
theorem exec_barrierPhaseComplete_resident {s : State} {tid b : Nat} {t : Team} (ht : team? s tid = some t) (hr : t.st = .resident) :
    exec (.barrierPhaseComplete tid b) s = .next (
      let parts := participants s t ((barOf t b).roles.getD 0)
      let aborted := parts.any fun g => t.killed.contains g.gid
      if phaseDone s t b = false then s
      else parts.foldl (fun s g => modGrp (acquireNear s g.die g.core) g.gid fun g => wakeBarrier b (endPhase b aborted g))
        (modBar s tid b fun x => { Bar.fresh with phase := !x.phase, aborted })) := by
  show execBarrierPhaseComplete tid b s = _
  simp only [execBarrierPhaseComplete, completePhase, ht, hr]
  cases phaseDone s t b <;> rfl

/-- Flipping one bit. -/
theorem getLsbD_flip (m : W64) {i : Nat} (k : Nat) (hi : i < 64) :
    (m ^^^ BitVec.ofNat 64 (2 ^ i)).getLsbD k = if k = i then !m.getLsbD k else m.getLsbD k := by
  rw [BitVec.getLsbD_xor, getLsbD_bit i k hi]
  by_cases h : k = i <;> simp [h]

/-- The bits of BARST at the end of a phase: ARR clears, PHASE turns over, AB gathers an abort (R231). -/
theorem endPhase_barst {b k : Nat} (g : Group) (ab : Bool) (hb : b < 8) (hk : k < 64) :
    (endPhase b ab g).barst.getLsbD k =
      if k = b then false else if k = 8 + b then !g.barst.getLsbD k else if k = 16 + b then g.barst.getLsbD k || ab else g.barst.getLsbD k := by
  have turned : (putBit (g.barst ^^^ BitVec.ofNat 64 (2 ^ (8 + b))) b false).getLsbD k =
      if k = b then false else if k = 8 + b then !g.barst.getLsbD k else g.barst.getLsbD k := by
    rw [putBit_get _ _ _ _ (by omega), getLsbD_flip _ _ (by omega)]
  cases ab with
  | false =>
    rw [show (endPhase b false g).barst = putBit (g.barst ^^^ BitVec.ofNat 64 (2 ^ (8 + b))) b false from rfl, turned]
    simp
  | true =>
    rw [show (endPhase b true g).barst = putBit (putBit (g.barst ^^^ BitVec.ofNat 64 (2 ^ (8 + b))) b false) (16 + b) true from rfl,
      putBit_get _ _ _ _ (by omega), turned]
    by_cases hab : k = 16 + b
    · subst hab
      simp
    · simp [hab]

/-- One path of the list wakes, if it waits for the barrier. -/
def wakePath (b : Nat) (g : Group) (p : Path) : Group :=
  if p.wait = .barrier b then g.modPid p.pid fun p => { p with wait := .run } else g

theorem wakeBarrier_eq (b : Nat) (g : Group) : wakeBarrier b g = g.allPaths.foldl (wakePath b) g := rfl

theorem wakeBarrier_barst (b : Nat) (g : Group) : (wakeBarrier b g).barst = g.barst := by
  rw [wakeBarrier_eq]
  refine List.foldlRecOn (motive := fun (h : Group) => h.barst = g.barst) _ _ rfl fun h ih p _ => ?_
  unfold wakePath
  split
  · exact ih
  · exact ih

/-- The paths of a group's level after a change of those with an identifier. -/
theorem modPid_paths (g : Group) (pid : Nat) (f : Path → Path) :
    (g.modPid pid f).stack.paths = g.stack.paths.map fun p => if p.pid = pid then f p else p := by
  simp only [Group.modPid, Stack.modPid, Stack.paths, List.map_append, Option.toList_map, List.filterMap_map, List.map_filterMap]
  congr 2
  funext e
  cases e <;> rfl

/-- A path that still waits for the barrier stood there before, and bears the identifier of none that has been woken. -/
theorem waits_after_wakes {b : Nat} {q : Path} (hq : q.wait = .barrier b) (l : List Path) (g : Group)
    (hm : q ∈ (l.foldl (wakePath b) g).stack.paths) : q ∈ g.stack.paths ∧ ∀ p ∈ l, p.wait = .barrier b → p.pid ≠ q.pid := by
  induction l generalizing g with
  | nil => exact ⟨hm, by simp⟩
  | cons p l ih =>
    obtain ⟨hp, hl⟩ := ih (wakePath b g p) hm
    by_cases hw : p.wait = .barrier b
    · rw [wakePath, if_pos hw, modPid_paths, List.mem_map] at hp
      obtain ⟨r, hr, rfl⟩ := hp
      by_cases hpid : r.pid = p.pid
      · simp [hpid] at hq
      · simp only [if_neg hpid] at hl ⊢
        exact ⟨hr, List.forall_mem_cons.mpr ⟨fun _ => Ne.symm hpid, hl⟩⟩
    · rw [wakePath, if_neg hw] at hp
      exact ⟨hp, List.forall_mem_cons.mpr ⟨fun h => absurd h hw, hl⟩⟩

/-- No path of a woken group waits for the barrier any more. -/
theorem wakeBarrier_wakes (b : Nat) (g : Group) : ∀ p ∈ (wakeBarrier b g).stack.paths, p.wait ≠ .barrier b := by
  intro q hq hw
  obtain ⟨hin, hnone⟩ := waits_after_wakes hw g.allPaths g hq
  exact hnone q (List.mem_append_left _ hin) hw rfl

/-! ### Handlers -/

theorem exec_trapEntry_pending {s : State} {gid pid : Nat} {g : Group} {p : Path} {d : Pend} (hg : grp? s gid = some g)
    (hp : g.stack.paths.find? (fun p => p.pid == pid) = some p) (hd : p.pend = some d) :
    exec (.trapEntry gid pid) s = .next ((tryEnter s g p d.trap d.pc d.resume).getD (askHandler s g p d.trap)) := by
  show execTrapEntry gid pid s = _
  simp only [execTrapEntry, enterPending, hg, hp, hd]

/-! ### The walker -/

/-- A core after a change of that core. -/
theorem core?_modCore_self {s : State} {d k : Nat} {c : Core} (f : Core → Core) (hf : ∀ c, (f c).die = c.die ∧ (f c).core = c.core)
    (h : core? s d k = some c) : core? (modCore s d k f) d k = some (f c) := by
  rw [core?, modCore_cores, find?_modWhere _ _ _ _ (by simp [hf])]
  have key : (c.die == d && c.core == k) = true := List.find?_some (p := fun x : Core => x.die == d && x.core == k) h
  rw [show s.cores.find? (fun x => x.die == d && x.core == k) = some c from h, Option.map_some, if_pos key]

section Walker
variable {s : State} {die core : Nat} {c : Core} {d : Die} {m : Miss} {rest : List Miss}
variable (hc : core? s die core = some c) (hd : die? s die = some d) (hw : c.walk = none) (hq : c.missQ = m :: rest)
include hc hd hw hq

/-- The vendor routine serves the oldest request at once (R294; log entry 43). -/
theorem exec_walkerRequest_vendor (hn : d.walker = none) : exec (.walkerRequest die core) s =
    .next (vendorWalk (modCore s die core fun c => { c with missQ := rest }) die core m) := by
  have routine : (die? (modCore s die core fun c => { c with missQ := rest }) die).bind (fun d => d.walker) = none := by
    rw [show die? (modCore s die core fun c => { c with missQ := rest }) die = some d from hd, Option.bind_some, hn]
  show execWalkerRequest die core s = _
  simp only [execWalkerRequest, serveMiss, hc, hw, hq, routine]
  rfl

/-- A routine of the die kernel starts as the walker's group (R293). -/
theorem exec_walkerRequest_routine {h : W64} (hh : d.walker = some h) : exec (.walkerRequest die core) s =
    .next (let u := modCore { modCore s die core fun c => { c with missQ := rest } with freshId := s.freshId + 1 } die core
             fun c => { c with walk := some m }
           { u with groups := u.groups ++ [walkerGroup u die core m h s.freshId] }) := by
  have routine : (die? (modCore s die core fun c => { c with missQ := rest }) die).bind (fun d => d.walker) = some h := by
    rw [show die? (modCore s die core fun c => { c with missQ := rest }) die = some d from hd, Option.bind_some, hh]
  show execWalkerRequest die core s = _
  simp only [execWalkerRequest, serveMiss, hc, hw, hq, routine]
  rfl

end Walker

/-- Settles O42: each wait, phase, exchange and request by its own equation. -/
theorem wakesAndTurnsComplete : Obligations.WakesAndTurnsComplete := by
  refine ⟨fun s gid pid die t qid k j x => ⟨exec_twaitWake_down, exec_twaitWake_up, exec_twaitWake_far, ?_, ?_, ?_, ?_, ?_, ?_⟩,
    fun s tid b t ht hr hb => ?_, fun s gid pid g hg => ?_, fun s die core c d m rest hc hd hw hq => ?_⟩
  · intro d n want sd sc v hw
    rw [wakeTwait_twait v hw]
    exact ⟨fun h1 h2 h3 => if_pos ⟨h1, h2, h3⟩, fun h => if_neg (by omega)⟩
  · intro pl n want sd since acq sc ch hx hw stays r ends
    have wake := exec_wchgWake_waiting hx hw
    refine ⟨fun hl => ?_, fun hl hs => ?_, fun hl hs => ⟨fun hv => ?_, fun hv => ?_⟩, exec_wchgTimeout_early hx hw,
      fun hn hs => ⟨fun hv => ?_, fun hv => ?_⟩⟩
    · rw [wake, if_pos hl]
    · rw [wake, hl, show wchgStays s x pl = true from hs]; rfl
    · rw [wake, hl, show wchgStays s x pl = false from hs, if_pos hv]; rfl
    · rw [wake, hl, show wchgStays s x pl = false from hs, if_neg hv]; rfl
    · rw [exec_wchgTimeout_late hx hw hn hs, if_pos hv]; rfl
    · rw [exec_wchgTimeout_late hx hw hn hs, if_neg hv]; rfl
  · exact fun tm st w g sl sd kk cc n ht hst ho hf hg hsl hx hw => exec_racqGrant_first ht hst ho hf hg hsl hx hw
  · intro g sl tm st u hg hsl hx hw ht hst
    obtain ⟨waits, changes⟩ := exec_rrelComplete_waiting hg hsl hx hw ht hst
    exact ⟨waits, changes u⟩
  · intro q p va v n u hq hp hw hv
    rw [exec_waitgeComplete_waiting hq hp hw hv]
    exact ⟨fun h => by rw [if_pos h], fun h => by rw [if_neg (Nat.not_le.mpr h)]⟩
  · intro q sd hq hx ha
    rw [exec_qsleepWake_asleep hq hx ha]
    exact ⟨fun h => by rw [if_pos h], fun h => by rw [if_neg h]; rfl⟩
  · intro parts aborted
    have ends := exec_barrierPhaseComplete_resident (b := b) ht hr
    refine ⟨fun hp => ends.trans (congrArg Host.Outcome.next (if_pos hp)), fun hp => ends.trans (congrArg Host.Outcome.next (if_neg ?_)),
      fun g k ab hk => ⟨endPhase_barst g ab hb hk, wakeBarrier_barst b g, wakeBarrier_wakes b g⟩⟩
    simp [hp]
  · intro turned
    refine ⟨rfl, rfl, fun p d hp hd => ⟨fun t ht => ?_, fun ht => ?_⟩⟩ <;> rw [exec_trapEntry_pending hg hp hd, ht]
    · rfl
    · rfl
  · intro u
    refine ⟨exec_walkerRequest_vendor hc hd hw hq, fun h hh => ⟨_, _, _, exec_walkerRequest_routine hc hd hw hq hh, rfl, ?_,
      rfl, rfl, rfl, rfl, rfl, rfl, rfl, rfl, rfl, rfl, rfl, rfl, rfl⟩⟩
    exact core?_modCore_self (fun c => { c with walk := some m }) (fun _ => ⟨rfl, rfl⟩)
      (core?_modCore_self (fun c => { c with missQ := rest }) (fun _ => ⟨rfl, rfl⟩) hc)

end Sys2Proof.Machine
end

section
/-! The words of the machine (O53, O54): the fields of each format and what they spell, the readers of the opcode map, and that
decoding and encoding are inverse to each other. -/
namespace Sys2Proof

/-! ### Fields -/

/-- A field of a word, by its number. -/
theorem extractLsb'_eq_of_toNat {n lo len : Nat} {b : BitVec n} {f : BitVec len} (h : b.toNat / 2 ^ lo % 2 ^ len = f.toNat) :
    b.extractLsb' lo len = f :=
  BitVec.eq_of_toNat_eq (by rw [BitVec.extractLsb'_toNat, Nat.shiftRight_eq_div_pow, h])

/-- The field of `len` bits at bit `lo`, and what stands below it. -/
theorem field_add_low {n : Nat} (b : BitVec n) (lo len : Nat) :
    (b.extractLsb' lo len).toNat * 2 ^ lo + b.toNat % 2 ^ lo = b.toNat % 2 ^ (lo + len) := by
  rw [BitVec.extractLsb'_toNat, Nat.shiftRight_eq_div_pow, Nat.pow_add, Nat.mod_mul, Nat.mul_comm, Nat.add_comm]

/-- The lowest field. -/
theorem low_field {n : Nat} (b : BitVec n) (len : Nat) : (b.extractLsb' 0 len).toNat = b.toNat % 2 ^ len := by
  rw [BitVec.extractLsb'_toNat, Nat.shiftRight_zero]

theorem Word.of_bits (f : Word) : Word.of f.bits = f := by
  have hb : f.bits.toNat = _ := BitVec.toNat_ofNat ..
  generalize f.bits = b at hb
  cases f; dsimp only at hb
  refine Word.mk.injEq .. ▸ ⟨?_, ?_, ?_, ?_, ?_, ?_, ?_⟩ <;> exact extractLsb'_eq_of_toNat (by omega)

theorem Word.bits_of (w : W64) : (Word.of w).bits = w := by
  simp only [Word.bits, Word.of, field, Nat.add_assoc, low_field, field_add_low, Nat.reduceAdd, Nat.mod_eq_of_lt w.isLt,
    BitVec.ofNat_toNat, BitVec.setWidth_eq]

theorem FVR.of_bits (f : FVR) : FVR.of f.bits = f := by
  have hb : f.bits.toNat = _ := BitVec.toNat_ofNat ..
  generalize f.bits = b at hb
  cases f; dsimp only at hb
  refine FVR.mk.injEq .. ▸ ⟨?_, ?_, ?_, ?_, ?_, ?_⟩ <;> exact extractLsb'_eq_of_toNat (by omega)

theorem FVR.bits_of (b : BitVec 45) : (FVR.of b).bits = b := by
  simp only [FVR.bits, FVR.of, Nat.add_assoc, low_field, field_add_low, Nat.reduceAdd, Nat.mod_eq_of_lt b.isLt, BitVec.ofNat_toNat,
    BitVec.setWidth_eq]

theorem FVI.of_bits (f : FVI) : FVI.of f.bits = f := by
  have hb : f.bits.toNat = _ := BitVec.toNat_ofNat ..
  generalize f.bits = b at hb
  cases f; dsimp only at hb
  refine FVI.mk.injEq .. ▸ ⟨?_, ?_, ?_, ?_⟩ <;> exact extractLsb'_eq_of_toNat (by omega)

theorem FVI.bits_of (b : BitVec 45) : (FVI.of b).bits = b := by
  simp only [FVI.bits, FVI.of, Nat.add_assoc, low_field, field_add_low, Nat.reduceAdd, Nat.mod_eq_of_lt b.isLt, BitVec.ofNat_toNat,
    BitVec.setWidth_eq]

theorem FVL.of_bits (f : FVL) : FVL.of f.bits = f := by
  have hb : f.bits.toNat = _ := BitVec.toNat_ofNat ..
  generalize f.bits = b at hb
  cases f; dsimp only at hb
  refine FVL.mk.injEq .. ▸ ⟨?_, ?_, ?_, ?_⟩ <;> exact extractLsb'_eq_of_toNat (by omega)

theorem FVL.bits_of (b : BitVec 45) : (FVL.of b).bits = b := by
  simp only [FVL.bits, FVL.of, Nat.add_assoc, low_field, field_add_low, Nat.reduceAdd, Nat.mod_eq_of_lt b.isLt, BitVec.ofNat_toNat,
    BitVec.setWidth_eq]

theorem FSR.of_bits (f : FSR) : FSR.of f.bits = f := by
  have hb : f.bits.toNat = _ := BitVec.toNat_ofNat ..
  generalize f.bits = b at hb
  cases f; dsimp only at hb
  refine FSR.mk.injEq .. ▸ ⟨?_, ?_, ?_, ?_, ?_, ?_⟩ <;> exact extractLsb'_eq_of_toNat (by omega)

theorem FSR.bits_of (b : BitVec 45) : (FSR.of b).bits = b := by
  simp only [FSR.bits, FSR.of, Nat.add_assoc, low_field, field_add_low, Nat.reduceAdd, Nat.mod_eq_of_lt b.isLt, BitVec.ofNat_toNat,
    BitVec.setWidth_eq]

theorem FSI.of_bits (f : FSI) : FSI.of f.bits = f := by
  have hb : f.bits.toNat = _ := BitVec.toNat_ofNat ..
  generalize f.bits = b at hb
  cases f; dsimp only at hb
  refine FSI.mk.injEq .. ▸ ⟨?_, ?_, ?_⟩ <;> exact extractLsb'_eq_of_toNat (by omega)

theorem FSI.bits_of (b : BitVec 45) : (FSI.of b).bits = b := by
  simp only [FSI.bits, FSI.of, Nat.add_assoc, low_field, field_add_low, Nat.reduceAdd, Nat.mod_eq_of_lt b.isLt, BitVec.ofNat_toNat,
    BitVec.setWidth_eq]

theorem FSL.of_bits (f : FSL) : FSL.of f.bits = f := by
  have hb : f.bits.toNat = _ := BitVec.toNat_ofNat ..
  generalize f.bits = b at hb
  cases f; dsimp only at hb
  refine FSL.mk.injEq .. ▸ ⟨?_, ?_, ?_, ?_⟩ <;> exact extractLsb'_eq_of_toNat (by omega)

theorem FSL.bits_of (b : BitVec 45) : (FSL.of b).bits = b := by
  simp only [FSL.bits, FSL.of, Nat.add_assoc, low_field, field_add_low, Nat.reduceAdd, Nat.mod_eq_of_lt b.isLt, BitVec.ofNat_toNat,
    BitVec.setWidth_eq]

theorem FMR.of_bits (f : FMR) : FMR.of f.bits = f := by
  have hb : f.bits.toNat = _ := BitVec.toNat_ofNat ..
  generalize f.bits = b at hb
  cases f; dsimp only at hb
  refine FMR.mk.injEq .. ▸ ⟨?_, ?_, ?_, ?_, ?_, ?_, ?_, ?_⟩ <;> exact extractLsb'_eq_of_toNat (by omega)

theorem FMR.bits_of (b : BitVec 45) : (FMR.of b).bits = b := by
  simp only [FMR.bits, FMR.of, Nat.add_assoc, low_field, field_add_low, Nat.reduceAdd, Nat.mod_eq_of_lt b.isLt, BitVec.ofNat_toNat,
    BitVec.setWidth_eq]

theorem FME.of_bits (f : FME) : FME.of f.bits = f := by
  have hb : f.bits.toNat = _ := BitVec.toNat_ofNat ..
  generalize f.bits = b at hb
  cases f; dsimp only at hb
  refine FME.mk.injEq .. ▸ ⟨?_, ?_, ?_, ?_, ?_, ?_, ?_, ?_, ?_, ?_⟩ <;> exact extractLsb'_eq_of_toNat (by omega)

theorem FME.bits_of (b : BitVec 45) : (FME.of b).bits = b := by
  simp only [FME.bits, FME.of, Nat.add_assoc, low_field, field_add_low, Nat.reduceAdd, Nat.mod_eq_of_lt b.isLt, BitVec.ofNat_toNat,
    BitVec.setWidth_eq]

theorem FBR.of_bits (f : FBR) : FBR.of f.bits = f := by
  have hb : f.bits.toNat = _ := BitVec.toNat_ofNat ..
  generalize f.bits = b at hb
  cases f; dsimp only at hb
  refine FBR.mk.injEq .. ▸ ⟨?_, ?_, ?_, ?_⟩ <;> exact extractLsb'_eq_of_toNat (by omega)

theorem FBR.bits_of (b : BitVec 45) : (FBR.of b).bits = b := by
  simp only [FBR.bits, FBR.of, Nat.add_assoc, low_field, field_add_low, Nat.reduceAdd, Nat.mod_eq_of_lt b.isLt, BitVec.ofNat_toNat,
    BitVec.setWidth_eq]

theorem FMX.of_bits (f : FMX) : FMX.of f.bits = f := by
  have hb : f.bits.toNat = _ := BitVec.toNat_ofNat ..
  generalize f.bits = b at hb
  cases f; dsimp only at hb
  refine FMX.mk.injEq .. ▸ ⟨?_, ?_, ?_, ?_, ?_, ?_, ?_, ?_, ?_⟩ <;> exact extractLsb'_eq_of_toNat (by omega)

theorem FMX.bits_of (b : BitVec 45) : (FMX.of b).bits = b := by
  simp only [FMX.bits, FMX.of, Nat.add_assoc, low_field, field_add_low, Nat.reduceAdd, Nat.mod_eq_of_lt b.isLt, BitVec.ofNat_toNat,
    BitVec.setWidth_eq]

theorem FSY.of_bits (f : FSY) : FSY.of f.bits = f := by
  have hb : f.bits.toNat = _ := BitVec.toNat_ofNat ..
  generalize f.bits = b at hb
  cases f; dsimp only at hb
  refine FSY.mk.injEq .. ▸ ⟨?_, ?_, ?_, ?_⟩ <;> exact extractLsb'_eq_of_toNat (by omega)

theorem FSY.bits_of (b : BitVec 45) : (FSY.of b).bits = b := by
  simp only [FSY.bits, FSY.of, Nat.add_assoc, low_field, field_add_low, Nat.reduceAdd, Nat.mod_eq_of_lt b.isLt, BitVec.ofNat_toNat,
    BitVec.setWidth_eq]

theorem FQF.of_bits (f : FQF) : FQF.of f.bits = f := by
  have hb : f.bits.toNat = _ := BitVec.toNat_ofNat ..
  generalize f.bits = b at hb
  cases f; dsimp only at hb
  refine FQF.mk.injEq .. ▸ ⟨?_, ?_, ?_, ?_, ?_⟩ <;> exact extractLsb'_eq_of_toNat (by omega)

theorem FQF.bits_of (b : BitVec 45) : (FQF.of b).bits = b := by
  simp only [FQF.bits, FQF.of, Nat.add_assoc, low_field, field_add_low, Nat.reduceAdd, Nat.mod_eq_of_lt b.isLt, BitVec.ofNat_toNat,
    BitVec.setWidth_eq]

/-! ### Codes -/

theorem intTy?_eq_some {c : BitVec 4} {t : IntTy} : intTy? c = some t ↔ t.code = c := by cases t <;> revert c <;> decide
theorem fpTy?_eq_some {c : BitVec 4} {t : FpTy} : fpTy? c = some t ↔ t.code = c := by cases t <;> revert c <;> decide
theorem matTy?_eq_some {c : BitVec 4} {t : MatTy} : matTy? c = some t ↔ t.code = c := by
  cases t with
  | int => revert c; decide
  | fp t => cases t <;> revert c <;> decide
theorem roundMode?_eq_some {c : BitVec 3} {t : RoundMode} : roundMode? c = some t ↔ t.code = c := by cases t <;> revert c <;> decide
theorem scope?_eq_some {c : BitVec 3} {t : Scope} : scope? c = some t ↔ t.code = c := by cases t <;> revert c <;> decide
theorem memOrd?_eq_some {c : BitVec 2} {t : MemOrd} : memOrd? c = some t ↔ t.code = c := by cases t <;> revert c <;> decide
theorem memSize?_eq_some {c : BitVec 3} {t : MemSize} : memSize? c = some t ↔ t.code = c := by cases t <;> revert c <;> decide
theorem cnd?_eq_some {c : BitVec 3} {t : Cnd} : cnd? c = some t ↔ t.code = c := by cases t <;> revert c <;> decide
theorem fcnd?_eq_some {c : BitVec 3} {t : FCnd} : fcnd? c = some t ↔ t.code = c := by cases t <;> revert c <;> decide
theorem atomOp?_eq_some {c : BitVec 8} {t : AtomOp} : atomOp? c = some t ↔ t.code = c := by cases t <;> revert c <;> decide
theorem scanOp?_eq_some {c : BitVec 3} {t : ScanOp} : scanOp? c = some t ↔ t.code = c := by cases t <;> revert c <;> decide

/-- A flag survives its one-bit field. -/
theorem bit_decide (x : BitVec 1) : bit (decide (x = 1)) = x := by revert x; decide
theorem decide_bit (b : Bool) : decide (bit b = 1) = b := by cases b <;> rfl

theorem Word.head_eq (w : Word) : headWord w.opc w.head w.body = w.bits := by
  simp only [headWord, Word.head, bit_decide]

/-! ### The guards of a reader -/

section
variable {i : Instr}

theorem zero_ok {b : Bool} {k : Except Reject Instr} : zero b k = .ok i ↔ b = true ∧ k = .ok i := by
  cases b <;> simp [zero]

theorem want_ok {α : Type} {o : Option α} {k : α → Except Reject Instr} : want o k = .ok i ↔ ∃ a, o = some a ∧ k a = .ok i := by
  cases o <;> simp [want]

/-- A scalar register's number fits a vector field whose two upper bits are zero. -/
theorem setWidth_of_high_zero {v : BitVec 8} (h : v.extractLsb' 6 2 = 0) : (v.setWidth 6).setWidth 8 = v := by
  revert h v; decide

theorem high_zero_of_sreg (s : SReg) : (s.setWidth 8).extractLsb' 6 2 = 0#2 := by revert s; decide

theorem asSReg_ok {v : BitVec 8} {k : SReg → Except Reject Instr} : asSReg v k = .ok i ↔ ∃ s : SReg, v = s.setWidth 8 ∧ k s = .ok i := by
  rw [asSReg, zero_ok, beq_iff_eq]
  constructor
  · exact fun ⟨hz, hk⟩ => ⟨_, (setWidth_of_high_zero hz).symm, hk⟩
  · rintro ⟨s, rfl, hk⟩
    rw [BitVec.setWidth_setWidth_of_le _ (by decide), BitVec.setWidth_eq]
    exact ⟨high_zero_of_sreg s, hk⟩

theorem ite_error_ok {p : Prop} [Decidable p] {r : Reject} {k : Except Reject Instr} : (if p then .error r else k) = .ok i ↔ ¬p ∧ k = .ok i := by
  split <;> simp_all

section Guards
variable {opc : BitVec 8} {la : BitVec 4} {hb ha : BitVec 1} {pred : BitVec 4} {neg : BitVec 1} {body : BitVec 45}

theorem plain_ok {k : Except Reject Instr} :
    plain ⟨opc, la, hb, ha, pred, neg, body⟩ k = .ok i ↔ (la = 0 ∧ hb = 0 ∧ ha = 0 ∧ pred = 0 ∧ neg = 0) ∧ k = .ok i := by
  simp only [plain, ite_error_ok, not_or, not_not, and_assoc]

theorem laOnly_ok {k : BitVec 4 → Except Reject Instr} :
    laOnly ⟨opc, la, hb, ha, pred, neg, body⟩ k = .ok i ↔ (hb = 0 ∧ ha = 0 ∧ pred = 0 ∧ neg = 0) ∧ k la = .ok i := by
  simp only [laOnly, ite_error_ok, not_or, not_not, and_assoc]

theorem holdOnly_ok {a : Bool} {k : Bool → Except Reject Instr} (h : holdOnly a ⟨opc, la, hb, ha, pred, neg, body⟩ k = .ok i) :
      ∃ h, (la = 0 ∧ hb = bit (!a && h) ∧ ha = bit (a && h) ∧ pred = 0 ∧ neg = 0) ∧ k h = .ok i := by
  cases a with
  | true =>
    simp only [holdOnly, ite_error_ok, not_or, not_not, if_true] at h
    obtain ⟨hla, ⟨hp, hn⟩, hhb, hk⟩ := h
    exact ⟨_, ⟨hla, hhb, (bit_decide ha).symm, hp, hn⟩, hk⟩
  | false =>
    simp only [holdOnly, ite_error_ok, not_or, not_not, Bool.false_eq_true, if_false] at h
    obtain ⟨hla, ⟨hp, hn⟩, hha, hk⟩ := h
    exact ⟨_, ⟨hla, (bit_decide hb).symm, hha, hp, hn⟩, hk⟩
end Guards
end

/-! ### Parts of a field -/

/-- A value of one bit is the flag that it stands for. -/
theorem flag_of_lt_two {n : Nat} {x : BitVec n} (h : x.toNat < 2) : (if decide (x = 1) then 1 else 0) = x := by
  by_cases hx : x = 1
  · rw [decide_eq_true hx, if_pos rfl, hx]
  · have h0 : x.toNat = 0 := by
      have h1 : x.toNat ≠ 1 := fun h1 => hx (BitVec.eq_of_toNat_eq (h1.trans (Nat.mod_eq_of_lt (h1 ▸ x.isLt)).symm))
      omega
    rw [decide_eq_false hx, if_neg Bool.false_ne_true]
    exact BitVec.eq_of_toNat_eq (h0.symm ▸ Nat.zero_mod _)

theorem toNat_decide_one (x : BitVec 1) : (decide (x = 1)).toNat = x.toNat := by revert x; decide

theorem ofNat_eq_of_toNat {n m : Nat} {x : BitVec n} (h : m = x.toNat) : BitVec.ofNat n m = x := by rw [h, BitVec.ofNat_toNat, BitVec.setWidth_eq]

/-- A value above whose low `k` bits stand zeros. -/
theorem setWidth_low_of_high_zero {n k m : Nat} {x : BitVec n} (hn : n ≤ k + m) (h : x.extractLsb' k m = 0#m) : (x.setWidth k).setWidth n = x := by
  have low := field_add_low x k m
  rw [h, BitVec.toNat_zero, Nat.zero_mul, Nat.zero_add, Nat.mod_eq_of_lt (x.isLt.trans_le (Nat.pow_le_pow_right (by omega) hn))] at low
  exact BitVec.eq_of_toNat_eq (by rw [BitVec.toNat_setWidth, BitVec.toNat_setWidth, low, Nat.mod_eq_of_lt x.isLt])

/-- A value of two parts, above which stand zeros. -/
theorem join_of_high_zero {n k c m : Nat} {x : BitVec n} (hn : n ≤ k + c + m) (h : x.extractLsb' (k + c) m = 0#m) :
    BitVec.ofNat n ((x.setWidth k).toNat + 2 ^ k * (x.extractLsb' k c).toNat) = x := by
  have low := field_add_low x (k + c) m
  rw [h, BitVec.toNat_zero, Nat.zero_mul, Nat.zero_add, Nat.mod_eq_of_lt (x.isLt.trans_le (Nat.pow_le_pow_right (by omega) hn)),
    ← field_add_low x k c] at low
  exact ofNat_eq_of_toNat (by rw [BitVec.toNat_setWidth, Nat.add_comm, Nat.mul_comm, low])

theorem rmOnly_ok {fn : BitVec 9} {k : RoundMode → Except Reject Instr} {i : Instr} (h : rmOnly fn k = .ok i) :
    ∃ rm : RoundMode, fn = rm.code.setWidth 9 ∧ k rm = .ok i := by
  simp only [rmOnly, zero_ok, want_ok, beq_iff_eq, roundMode?_eq_some] at h
  obtain ⟨hz, rm, hc, hk⟩ := h
  exact ⟨rm, by rw [hc, setWidth_low_of_high_zero (by decide) hz], hk⟩

theorem memArg?_ok {b : BitVec 45} {m : MemArg} (h : memArg? b = .ok m) : b = m.bits := by
  rcases hf : FME.of b with ⟨data, base, index, size, scope, ord, ch, hdv, hd, off⟩
  simp only [memArg?, hf] at h
  split at h
  case h_1 sz sc od hsz hsc hod =>
    cases h
    rw [memSize?_eq_some] at hsz
    rw [scope?_eq_some] at hsc
    rw [memOrd?_eq_some] at hod
    rw [← FME.bits_of b, hf, MemArg.bits, hsz, hsc, hod, bit_decide]
  case h_2 => cases h

theorem brCond_ok {f : FBR} {i : Instr} {k : BrCond → Except Reject Instr} (h : brCond f k = .ok i) :
    ∃ c : BrCond, c.body f.disp = f.bits ∧ k c = .ok i := by
  obtain ⟨sa, ma, cc, disp⟩ := f
  simp only [brCond] at h
  split at h <;> simp only [zero_ok, Bool.and_eq_true, beq_iff_eq] at h
  case h_1 hc => obtain ⟨⟨rfl, rfl⟩, hk⟩ := h; obtain rfl := BitVec.eq_of_toNat_eq (y := 0#3) hc; exact ⟨_, rfl, hk⟩
  case h_2 hc => obtain ⟨rfl, hk⟩ := h; obtain rfl := BitVec.eq_of_toNat_eq (y := 1#3) hc; exact ⟨_, rfl, hk⟩
  case h_3 hc => obtain ⟨rfl, hk⟩ := h; obtain rfl := BitVec.eq_of_toNat_eq (y := 2#3) hc; exact ⟨_, rfl, hk⟩
  case h_4 hc => obtain ⟨rfl, hk⟩ := h; obtain rfl := BitVec.eq_of_toNat_eq (y := 3#3) hc; exact ⟨_, rfl, hk⟩
  case h_5 hc => obtain ⟨rfl, hk⟩ := h; obtain rfl := BitVec.eq_of_toNat_eq (y := 4#3) hc; exact ⟨_, rfl, hk⟩
  case h_6 hc => obtain ⟨rfl, hk⟩ := h; obtain rfl := BitVec.eq_of_toNat_eq (y := 5#3) hc; exact ⟨_, rfl, hk⟩
  case h_7 hc => obtain ⟨rfl, hk⟩ := h; obtain rfl := BitVec.eq_of_toNat_eq (y := 6#3) hc; exact ⟨_, rfl, hk⟩
  case h_8 h0 h1 h2 h3 h4 h5 h6 =>
    obtain ⟨rfl, hk⟩ := h
    have hlt := cc.isLt
    simp only [imp_false] at h0 h1 h2 h3 h4 h5 h6
    obtain rfl := BitVec.eq_of_toNat_eq (x := cc) (y := 7#3) (show cc.toNat = 7 by omega)
    exact ⟨_, rfl, hk⟩

/-! ### A word that is read is the word of its instruction -/

section Shapes
variable {w : Word} {i : Instr} {opc : BitVec 8} (ho : w.opc = opc)
include ho

theorem encode_rdSss {mk : IntTy → SReg → SReg → SReg → Bool → Instr}
    (he : ∀ ty sd sa sb sat, encode (mk ty sd sa sb sat) = some (wrSss opc ty sd sa sb sat)) (h : rdSss mk w = .ok i) :
    encode i = some w.bits := by
  obtain ⟨opc, la, hb, ha, pred, neg, body⟩ := w
  rcases hf : FSR.of body with ⟨sd, sa, sb, sc, ty, fn⟩
  simp only [rdSss, hf, plain_ok, zero_ok, want_ok, Bool.and_eq_true, beq_iff_eq, decide_eq_true_eq, Except.ok.injEq, intTy?_eq_some] at h
  obtain ⟨⟨rfl, rfl, rfl, rfl, rfl⟩, t, rfl, ⟨rfl, hfn⟩, rfl⟩ := h
  rw [he, wrSss, flag_of_lt_two hfn, ← ho, ← FSR.bits_of body, hf]
  rfl

theorem encode_rdSs {mk : IntTy → SReg → SReg → SReg → Instr}
    (he : ∀ ty sd sa sb, encode (mk ty sd sa sb) = some (wrSs opc ty sd sa sb)) (h : rdSs mk w = .ok i) :
    encode i = some w.bits := by
  obtain ⟨opc, la, hb, ha, pred, neg, body⟩ := w
  rcases hf : FSR.of body with ⟨sd, sa, sb, sc, ty, fn⟩
  simp only [rdSs, hf, plain_ok, zero_ok, want_ok, Bool.and_eq_true, beq_iff_eq, Except.ok.injEq, intTy?_eq_some] at h
  obtain ⟨⟨rfl, rfl, rfl, rfl, rfl⟩, t, rfl, ⟨rfl, rfl⟩, rfl⟩ := h
  rw [he, ← ho, ← FSR.bits_of body, hf]
  rfl

theorem encode_rdSl {mk : BitVec 4 → IntTy → SReg → SReg → SReg → Instr}
    (he : ∀ la ty sd sa sb, encode (mk la ty sd sa sb) = some (wrSl opc la ty sd sa sb)) (h : rdSl mk w = .ok i) :
    encode i = some w.bits := by
  obtain ⟨opc, la, hb, ha, pred, neg, body⟩ := w
  rcases hf : FSR.of body with ⟨sd, sa, sb, sc, ty, fn⟩
  simp only [rdSl, hf, laOnly_ok, zero_ok, want_ok, Bool.and_eq_true, beq_iff_eq, Except.ok.injEq, intTy?_eq_some] at h
  obtain ⟨⟨rfl, rfl, rfl, rfl⟩, t, rfl, ⟨rfl, rfl⟩, rfl⟩ := h
  rw [he, ← ho, ← FSR.bits_of body, hf]
  rfl

theorem encode_rdS1 {mk : IntTy → SReg → SReg → Instr}
    (he : ∀ ty sd sa, encode (mk ty sd sa) = some (wrS1 opc ty sd sa)) (h : rdS1 mk w = .ok i) : encode i = some w.bits := by
  obtain ⟨opc, la, hb, ha, pred, neg, body⟩ := w
  rcases hf : FSR.of body with ⟨sd, sa, sb, sc, ty, fn⟩
  simp only [rdS1, hf, plain_ok, zero_ok, want_ok, Bool.and_eq_true, beq_iff_eq, Except.ok.injEq, intTy?_eq_some] at h
  obtain ⟨⟨rfl, rfl, rfl, rfl, rfl⟩, t, rfl, ⟨⟨rfl, rfl⟩, rfl⟩, rfl⟩ := h
  rw [he, ← ho, ← FSR.bits_of body, hf]
  rfl

theorem encode_rdSbf {mk : IntTy → SReg → SReg → SReg → BitVec 6 → BitVec 6 → Except Reject Instr}
    (he : ∀ ty sd sa sb pos l, mk ty sd sa sb pos l = .ok i → encode i = some (wrSbf opc ty sd sa sb pos l)) (h : rdSbf mk w = .ok i) :
    encode i = some w.bits := by
  obtain ⟨opc, la, hb, ha, pred, neg, body⟩ := w
  rcases hf : FSR.of body with ⟨sd, sa, sb, sc, ty, fn⟩
  simp only [rdSbf, hf, plain_ok, zero_ok, want_ok, Bool.and_eq_true, beq_iff_eq, intTy?_eq_some] at h
  obtain ⟨⟨rfl, rfl, rfl, rfl, rfl⟩, t, rfl, ⟨rfl, hz⟩, hk⟩ := h
  rw [he _ _ _ _ _ _ hk, wrSbf, Nat.mul_comm, Nat.add_comm, join_of_high_zero (k := 6) (by decide) hz, ← ho, ← FSR.bits_of body, hf]
  rfl

theorem encode_rdSi {mk : SReg → SReg → BitVec 33 → Instr}
    (he : ∀ sd sa imm, encode (mk sd sa imm) = some (wrSi opc sd sa imm)) (h : rdSi mk w = .ok i) : encode i = some w.bits := by
  obtain ⟨opc, la, hb, ha, pred, neg, body⟩ := w
  simp only [rdSi, plain_ok, Except.ok.injEq] at h
  obtain ⟨⟨rfl, rfl, rfl, rfl, rfl⟩, rfl⟩ := h
  rw [he, ← ho, wrSi, plainWord]
  exact congrArg (fun b => some (Word.bits ⟨opc, 0, 0, 0, 0, 0, b⟩)) (FSI.bits_of body)

theorem encode_rdSr {mk : SReg → SReg → SReg → BitVec 17 → Except Reject Instr}
    (he : ∀ sd sa sb fn, mk sd sa sb fn = .ok i → encode i = some (wrSr opc sd sa sb fn)) (h : rdSr mk w = .ok i) :
    encode i = some w.bits := by
  obtain ⟨opc, la, hb, ha, pred, neg, body⟩ := w
  rcases hf : FSR.of body with ⟨sd, sa, sb, sc, ty, fn⟩
  simp only [rdSr, hf, plain_ok, zero_ok, Bool.and_eq_true, beq_iff_eq] at h
  obtain ⟨⟨rfl, rfl, rfl, rfl, rfl⟩, ⟨rfl, rfl⟩, hk⟩ := h
  rw [he _ _ _ _ hk, ← ho, ← FSR.bits_of body, hf]
  rfl

theorem encode_rdStl {mk : Scope → SReg → SReg → SReg → Instr} (h : rdStl mk w = .ok i) :
    ∃ s, i = mk s (FSR.of w.body).sd (FSR.of w.body).sa (FSR.of w.body).sb ∧
      w.bits = wrStl opc s (FSR.of w.body).sd (FSR.of w.body).sa (FSR.of w.body).sb := by
  obtain ⟨opc, la, hb, ha, pred, neg, body⟩ := w
  rcases hf : FSR.of body with ⟨sd, sa, sb, sc, ty, fn⟩
  simp only [rdStl, hf, plain_ok, zero_ok, want_ok, Bool.and_eq_true, beq_iff_eq, Except.ok.injEq, scope?_eq_some] at h
  obtain ⟨⟨rfl, rfl, rfl, rfl, rfl⟩, s, hs, ⟨⟨hz, rfl⟩, rfl⟩, rfl⟩ := h
  refine ⟨s, rfl, ?_⟩
  rw [wrStl, hs, setWidth_low_of_high_zero (by decide) hz, ← ho, ← FSR.bits_of body, hf]
  rfl

/-- A word with a head is the word of its head and its body. -/
theorem bits_headWord {body : BitVec 45} (hb : w.body = body) : w.bits = headWord opc w.head body := by
  rw [← Word.head_eq, ho, hb]

theorem encode_rdVs {mk : Head → IntTy → VReg → VReg → VReg → Bool → Instr}
    (he : ∀ h ty vd va vb sat, encode (mk h ty vd va vb sat) = some (wrVs opc h ty vd va vb sat)) (h : rdVs mk w = .ok i) :
    encode i = some w.bits := by
  rcases hf : FVR.of w.body with ⟨vd, va, vb, vc, ty, fn⟩
  simp only [rdVs, hf, zero_ok, want_ok, Bool.and_eq_true, beq_iff_eq, decide_eq_true_eq, Except.ok.injEq, intTy?_eq_some] at h
  obtain ⟨t, rfl, ⟨rfl, hfn⟩, rfl⟩ := h
  rw [he, wrVs, flag_of_lt_two hfn, ← hf, FVR.bits_of, bits_headWord ho rfl]

theorem encode_rdV4 {mk : Head → IntTy → VReg → VReg → VReg → VReg → Bool → Instr}
    (he : ∀ h ty vd va vb vc sat, encode (mk h ty vd va vb vc sat) = some (wrV4 opc h ty vd va vb vc sat)) (h : rdV4 mk w = .ok i) :
    encode i = some w.bits := by
  rcases hf : FVR.of w.body with ⟨vd, va, vb, vc, ty, fn⟩
  simp only [rdV4, hf, zero_ok, want_ok, decide_eq_true_eq, Except.ok.injEq, intTy?_eq_some] at h
  obtain ⟨t, rfl, hfn, rfl⟩ := h
  rw [he, wrV4, flag_of_lt_two hfn, ← hf, FVR.bits_of, bits_headWord ho rfl]

theorem encode_rdVec {mk : Head → IntTy → VReg → VReg → VReg → VReg → BitVec 9 → Except Reject Instr}
    (he : ∀ h ty vd va vb vc fn, mk h ty vd va vb vc fn = .ok i → encode i = some (wrVec opc h ty vd va vb vc fn))
    (h : rdVec mk w = .ok i) : encode i = some w.bits := by
  rcases hf : FVR.of w.body with ⟨vd, va, vb, vc, ty, fn⟩
  simp only [rdVec, hf, want_ok, intTy?_eq_some] at h
  obtain ⟨t, rfl, hk⟩ := h
  rw [he _ _ _ _ _ _ _ hk, wrVec, ← hf, FVR.bits_of, bits_headWord ho rfl]

theorem encode_rdF {mk : Head → FpTy → VReg → VReg → VReg → VReg → BitVec 9 → Except Reject Instr}
    (he : ∀ h ty vd va vb vc fn, mk h ty vd va vb vc fn = .ok i → encode i = some (wrF opc h ty vd va vb vc fn))
    (h : rdF mk w = .ok i) : encode i = some w.bits := by
  rcases hf : FVR.of w.body with ⟨vd, va, vb, vc, ty, fn⟩
  simp only [rdF, hf, want_ok, fpTy?_eq_some] at h
  obtain ⟨t, rfl, hk⟩ := h
  rw [he _ _ _ _ _ _ _ hk, wrF, ← hf, FVR.bits_of, bits_headWord ho rfl]

theorem encode_rdVi {mk : Head → IntTy → VReg → VReg → BitVec 25 → Instr}
    (he : ∀ h ty vd va imm, encode (mk h ty vd va imm) = some (wrVi opc h ty vd va imm)) (h : rdVi mk w = .ok i) :
    encode i = some w.bits := by
  rcases hf : FVI.of w.body with ⟨vd, va, ty, imm⟩
  simp only [rdVi, hf, want_ok, Except.ok.injEq, intTy?_eq_some] at h
  obtain ⟨t, rfl, rfl⟩ := h
  rw [he, wrVi, ← hf, FVI.bits_of, bits_headWord ho rfl]

theorem encode_rdMm {mk : Head → MReg → MReg → MReg → BitVec 8 → BitVec 9 → Except Reject Instr}
    (he : ∀ h md ma mb va fn, mk h md ma mb va fn = .ok i → encode i = some (wrMm opc h md ma mb va fn)) (h : rdMm mk w = .ok i) :
    encode i = some w.bits := by
  rcases hf : FMR.of w.body with ⟨md, ma, mb, va, vb, ty, cc, fn⟩
  simp only [rdMm, hf, zero_ok, Bool.and_eq_true, beq_iff_eq] at h
  obtain ⟨⟨⟨rfl, rfl⟩, rfl⟩, hk⟩ := h
  rw [he _ _ _ _ _ _ hk, bits_headWord ho rfl, ← FMR.bits_of w.body, hf]
  rfl

/-- A collective that is read is the word of its body with its hold. -/
theorem encode_holdOnly {a : Bool} {k : Bool → Except Reject Instr}
    (he : ∀ hold, k hold = .ok i → encode i = some (holdWord opc a hold w.body)) (h : holdOnly a w k = .ok i) :
    encode i = some w.bits := by
  obtain ⟨opc, la, hb, ha, pred, neg, body⟩ := w
  obtain ⟨hold, ⟨rfl, rfl, rfl, rfl, rfl⟩, hk⟩ := holdOnly_ok h
  rw [he _ hk, ← ho]
  rfl

theorem encode_plain {k : Except Reject Instr} (he : k = .ok i → encode i = some (plainWord opc w.body)) (h : plain w k = .ok i) :
    encode i = some w.bits := by
  obtain ⟨opc, la, hb, ha, pred, neg, body⟩ := w
  obtain ⟨⟨rfl, rfl, rfl, rfl, rfl⟩, hk⟩ := plain_ok.mp h
  rw [he hk, ← ho]
  rfl

theorem encode_laOnly {k : BitVec 4 → Except Reject Instr} (he : ∀ la, k la = .ok i → encode i = some (laWord opc la w.body))
    (h : laOnly w k = .ok i) : encode i = some w.bits := by
  obtain ⟨opc, la, hb, ha, pred, neg, body⟩ := w
  obtain ⟨⟨rfl, rfl, rfl, rfl⟩, hk⟩ := laOnly_ok.mp h
  rw [he _ hk, ← ho]
  rfl

omit ho
theorem rdCo_ok {mk : MReg → MReg → MReg → BitVec 8 → BitVec 8 → BitVec 4 → BitVec 9 → Except Reject Instr} (h : rdCo mk w = .ok i) :
    ∃ md ma mb va vb ty fn, FMR.of w.body = ⟨md, ma, mb, va, vb, ty, 0, fn⟩ ∧ mk md ma mb va vb ty fn = .ok i := by
  rcases hf : FMR.of w.body with ⟨md, ma, mb, va, vb, ty, cc, fn⟩
  simp only [rdCo, hf, zero_ok, beq_iff_eq] at h
  obtain ⟨rfl, hk⟩ := h
  exact ⟨md, ma, mb, va, vb, ty, fn, rfl, hk⟩

theorem rdMem_ok {mk : MemArg → Except Reject Instr} (h : rdMem mk w = .ok i) : ∃ m : MemArg, w.body = m.bits ∧ mk m = .ok i := by
  unfold rdMem at h
  split at h
  case h_1 m hm => exact ⟨m, memArg?_ok hm, h⟩
  case h_2 => cases h

theorem rdAop_ok {mk : AtomOp → MemArg → Except Reject Instr} (h : rdAop mk w = .ok i) :
    ∃ (op : AtomOp) (m : MemArg), w.body = { m with off := op.code }.bits ∧ mk op { m with off := 0 } = .ok i := by
  obtain ⟨m, hb, hk⟩ := rdMem_ok h
  obtain ⟨op, hop, hk⟩ := want_ok.mp hk
  exact ⟨op, m, by rw [hb, atomOp?_eq_some.mp hop], hk⟩

end Shapes

theorem eq_zero_of_ne_one {x : BitVec 1} (h : x ≠ 1) : x = 0 := by revert x; decide

/-- Two flags as a value of two bits. -/
theorem two_flags {x : BitVec 9} (h : x.toNat < 4) :
    BitVec.ofNat 9 ((decide (x.extractLsb' 0 1 = 1)).toNat + 2 * (decide (x.extractLsb' 1 1 = 1)).toNat) = x := by
  revert x; decide

/-- The parts of FN of a conversion or a dot product (R141, R144). -/
theorem vfcvt_fields (fn : BitVec 9) : fn.toNat = (fn.setWidth 3).toNat + 2 ^ 3 * (fn.extractLsb' 3 1).toNat +
    2 ^ 4 * (fn.extractLsb' 4 4).toNat + 2 ^ 8 * (fn.extractLsb' 8 1).toNat := by
  simp only [BitVec.toNat_setWidth, BitVec.extractLsb'_toNat, Nat.shiftRight_eq_div_pow]
  omega

section Families
variable {w : Word} {i : Instr} {o : Nat} (ho : w.opc = BitVec.ofNat 8 o)
include ho

theorem encode_parseControl (h : parseControl o w = .ok i) : encode i = some w.bits := by
  unfold parseControl at h
  dsimp only at h
  split at h
  case h_1 =>
    refine encode_plain ho (fun hk => ?_) h
    obtain ⟨c, hc, hi⟩ := brCond_ok hk
    cases hi
    exact congrArg (fun b => some (plainWord _ b)) (hc.trans (FBR.bits_of _))
  case h_2 =>
    refine encode_plain ho (fun hk => ?_) h
    rcases hf : FBR.of w.body with ⟨sa, ma, cc, disp⟩
    simp only [hf, zero_ok, Bool.and_eq_true, beq_iff_eq, decide_eq_true_eq, Except.ok.injEq] at hk
    obtain ⟨⟨rfl, hcc⟩, rfl⟩ := hk
    rw [← FBR.bits_of w.body, hf]
    exact congrArg (fun c => some (plainWord _ (FBR.bits ⟨0, ma, c, disp⟩))) (flag_of_lt_two hcc)
  case h_4 =>
    refine encode_plain ho (fun hk => ?_) h
    rcases hf : FBR.of w.body with ⟨sa, ma, cc, disp⟩
    simp only [hf, zero_ok, Bool.and_eq_true, beq_iff_eq, Except.ok.injEq] at hk
    obtain ⟨⟨rfl, rfl⟩, rfl⟩ := hk
    rw [← FBR.bits_of w.body, hf]
    rfl
  case h_3 | h_6 =>
    refine encode_rdSr ho (fun sd sa sb fn hk => ?_) h
    simp only [zero_ok, Bool.and_eq_true, beq_iff_eq, Except.ok.injEq] at hk
    obtain ⟨⟨⟨rfl, rfl⟩, rfl⟩, rfl⟩ := hk
    rfl
  case h_5 =>
    refine encode_rdSr ho (fun sd sa sb fn hk => ?_) h
    simp only [zero_ok, Bool.and_eq_true, beq_iff_eq, Except.ok.injEq] at hk
    obtain ⟨⟨rfl, rfl⟩, rfl⟩ := hk
    rfl
  case h_7 | h_9 | h_10 =>
    refine encode_rdSr ho (fun sd sa sb fn hk => ?_) h
    simp only [zero_ok, Bool.and_eq_true, beq_iff_eq, Except.ok.injEq] at hk
    obtain ⟨⟨⟨⟨rfl, rfl⟩, rfl⟩, rfl⟩, rfl⟩ := hk
    rfl
  case h_8 =>
    refine encode_plain ho (fun hk => ?_) h
    rcases hf : FQF.of w.body with ⟨sd, sa, sb, sc, imm⟩
    simp only [hf, zero_ok, Bool.and_eq_true, beq_iff_eq, Except.ok.injEq] at hk
    obtain ⟨⟨rfl, hz⟩, rfl⟩ := hk
    have parts := join_of_high_zero (k := 4) (c := 3) (by decide) hz
    rw [Nat.add_comm, Nat.mul_comm] at parts
    rw [← FQF.bits_of w.body, hf]
    exact congrArg (fun f => some (plainWord _ (FQF.bits ⟨sd, sa, sb, 0, f⟩))) parts
  case h_11 | h_12 =>
    refine encode_plain ho (fun hk => ?_) h
    rcases hf : FSI.of w.body with ⟨sd, sa, imm⟩
    simp only [hf, zero_ok, Bool.and_eq_true, beq_iff_eq, Except.ok.injEq] at hk
    obtain ⟨⟨rfl, rfl⟩, rfl⟩ := hk
    rw [← FSI.bits_of w.body, hf]
    rfl
  case h_13 | h_14 =>
    refine encode_plain ho (fun hk => ?_) h
    rcases hf : FSY.of w.body with ⟨sd, sa, reg, fn⟩
    simp only [hf, zero_ok, Bool.and_eq_true, beq_iff_eq, Except.ok.injEq] at hk
    obtain ⟨⟨rfl, rfl⟩, rfl⟩ := hk
    rw [← FSY.bits_of w.body, hf]
    rfl
  case h_15 => cases h

theorem encode_parseScalar (h : parseScalar o w = .ok i) : encode i = some w.bits := by
  unfold parseScalar at h
  dsimp only at h
  split at h
  case h_1 | h_2 | h_3 => exact encode_rdSss ho (fun _ _ _ _ _ => rfl) h
  case h_4 | h_7 | h_8 | h_9 | h_10 | h_11 | h_12 | h_13 | h_14 | h_15 | h_16 => exact encode_rdSs ho (fun _ _ _ _ => rfl) h
  case h_5 | h_6 => exact encode_rdSl ho (fun _ _ _ _ _ => rfl) h
  case h_17 | h_18 => exact encode_rdS1 ho (fun _ _ _ => rfl) h
  case h_19 =>
    refine encode_rdSbf ho (fun ty sd sa sb pos l hk => ?_) h
    simp only [zero_ok, beq_iff_eq, Except.ok.injEq] at hk
    obtain ⟨rfl, rfl⟩ := hk
    rfl
  case h_20 =>
    refine encode_rdSbf ho (fun ty sd sa sb pos l hk => ?_) h
    cases hk
    rfl
  case h_21 =>
    refine encode_plain ho (fun hk => ?_) h
    rcases hf : FSR.of w.body with ⟨sd, sa, sb, sc, ty, fn⟩
    simp only [hf, zero_ok, Bool.and_eq_true, beq_iff_eq, Except.ok.injEq] at hk
    obtain ⟨⟨rfl, rfl⟩, rfl⟩ := hk
    rw [← FSR.bits_of w.body, hf]
    rfl
  case h_22 =>
    refine encode_plain ho (fun hk => ?_) h
    rcases hf : FSR.of w.body with ⟨sd, sa, sb, sc, ty, fn⟩
    simp only [hf, zero_ok, want_ok, Bool.and_eq_true, beq_iff_eq, Except.ok.injEq, intTy?_eq_some, cnd?_eq_some] at hk
    obtain ⟨t, rfl, c, hc, ⟨rfl, hz⟩, rfl⟩ := hk
    rw [← FSR.bits_of w.body, hf]
    exact congrArg (fun f => some (plainWord _ (FSR.bits ⟨sd, sa, sb, 0, t.code, f⟩))) (hc ▸ setWidth_low_of_high_zero (by decide) hz)
  case h_23 =>
    refine encode_plain ho (fun hk => ?_) h
    rcases hf : FSR.of w.body with ⟨sd, sa, sb, sc, ty, fn⟩
    simp only [hf, zero_ok, Bool.and_eq_true, beq_iff_eq, Except.ok.injEq] at hk
    obtain ⟨⟨⟨⟨rfl, rfl⟩, rfl⟩, rfl⟩, rfl⟩ := hk
    rw [← FSR.bits_of w.body, hf]
    rfl
  case h_24 =>
    refine encode_plain ho (fun hk => ?_) h
    rcases hf : FSL.of w.body with ⟨sd, hi, rsv, imm⟩
    simp only [hf, zero_ok, beq_iff_eq, Except.ok.injEq] at hk
    obtain ⟨rfl, rfl⟩ := hk
    rw [← FSL.bits_of w.body, hf]
    by_cases hh : hi = 1
    · rw [if_pos hh, hh]; rfl
    · rw [if_neg hh, eq_zero_of_ne_one hh]; rfl
  case h_25 | h_26 | h_27 | h_28 | h_29 | h_30 | h_31 | h_32 => exact encode_rdSi ho (fun _ _ _ => rfl) h
  case h_33 => cases h

theorem encode_parseVector (h : parseVector o w = .ok i) : encode i = some w.bits := by
  unfold parseVector at h
  dsimp only at h
  split at h
  case h_1 | h_2 | h_3 => exact encode_rdVs ho (fun _ _ _ _ _ _ => rfl) h
  case h_5 => exact encode_rdV4 ho (fun _ _ _ _ _ _ _ => rfl) h
  case h_4 | h_6 | h_7 | h_8 | h_9 | h_11 | h_12 | h_13 | h_14 | h_15 | h_21 | h_22 =>
    refine encode_rdVec ho (fun hd ty vd va vb vc fn hk => ?_) h
    simp only [zero_ok, Bool.and_eq_true, beq_iff_eq, Except.ok.injEq] at hk
    obtain ⟨⟨rfl, rfl⟩, rfl⟩ := hk
    rfl
  case h_10 | h_18 | h_19 | h_20 | h_26 =>
    refine encode_rdVec ho (fun hd ty vd va vb vc fn hk => ?_) h
    simp only [zero_ok, Bool.and_eq_true, beq_iff_eq, Except.ok.injEq] at hk
    obtain ⟨⟨⟨rfl, rfl⟩, rfl⟩, rfl⟩ := hk
    rfl
  case h_16 | h_17 =>
    refine encode_rdVec ho (fun hd ty vd va vb vc fn hk => ?_) h
    simp only [zero_ok, Bool.and_eq_true, beq_iff_eq, decide_eq_true_eq, Except.ok.injEq] at hk
    obtain ⟨⟨⟨rfl, rfl⟩, hfn⟩, rfl⟩ := hk
    exact congrArg (fun f => some (wrVec _ hd ty vd va 0 0 f)) (flag_of_lt_two hfn)
  case h_23 | h_24 =>
    refine encode_rdVec ho (fun hd ty vd va vb vc fn hk => ?_) h
    simp only [zero_ok, Bool.and_eq_true, beq_iff_eq, Except.ok.injEq] at hk
    obtain ⟨⟨⟨rfl, rfl⟩, hz⟩, rfl⟩ := hk
    exact congrArg (fun f => some (wrVec _ hd .n32 vd va vb 0 f)) (setWidth_low_of_high_zero (by decide) hz)
  case h_25 =>
    refine encode_rdVec ho (fun hd ty vd va vb vc fn hk => ?_) h
    simp only [zero_ok, Bool.and_eq_true, beq_iff_eq, decide_eq_true_eq, Except.ok.injEq] at hk
    obtain ⟨⟨rfl, hfn⟩, rfl⟩ := hk
    exact congrArg (fun f => some (wrVec _ hd .b32 vd va vb vc f)) (two_flags hfn)
  case h_27 =>
    rcases hf : FVL.of w.body with ⟨vd, ty, rsv, imm⟩
    simp only [hf, zero_ok, Bool.and_eq_true, beq_iff_eq, Except.ok.injEq] at h
    obtain ⟨⟨rfl, rfl⟩, rfl⟩ := h
    rw [bits_headWord ho rfl, ← FVL.bits_of w.body, hf]
    rfl
  case h_28 =>
    refine encode_rdVec ho (fun hd ty vd va vb vc fn hk => ?_) h
    simp only [zero_ok, Bool.and_eq_true, beq_iff_eq, Except.ok.injEq] at hk
    obtain ⟨⟨rfl, hz⟩, rfl⟩ := hk
    exact congrArg (fun f => some (wrVec _ hd ty vd va vb 0 f)) (setWidth_low_of_high_zero (by decide) hz)
  case h_29 =>
    refine encode_rdVec ho (fun hd ty vd va vb vc fn hk => ?_) h
    simp only [zero_ok, asSReg_ok, Bool.and_eq_true, beq_iff_eq, Except.ok.injEq] at hk
    obtain ⟨⟨⟨rfl, rfl⟩, rfl⟩, s, rfl, rfl⟩ := hk
    rfl
  case h_30 =>
    refine encode_rdVec ho (fun hd ty vd va vb vc fn hk => ?_) h
    simp only [zero_ok, Bool.and_eq_true, beq_iff_eq, Except.ok.injEq] at hk
    obtain ⟨⟨⟨⟨⟨rfl, rfl⟩, rfl⟩, rfl⟩, rfl⟩, rfl⟩ := hk
    rfl
  case h_31 | h_32 | h_33 | h_34 | h_35 | h_36 | h_37 | h_38 | h_39 | h_40 | h_41 => exact encode_rdVi ho (fun _ _ _ _ _ => rfl) h
  case h_42 => cases h

theorem encode_parseFloat (h : parseFloat o w = .ok i) : encode i = some w.bits := by
  unfold parseFloat at h
  dsimp only at h
  split at h
  case h_1 | h_2 | h_3 | h_23 =>
    refine encode_rdF ho (fun hd ty vd va vb vc fn hk => ?_) h
    obtain ⟨hv, hk⟩ := zero_ok.mp hk
    obtain ⟨rm, rfl, hi⟩ := rmOnly_ok hk
    cases hi
    rw [beq_iff_eq.mp hv]
    rfl
  case h_4 =>
    refine encode_rdF ho (fun hd ty vd va vb vc fn hk => ?_) h
    obtain ⟨rm, rfl, hi⟩ := rmOnly_ok hk
    cases hi
    rfl
  case h_5 | h_6 | h_9 =>
    refine encode_rdF ho (fun hd ty vd va vb vc fn hk => ?_) h
    simp only [zero_ok, Bool.and_eq_true, beq_iff_eq, Except.ok.injEq] at hk
    obtain ⟨⟨rfl, rfl⟩, rfl⟩ := hk
    rfl
  case h_7 | h_8 | h_19 =>
    refine encode_rdF ho (fun hd ty vd va vb vc fn hk => ?_) h
    simp only [zero_ok, Bool.and_eq_true, beq_iff_eq, Except.ok.injEq] at hk
    obtain ⟨⟨⟨rfl, rfl⟩, rfl⟩, rfl⟩ := hk
    rfl
  case h_10 | h_11 | h_13 | h_14 | h_15 | h_16 =>
    refine encode_rdF ho (fun hd ty vd va vb vc fn hk => ?_) h
    simp only [zero_ok, Bool.and_eq_true, beq_iff_eq, Except.ok.injEq] at hk
    obtain ⟨⟨⟨⟨rfl, rfl⟩, rfl⟩, rfl⟩, rfl⟩ := hk
    rfl
  case h_12 | h_17 | h_18 =>
    refine encode_rdF ho (fun hd ty vd va vb vc fn hk => ?_) h
    obtain ⟨hv, hk⟩ := zero_ok.mp hk
    simp only [Bool.and_eq_true, beq_iff_eq] at hv
    obtain ⟨rfl, rfl⟩ := hv
    obtain ⟨rm, rfl, hi⟩ := rmOnly_ok hk
    cases hi
    rfl
  case h_20 =>
    refine encode_rdF ho (fun hd ty vd va vb vc fn hk => ?_) h
    simp only [zero_ok, want_ok, Bool.and_eq_true, beq_iff_eq, Except.ok.injEq, fcnd?_eq_some] at hk
    obtain ⟨⟨⟨rfl, hz⟩, hv⟩, c, hc, rfl⟩ := hk
    have hfn := setWidth_low_of_high_zero (by decide) hz
    have hvd := setWidth_low_of_high_zero (by decide) hv
    exact congrArg₂ (fun d f => some (wrF _ hd ty d va vb 0 f)) hvd (hc ▸ hfn)
  case h_21 =>
    refine encode_rdF ho (fun hd ty vd va vb vc fn hk => ?_) h
    simp only [zero_ok, want_ok, Bool.and_eq_true, beq_iff_eq, roundMode?_eq_some] at hk
    obtain ⟨⟨rfl, rfl⟩, rm, hrm, hk⟩ := hk
    split at hk <;> simp only [want_ok, intTy?_eq_some, fpTy?_eq_some, Except.ok.injEq] at hk
    case isTrue hb =>
      obtain ⟨t, ht, rfl⟩ := hk
      refine congrArg (fun f => some (wrF _ hd ty vd va 0 0 f)) (ofNat_eq_of_toNat ?_)
      rw [hrm, ht, toNat_decide_one, vfcvt_fields fn, hb]
      rfl
    case isFalse hb =>
      obtain ⟨t, ht, rfl⟩ := hk
      refine congrArg (fun f => some (wrF _ hd ty vd va 0 0 f)) (ofNat_eq_of_toNat ?_)
      rw [hrm, ht, toNat_decide_one, vfcvt_fields fn, eq_zero_of_ne_one hb]
      rfl
  case h_22 =>
    refine encode_rdVec ho (fun hd ty vd va vb vc fn hk => ?_) h
    simp only [zero_ok, want_ok, Bool.and_eq_true, beq_iff_eq, Except.ok.injEq, roundMode?_eq_some, fpTy?_eq_some] at hk
    obtain ⟨⟨⟨⟨rfl, rfl⟩, h3⟩, h8⟩, rm, hrm, t, ht, rfl⟩ := hk
    refine congrArg (fun f => some (wrVec _ hd ty vd va 0 0 f)) (ofNat_eq_of_toNat ?_)
    rw [hrm, ht, vfcvt_fields fn, h3, h8]
    rfl
  case h_24 =>
    refine encode_rdF ho (fun hd ty vd va vb vc fn hk => ?_) h
    simp only [zero_ok, Bool.and_eq_true, beq_iff_eq] at hk
    obtain ⟨⟨rfl, rfl⟩, hk⟩ := hk
    split at hk
    case isTrue hfn => cases hk; rw [hfn]; rfl
    case isFalse =>
      simp only [zero_ok, want_ok, beq_iff_eq, Except.ok.injEq, roundMode?_eq_some] at hk
      obtain ⟨hz, rm, hrm, rfl⟩ := hk
      refine congrArg (fun f => some (wrF _ hd ty vd va 0 0 f)) ?_
      rw [hrm, toNat_decide_one]
      exact join_of_high_zero (k := 3) (c := 1) (by decide) hz
  case h_25 =>
    refine encode_rdF ho (fun hd ty vd va vb vc fn hk => ?_) h
    simp only [zero_ok, Bool.and_eq_true, beq_iff_eq] at hk
    obtain ⟨⟨rfl, rfl⟩, hk⟩ := hk
    split at hk
    case isTrue hfn => cases hk; rw [hfn]; rfl
    case isFalse =>
      simp only [zero_ok, beq_iff_eq, Except.ok.injEq] at hk
      obtain ⟨rfl, rfl⟩ := hk
      rfl
  case h_26 =>
    refine encode_rdF ho (fun hd ty vd va vb vc fn hk => ?_) h
    simp only [zero_ok, want_ok, Bool.and_eq_true, beq_iff_eq, Except.ok.injEq, fpTy?_eq_some] at hk
    obtain ⟨⟨h0, h8⟩, t, ht, rfl⟩ := hk
    refine congrArg (fun f => some (wrF _ hd ty vd va vb vc f)) (ofNat_eq_of_toNat ?_)
    rw [ht, toNat_decide_one, vfcvt_fields fn, h0, h8]
    exact (Nat.zero_add _ ▸ rfl)
  case h_27 => cases h

end Families

/-- The parts of FN of a shuffle (R151). -/
theorem shfl_fields {fn : BitVec 9} (h : fn.extractLsb' 8 1 = 0#1) :
    BitVec.ofNat 9 ((fn.extractLsb' 0 2).toNat + 2 ^ 2 * (fn.extractLsb' 2 6).toNat) = fn := by
  revert fn; decide

/-- The parts of FN of a fence (R227). -/
theorem fence_fields {fn : BitVec 17} (h0 : fn.extractLsb' 0 1 = 0#1) (h : fn.extractLsb' 15 2 = 0#2) :
    BitVec.ofNat 17 (2 * (fn.extractLsb' 1 7).toNat + 2 ^ 8 * (fn.extractLsb' 8 7).toNat) = fn := by
  rw [← BitVec.toNat_inj] at h0 h
  refine ofNat_eq_of_toNat ?_
  simp only [BitVec.extractLsb'_toNat, Nat.shiftRight_eq_div_pow, BitVec.toNat_ofNat] at h0 h ⊢
  omega

/-- The parts of FN of `mst` (R240). -/
theorem mst_fields {fn : BitVec 8} (h : fn.extractLsb' 6 2 = 0#2) :
    BitVec.ofNat 8 ((fn.setWidth 3).toNat + 2 ^ 3 * (decide (fn.extractLsb' 3 1 = 1)).toNat +
      2 ^ 4 * (decide (fn.extractLsb' 4 1 = 1)).toNat + 2 ^ 5 * (decide (fn.extractLsb' 5 1 = 1)).toNat) = fn := by
  revert fn; decide

/-- The parts of FN of `rinit` (R250). -/
theorem rinit_fields {fn : BitVec 17} (h3 : fn.extractLsb' 3 1 = 0#1) (h8 : fn.extractLsb' 8 9 = 0#9) :
    BitVec.ofNat 17 ((fn.setWidth 3).toNat + 2 ^ 4 * (fn.extractLsb' 4 4).toNat) = fn := by
  rw [← BitVec.toNat_inj] at h3 h8
  refine ofNat_eq_of_toNat ?_
  simp only [BitVec.extractLsb'_toNat, BitVec.toNat_setWidth, Nat.shiftRight_eq_div_pow, BitVec.toNat_ofNat] at h3 h8 ⊢
  omega

/-- A value below two is zero or one. -/
theorem eq_zero_or_one {n : Nat} {x : BitVec (n + 1)} (h : x.toNat < 2) : x = 0 ∨ x = 1 := by
  rcases Nat.lt_succ_iff_lt_or_eq.mp h with h0 | h1
  · exact .inl (BitVec.eq_of_toNat_eq (Nat.lt_one_iff.mp h0))
  · exact .inr (BitVec.eq_of_toNat_eq (h1.trans (Nat.mod_eq_of_lt (Nat.one_lt_two_pow n.succ_ne_zero)).symm))

/-- A word whose opcode alone is looked at. -/
theorem rawWord_eq {w : Word} {n : Nat} (hn : n < 256) (ho : w.opc = BitVec.ofNat 8 n) :
    BitVec.ofNat 64 (n * 2 ^ 56 + (w.bits.setWidth 56).toNat) = w.bits := by
  have top := field_add_low w.bits 56 8
  rw [show w.bits.extractLsb' 56 8 = BitVec.ofNat 8 n from (congrArg Word.opc (Word.of_bits w)).trans ho, BitVec.toNat_ofNat,
    Nat.mod_eq_of_lt hn] at top
  exact ofNat_eq_of_toNat (by rw [BitVec.toNat_setWidth, top]; exact Nat.mod_eq_of_lt w.bits.isLt)

section Families
variable {w : Word} {i : Instr} {o : Nat} (ho : w.opc = BitVec.ofNat 8 o)
include ho

theorem encode_parseMask (h : parseMask o w = .ok i) : encode i = some w.bits := by
  unfold parseMask at h
  dsimp only at h
  split at h
  case h_1 =>
    rcases hf : FMR.of w.body with ⟨md, ma, mb, va, vb, ty, cc, fn⟩
    simp only [hf, want_ok, zero_ok, Bool.and_eq_true, beq_iff_eq, Except.ok.injEq, intTy?_eq_some, cnd?_eq_some] at h
    obtain ⟨t, rfl, ⟨⟨⟨rfl, rfl⟩, rfl⟩, hz⟩, c, hc, rfl⟩ := h
    rw [bits_headWord ho rfl, ← FMR.bits_of w.body, hf]
    exact congrArg (fun f => some (headWord _ w.head (FMR.bits ⟨md, 0, 0, va, vb, t.code, f, 0⟩)))
      (hc ▸ setWidth_low_of_high_zero (by decide) hz)
  case h_2 =>
    refine encode_rdMm ho (fun hd md ma mb va fn hk => ?_) h
    obtain ⟨hv, hk⟩ := zero_ok.mp hk
    obtain rfl := beq_iff_eq.mp hv
    split at hk
    case h_1 hf => cases hk; obtain rfl := BitVec.eq_of_toNat_eq (y := 0#9) hf; rfl
    case h_2 hf => cases hk; obtain rfl := BitVec.eq_of_toNat_eq (y := 1#9) hf; rfl
    case h_3 hf => cases hk; obtain rfl := BitVec.eq_of_toNat_eq (y := 2#9) hf; rfl
    case h_4 hf => cases hk; obtain rfl := BitVec.eq_of_toNat_eq (y := 3#9) hf; rfl
    case h_5 => cases hk
  case h_3 | h_4 =>
    refine encode_rdMm ho (fun hd md ma mb va fn hk => ?_) h
    simp only [zero_ok, Bool.and_eq_true, beq_iff_eq, Except.ok.injEq] at hk
    obtain ⟨⟨⟨rfl, rfl⟩, rfl⟩, rfl⟩ := hk
    rfl
  case h_5 | h_6 | h_7 | h_8 | h_9 =>
    refine encode_rdMm ho (fun hd md ma mb va fn hk => ?_) h
    simp only [zero_ok, asSReg_ok, Bool.and_eq_true, beq_iff_eq, Except.ok.injEq] at hk
    obtain ⟨⟨⟨rfl, rfl⟩, rfl⟩, s, rfl, rfl⟩ := hk
    rfl
  case h_10 =>
    split at h
    case isTrue hfn =>
      refine encode_holdOnly ho (fun hold hk => ?_) h
      obtain ⟨md, ma, mb, va, vb, ty, fn, hf, hk⟩ := rdCo_ok hk
      simp only [zero_ok, Bool.and_eq_true, beq_iff_eq, Except.ok.injEq] at hk
      obtain ⟨⟨⟨rfl, rfl⟩, rfl⟩, rfl⟩ := hk
      obtain rfl : fn = 3 := by rw [hf] at hfn; exact hfn
      rw [← FMR.bits_of w.body, hf]
      rfl
    case isFalse =>
      refine encode_plain ho (fun hk => ?_) h
      obtain ⟨md, ma, mb, va, vb, ty, fn, hf, hk⟩ := rdCo_ok hk
      obtain ⟨hv, hk⟩ := zero_ok.mp hk
      simp only [Bool.and_eq_true, beq_iff_eq] at hv
      obtain ⟨⟨rfl, rfl⟩, rfl⟩ := hv
      rw [← FMR.bits_of w.body, hf]
      split at hk
      case h_1 hf => cases hk; obtain rfl := BitVec.eq_of_toNat_eq (y := 0#9) hf; rfl
      case h_2 hf => cases hk; obtain rfl := BitVec.eq_of_toNat_eq (y := 1#9) hf; rfl
      case h_3 hf => cases hk; obtain rfl := BitVec.eq_of_toNat_eq (y := 2#9) hf; rfl
      case h_4 => cases hk
  case h_11 =>
    refine encode_holdOnly ho (fun hold hk => ?_) h
    obtain ⟨md, ma, mb, va, vb, ty, fn, hf, hk⟩ := rdCo_ok hk
    simp only [zero_ok, Bool.and_eq_true, beq_iff_eq] at hk
    obtain ⟨⟨⟨⟨rfl, rfl⟩, rfl⟩, hz⟩, hk⟩ := hk
    have parts := shfl_fields hz
    rw [← FMR.bits_of w.body, hf]
    split at hk
    case h_1 => obtain ⟨h0, hk⟩ := zero_ok.mp hk; obtain rfl := beq_iff_eq.mp h0; cases hk; rfl
    case h_2 ho =>
      cases hk
      rw [ho] at parts
      exact congrArg (fun f => some (holdWord _ false hold (FMR.bits ⟨0, ma, 0, va, vb, 10, 0, f⟩))) parts
    case h_3 ho =>
      cases hk
      rw [ho] at parts
      exact congrArg (fun f => some (holdWord _ false hold (FMR.bits ⟨0, ma, 0, va, vb, 10, 0, f⟩))) parts
    case h_4 h0 h1 h2 =>
      cases hk
      have ho : (fn.extractLsb' 0 2).toNat = 3 := by
        have := (fn.extractLsb' 0 2).isLt
        simp only [imp_false] at h0 h1 h2
        omega
      rw [ho] at parts
      exact congrArg (fun f => some (holdWord _ false hold (FMR.bits ⟨0, ma, 0, va, vb, 10, 0, f⟩))) parts
  case h_12 =>
    refine encode_holdOnly ho (fun hold hk => ?_) h
    obtain ⟨md, ma, mb, va, vb, ty, fn, hf, hk⟩ := rdCo_ok hk
    simp only [zero_ok, want_ok, Bool.and_eq_true, beq_iff_eq, Except.ok.injEq, intTy?_eq_some, scanOp?_eq_some] at hk
    obtain ⟨⟨⟨rfl, rfl⟩, hz⟩, t, rfl, op, hop, rfl⟩ := hk
    rw [← FMR.bits_of w.body, hf]
    refine congrArg (fun f => some (holdWord _ false hold (FMR.bits ⟨0, ma, 0, va, vb, t.code, 0, f⟩))) ?_
    rw [hop, toNat_decide_one]
    exact join_of_high_zero (k := 3) (c := 1) (by decide) hz
  case h_13 =>
    refine encode_holdOnly ho (fun hold hk => ?_) h
    obtain ⟨md, ma, mb, va, vb, ty, fn, hf, hk⟩ := rdCo_ok hk
    simp only [zero_ok, want_ok, Bool.and_eq_true, beq_iff_eq, Except.ok.injEq, intTy?_eq_some, scanOp?_eq_some] at hk
    obtain ⟨⟨⟨rfl, rfl⟩, hz⟩, t, rfl, op, hop, rfl⟩ := hk
    rw [← FMR.bits_of w.body, hf]
    exact congrArg (fun f => some (holdWord _ false hold (FMR.bits ⟨0, ma, 0, va, vb, t.code, 0, f⟩)))
      (hop ▸ setWidth_low_of_high_zero (by decide) hz)
  case h_14 =>
    refine encode_holdOnly ho (fun hold hk => ?_) h
    obtain ⟨md, ma, mb, va, vb, ty, fn, hf, hk⟩ := rdCo_ok hk
    simp only [zero_ok, Bool.and_eq_true, beq_iff_eq, Except.ok.injEq] at hk
    obtain ⟨⟨⟨⟨rfl, rfl⟩, rfl⟩, hz⟩, rfl⟩ := hk
    rw [← FMR.bits_of w.body, hf]
    exact congrArg (fun f => some (holdWord _ false hold (FMR.bits ⟨0, ma, 0, va, vb, 6, 0, f⟩)))
      (setWidth_low_of_high_zero (by decide) hz)
  case h_15 =>
    refine encode_holdOnly ho (fun hold hk => ?_) h
    obtain ⟨md, ma, mb, va, vb, ty, fn, hf, hk⟩ := rdCo_ok hk
    simp only [zero_ok, asSReg_ok, Bool.and_eq_true, beq_iff_eq, Except.ok.injEq] at hk
    obtain ⟨⟨⟨⟨rfl, rfl⟩, rfl⟩, hz⟩, s, rfl, rfl⟩ := hk
    rw [← FMR.bits_of w.body, hf]
    exact congrArg (fun f => some (holdWord _ false hold (FMR.bits ⟨0, ma, 0, s.setWidth 8, vb, 10, 0, f⟩)))
      (setWidth_low_of_high_zero (by decide) hz)
  case h_16 =>
    refine encode_plain ho (fun hk => ?_) h
    obtain ⟨md, ma, mb, va, vb, ty, fn, hf, hk⟩ := rdCo_ok hk
    simp only [zero_ok, asSReg_ok, Bool.and_eq_true, beq_iff_eq, Except.ok.injEq] at hk
    obtain ⟨⟨⟨⟨rfl, rfl⟩, rfl⟩, hz⟩, s, rfl, rfl⟩ := hk
    rw [← FMR.bits_of w.body, hf]
    exact congrArg (fun f => some (plainWord _ (FMR.bits ⟨0, ma, 0, va, s.setWidth 8, 10, 0, f⟩)))
      (setWidth_low_of_high_zero (by decide) hz)
  case h_17 => cases h

theorem encode_parseMem (h : parseMem o w = .ok i) : encode i = some w.bits := by
  unfold parseMem at h
  dsimp only at h
  split at h
  case h_1 | h_2 | h_3 | h_4 | h_9 | h_11 =>
    obtain ⟨m, hb, hk⟩ := rdMem_ok h
    cases hk
    exact congrArg some (bits_headWord ho hb).symm
  case h_5 =>
    refine encode_laOnly ho (fun la hk => ?_) h
    obtain ⟨m, hb, hk⟩ := rdMem_ok hk
    cases hk
    rw [hb]; rfl
  case h_6 | h_7 | h_8 | h_14 =>
    refine encode_plain ho (fun hk => ?_) h
    obtain ⟨m, hb, hk⟩ := rdMem_ok hk
    cases hk
    rw [hb]; rfl
  case h_10 =>
    obtain ⟨op, m, hb, hk⟩ := rdAop_ok h
    cases hk
    exact congrArg some (bits_headWord ho hb).symm
  case h_12 =>
    refine encode_laOnly ho (fun la hk => ?_) h
    obtain ⟨op, m, hb, hk⟩ := rdAop_ok hk
    cases hk
    rw [hb]; rfl
  case h_13 =>
    refine encode_plain ho (fun hk => ?_) h
    rcases hf : FSR.of w.body with ⟨sd, sa, sb, sc, ty, fn⟩
    simp only [hf, zero_ok, want_ok, Bool.and_eq_true, beq_iff_eq, scope?_eq_some] at hk
    obtain ⟨⟨⟨⟨⟨⟨rfl, rfl⟩, rfl⟩, rfl⟩, hty⟩, h15⟩, s, hs, hk⟩ := hk
    obtain rfl : s.code.setWidth 4 = ty := hs ▸ setWidth_low_of_high_zero (by decide) hty
    rw [← FSR.bits_of w.body, hf]
    split at hk
    case isTrue =>
      obtain ⟨hz, hk⟩ := zero_ok.mp hk
      obtain rfl := beq_iff_eq.mp hz
      cases hk
      rfl
    case isFalse h0 =>
      cases hk
      exact congrArg (fun f => some (plainWord _ (FSR.bits ⟨0, 0, 0, 0, s.code.setWidth 4, f⟩)))
        (fence_fields (eq_zero_of_ne_one h0) h15)
  case h_15 =>
    obtain ⟨hz, h⟩ := zero_ok.mp h
    obtain ⟨s, rfl, hw⟩ := encode_rdStl ho h
    rw [hw, beq_iff_eq.mp hz]
    rfl
  case h_16 =>
    obtain ⟨s, rfl, hw⟩ := encode_rdStl ho h
    rw [hw]
    rfl
  case h_17 =>
    refine encode_laOnly ho (fun la hk => ?_) h
    rcases hf : FSR.of w.body with ⟨sd, sa, sb, sc, ty, fn⟩
    simp only [hf, zero_ok, Bool.and_eq_true, beq_iff_eq, Except.ok.injEq] at hk
    obtain ⟨⟨⟨⟨rfl, rfl⟩, rfl⟩, rfl⟩, rfl⟩ := hk
    rw [← FSR.bits_of w.body, hf]
    rfl
  case h_18 | h_19 | h_20 =>
    refine encode_rdSr ho (fun sd sa sb fn hk => ?_) h
    simp only [zero_ok, Bool.and_eq_true, beq_iff_eq, Except.ok.injEq] at hk
    obtain ⟨⟨⟨⟨rfl, rfl⟩, rfl⟩, hz⟩, rfl⟩ := hk
    exact congrArg (fun f => some (wrSr _ 0 0 0 f)) (join_of_high_zero (k := 4) (c := 3) (by decide) hz)
  case h_21 => cases h

theorem encode_parseMatrix (h : parseMatrix o w = .ok i) : encode i = some w.bits := by
  unfold parseMatrix at h
  dsimp only at h
  split at h
  case h_1 =>
    refine encode_plain ho (fun hk => ?_) h
    rcases hf : FMX.of w.body with ⟨zd, sa, sb, sk, strm, tya, tyb, mode, fn⟩
    simp only [hf, zero_ok, Bool.and_eq_true, beq_iff_eq, Except.ok.injEq] at hk
    obtain ⟨⟨⟨⟨⟨⟨⟨rfl, rfl⟩, rfl⟩, rfl⟩, rfl⟩, rfl⟩, rfl⟩, rfl⟩ := hk
    rw [← FMX.bits_of w.body, hf]
    rfl
  case h_2 =>
    refine encode_plain ho (fun hk => ?_) h
    rcases hf : FMX.of w.body with ⟨zd, sa, sb, sk, strm, tya, tyb, mode, fn⟩
    simp only [hf, zero_ok, want_ok, Bool.and_eq_true, beq_iff_eq, Except.ok.injEq, matTy?_eq_some] at hk
    obtain ⟨⟨⟨⟨⟨rfl, rfl⟩, rfl⟩, rfl⟩, rfl⟩, t, rfl, rfl⟩ := hk
    rw [← FMX.bits_of w.body, hf]
    rfl
  case h_3 | h_4 =>
    refine encode_plain ho (fun hk => ?_) h
    rcases hf : FMX.of w.body with ⟨zd, sa, sb, sk, strm, tya, tyb, mode, fn⟩
    simp only [hf, zero_ok, want_ok, Bool.and_eq_true, beq_iff_eq, decide_eq_true_eq, Except.ok.injEq, matTy?_eq_some] at hk
    obtain ⟨⟨hm, rfl⟩, ta, rfl, tb, rfl, rfl⟩ := hk
    rw [← FMX.bits_of w.body, hf]
    exact congrArg (fun m => some (plainWord _ (FMX.bits ⟨zd, sa, sb, sk, strm, ta.code, tb.code, m, 0⟩))) (flag_of_lt_two hm)
  case h_5 =>
    refine encode_plain ho (fun hk => ?_) h
    rcases hf : FMX.of w.body with ⟨zd, sa, sb, sk, strm, tya, tyb, mode, fn⟩
    simp only [hf, zero_ok, want_ok, Bool.and_eq_true, beq_iff_eq, Except.ok.injEq, matTy?_eq_some, roundMode?_eq_some] at hk
    obtain ⟨⟨⟨rfl, rfl⟩, hz⟩, t, rfl, rm, hrm, rfl⟩ := hk
    rw [← FMX.bits_of w.body, hf]
    exact congrArg (fun f => some (plainWord _ (FMX.bits ⟨zd, sa, sb, sk, strm, t.code, 0, 0, f⟩))) (hrm ▸ mst_fields hz)
  case h_6 =>
    refine encode_plain ho (fun hk => ?_) h
    rcases hf : FMX.of w.body with ⟨zd, sa, sb, sk, strm, tya, tyb, mode, fn⟩
    simp only [hf, zero_ok, Bool.and_eq_true, beq_iff_eq, decide_eq_true_eq, Except.ok.injEq] at hk
    obtain ⟨⟨⟨⟨⟨⟨⟨⟨rfl, rfl⟩, rfl⟩, rfl⟩, rfl⟩, rfl⟩, hm⟩, rfl⟩, rfl⟩ := hk
    rw [← FMX.bits_of w.body, hf]
    exact congrArg (fun m => some (plainWord _ (FMX.bits ⟨0, 0, 0, 0, strm, 0, 0, m, 0⟩))) (flag_of_lt_two hm)
  case h_7 =>
    refine encode_rdSr ho (fun sd sa sb fn hk => ?_) h
    simp only [zero_ok, Bool.and_eq_true, beq_iff_eq, Except.ok.injEq] at hk
    obtain ⟨⟨⟨rfl, h3⟩, h8⟩, rfl⟩ := hk
    exact congrArg (fun f => some (wrSr _ 0 sa sb f)) (rinit_fields h3 h8)
  case h_8 =>
    refine encode_rdSr ho (fun sd sa sb fn hk => ?_) h
    simp only [zero_ok, Bool.and_eq_true, beq_iff_eq, Except.ok.injEq] at hk
    obtain ⟨⟨rfl, hz⟩, rfl⟩ := hk
    refine congrArg (fun f => some (wrSr _ sd sa 0 f)) ?_
    rw [toNat_decide_one]
    exact join_of_high_zero (k := 3) (c := 1) (by decide) hz
  case h_9 =>
    refine encode_rdSr ho (fun sd sa sb fn hk => ?_) h
    simp only [zero_ok, Bool.and_eq_true, beq_iff_eq, Except.ok.injEq] at hk
    obtain ⟨⟨⟨rfl, rfl⟩, hz⟩, rfl⟩ := hk
    exact congrArg (fun f => some (wrSr _ 0 sa 0 f)) (setWidth_low_of_high_zero (by decide) hz)
  case h_10 =>
    refine encode_rdSr ho (fun sd sa sb fn hk => ?_) h
    simp only [zero_ok, Bool.and_eq_true, beq_iff_eq, Except.ok.injEq] at hk
    obtain ⟨⟨rfl, hz⟩, rfl⟩ := hk
    exact congrArg (fun f => some (wrSr _ sd sa 0 f)) (setWidth_low_of_high_zero (by decide) hz)
  case h_11 => cases h

theorem encode_parseQueue (h : parseQueue o w = .ok i) : encode i = some w.bits := by
  unfold parseQueue at h
  dsimp only at h
  split at h
  case h_12 => cases h
  all_goals
    refine encode_plain ho (fun hk => ?_) h
    rcases hf : FQF.of w.body with ⟨sd, sa, sb, sc, imm⟩
    simp only [hf, zero_ok, Bool.and_eq_true, beq_iff_eq, decide_eq_true_eq, Except.ok.injEq] at hk
    rw [← FQF.bits_of w.body, hf]
  case h_1 => obtain ⟨⟨⟨rfl, rfl⟩, rfl⟩, rfl⟩ := hk; rfl
  case h_2 =>
    obtain ⟨⟨⟨rfl, rfl⟩, hz⟩, rfl⟩ := hk
    refine congrArg (fun f => some (plainWord _ (FQF.bits ⟨0, sa, sb, 0, f⟩))) ?_
    rw [toNat_decide_one]
    exact join_of_high_zero (k := 8) (c := 1) (by decide) hz
  case h_3 | h_7 | h_8 | h_9 | h_10 => obtain ⟨⟨rfl, rfl⟩, rfl⟩ := hk; rfl
  case h_4 =>
    obtain ⟨⟨⟨⟨rfl, rfl⟩, rfl⟩, hm⟩, rfl⟩ := hk
    rcases eq_zero_or_one hm with rfl | rfl <;> rfl
  case h_5 => obtain ⟨⟨⟨⟨rfl, rfl⟩, rfl⟩, rfl⟩, rfl⟩ := hk; rfl
  case h_6 =>
    obtain ⟨⟨rfl, hm⟩, rfl⟩ := hk
    rcases eq_zero_or_one hm with rfl | rfl <;> rfl
  case h_11 =>
    obtain ⟨⟨⟨⟨rfl, rfl⟩, rfl⟩, hz⟩, rfl⟩ := hk
    refine congrArg (fun f => some (plainWord _ (FQF.bits ⟨0, sa, 0, 0, f⟩))) ?_
    rw [toNat_decide_one]
    exact join_of_high_zero (k := 3) (c := 1) (by decide) hz

theorem encode_parseSystem (h : parseSystem o w = .ok i) : encode i = some w.bits := by
  unfold parseSystem at h
  dsimp only at h
  split at h
  case h_1 =>
    refine encode_plain ho (fun hk => ?_) h
    obtain ⟨hb, hk⟩ := zero_ok.mp hk
    cases hk
    rw [beq_iff_eq.mp hb]
    rfl
  case h_2 =>
    refine encode_plain ho (fun hk => ?_) h
    rcases hf : FSY.of w.body with ⟨sd, sa, reg, fn⟩
    simp only [hf, zero_ok, Bool.and_eq_true, beq_iff_eq, Except.ok.injEq] at hk
    obtain ⟨⟨⟨rfl, rfl⟩, hz⟩, rfl⟩ := hk
    rw [← FSY.bits_of w.body, hf]
    exact congrArg (fun f => some (plainWord _ (FSY.bits ⟨0, sa, 0, f⟩))) (setWidth_low_of_high_zero (by decide) hz)
  case h_3 =>
    refine encode_rdSr ho (fun sd sa sb fn hk => ?_) h
    simp only [zero_ok, Bool.and_eq_true, beq_iff_eq, Except.ok.injEq] at hk
    obtain ⟨⟨⟨rfl, rfl⟩, hz⟩, rfl⟩ := hk
    refine congrArg (fun f => some (wrSr _ 0 sa 0 f)) ?_
    rw [toNat_decide_one]
    exact join_of_high_zero (k := 2) (c := 1) (by decide) hz
  case h_4 =>
    refine encode_rdSr ho (fun sd sa sb fn hk => ?_) h
    simp only [zero_ok, Bool.and_eq_true, beq_iff_eq, Except.ok.injEq] at hk
    obtain ⟨⟨⟨rfl, rfl⟩, hz⟩, rfl⟩ := hk
    exact congrArg (fun f => some (wrSr _ 0 sa 0 f)) (setWidth_low_of_high_zero (by decide) hz)
  case h_5 =>
    refine encode_rdSr ho (fun sd sa sb fn hk => ?_) h
    simp only [zero_ok, Bool.and_eq_true, beq_iff_eq, Except.ok.injEq] at hk
    obtain ⟨⟨rfl, hz⟩, rfl⟩ := hk
    exact congrArg (fun f => some (wrSr _ 0 sa sb f)) (setWidth_low_of_high_zero (by decide) hz)
  case h_6 =>
    refine encode_rdSr ho (fun sd sa sb fn hk => ?_) h
    simp only [zero_ok, Bool.and_eq_true, beq_iff_eq, Except.ok.injEq] at hk
    obtain ⟨⟨⟨rfl, rfl⟩, hz⟩, rfl⟩ := hk
    exact congrArg (fun f => some (wrSr _ sd 0 0 f)) (join_of_high_zero (k := 3) (c := 3) (by decide) hz)
  case h_7 =>
    refine encode_laOnly ho (fun la hk => ?_) h
    rcases hf : FSR.of w.body with ⟨sd, sa, sb, sc, ty, fn⟩
    simp only [hf, zero_ok, Bool.and_eq_true, beq_iff_eq, decide_eq_true_eq, Except.ok.injEq] at hk
    obtain ⟨⟨⟨⟨rfl, rfl⟩, rfl⟩, hm⟩, rfl⟩ := hk
    rw [← FSR.bits_of w.body, hf]
    exact congrArg (fun f => some (laWord _ la (FSR.bits ⟨sd, sa, 0, 0, 0, f⟩))) (flag_of_lt_two hm)
  case h_8 =>
    refine encode_rdSr ho (fun sd sa sb fn hk => ?_) h
    simp only [zero_ok, Bool.and_eq_true, beq_iff_eq, decide_eq_true_eq, Except.ok.injEq] at hk
    obtain ⟨⟨⟨rfl, rfl⟩, hm⟩, rfl⟩ := hk
    exact congrArg (fun f => some (wrSr _ 0 sa 0 f)) (flag_of_lt_two hm)
  case h_9 =>
    refine encode_rdSr ho (fun sd sa sb fn hk => ?_) h
    simp only [zero_ok, Bool.and_eq_true, beq_iff_eq, Except.ok.injEq] at hk
    obtain ⟨⟨rfl, rfl⟩, rfl⟩ := hk
    rfl
  case h_10 =>
    refine encode_rdSr ho (fun sd sa sb fn hk => ?_) h
    simp only [zero_ok, Bool.and_eq_true, beq_iff_eq, Except.ok.injEq] at hk
    obtain ⟨⟨⟨rfl, rfl⟩, rfl⟩, rfl⟩ := hk
    rfl
  case h_11 | h_12 =>
    refine encode_plain ho (fun hk => ?_) h
    obtain ⟨m, hb, hk⟩ := rdMem_ok hk
    cases hk
    rw [hb]; rfl
  case h_13 => cases h

theorem encode_parseRetired (h : parseRetired o w w.bits = .ok i) : encode i = some w.bits := by
  unfold parseRetired at h
  dsimp only at h
  split at h
  case h_1 | h_2 =>
    rcases hf : FVR.of w.body with ⟨vd, va, vb, vc, ty, fn⟩
    simp only [hf, zero_ok, Bool.and_eq_true, beq_iff_eq, Except.ok.injEq] at h
    obtain ⟨⟨⟨rfl, rfl⟩, rfl⟩, rfl⟩ := h
    rw [bits_headWord ho rfl, ← FVR.bits_of w.body, hf]
    rfl
  case h_3 =>
    refine encode_rdSr ho (fun sd sa sb fn hk => ?_) h
    simp only [zero_ok, Bool.and_eq_true, beq_iff_eq, Except.ok.injEq] at hk
    obtain ⟨⟨⟨⟨⟨rfl, rfl⟩, rfl⟩, hz⟩, h0⟩, rfl⟩ := hk
    have parts := join_of_high_zero (k := 4) (c := 3) (by decide) hz
    rw [h0, show (0#4).toNat = 0 from rfl, Nat.zero_add] at parts
    exact congrArg (fun f => some (wrSr _ 0 0 0 f)) parts
  case h_4 =>
    obtain ⟨m, hb, hk⟩ := rdMem_ok h
    cases hk
    exact congrArg some (bits_headWord ho hb).symm
  case h_5 =>
    cases h
    exact congrArg some (rawWord_eq (n := 0xF4) (by decide) ho)
  case h_6 =>
    cases h
    exact congrArg some (rawWord_eq (n := 0xF5) (by decide) ho)
  case h_7 => cases h

end Families

theorem decode_ok {raw : W64} {i : Instr} : decode raw = .ok i ↔ parse raw = .ok i ∧ ill i = none := by
  unfold decode
  cases parse raw with
  | error r => exact ⟨nofun, nofun⟩
  | ok j =>
    dsimp only
    cases hj : ill j with
    | some r => exact ⟨nofun, fun ⟨h, hi⟩ => by cases h; rw [hj] at hi; cases hi⟩
    | none => exact ⟨fun h => by cases h; exact ⟨rfl, hj⟩, fun ⟨h, _⟩ => h⟩

/-- The reader of a row of sixteen opcodes (R66). -/
def parseRow (row o : Nat) (w : Word) (raw : W64) : Except Reject Instr :=
  match row with
  | 0x0 => parseControl o w
  | 0x1 | 0x2 => parseScalar o w
  | 0x3 | 0x4 | 0x5 => parseVector o w
  | 0x6 | 0x7 => parseFloat o w
  | 0x8 => parseMask o w
  | 0x9 | 0xB => parseMem o w
  | 0xC => parseMatrix o w
  | 0xD => parseQueue o w
  | 0xE => parseSystem o w
  | _ => parseRetired o w raw

/-- What `parse` answers once the word is taken apart and its opcode is read. -/
def parseOp (o : Nat) (w : Word) (raw : W64) : Except Reject Instr :=
  if o = 0 then .error .header else if unassignedOpc o then .ok (.unassignedOpcode raw) else parseRow (o / 16) o w raw

theorem parse_eq (raw : W64) : parse raw = parseOp (Word.of raw).opc.toNat (Word.of raw) raw := rfl

theorem encode_parseOp {w : Word} {i : Instr} {o : Nat} (ho : w.opc = BitVec.ofNat 8 o) (h : parseOp o w w.bits = .ok i) :
    encode i = some w.bits := by
  unfold parseOp at h
  split at h
  · cases h
  split at h
  · cases h; rfl
  unfold parseRow at h
  split at h
  · exact encode_parseControl ho h
  · exact encode_parseScalar ho h
  · exact encode_parseScalar ho h
  · exact encode_parseVector ho h
  · exact encode_parseVector ho h
  · exact encode_parseVector ho h
  · exact encode_parseFloat ho h
  · exact encode_parseFloat ho h
  · exact encode_parseMask ho h
  · exact encode_parseMem ho h
  · exact encode_parseMem ho h
  · exact encode_parseMatrix ho h
  · exact encode_parseQueue ho h
  · exact encode_parseSystem ho h
  · exact encode_parseRetired ho h

theorem encode_parse {raw : W64} {i : Instr} (h : parse raw = .ok i) : encode i = some raw := by
  have hw := Word.bits_of raw
  refine (encode_parseOp (o := (Word.of raw).opc.toNat) (BitVec.ofNat_toNat .. |>.trans (BitVec.setWidth_eq _)).symm ?_).trans (congrArg some hw)
  rw [hw, ← parse_eq, h]

/-- Settles O54: each family's reader gives the instruction whose word it read. -/
theorem encodeOfDecode : Obligations.EncodeOfDecode := by
  unfold Obligations.EncodeOfDecode
  intro w i h
  obtain ⟨hp, hill⟩ := decode_ok.mp h
  exact ⟨hill, encode_parse hp⟩

/-! ### The word of an instruction is read back as that instruction -/

theorem parse_bits (f : Word) : parse f.bits = parseOp f.opc.toNat f f.bits := by rw [parse_eq, Word.of_bits]

theorem zero_true (k : Except Reject Instr) : zero true k = k := rfl
theorem want_some {α : Type} (a : α) (k : α → Except Reject Instr) : want (some a) k = k a := rfl
theorem intTy?_code (t : IntTy) : intTy? t.code = some t := intTy?_eq_some.mpr rfl
theorem fpTy?_code (t : FpTy) : fpTy? t.code = some t := fpTy?_eq_some.mpr rfl
theorem matTy?_code (t : MatTy) : matTy? t.code = some t := matTy?_eq_some.mpr rfl
theorem roundMode?_code (t : RoundMode) : roundMode? t.code = some t := roundMode?_eq_some.mpr rfl
theorem scope?_code (t : Scope) : scope? t.code = some t := scope?_eq_some.mpr rfl
theorem cnd?_code (t : Cnd) : cnd? t.code = some t := cnd?_eq_some.mpr rfl
theorem fcnd?_code (t : FCnd) : fcnd? t.code = some t := fcnd?_eq_some.mpr rfl
theorem scanOp?_code (t : ScanOp) : scanOp? t.code = some t := scanOp?_eq_some.mpr rfl

theorem flag_lt (n : Nat) (b : Bool) : ((if b then 1 else 0 : BitVec (n + 1))).toNat < 2 := by
  cases b
  · exact Nat.two_pos
  · exact (Nat.mod_le ..).trans_lt Nat.one_lt_two

theorem flag_eq_one (n : Nat) (b : Bool) : decide ((if b then 1 else 0 : BitVec (n + 1)) = 1) = b := by
  cases b
  · exact decide_eq_false (show (0 : BitVec (n + 1)) ≠ 1 from fun h => absurd (congrArg BitVec.toNat h)
      (by simp))
  · exact decide_eq_true rfl

/-- A short value in a longer field: what is read at its place, and the zeros above it. -/
theorem setWidth_setWidth_low {k n : Nat} (x : BitVec k) (h : k ≤ n) : (x.setWidth n).setWidth k = x := by
  rw [BitVec.setWidth_setWidth_of_le _ h, BitVec.setWidth_eq]

theorem extractLsb'_setWidth_high {k n lo len : Nat} (x : BitVec k) (h : k ≤ lo) : (x.setWidth n).extractLsb' lo len = 0#len := by
  refine extractLsb'_eq_of_toNat ?_
  have hx : (x.setWidth n).toNat < 2 ^ lo := (BitVec.toNat_setWidth .. ▸ Nat.mod_le ..).trans_lt (x.isLt.trans_le (Nat.pow_le_pow_right Nat.two_pos h))
  rw [Nat.div_eq_of_lt hx, Nat.zero_mod, BitVec.toNat_ofNat, Nat.zero_mod]

/-- The parts of a body that is read as those of a memory argument. -/
theorem memArg?_of {b : BitVec 45} {m : MemArg} (h : FME.of b = ⟨m.data, m.base, m.index, m.size.code, m.scope.code, m.ord.code, m.ch,
    bit m.hdv, m.hd, m.off⟩) : memArg? b = .ok m := by
  simp only [memArg?, h, memSize?_eq_some.mpr rfl, scope?_code, memOrd?_eq_some.mpr rfl, decide_bit]

theorem memArg?_bits (m : MemArg) : memArg? m.bits = .ok m := memArg?_of (FME.of_bits _)

section Parts
variable {n k c lo len m : Nat}

theorem extractLsb'_ofNat {x : BitVec len} (hm : m < 2 ^ n) (h : m / 2 ^ lo % 2 ^ len = x.toNat) : (BitVec.ofNat n m).extractLsb' lo len = x :=
  extractLsb'_eq_of_toNat (by rw [BitVec.toNat_ofNat, Nat.mod_eq_of_lt hm, h])

theorem extractLsb'_ofNat_zero (hm : m < 2 ^ n) (h : m / 2 ^ lo % 2 ^ len = 0) : (BitVec.ofNat n m).extractLsb' lo len = 0#len :=
  extractLsb'_ofNat hm (h.trans BitVec.toNat_zero.symm)

theorem setWidth_ofNat {x : BitVec k} (hm : m < 2 ^ n) (h : m % 2 ^ k = x.toNat) : (BitVec.ofNat n m).setWidth k = x :=
  BitVec.eq_of_toNat_eq (by rw [BitVec.toNat_setWidth, BitVec.toNat_ofNat, Nat.mod_eq_of_lt hm, h])

variable (a : BitVec k) (b : BitVec c)

theorem join_lt : a.toNat + 2 ^ k * b.toNat < 2 ^ (k + c) := by
  have ha := a.isLt
  calc a.toNat + 2 ^ k * b.toNat < 2 ^ k * (b.toNat + 1) := by rw [Nat.mul_add_one]; omega
    _ ≤ 2 ^ (k + c) := by rw [Nat.pow_add]; exact Nat.mul_le_mul_left _ b.isLt

theorem low_of_join (hn : k + c ≤ n) : (BitVec.ofNat n (a.toNat + 2 ^ k * b.toNat)).setWidth k = a :=
  setWidth_ofNat ((join_lt a b).trans_le (Nat.pow_le_pow_right Nat.two_pos hn))
    (by rw [Nat.add_mul_mod_self_left, Nat.mod_eq_of_lt a.isLt])

theorem part_of_join (hn : k + c ≤ n) : (BitVec.ofNat n (a.toNat + 2 ^ k * b.toNat)).extractLsb' k c = b :=
  extractLsb'_ofNat ((join_lt a b).trans_le (Nat.pow_le_pow_right Nat.two_pos hn))
    (by rw [Nat.add_mul_div_left _ _ (Nat.two_pow_pos k), Nat.div_eq_of_lt a.isLt, Nat.zero_add, Nat.mod_eq_of_lt b.isLt])

theorem high_of_join (hn : k + c ≤ n) (hlo : k + c ≤ lo) : (BitVec.ofNat n (a.toNat + 2 ^ k * b.toNat)).extractLsb' lo len = 0#len :=
  extractLsb'_ofNat ((join_lt a b).trans_le (Nat.pow_le_pow_right Nat.two_pos hn))
    (by rw [Nat.div_eq_of_lt ((join_lt a b).trans_le (Nat.pow_le_pow_right Nat.two_pos hlo))]; simp)

end Parts

theorem toNat_bit (b : Bool) : (bit b).toNat = b.toNat := by cases b <;> rfl

/-! A word of each kind, known by what its readers see of it: its body stays closed, so that no proof opens the sum of its fields. -/
section Kinds
variable {opc : BitVec 8} {body : BitVec 45} {r : Except Reject Instr} {raw : W64}

theorem parse_of_plainWord (he : some (plainWord opc body) = some raw)
    (h : ∀ w, (∀ k, plain w k = k) → w.body = body → parseOp opc.toNat w raw = r) : parse raw = r := by
  cases he
  exact (parse_bits _).trans (h _ (fun _ => rfl) rfl)

theorem parse_of_laWord {la : BitVec 4} (he : some (laWord opc la body) = some raw)
    (h : ∀ w, (∀ k, laOnly w k = k la) → w.body = body → parseOp opc.toNat w raw = r) : parse raw = r := by
  cases he
  exact (parse_bits _).trans (h _ (fun _ => rfl) rfl)

theorem parse_of_headWord {hd : Head} (he : some (headWord opc hd body) = some raw)
    (h : ∀ w, w.head = hd → w.body = body → parseOp opc.toNat w raw = r) : parse raw = r := by
  cases he
  exact (parse_bits _).trans (h _ (by simp only [Word.head, decide_bit]) rfl)

theorem parse_of_holdWord {a hold : Bool} (he : some (holdWord opc a hold body) = some raw)
    (h : ∀ w, (∀ k, holdOnly a w k = k hold) → w.body = body → parseOp opc.toNat w raw = r) : parse raw = r := by
  cases he
  exact (parse_bits _).trans (h _ (fun _ => by cases a <;> cases hold <;> rfl) rfl)

end Kinds

/-! ### What the readers of each shape give -/

section Readers
variable {w : Word}

section Plain
variable (hp : ∀ k, plain w k = k)
include hp

theorem rdSss_eq {mk : IntTy → SReg → SReg → SReg → Bool → Instr} {ty : IntTy} {sd sa sb : SReg} {sat : Bool}
    (hb : w.body = FSR.bits ⟨sd, sa, sb, 0, ty.code, if sat then 1 else 0⟩) : rdSss mk w = .ok (mk ty sd sa sb sat) := by
  simp only [rdSss, hp, hb, FSR.of_bits, intTy?_code, want_some, beq_self_eq_true, decide_eq_true (flag_lt _ _), Bool.and_self, zero_true,
    flag_eq_one]

theorem rdSs_eq {mk : IntTy → SReg → SReg → SReg → Instr} {ty : IntTy} {sd sa sb : SReg}
    (hb : w.body = FSR.bits ⟨sd, sa, sb, 0, ty.code, 0⟩) : rdSs mk w = .ok (mk ty sd sa sb) := by
  simp only [rdSs, hp, hb, FSR.of_bits, intTy?_code, want_some, beq_self_eq_true, Bool.and_self, zero_true]

theorem rdS1_eq {mk : IntTy → SReg → SReg → Instr} {ty : IntTy} {sd sa : SReg}
    (hb : w.body = FSR.bits ⟨sd, sa, 0, 0, ty.code, 0⟩) : rdS1 mk w = .ok (mk ty sd sa) := by
  simp only [rdS1, hp, hb, FSR.of_bits, intTy?_code, want_some, beq_self_eq_true, Bool.and_self, zero_true]

theorem rdSbf_eq {mk : IntTy → SReg → SReg → SReg → BitVec 6 → BitVec 6 → Except Reject Instr} {ty : IntTy} {sd sa sb : SReg}
    {pos l : BitVec 6} (hb : w.body = FSR.bits ⟨sd, sa, sb, 0, ty.code, BitVec.ofNat 17 (l.toNat * 2 ^ 6 + pos.toNat)⟩) :
    rdSbf mk w = mk ty sd sa sb pos l := by
  rw [Nat.mul_comm, Nat.add_comm] at hb
  simp only [rdSbf, hp, hb, FSR.of_bits, intTy?_code, want_some, low_of_join pos l (n := 17) (by decide),
    part_of_join pos l (n := 17) (by decide), high_of_join pos l (n := 17) (lo := 12) (by decide) (by decide)]
  rfl

theorem rdSi_eq {mk : SReg → SReg → BitVec 33 → Instr} {sd sa : SReg} {imm : BitVec 33} (hb : w.body = FSI.bits ⟨sd, sa, imm⟩) :
    rdSi mk w = .ok (mk sd sa imm) := by
  simp only [rdSi, hp, hb, FSI.of_bits]

theorem rdSr_eq {mk : SReg → SReg → SReg → BitVec 17 → Except Reject Instr} {sd sa sb : SReg} {fn : BitVec 17}
    (hb : w.body = FSR.bits ⟨sd, sa, sb, 0, 0, fn⟩) : rdSr mk w = mk sd sa sb fn := by
  simp only [rdSr, hp, hb, FSR.of_bits, beq_self_eq_true, Bool.and_self, zero_true]

theorem rdStl_eq {mk : Scope → SReg → SReg → SReg → Instr} {s : Scope} {sd sa sb : SReg}
    (hb : w.body = FSR.bits ⟨sd, sa, sb, 0, s.code.setWidth 4, 0⟩) : rdStl mk w = .ok (mk s sd sa sb) := by
  simp only [rdStl, hp, hb, FSR.of_bits, setWidth_setWidth_low s.code (n := 4) (by decide), scope?_code, want_some,
    extractLsb'_setWidth_high s.code (n := 4) (lo := 3) (len := 1) (by decide)]
  rfl

end Plain

theorem rdSl_eq {mk : BitVec 4 → IntTy → SReg → SReg → SReg → Instr} {la : BitVec 4} {ty : IntTy} {sd sa sb : SReg}
    (hl : ∀ k, laOnly w k = k la) (hb : w.body = FSR.bits ⟨sd, sa, sb, 0, ty.code, 0⟩) : rdSl mk w = .ok (mk la ty sd sa sb) := by
  simp only [rdSl, hl, hb, FSR.of_bits, intTy?_code, want_some, beq_self_eq_true, Bool.and_self, zero_true]

section Headed
variable {h : Head} (hh : w.head = h)
include hh

theorem rdVs_eq {mk : Head → IntTy → VReg → VReg → VReg → Bool → Instr} {ty : IntTy} {vd va vb : VReg} {sat : Bool}
    (hb : w.body = FVR.bits ⟨vd, va, vb, 0, ty.code, if sat then 1 else 0⟩) : rdVs mk w = .ok (mk h ty vd va vb sat) := by
  simp only [rdVs, hh, hb, FVR.of_bits, intTy?_code, want_some, beq_self_eq_true, decide_eq_true (flag_lt _ _), Bool.and_self, zero_true,
    flag_eq_one]

theorem rdV4_eq {mk : Head → IntTy → VReg → VReg → VReg → VReg → Bool → Instr} {ty : IntTy} {vd va vb vc : VReg} {sat : Bool}
    (hb : w.body = FVR.bits ⟨vd, va, vb, vc, ty.code, if sat then 1 else 0⟩) : rdV4 mk w = .ok (mk h ty vd va vb vc sat) := by
  simp only [rdV4, hh, hb, FVR.of_bits, intTy?_code, want_some, decide_eq_true (flag_lt _ _), zero_true, flag_eq_one]

theorem rdVec_eq {mk : Head → IntTy → VReg → VReg → VReg → VReg → BitVec 9 → Except Reject Instr} {ty : IntTy} {vd va vb vc : VReg}
    {fn : BitVec 9} (hb : w.body = FVR.bits ⟨vd, va, vb, vc, ty.code, fn⟩) : rdVec mk w = mk h ty vd va vb vc fn := by
  simp only [rdVec, hh, hb, FVR.of_bits, intTy?_code, want_some]

theorem rdF_eq {mk : Head → FpTy → VReg → VReg → VReg → VReg → BitVec 9 → Except Reject Instr} {ty : FpTy} {vd va vb vc : VReg}
    {fn : BitVec 9} (hb : w.body = FVR.bits ⟨vd, va, vb, vc, ty.code, fn⟩) : rdF mk w = mk h ty vd va vb vc fn := by
  simp only [rdF, hh, hb, FVR.of_bits, fpTy?_code, want_some]

theorem rdVi_eq {mk : Head → IntTy → VReg → VReg → BitVec 25 → Instr} {ty : IntTy} {vd va : VReg} {imm : BitVec 25}
    (hb : w.body = FVI.bits ⟨vd, va, ty.code, imm⟩) : rdVi mk w = .ok (mk h ty vd va imm) := by
  simp only [rdVi, hh, hb, FVI.of_bits, intTy?_code, want_some]

theorem rdMm_eq {mk : Head → MReg → MReg → MReg → BitVec 8 → BitVec 9 → Except Reject Instr} {md ma mb : MReg} {va : BitVec 8}
    {fn : BitVec 9} (hb : w.body = FMR.bits ⟨md, ma, mb, va, 0, 0, 0, fn⟩) : rdMm mk w = mk h md ma mb va fn := by
  simp only [rdMm, hh, hb, FMR.of_bits, beq_self_eq_true, Bool.and_self, zero_true]

end Headed

theorem rdCo_eq {mk : MReg → MReg → MReg → BitVec 8 → BitVec 8 → BitVec 4 → BitVec 9 → Except Reject Instr} {md ma mb : MReg}
    {va vb : BitVec 8} {ty : BitVec 4} {fn : BitVec 9} (hb : w.body = FMR.bits ⟨md, ma, mb, va, vb, ty, 0, fn⟩) :
    rdCo mk w = mk md ma mb va vb ty fn := by
  simp only [rdCo, hb, FMR.of_bits, beq_self_eq_true, zero_true]

theorem rdMem_eq {mk : MemArg → Except Reject Instr} {m : MemArg} (hb : w.body = m.bits) : rdMem mk w = mk m := by
  simp only [rdMem, hb, memArg?_bits]

theorem rdAop_eq {mk : AtomOp → MemArg → Except Reject Instr} {op : AtomOp} {m : MemArg} (hb : w.body = { m with off := op.code }.bits)
    (hm : m.off = 0) : rdAop mk w = mk op m := by
  rw [rdAop, rdMem_eq hb]
  simp only [atomOp?_eq_some.mpr rfl, want_some, ← hm]

theorem asSReg_setWidth (s : SReg) (k : SReg → Except Reject Instr) : asSReg (s.setWidth 8) k = k s := by
  rw [asSReg, high_zero_of_sreg, setWidth_setWidth_low _ (by decide)]
  rfl

theorem rmOnly_code (rm : RoundMode) (k : RoundMode → Except Reject Instr) : rmOnly (rm.code.setWidth 9) k = k rm := by
  rw [rmOnly, extractLsb'_setWidth_high rm.code (by decide), setWidth_setWidth_low rm.code (by decide), roundMode?_code]
  rfl

theorem brCond_body (c : BrCond) (disp : W32) (k : BrCond → W32 → Except Reject Instr) :
    brCond (FBR.of (c.body disp)) (fun b => k b (FBR.of (c.body disp)).disp) = k c disp := by
  cases c <;> dsimp only [BrCond.body] <;> rw [FBR.of_bits] <;> rfl

end Readers

/-! The families of the opcode map (R66). -/
section Families
variable {o : Nat} {w : Word} {raw : W64} (hu : unassignedOpc o = false)
include hu

theorem parseOp_assigned (h0 : o ≠ 0) : parseOp o w raw = parseRow (o / 16) o w raw := by
  rw [parseOp, if_neg h0, hu, if_neg Bool.false_ne_true]

theorem parseOp_control (h : 1 ≤ o ∧ o < 16) : parseOp o w raw = parseControl o w := by
  rw [parseOp_assigned hu (by omega)]
  rw [show o / 16 = 0 by omega]
  rfl

theorem parseOp_scalar (h : 16 ≤ o ∧ o < 48) : parseOp o w raw = parseScalar o w := by
  rw [parseOp_assigned hu (by omega)]
  obtain h | h : o / 16 = 1 ∨ o / 16 = 2 := by omega
  all_goals rw [h]; rfl

theorem parseOp_vector (h : 48 ≤ o ∧ o < 96) : parseOp o w raw = parseVector o w := by
  rw [parseOp_assigned hu (by omega)]
  obtain h | h | h : o / 16 = 3 ∨ o / 16 = 4 ∨ o / 16 = 5 := by omega
  all_goals rw [h]; rfl

theorem parseOp_float (h : 96 ≤ o ∧ o < 128) : parseOp o w raw = parseFloat o w := by
  rw [parseOp_assigned hu (by omega)]
  obtain h | h : o / 16 = 6 ∨ o / 16 = 7 := by omega
  all_goals rw [h]; rfl

theorem parseOp_mask (h : 128 ≤ o ∧ o < 144) : parseOp o w raw = parseMask o w := by
  rw [parseOp_assigned hu (by omega)]
  rw [show o / 16 = 8 by omega]
  rfl

theorem parseOp_matrix (h : 192 ≤ o ∧ o < 208) : parseOp o w raw = parseMatrix o w := by
  rw [parseOp_assigned hu (by omega)]
  rw [show o / 16 = 12 by omega]
  rfl

theorem parseOp_queue (h : 208 ≤ o ∧ o < 224) : parseOp o w raw = parseQueue o w := by
  rw [parseOp_assigned hu (by omega)]
  rw [show o / 16 = 13 by omega]
  rfl

theorem parseOp_system (h : 224 ≤ o ∧ o < 240) : parseOp o w raw = parseSystem o w := by
  rw [parseOp_assigned hu (by omega)]
  rw [show o / 16 = 14 by omega]
  rfl

theorem parseOp_retired (h : 240 ≤ o ∧ o < 256) : parseOp o w raw = parseRetired o w raw := by
  rw [parseOp_assigned hu (by omega)]
  rw [show o / 16 = 15 by omega]
  rfl

theorem parseOp_mem (h : o / 16 = 9 ∨ o / 16 = 11) : parseOp o w raw = parseMem o w := by
  rw [parseOp_assigned hu (by omega)]
  rcases h with h | h
  all_goals rw [h]; rfl

end Families

/-! ### The remaining parts of FN -/

theorem shfl_parts {c : Nat} {x : BitVec 2} (hx : c = x.toNat) (k : BitVec 6) :
    (BitVec.ofNat 9 (c + 2 ^ 2 * k.toNat)).extractLsb' 0 2 = x ∧
      (BitVec.ofNat 9 (c + 2 ^ 2 * k.toNat)).extractLsb' 2 6 = k ∧ (BitVec.ofNat 9 (c + 2 ^ 2 * k.toNat)).extractLsb' 8 1 = 0#1 := by
  refine ⟨extractLsb'_ofNat ?_ ?_, extractLsb'_ofNat ?_ ?_, extractLsb'_ofNat_zero ?_ ?_⟩
  all_goals omega

theorem fence_parts (pr su : BitVec 7) :
    (BitVec.ofNat 17 (2 * pr.toNat + 2 ^ 8 * su.toNat)).extractLsb' 0 1 = 0#1 ∧
      (BitVec.ofNat 17 (2 * pr.toNat + 2 ^ 8 * su.toNat)).extractLsb' 1 7 = pr ∧
      (BitVec.ofNat 17 (2 * pr.toNat + 2 ^ 8 * su.toNat)).extractLsb' 8 7 = su ∧
      (BitVec.ofNat 17 (2 * pr.toNat + 2 ^ 8 * su.toNat)).extractLsb' 15 2 = 0#2 := by
  refine ⟨extractLsb'_ofNat_zero ?_ ?_, extractLsb'_ofNat ?_ ?_, extractLsb'_ofNat ?_ ?_, extractLsb'_ofNat_zero ?_ ?_⟩
  all_goals omega

theorem rinit_parts (k : BitVec 3) (st : BitVec 4) :
    (BitVec.ofNat 17 (k.toNat + 2 ^ 4 * st.toNat)).setWidth 3 = k ∧
      (BitVec.ofNat 17 (k.toNat + 2 ^ 4 * st.toNat)).extractLsb' 3 1 = 0#1 ∧
      (BitVec.ofNat 17 (k.toNat + 2 ^ 4 * st.toNat)).extractLsb' 4 4 = st ∧
      (BitVec.ofNat 17 (k.toNat + 2 ^ 4 * st.toNat)).extractLsb' 8 9 = 0#9 := by
  refine ⟨setWidth_ofNat ?_ ?_, extractLsb'_ofNat_zero ?_ ?_, extractLsb'_ofNat ?_ ?_, extractLsb'_ofNat_zero ?_ ?_⟩
  all_goals omega

theorem barAll_parts (b : BitVec 3) :
    (BitVec.ofNat 17 (2 ^ 4 * b.toNat)).setWidth 4 = 0#4 ∧ (BitVec.ofNat 17 (2 ^ 4 * b.toNat)).extractLsb' 4 3 = b ∧
      (BitVec.ofNat 17 (2 ^ 4 * b.toNat)).extractLsb' 7 10 = 0#10 := by
  refine ⟨setWidth_ofNat ?_ (by rw [Nat.mul_mod_right]; rfl), extractLsb'_ofNat ?_ ?_, extractLsb'_ofNat_zero ?_ ?_⟩
  all_goals omega

/-- A word of which only the opcode is read (R72). -/
theorem parse_rawWord {n : Nat} {b : BitVec 56} {i : Instr} (hn : 0xF0 ≤ n ∧ n < 0xF6)
    (h : ∀ w raw, raw.setWidth 56 = b → parseRetired n w raw = .ok i) : parse (BitVec.ofNat 64 (n * 2 ^ 56 + b.toNat)) = .ok i := by
  have hlt : n * 2 ^ 56 + b.toNat < 2 ^ 64 := by omega
  have hopc : (Word.of (BitVec.ofNat 64 (n * 2 ^ 56 + b.toNat))).opc.toNat = n := by
    show ((BitVec.ofNat 64 (n * 2 ^ 56 + b.toNat)).extractLsb' 56 8).toNat = n
    rw [BitVec.extractLsb'_toNat, BitVec.toNat_ofNat, Nat.mod_eq_of_lt hlt, Nat.shiftRight_eq_div_pow]
    omega
  have hu : unassignedOpc n = false := by
    obtain ⟨hlo, hhi⟩ := hn
    interval_cases n <;> rfl
  rw [parse_eq, hopc, parseOp_retired hu (by omega)]
  exact h _ _ (setWidth_ofNat hlt (by omega))

/-! ### What a check that passes says -/

theorem orElse_none {α : Type} {a b : Option α} : (a <|> b) = none ↔ a = none ∧ b = none := by cases a <;> simp

theorem need_none {b : Bool} {r : Reject} : need b r = none ↔ b = true := by cases b <;> simp [need]

/-- A row whose OFF8 is no offset has it zero (R64). -/
theorem off_of_check {r : MemRow} {m : MemArg} (hr : r.off = false) (h : r.check m = none) : m.off = 0 := by
  simp only [MemRow.check, orElse_none, need_none, hr, Bool.false_or, beq_iff_eq] at h
  obtain ⟨-, -, -, -, -, -, -, -, -, hoff⟩ := h
  exact hoff

theorem parse_unassignedOpcode {raw : W64} (h : unassignedOpc (raw.extractLsb' 56 8).toNat = true) :
    parse raw = .ok (.unassignedOpcode raw) := by
  have h0 : (raw.extractLsb' 56 8).toNat ≠ 0 := fun h0 => by rw [h0] at h; exact absurd h (by decide)
  exact (if_neg h0).trans (if_pos h)

/-! ### The word of an instruction is read as that instruction, row by row -/

theorem parse_of_encode {i : Instr} {raw : W64} (he : encode i = some raw) (hi : ill i = none) : parse raw = .ok i := by
  cases i with
  -- control (R106 to R115)
  | br c disp =>
    refine parse_of_plainWord he fun w hp hb => (parseOp_control rfl (by decide)).trans ?_
    show plain w (brCond (FBR.of w.body) fun c => .ok (.br c (FBR.of w.body).disp)) = _
    rw [hp, hb]
    exact brCond_body c disp fun c d => .ok (.br c d)
  | brm =>
    refine parse_of_plainWord he fun w hp hb => (parseOp_control rfl (by decide)).trans ?_
    unfold parseControl
    refine (hp _).trans ?_
    simp only [hb, FBR.of_bits, beq_self_eq_true, decide_eq_true (flag_lt _ _), Bool.and_self, zero_true, flag_eq_one]
  | call =>
    refine parse_of_plainWord he fun w hp hb => (parseOp_control rfl (by decide)).trans ?_
    unfold parseControl
    refine (hp _).trans ?_
    simp only [hb, FBR.of_bits]
    rfl
  | trap | brk =>
    refine parse_of_plainWord he fun w hp hb => (parseOp_control rfl (by decide)).trans ?_
    unfold parseControl
    refine (hp _).trans ?_
    simp only [hb, FSI.of_bits]
    rfl
  | mfs | mts =>
    refine parse_of_plainWord he fun w hp hb => (parseOp_control rfl (by decide)).trans ?_
    unfold parseControl
    refine (hp _).trans ?_
    simp only [hb, FSY.of_bits]
    rfl
  | jmpi | calli | ret | exit | yield | nop =>
    refine parse_of_plainWord he fun w hp hb => (parseOp_control rfl (by decide)).trans ?_
    unfold parseControl
    exact rdSr_eq hp hb
  | spawn _ _ _ n argc =>
    refine parse_of_plainWord he fun w hp hb => (parseOp_control rfl (by decide)).trans ?_
    rw [Nat.mul_comm, Nat.add_comm] at hb
    unfold parseControl
    refine (hp _).trans ?_
    simp only [hb, FQF.of_bits, low_of_join n argc (n := 21) (by decide), part_of_join n argc (n := 21) (by decide),
      high_of_join n argc (n := 21) (lo := 7) (len := 14) (by decide) (by decide)]
    rfl
  -- scalar (R101 to R105)
  | sadd | ssub | smul => exact parse_of_plainWord he fun w hp hb => rdSss_eq hp hb
  | smulh | sand | sor | sxor | sandn | sshl | sshr | ssra | srot | smin | smax =>
    exact parse_of_plainWord he fun w hp hb => rdSs_eq hp hb
  | sclz | spopc => exact parse_of_plainWord he fun w hp hb => rdS1_eq hp hb
  | sdiv | srem => exact parse_of_laWord he fun w hl hb => rdSl_eq hl hb
  | saddImm | smulImm | sandImm | sorImm | sxorImm | sshlImm | sshrImm | ssraImm =>
    exact parse_of_plainWord he fun w hp hb => rdSi_eq hp hb
  | sbfe | sbfi =>
    refine parse_of_plainWord he fun w hp hb => (parseOp_scalar rfl (by decide)).trans ?_
    unfold parseScalar
    exact rdSbf_eq hp hb
  | ssel | smov =>
    refine parse_of_plainWord he fun w hp hb => (parseOp_scalar rfl (by decide)).trans ?_
    unfold parseScalar
    refine (hp _).trans ?_
    simp only [hb, FSR.of_bits]
    rfl
  | sli | sliHi =>
    refine parse_of_plainWord he fun w hp hb => (parseOp_scalar rfl (by decide)).trans ?_
    unfold parseScalar
    refine (hp _).trans ?_
    simp only [hb, FSL.of_bits]
    rfl
  | scmp ty c =>
    refine parse_of_plainWord he fun w hp hb => (parseOp_scalar rfl (by decide)).trans ?_
    unfold parseScalar
    refine (hp _).trans ?_
    simp only [hb, FSR.of_bits, intTy?_code, want_some, setWidth_setWidth_low c.code (n := 17) (by decide), cnd?_code,
      extractLsb'_setWidth_high c.code (n := 17) (lo := 3) (len := 14) (by decide)]
    rfl
  -- vector integer (R126 to R132)
  | vadd | vsub | vmul => exact parse_of_headWord he fun w hh hb => rdVs_eq hh hb
  | vmad => exact parse_of_headWord he fun w hh hb => rdV4_eq hh hb
  | vaddImm | vsubImm | vmulImm | vminImm | vmaxImm | vandImm | vorImm | vxorImm | vshlImm | vshrImm | vsraImm =>
    exact parse_of_headWord he fun w hh hb => rdVi_eq hh hb
  | vand | vor | vxor | vandn | vshl | vshr | vsra | vmin | vmax | vmulh | vnot | vclz | vpopc | vbrev | vbfe | vbfi | vmov | vlane =>
    refine parse_of_headWord he fun w hh hb => (parseOp_vector rfl (by decide)).trans ?_
    unfold parseVector
    exact rdVec_eq hh hb
  | vabs | vneg =>
    refine parse_of_headWord he fun w hh hb => (parseOp_vector rfl (by decide)).trans ?_
    unfold parseVector
    refine (rdVec_eq hh hb).trans ?_
    simp only [beq_self_eq_true, decide_eq_true (flag_lt _ _), Bool.and_self, zero_true, flag_eq_one]
  | vaddc _ _ _ _ k | vsubb _ _ _ _ k | vsel _ _ _ _ _ k =>
    refine parse_of_headWord he fun w hh hb => (parseOp_vector rfl (by decide)).trans ?_
    unfold parseVector
    refine (rdVec_eq hh hb).trans ?_
    simp only [setWidth_setWidth_low k (n := 9) (by decide), extractLsb'_setWidth_high k (n := 9) (lo := 4) (len := 5) (by decide)]
    rfl
  | vclmul _ _ _ _ _ a b =>
    refine parse_of_headWord he fun w hh hb => (parseOp_vector rfl (by decide)).trans ?_
    unfold parseVector
    refine (rdVec_eq hh hb).trans ?_
    cases a <;> cases b <;> rfl
  | vli =>
    refine parse_of_headWord he fun w hh hb => (parseOp_vector rfl (by decide)).trans ?_
    unfold parseVector
    simp only [hh, hb, FVL.of_bits]
    rfl
  | vbcast =>
    refine parse_of_headWord he fun w hh hb => (parseOp_vector rfl (by decide)).trans ?_
    unfold parseVector
    exact (rdVec_eq hh hb).trans ((zero_true _).trans (asSReg_setWidth _ _))
  -- vector floating point (R135 to R145)
  | vfadd | vfsub | vfmul | vfscale | vffma | vfsqrt | vffract | vfround =>
    refine parse_of_headWord he fun w hh hb => (parseOp_float rfl (by decide)).trans ?_
    unfold parseFloat
    exact (rdF_eq hh hb).trans (rmOnly_code _ _)
  | vfmin | vfmax | vfsgn | vfabs | vfneg | vfclass | vfrcp | vfrsq | vfexp2 | vflog2 | vfsin | vfcos | vunpack | vpackDense | vunpackDense =>
    refine parse_of_headWord he fun w hh hb => (parseOp_float rfl (by decide)).trans ?_
    unfold parseFloat
    exact rdF_eq hh hb
  | vfcmp _ _ c md =>
    refine parse_of_headWord he fun w hh hb => (parseOp_float rfl (by decide)).trans ?_
    unfold parseFloat
    refine (rdF_eq hh hb).trans ?_
    simp only [setWidth_setWidth_low c.code (n := 9) (by decide), setWidth_setWidth_low md (n := 8) (by decide), fcnd?_code, want_some,
      extractLsb'_setWidth_high c.code (n := 9) (lo := 3) (len := 6) (by decide),
      extractLsb'_setWidth_high md (n := 8) (lo := 4) (len := 4) (by decide)]
    rfl
  | vfcvt _ _ src _ _ rm ovf =>
    cases src with
    | fp t =>
      refine parse_of_headWord he fun w hh hb => (parseOp_float rfl (by decide)).trans ?_
      unfold parseFloat
      refine (rdF_eq hh hb).trans ?_
      cases rm <;> cases ovf <;> cases t <;> rfl
    | int t =>
      refine parse_of_headWord he fun w hh hb => (parseOp_float rfl (by decide)).trans ?_
      unfold parseFloat
      refine (rdF_eq hh hb).trans ?_
      cases rm <;> cases ovf <;> cases t <;> rfl
  | vicvt _ _ t _ _ rm =>
    refine parse_of_headWord he fun w hh hb => (parseOp_float rfl (by decide)).trans ?_
    unfold parseFloat
    refine (rdVec_eq hh hb).trans ?_
    cases rm <;> cases t <;> rfl
  | vpack _ _ _ _ rm ovf =>
    refine parse_of_headWord he fun w hh hb => (parseOp_float rfl (by decide)).trans ?_
    unfold parseFloat
    refine (rdF_eq hh hb).trans ?_
    cases rm <;> cases ovf <;> rfl
  | vdot _ _ t _ _ _ _ mx =>
    refine parse_of_headWord he fun w hh hb => (parseOp_float rfl (by decide)).trans ?_
    unfold parseFloat
    refine (rdF_eq hh hb).trans ?_
    cases mx <;> cases t <;> rfl
  -- masks and collectives (R133, R134, R146 to R154)
  | vcmp _ ty c =>
    refine parse_of_headWord he fun w hh hb => (parseOp_mask rfl (by decide)).trans ?_
    simp only [parseMask, hh, hb, FMR.of_bits, intTy?_code, want_some, setWidth_setWidth_low c.code (n := 4) (by decide), cnd?_code,
      extractLsb'_setWidth_high c.code (n := 4) (lo := 3) (len := 1) (by decide)]
    rfl
  | mand | mor | mxor | mandn | mnot | mmov =>
    refine parse_of_headWord he fun w hh hb => (parseOp_mask rfl (by decide)).trans ?_
    unfold parseMask
    exact rdMm_eq hh hb
  | mpopc | mffs | mfls | mtos | mfroms =>
    refine parse_of_headWord he fun w hh hb => (parseOp_mask rfl (by decide)).trans ?_
    unfold parseMask
    exact (rdMm_eq hh hb).trans ((zero_true _).trans (asSReg_setWidth _ _))
  | voteAny | voteAll | voteBallot =>
    refine parse_of_plainWord he fun w hp hb => (parseOp_mask rfl (by decide)).trans ?_
    refine (if_neg (by rw [hb, FMR.of_bits]; exact ne_of_beq_false rfl)).trans ?_
    exact (hp _).trans (rdCo_eq hb)
  | voteUni =>
    refine parse_of_holdWord he fun w hc hb => (parseOp_mask rfl (by decide)).trans ?_
    refine (if_pos (by rw [hb, FMR.of_bits])).trans ?_
    exact (hc _).trans (rdCo_eq hb)
  | shflIdx =>
    refine parse_of_holdWord he fun w hc hb => (parseOp_mask rfl (by decide)).trans ?_
    unfold parseMask
    exact (hc _).trans (rdCo_eq hb)
  | shflUp _ _ _ _ k | shflDown _ _ _ _ k | shflXor _ _ _ _ k =>
    refine parse_of_holdWord he fun w hc hb => (parseOp_mask rfl (by decide)).trans ?_
    unfold parseMask
    refine ((hc _).trans (rdCo_eq hb)).trans ?_
    simp only [shfl_parts (c := 1) (x := 1) rfl k, shfl_parts (c := 2) (x := 2) rfl k, shfl_parts (c := 3) (x := 3) rfl k]
    rfl
  | vscan _ op ty _ _ _ excl =>
    refine parse_of_holdWord he fun w hc hb => (parseOp_mask rfl (by decide)).trans ?_
    unfold parseMask
    refine ((hc _).trans (rdCo_eq hb)).trans ?_
    simp only [intTy?_code, want_some]
    cases op <;> cases excl <;> rfl
  | vred _ op ty =>
    refine parse_of_holdWord he fun w hc hb => (parseOp_mask rfl (by decide)).trans ?_
    unfold parseMask
    refine ((hc _).trans (rdCo_eq hb)).trans ?_
    simp only [intTy?_code, want_some]
    cases op <;> rfl
  | vappend _ _ _ _ sb =>
    refine parse_of_holdWord he fun w hc hb => (parseOp_mask rfl (by decide)).trans ?_
    unfold parseMask
    refine ((hc _).trans (rdCo_eq hb)).trans ?_
    simp only [setWidth_setWidth_low sb (n := 9) (by decide), extractLsb'_setWidth_high sb (n := 9) (lo := 6) (len := 3) (by decide)]
    rfl
  | vreadl _ sd _ _ lane =>
    refine parse_of_holdWord he fun w hc hb => (parseOp_mask rfl (by decide)).trans ?_
    unfold parseMask
    refine ((hc _).trans (rdCo_eq hb)).trans ?_
    simp only [setWidth_setWidth_low lane (n := 9) (by decide), extractLsb'_setWidth_high lane (n := 9) (lo := 6) (len := 3) (by decide), asSReg_setWidth]
    rfl
  | vwritel _ ss _ lane =>
    refine parse_of_plainWord he fun w hp hb => (parseOp_mask rfl (by decide)).trans ?_
    unfold parseMask
    refine ((hp _).trans (rdCo_eq hb)).trans ?_
    simp only [setWidth_setWidth_low lane (n := 9) (by decide), extractLsb'_setWidth_high lane (n := 9) (lo := 6) (len := 3) (by decide), asSReg_setWidth]
    rfl
  -- memory, order, timelines and barriers (R211 to R230)
  | ld | ldx | st | stx | pf | cas =>
    refine parse_of_headWord he fun w hh hb => (parseOp_mem rfl (by decide)).trans ?_
    unfold parseMem
    refine (rdMem_eq hb).trans ?_
    rw [hh]
  | ldcst =>
    refine parse_of_headWord he fun w hh hb => (parseOp_retired rfl (by decide)).trans ?_
    unfold parseRetired
    refine (rdMem_eq hb).trans ?_
    rw [hh]
  | lds =>
    refine parse_of_laWord he fun w hl hb => (parseOp_mem rfl (by decide)).trans ?_
    unfold parseMem
    exact (hl _).trans (rdMem_eq hb)
  | sts | ldm | bcp | wchg =>
    refine parse_of_plainWord he fun w hp hb => (parseOp_mem rfl (by decide)).trans ?_
    unfold parseMem
    exact (hp _).trans (rdMem_eq hb)
  | cwb | cinv =>
    refine parse_of_plainWord he fun w hp hb => (parseOp_system rfl (by decide)).trans ?_
    unfold parseSystem
    exact (hp _).trans (rdMem_eq hb)
  | atom _ _ m =>
    refine parse_of_headWord he fun w hh hb => (parseOp_mem rfl (by decide)).trans ?_
    unfold parseMem
    refine (rdAop_eq hb (off_of_check rfl (orElse_none.mp (orElse_none.mp hi).2).1)).trans ?_
    rw [hh]
  | satom _ _ m =>
    refine parse_of_laWord he fun w hl hb => (parseOp_mem rfl (by decide)).trans ?_
    unfold parseMem
    exact (hl _).trans (rdAop_eq hb (off_of_check (r := rowSatom) rfl hi))
  | fence s pr su =>
    refine parse_of_plainWord he fun w hp hb => (parseOp_mem rfl (by decide)).trans ?_
    unfold parseMem
    refine (hp _).trans ?_
    simp only [hb, FSR.of_bits, fence_parts pr su, setWidth_setWidth_low s.code (n := 4) (by decide), scope?_code, want_some,
      extractLsb'_setWidth_high s.code (n := 4) (lo := 3) (len := 1) (by decide)]
    rfl
  | fenceSc s =>
    refine parse_of_plainWord he fun w hp hb => (parseOp_mem rfl (by decide)).trans ?_
    unfold parseMem
    refine (hp _).trans ?_
    simp only [hb, FSR.of_bits, setWidth_setWidth_low s.code (n := 4) (by decide), scope?_code, want_some,
      extractLsb'_setWidth_high s.code (n := 4) (lo := 3) (len := 1) (by decide)]
    rfl
  | tsig =>
    refine parse_of_plainWord he fun w hp hb => (parseOp_mem rfl (by decide)).trans ?_
    show zero ((FSR.of w.body).sd == 0) (rdStl _ w) = _
    rw [rdStl_eq hp hb, hb, FSR.of_bits]
    rfl
  | twait =>
    refine parse_of_plainWord he fun w hp hb => (parseOp_mem rfl (by decide)).trans ?_
    unfold parseMem
    exact rdStl_eq hp hb
  | tread =>
    refine parse_of_laWord he fun w hl hb => (parseOp_mem rfl (by decide)).trans ?_
    unfold parseMem
    refine (hl _).trans ?_
    simp only [hb, FSR.of_bits]
    rfl
  | bar b roles | barr b roles | barw b roles =>
    refine parse_of_plainWord he fun w hp hb => (parseOp_mem rfl (by decide)).trans ?_
    unfold parseMem
    refine (rdSr_eq hp hb).trans ?_
    simp only [low_of_join roles b (n := 17) (by decide), part_of_join roles b (n := 17) (by decide),
      high_of_join roles b (n := 17) (lo := 7) (len := 10) (by decide) (by decide)]
    rfl
  -- matrix and stage rings (R236, R250)
  | mzero =>
    refine parse_of_plainWord he fun w hp hb => (parseOp_matrix rfl (by decide)).trans ?_
    unfold parseMatrix
    refine (hp _).trans ?_
    simp only [hb, FMX.of_bits]
    rfl
  | mld =>
    refine parse_of_plainWord he fun w hp hb => (parseOp_matrix rfl (by decide)).trans ?_
    unfold parseMatrix
    refine (hp _).trans ?_
    simp only [matTy?_code, want_some, hb, FMX.of_bits]
    rfl
  | mma | mloop =>
    refine parse_of_plainWord he fun w hp hb => (parseOp_matrix rfl (by decide)).trans ?_
    unfold parseMatrix
    refine (hp _).trans ?_
    simp only [hb, FMX.of_bits, beq_self_eq_true, decide_eq_true (flag_lt _ _), Bool.and_self, zero_true, flag_eq_one, matTy?_code, want_some]
  | mst _ _ _ _ _ ty rm ovf scale sig =>
    refine parse_of_plainWord he fun w hp hb => (parseOp_matrix rfl (by decide)).trans ?_
    unfold parseMatrix
    refine (hp _).trans ?_
    simp only [matTy?_code, want_some, hb, FMX.of_bits]
    cases rm <;> cases ovf <;> cases scale <;> cases sig <;> rfl
  | mresume =>
    refine parse_of_plainWord he fun w hp hb => (parseOp_matrix rfl (by decide)).trans ?_
    unfold parseMatrix
    refine (hp _).trans ?_
    simp only [hb, FMX.of_bits, beq_self_eq_true, decide_eq_true (flag_lt _ _), Bool.and_self, zero_true, flag_eq_one]
  | rinit k st =>
    refine parse_of_plainWord he fun w hp hb => (parseOp_matrix rfl (by decide)).trans ?_
    unfold parseMatrix
    refine (rdSr_eq hp hb).trans ?_
    simp only [rinit_parts k st]
    rfl
  | racq _ k _ b =>
    refine parse_of_plainWord he fun w hp hb => (parseOp_matrix rfl (by decide)).trans ?_
    unfold parseMatrix
    rw [← toNat_bit] at hb
    refine (rdSr_eq hp hb).trans ?_
    simp only [low_of_join k (bit b) (n := 17) (by decide), part_of_join k (bit b) (n := 17) (by decide),
      high_of_join k (bit b) (n := 17) (lo := 4) (len := 13) (by decide) (by decide), decide_bit]
    rfl
  | rrel k | rstat _ k =>
    refine parse_of_plainWord he fun w hp hb => (parseOp_matrix rfl (by decide)).trans ?_
    unfold parseMatrix
    refine (rdSr_eq hp hb).trans ?_
    simp only [setWidth_setWidth_low k (n := 17) (by decide), extractLsb'_setWidth_high k (n := 17) (lo := 3) (len := 14) (by decide)]
    rfl
  -- queue processor and copy engine (R274 to R282)
  | qpop | launch | qsleep | irqHost | irqKern | cpy | cpyProg | cpy2d | cpyg | cpys | cfill =>
    refine parse_of_plainWord he fun w hp hb => (parseOp_queue rfl (by decide)).trans ?_
    unfold parseQueue
    refine (hp _).trans ?_
    simp only [hb, FQF.of_bits]
    rfl
  | qack _ _ a b =>
    refine parse_of_plainWord he fun w hp hb => (parseOp_queue rfl (by decide)).trans ?_
    rw [← toNat_bit] at hb
    unfold parseQueue
    refine (hp _).trans ?_
    simp only [low_of_join a (bit b) (n := 21) (by decide), part_of_join a (bit b) (n := 21) (by decide),
      high_of_join a (bit b) (n := 21) (lo := 9) (len := 12) (by decide) (by decide), decide_bit, hb, FQF.of_bits]
    rfl
  | reform _ a b =>
    refine parse_of_plainWord he fun w hp hb => (parseOp_queue rfl (by decide)).trans ?_
    rw [← toNat_bit] at hb
    unfold parseQueue
    refine (hp _).trans ?_
    simp only [low_of_join a (bit b) (n := 21) (by decide), part_of_join a (bit b) (n := 21) (by decide),
      high_of_join a (bit b) (n := 21) (lo := 4) (len := 17) (by decide) (by decide), decide_bit, hb, FQF.of_bits]
    rfl
  -- handler mode (R283 to R291)
  | tret =>
    refine parse_of_plainWord he fun w hp hb => (parseOp_system rfl (by decide)).trans ?_
    unfold parseSystem
    refine (hp _).trans ?_
    rw [hb]
    rfl
  | tlbw _ size =>
    refine parse_of_plainWord he fun w hp hb => (parseOp_system rfl (by decide)).trans ?_
    unfold parseSystem
    refine (hp _).trans ?_
    simp only [setWidth_setWidth_low size (n := 21) (by decide), extractLsb'_setWidth_high size (n := 21) (lo := 3) (len := 18) (by decide), hb, FSY.of_bits]
    rfl
  | tlbinv _ mode die =>
    refine parse_of_plainWord he fun w hp hb => (parseOp_system rfl (by decide)).trans ?_
    unfold parseSystem
    rw [← toNat_bit] at hb
    refine (rdSr_eq hp hb).trans ?_
    simp only [low_of_join mode (bit die) (n := 17) (by decide), part_of_join mode (bit die) (n := 17) (by decide),
      high_of_join mode (bit die) (n := 17) (lo := 3) (len := 14) (by decide) (by decide), decide_bit]
    rfl
  | lprinv _ mode =>
    refine parse_of_plainWord he fun w hp hb => (parseOp_system rfl (by decide)).trans ?_
    unfold parseSystem
    refine (rdSr_eq hp hb).trans ?_
    simp only [setWidth_setWidth_low mode (n := 17) (by decide), extractLsb'_setWidth_high mode (n := 17) (lo := 2) (len := 15) (by decide)]
    rfl
  | ovld _ _ frame =>
    refine parse_of_plainWord he fun w hp hb => (parseOp_system rfl (by decide)).trans ?_
    unfold parseSystem
    refine (rdSr_eq hp hb).trans ?_
    simp only [setWidth_setWidth_low frame (n := 17) (by decide), extractLsb'_setWidth_high frame (n := 17) (lo := 5) (len := 12) (by decide)]
    rfl
  | pgrab _ gran size =>
    refine parse_of_plainWord he fun w hp hb => (parseOp_system rfl (by decide)).trans ?_
    unfold parseSystem
    refine (rdSr_eq hp hb).trans ?_
    simp only [low_of_join gran size (n := 17) (by decide), part_of_join gran size (n := 17) (by decide),
      high_of_join gran size (n := 17) (lo := 6) (len := 11) (by decide) (by decide)]
    rfl
  | ats =>
    refine parse_of_laWord he fun w hl hb => (parseOp_system rfl (by decide)).trans ?_
    unfold parseSystem
    refine (hl _).trans ?_
    simp only [hb, FSR.of_bits, beq_self_eq_true, decide_eq_true (flag_lt _ _), Bool.and_self, zero_true, flag_eq_one]
  | pri =>
    refine parse_of_plainWord he fun w hp hb => (parseOp_system rfl (by decide)).trans ?_
    unfold parseSystem
    refine (rdSr_eq hp hb).trans ?_
    simp only [beq_self_eq_true, decide_eq_true (flag_lt _ _), Bool.and_self, zero_true, flag_eq_one]
  | dmsg | hlt =>
    refine parse_of_plainWord he fun w hp hb => (parseOp_system rfl (by decide)).trans ?_
    unfold parseSystem
    exact rdSr_eq hp hb
  -- the retirement ladder (R72)
  | vdp4E4m3 | vfdivF32Fast =>
    refine parse_of_headWord he fun w hh hb => (parseOp_retired rfl (by decide)).trans ?_
    unfold parseRetired
    simp only [hh, hb, FVR.of_bits]
    rfl
  | barAll b =>
    refine parse_of_plainWord he fun w hp hb => (parseOp_retired rfl (by decide)).trans ?_
    unfold parseRetired
    refine (rdSr_eq hp hb).trans ?_
    simp only [barAll_parts b]
    rfl
  | txfetch b | mmaT8 b =>
    cases he
    exact parse_rawWord (by decide) fun _ _ hr => hr ▸ rfl
  | unassignedOpcode word =>
    cases he
    exact parse_unassignedOpcode (need_none.mp hi)
  | _ => exact absurd (show none = some raw from he) nofun

/-- Settles O53: each row of the opcode map reads what it writes. -/
theorem decodeOfEncode : Obligations.DecodeOfEncode := by
  unfold Obligations.DecodeOfEncode
  intro i w hi he
  exact decode_ok.mpr ⟨parse_of_encode he hi, hi⟩

end Sys2Proof
end

section
/-! Issue and the words of registers and memory: paths, registers, targets and steps (O11, O12, O14, O40, O55, O56), the checks at issue (O20),
scalar and long-latency words (O1, O9), accesses (O23), retired words (O39), words of the translation (O37), the completions of memory (O41) and
the frame of the register words (O10). -/
namespace Sys2Proof.Machine

/-! ### Where a path stands after an instruction (R52, R58) -/

theorem stepPath_reconv (now : Nat) (ok : Bool) (p : Path) : (stepPath now ok p).reconv = p.reconv := by unfold stepPath; simp only []; split <;> rfl

theorem stepPath_inside {now : Nat} {ok : Bool} {p : Path} (h : 1 < p.left) :
    (stepPath now ok p).atHdr = p.atHdr ∧ (stepPath now ok p).wins = p.wins.map fun w => { w with left := w.left - 1 } := by
  unfold stepPath
  rw [if_neg (by simp only []; omega)]
  exact ⟨rfl, rfl⟩

/-- After the last word of a block: at the header that follows, with every window run out. -/
theorem stepPath_last {now : Nat} {ok : Bool} {p : Path} (h : p.left ≤ 1) :
    (stepPath now ok p).atHdr = true ∧ (∀ w ∈ (stepPath now ok p).wins, w.left = 0) ∧
      (stepPath now ok p).wait = if p.reconv = some (p.pc + 8) ∧ p.wins = [] ∧ ok then .arrived else p.wait := by
  unfold stepPath
  rw [if_pos (by simp only []; omega)]
  refine ⟨rfl, fun w hw => ?_, by simp only [List.map_eq_nil_iff]⟩
  obtain ⟨v, -, rfl⟩ := List.mem_map.mp hw
  rfl

/-- Settles O11, by the two branches of `stepPath`. -/
theorem pathStepRule : Obligations.PathStepRule := by
  unfold Obligations.PathStepRule
  intro now header p
  refine ⟨stepPath_pc .., stepPath_left .., stepPath_view .., stepPath_spois .., stepPath_mask .., stepPath_pid .., stepPath_reconv ..,
    fun h => ?_, fun h => ?_⟩
  · obtain ⟨hh, hw⟩ := stepPath_inside (now := now) (ok := header) h
    exact ⟨hh, stepPath_wait (.inl h), hw⟩
  · obtain ⟨hh, hw, hwait⟩ := stepPath_last (now := now) (ok := header) h
    refine ⟨hh, hw, fun hn => hwait.trans (if_neg ?_), fun hy => hwait.trans (if_pos hy)⟩
    rintro ⟨hr, hws, hok⟩
    rcases hn with hn | hn | hn
    · exact hn hr
    · exact hn hws
    · rw [hok] at hn; cases hn

/-! ### Registers (R61, R122, R124) -/

/-- Reading a mask register after writing the lanes `on` of one; m0 is not written (R124). -/
theorem rdM_wrM (g : Group) (p : Path) {m : MReg} (m' : MReg) (on v : Mask) (hm : m ≠ 0) :
    rdM (wrM g m.toNat on v) p m' =
      if m' = m then ((sget 0 g.masks m.toNat &&& ~~~on) ||| (v &&& on)) &&& fullMask g.width else rdM g p m' := by
  unfold rdM wrM
  by_cases h : m' = m
  · rw [if_pos h, h, if_neg hm]
    simp only [sget_sset, if_true]
  · have hn : m'.toNat ≠ m.toNat := fun hn => h (BitVec.eq_of_toNat_eq hn)
    simp only [sget_sset, if_neg h, if_neg hn]

/-- Settles O12: one law for each of the three files. -/
theorem registersReadWhatWasWritten : Obligations.RegistersReadWhatWasWritten := by
  unfold Obligations.RegistersReadWhatWasWritten
  exact ⟨fun g r r' i i' v hi hi' => rdV_wrVP g r r' i i' v false hi hi', fun p r r' v => rdS_wrS p r r' v,
    fun g p m m' on v hm => rdM_wrM g p m' on v hm⟩

/-! ### Targets (R55, R301) -/

theorem targetCheck_unaligned {s : State} {x : Ex} {h : W64} (ha : h.toNat % 8 ≠ 0) :
    targetCheck s x h = some { cause := .badTarget, va := h } := if_pos ha

theorem targetCheck_group {s : State} {x : Ex} {h : W64} {g : Group} (hg : x.g = some g) (ha : h.toNat % 8 = 0) :
    targetCheck s x h =
      if !canonical h then some { cause := .badTarget, va := h }
      else if negHalf h && x.user then some { cause := .priv, va := h }
      else (codeWord s x.die x.core x.pasid h).elim none fun w =>
        if (headerOf w).isSome then none else some { cause := .badTarget, va := h } := by
  rw [targetCheck, if_neg (not_not.mpr ha), hg]
  cases codeWord s x.die x.core x.pasid h with
  | none => rfl
  | some w =>
    simp only [Option.elim]
    cases headerOf w <;> rfl

/-- Settles O14, by the branches of `targetCheck`. -/
theorem targetChecks : Obligations.TargetChecks := by
  unfold Obligations.TargetChecks
  intro s x h
  refine ⟨targetCheck_unaligned, fun g hg ha => ?_, fun hg ha => ?_⟩
  · rw [targetCheck_group hg ha]
    refine ⟨fun hc => by rw [hc]; rfl, fun hc hn hu => by rw [hc, hn, hu]; rfl, fun hc hn => ?_⟩
    rw [hc, hn]
    refine ⟨fun hw => by rw [hw]; rfl, fun w hw => ⟨fun hh => ?_, fun hh => ?_⟩⟩
    · obtain ⟨b, hb⟩ := Option.ne_none_iff_exists'.mp hh
      rw [hw]
      simp [hb]
    · rw [hw]
      simp [hh]
  · rw [targetCheck, if_neg (not_not.mpr ha), hg]

/-! ### Words that are no instruction (R67, R72) -/

theorem noInstruction_raises {s : State} {x : Ex} (hc : s.cur = some x.who) (hx : exOf s x.who = some x) (hh : x.held = false) :
    noInstruction s = .next (raiseOn s x.who { cause := .illegal } x.p.pc) := by
  have hr : ({ g := false, q := false, c := false, cls := .control } : Rule).admits x.who = false := by cases x.who <;> rfl
  simp only [noInstruction, issue, hc, hx, hh, checks, hr, Bool.not_false, Bool.true_or, if_true, Bool.false_eq_true, if_false]

/-- Settles O40: no executor is admitted to such a word. -/
theorem removedWordsRaiseIllegal : Obligations.RemovedWordsRaiseIllegal := by
  unfold Obligations.RemovedWordsRaiseIllegal
  exact ⟨by decide +kernel, fun s x body word hc hx hh =>
    ⟨noInstruction_raises hc hx hh, noInstruction_raises hc hx hh, noInstruction_raises hc hx hh⟩⟩

/-! ### Words that the spec works out -/

/-- Settles O55, by running the decoder. -/
theorem workedWordsDecode : Obligations.WorkedWordsDecode := by
  unfold Obligations.WorkedWordsDecode
  exact ⟨by decide +kernel, by decide +kernel, by decide +kernel, by decide +kernel, by decide +kernel, by decide +kernel,
    by decide +kernel, by decide +kernel, by decide +kernel, by decide +kernel⟩

/-! ### A step (R52, R67, R68, R191) -/

section Turn
variable {s : State} {x : Ex}

theorem issueWord_ok {w : W64} {v : State} (hf : fetchWord s x = .ok (w, v)) :
    (∀ i, decode w = .ok i → issueWord s x = exec i { v with cur := some x.who }) ∧
    (∀ r, decode w = .error r → issueWord s x = .next (raiseOn v x.who { cause := .illegal } x.p.pc)) := by
  refine ⟨fun i hd => ?_, fun r hd => ?_⟩ <;> simp only [issueWord, hf, hd]

variable {e : Issuer} (hx : exOf s e = some x) (hm : mayIssue s x = true)
include hx hm

theorem runExecutor_cause {v : State} (hb : boundary s x = some v) : runExecutor s e = .next v := by
  simp only [runExecutor, hx, hm, hb, Bool.not_true, Bool.false_eq_true, if_false]

theorem runExecutor_header (hb : boundary s x = none) (hh : x.p.atHdr = true) : runExecutor s e = .next (headerStep s x) := by
  simp only [runExecutor, hx, hm, hb, hh, Bool.not_true, Bool.false_eq_true, if_false, if_true]

theorem runExecutor_word (hb : boundary s x = none) (hh : x.p.atHdr = false) (hw : x.held = false) : runExecutor s e = issueWord s x := by
  simp only [runExecutor, hx, hm, hb, hh, hw, Bool.not_true, Bool.false_eq_true, if_false]

end Turn

theorem step_issue {s : State} {e : Issuer} {rest : List Sched} (h : s.agenda = .issue e :: rest) :
    step s = runExecutor { s with agenda := rest } e := by rw [step, h]

theorem step_event {s : State} {i : Instr} {rest : List Sched} (h : s.agenda = .event i :: rest) (hi : isEvent i = true) (hok : eventOk s i = true) :
    step s = exec i { s with agenda := rest } := by
  rw [step, h]
  simp only [hi, hok, Bool.and_self, if_true]

/-- Settles O56: each case of `runExecutor` and of the schedule. -/
theorem stepRunsDecoded : Obligations.StepRunsDecoded := by
  unfold Obligations.StepRunsDecoded
  intro s rest
  refine ⟨fun e x ha => ?_, fun i ha hi hok => step_event ha hi hok, fun ha => by rw [step, ha]⟩
  intro u hx hm
  rw [step_issue ha]
  refine ⟨fun w v hb hh hw hf => ?_, fun t hb hh hw hf => ?_, fun v hb hh hw hf => ?_, fun hb hh => runExecutor_header hx hm hb hh,
    fun v hb => runExecutor_cause hx hm hb⟩
  · rw [runExecutor_word hx hm hb hh hw]
    exact issueWord_ok hf
  · rw [runExecutor_word hx hm hb hh hw]
    simp only [issueWord, hf]
  · rw [runExecutor_word hx hm hb hh hw]
    simp only [issueWord, hf]

/-! ### The checks at issue (R68, R225) -/

section Checks
variable {r : Rule} {u : Use} {h : Option Head} {x : Ex}

theorem checks_illegal (hf : ¬(r.admits x.who = true ∧ u.fits x = true ∧ (r.ctl = true → x.p.left = 1))) :
    checks r u h x = some { cause := .illegal } := by
  refine if_pos ?_
  by_contra hc
  simp only [Bool.or_eq_true, Bool.not_eq_true', Bool.and_eq_true, bne_iff_ne, not_or, Bool.not_eq_false, not_and_or, not_not] at hc
  obtain ⟨⟨ha, hu⟩, hl⟩ := hc
  exact hf ⟨ha, hu, fun hctl => hl.resolve_left fun hn => hn hctl⟩

/-- Past the first check. -/
theorem checks_fits (hf : r.admits x.who = true ∧ u.fits x = true ∧ (r.ctl = true → x.p.left = 1)) :
    checks r u h x =
      if !r.privOk x then some { cause := .priv }
      else if r.ill.isSome then some { cause := .illegal, aux := r.ill.getD 0 }
      else if !r.roleFits x then some { cause := .role }
      else if !r.unsplit x then some { cause := .divergedMatrix }
      else if r.gone && x.active h != 0 then some { cause := .retired, lanes := some (x.active h) }
      else if r.hint then none
      else if u.hazard x.p then some { cause := .laHazard }
      else if u.poisoned x (x.active h) then some { cause := .poison, lanes := some (x.active h) }
      else none := by
  obtain ⟨ha, hu, hl⟩ := hf
  refine if_neg ?_
  rw [ha, hu]
  cases hc : r.ctl with
  | false => simp
  | true => simp [hl hc]

theorem checks_retired (hf : r.admits x.who = true ∧ u.fits x = true ∧ (r.ctl = true → x.p.left = 1)) (hp : r.privOk x = true)
    (hi : r.ill = none) (hro : r.roleFits x = true) (hs : r.unsplit x = true) (hg : r.gone = true) (ha : x.active h ≠ 0) :
    checks r u h x = some { cause := .retired, lanes := some (x.active h) } := by
  have hne : (x.active h != 0) = true := bne_iff_ne.mpr ha
  rw [checks_fits hf, hp, hi, hro, hs, hg, hne]
  rfl

end Checks

theorem issue_raises {s : State} {x : Ex} {r : Rule} {u : Use} {h : Option Head} {t : Trap} (body : Body) (hc : s.cur = some x.who)
    (hx : exOf s x.who = some x) (hh : x.held = false) (ht : checks r u h x = some t) :
    issue s r u h body = .next (raiseOn s x.who t x.p.pc) := by
  simp only [issue, hc, hx, hh, ht, Bool.false_eq_true, if_false]

/-- Settles O20: the first check that fails is what `checks` gives, and `issue` raises it. -/
theorem issueChecksInOrder : Obligations.IssueChecksInOrder := by
  unfold Obligations.IssueChecksInOrder
  intro s x r u h body hc hx hh raised fits
  refine ⟨fun hf => issue_raises body hc hx hh (checks_illegal hf), fun hf hp => issue_raises body hc hx hh ?_, fun hf hp =>
    ⟨fun a ha => issue_raises body hc hx hh ?_, fun hi => ⟨fun hro => issue_raises body hc hx hh ?_, fun hro =>
      ⟨fun hs => issue_raises body hc hx hh ?_, fun hs =>
        ⟨fun hg ha => issue_raises body hc hx hh (checks_retired hf hp hi hro hs hg ha), fun hg hhint =>
        ⟨fun hz => issue_raises body hc hx hh ?_, fun hz hpo => issue_raises body hc hx hh ?_⟩⟩⟩⟩⟩⟩
  all_goals rw [checks_fits hf]
  · simp [hp]
  · simp [hp, ha]
  · simp [hp, hi, hro]
  · simp [hp, hi, hro, hs]
  all_goals
    have hkeep : (r.gone && x.active h != 0) = false := by
      rcases hg with hg | hg
      · rw [hg]; rfl
      · rw [hg, bne_self_eq_false, Bool.and_false]
    rw [hp, hi, hro, hs, hkeep, hhint, hz]
  · rfl
  · rw [hpo]; rfl

/-! ### Long-latency results: at issue, or behind a window (R58) -/

theorem onGroup_id (s : State) (x : Ex) : onGroup s x (fun g => g) = s := by
  unfold onGroup
  split
  · simp only [modGrp, modWhere, ite_self, List.map_id']
  · rfl

/-- With a lookahead the results are pending. -/
theorem longBody_late {s : State} {x : Ex} {fp : Bool} {la : BitVec 4} (hla : la ≠ 0) (vds sds : List Nat) (wv : List (Nat × W32))
    (ws : List (Nat × W64)) (fl : Flags) : longBody s x fp la vds sds wv ws fl = resultsPending s x fp la vds sds wv ws fl := if_neg hla

/-- Without one a scalar result is written at issue. -/
theorem longBody_scalar (s : State) (x : Ex) (sds : List Nat) (sd : SReg) (v : W64) :
    longBody s x false 0 [] sds [] [(sd.toNat, v)] 0 = advance (setS s x sd v) x := by
  refine (if_pos rfl).trans ?_
  have hg : (fun g : Group => { aluVec g [] with fpfl := g.fpfl ||| flagWord 0 }) = fun g => g := by
    funext g
    rw [show flagWord 0 = 0#64 from rfl, BitVec.or_zero]
    rfl
  rw [hg, onGroup_id]
  rfl

theorem modWhere_id {α : Type} (l : List α) (q : α → Bool) : modWhere l q (fun a => a) = l := by
  simp only [modWhere, ite_self, List.map_id']

theorem Stack.modPid_id (k : Stack) (pid : Nat) : k.modPid pid (fun p => p) = k := by
  simp only [Stack.modPid, ite_self, Option.map_id_fun', id]
  exact congrArg (Stack.mk k.a k.b) (List.map_id'' (fun e => by cases e <;> rfl) k.rest)

theorem Group.modPid_id (g : Group) (pid : Nat) : g.modPid pid (fun p => p) = g := by
  simp only [Group.modPid, Stack.modPid_id, List.map_id']

theorem modPath_id (s : State) (e : Issuer) (pid : Nat) : modPath s e pid (fun p => p) = s := by
  cases e with
  | grp gid slot => simp only [modPath, modGrp, Group.modPid_id, modWhere_id]
  | qthr d t => simp only [modPath, modQt, ite_self, Option.map_id_fun', id, modWhere_id]
  | copyc d k => simp only [modPath, modCc, ite_self, Option.map_id_fun', id, modWhere_id]

/-- Without one the results of the active lanes are written at issue. -/
theorem longBody_lanes (s : State) (x : Ex) (vds : List Nat) (r : List (Nat × W32) × Flags) :
    longBody s x true 0 vds [] r.1 [] r.2 = advance (onGroup s x fun g => takeFp g r) x := by
  refine (if_pos rfl).trans ?_
  exact congrArg (fun t => advance t x) (modPath_id (onGroup s x fun g => takeFp g r) x.who x.p.pid)

/-! ### Scalar words (R101 to R105) -/

theorem scalarOp_ready {i : Instr} {s : State} {x : Ex} {f : Path → W64} {v : W64} (ss : List SReg) (sd : SReg)
    (hr : Ready s x ruleAll { ss := ss.map BitVec.toNat, sd := [sd.toNat] } none) (hi : exec i s = scalarOp s ss sd f) (hv : f x.p = v) :
    exec i s = .next (advance (setS s x sd v) x) := hv ▸ exec_ready _ hi hr

section Sources
variable {i : Instr} {s : State} {x : Ex} {ty : IntTy} {sd sa sb : SReg}

theorem scalarArith_ready {sat : Bool} {F : Int → Int → Int} {v : Int}
    (hr : Ready s x ruleAll { ss := [sa.toNat, sb.toNat], sd := [sd.toNat] } none) (hi : exec i s = scalarArith s ty sd sa sb sat F)
    (hv : F (scaInt ty x.p sa) (scaInt ty x.p sb) = v) : exec i s = .next (advance (setS s x sd (extend 64 ty (narrow ty sat v))) x) :=
  scalarOp_ready [sa, sb] sd hr hi (by rw [hv])

theorem scalarBits_ready {F : Nat → Nat → Nat} {v : Nat}
    (hr : Ready s x ruleAll { ss := [sa.toNat, sb.toNat], sd := [sd.toNat] } none) (hi : exec i s = scalarBits s ty sd sa sb F)
    (hv : F (scaBits ty x.p sa) (scaBits ty x.p sb) = v) : exec i s = .next (advance (setS s x sd (extend 64 ty v)) x) :=
  scalarOp_ready [sa, sb] sd hr hi (by rw [hv])

theorem scalarShift_ready {F : Nat → Nat → Nat → Nat} {v : Nat}
    (hr : Ready s x ruleAll { ss := [sa.toNat, sb.toNat], sd := [sd.toNat] } none) (hi : exec i s = scalarShift s ty sd sa sb F)
    (hv : F ty.width (scaBits ty x.p sa) (scaCount ty x.p sb) = v) : exec i s = .next (advance (setS s x sd (extend 64 ty v)) x) :=
  scalarOp_ready [sa, sb] sd hr hi (by rw [hv])

theorem scalarImm_ready {imm : BitVec 33} {F : W64 → W64 → W64} {v : W64}
    (hr : Ready s x ruleAll { ss := [sa.toNat], sd := [sd.toNat] } none) (hi : exec i s = scalarImm s sd sa imm F)
    (hv : F (rdS x.p sa) (imm.signExtend 64) = v) : exec i s = .next (advance (setS s x sd v) x) := scalarOp_ready [sa] sd hr hi hv

end Sources

theorem scalarDiv_ready {i : Instr} {s : State} {x : Ex} {la : BitVec 4} {ty : IntTy} {sd sa sb : SReg} {f : Int × Int → Int} {q : Int}
    (hr : Ready s x ruleAll { ss := [sa.toNat, sb.toNat], sd := [sd.toNat] } none) (hi : exec i s = scalarDiv s la ty sd sa sb f)
    (hq : f (divRem ty (scaInt ty x.p sa) (scaInt ty x.p sb)) = q) :
    exec i s = .next (longBody s x false la [] [sd.toNat] [] [(sd.toNat, extend 64 ty (narrow ty false q))] 0) := hq ▸ exec_ready _ hi hr

/-- Settles O1: each word is `scalarOp` with its own result, and a division `longBody`. -/
theorem scalarWordsComplete : Obligations.ScalarWordsComplete := by
  unfold Obligations.ScalarWordsComplete
  refine ⟨fun s x ty cnd sd sa sb sc sat pos len imm imm32 => ⟨fun hr => ?_, fun hr => ?_, fun hr => ?_, fun hr => ?_, fun hr => ?_⟩,
    fun s x ty sd sa sb la hr => ⟨fun hla => ?_, fun hla => ?_⟩⟩
  · refine ⟨scalarArith_ready hr rfl ?_, scalarArith_ready hr rfl ?_, scalarArith_ready hr rfl ?_,
      scalarArith_ready (F := fun a b => a * b / (2 ^ ty.width : Nat)) hr rfl ?_, scalarArith_ready hr rfl ?_,
      scalarArith_ready hr rfl ?_, scalarBits_ready hr rfl ?_, scalarBits_ready hr rfl ?_, scalarBits_ready hr rfl ?_,
      scalarBits_ready (F := fun a b => a - Nat.land a b) hr rfl ?_, scalarShift_ready hr rfl ?_,
      scalarShift_ready (F := fun _ a c => shrN a c) hr rfl ?_, scalarShift_ready hr rfl ?_, scalarShift_ready hr rfl ?_,
      scalarOp_ready (f := fun p => if cndHolds cnd (scaInt ty p sa) (scaInt ty p sb) then 1 else 0) [sa, sb] sd hr rfl ?_,
      scalarOp_ready (f := fun p => BitVec.ofNat 64 (insertN (scaBits ty p sa) (scaBits ty p sb) pos.toNat (len.toNat + 1))) [sa, sb] sd hr rfl ?_⟩
    all_goals rfl
  · refine ⟨scalarOp_ready (f := fun p => BitVec.ofNat 64 (clzN ty.width (scaBits ty p sa))) [sa] sd hr rfl ?_,
      scalarOp_ready (f := fun p => BitVec.ofNat 64 (popcN ty.width (scaBits ty p sa))) [sa] sd hr rfl ?_,
      scalarOp_ready (f := fun p =>
        extend 64 ty (narrow ty false (signField ty.isI (fieldN (scaBits ty p sa) pos.toNat (len.toNat + 1)) (len.toNat + 1)))) [sa] sd hr rfl ?_,
      scalarOp_ready (f := fun p => rdS p sa) [sa] sd hr rfl ?_, scalarImm_ready (F := (· + ·)) hr rfl ?_,
      scalarImm_ready (F := (· * ·)) hr rfl ?_, scalarImm_ready (F := (· &&& ·)) hr rfl ?_, scalarImm_ready (F := (· ||| ·)) hr rfl ?_,
      scalarImm_ready (F := (· ^^^ ·)) hr rfl ?_, scalarImm_ready (F := fun a b => a <<< (b.toNat % 64)) hr rfl ?_,
      scalarImm_ready (F := fun a b => a >>> (b.toNat % 64)) hr rfl ?_, scalarImm_ready (F := fun a b => a.sshiftRight (b.toNat % 64)) hr rfl ?_⟩
    all_goals rfl
  · exact scalarOp_ready (f := fun p => if rdS p sc = 0 then rdS p sb else rdS p sa) [sa, sb, sc] sd hr rfl rfl
  · exact scalarOp_ready (f := fun _ => imm32.signExtend 64) [] sd hr rfl rfl
  · exact scalarOp_ready (f := fun p => imm32 ++ (rdS p sd).extractLsb' 0 32) [sd] sd hr rfl rfl
  · subst hla
    exact ⟨(scalarDiv_ready hr rfl rfl).trans (congrArg _ (longBody_scalar ..)), (scalarDiv_ready hr rfl rfl).trans (congrArg _ (longBody_scalar ..))⟩
  · exact ⟨(scalarDiv_ready hr rfl rfl).trans (congrArg _ (longBody_late hla ..)),
      (scalarDiv_ready hr rfl rfl).trans (congrArg _ (longBody_late hla ..))⟩

/-! ### Long-latency floating words (R135, R138, R144) -/

theorem longFp_ready {i : Instr} {s : State} {x : Ex} {g : Group} {h : Head} {u : Use} {vds : List Nat}
    {F : Group → Nat → List (Nat × W32) × Flags} {f : Nat → List (Nat × W32) × Flags} (hg : x.g = some g) (hr : Ready s x vecRule u (some h))
    (hi : exec i s = issue s vecRule u (some h) (longFpBody s h vds F)) (hf : F g = f) :
    (activeOf g x.p h = 0 → exec i s = .next (advance s x)) ∧
    (activeOf g x.p h ≠ 0 → h.la = 0 → exec i s = .next (advance (onGroup s x fun g' => takeFp g' (fpLanes (activeOf g x.p h) f)) x)) ∧
    (activeOf g x.p h ≠ 0 → h.la ≠ 0 → exec i s =
      .next (resultsPending s x true h.la vds [] (fpLanes (activeOf g x.p h) f).1 [] (fpLanes (activeOf g x.p h) f).2)) := by
  subst hf
  rw [exec_ready _ hi hr, longFpBody, withGroup_some hg]
  refine ⟨fun h0 => ?_, fun h0 hla => ?_, fun h0 hla => ?_⟩
  · rw [if_pos h0, bodyEnd_ok]
  · rw [if_neg h0, bodyEnd_ok, hla, longBody_lanes]
  · rw [if_neg h0, bodyEnd_ok, longBody_late hla]

/-- Settles O9: each word is `longFpBody` with its own results. -/
theorem longFloatWordsComplete : Obligations.LongFloatWordsComplete := by
  unfold Obligations.LongFloatWordsComplete
  intro s x g h ty ta tb vd va vb vc rm mx hg
  refine ⟨fun hr => ⟨?_, ?_, ?_, ?_, ?_, ?_⟩, fun hr => ?_, fun hr => ?_⟩
  all_goals exact longFp_ready hg hr rfl rfl

/-! ### Accesses (R213, R217 to R221) -/

theorem lane_ready {i : Instr} {s : State} {x : Ex} {g : Group} {h : Head} {m : MemArg} {u : Use} {scaled disp : Bool} {kind : OpKind}
    {dest : Dest} {vds : List Nat} {data : Group → Nat → List Byte × List Byte} (hx : x.g = some g) (hr : Ready s x memRule u (some h))
    (hi : exec i s = issue s memRule u (some h) (laneAccess s h m scaled disp kind dest vds data)) :
    (activeOf g x.p h = 0 → exec i s = .next (advance s x)) ∧
    (activeOf g x.p h ≠ 0 → 64 ≤ memCount s x.who → exec i s = .next s) ∧
    (activeOf g x.p h ≠ 0 → memCount s x.who < 64 →
      (∀ got t, groupPlaces s x g (memKind s x m kind.writes (kind.reads && kind.writes)) false
          ((lanesOf (activeOf g x.p h)).map fun l => (l, laneEa g x.p m scaled disp l)) = .ok (got, t) →
        exec i s = .next (startOp t x kind m dest
          (got.flatMap fun e => splitAcc m.size.bytes e.1 e.2.1 e.2.2 (data g e.1).1 (data g e.1).2) h.la.toNat vds [])) ∧
      (∀ t, groupPlaces s x g (memKind s x m kind.writes (kind.reads && kind.writes)) false
          ((lanesOf (activeOf g x.p h)).map fun l => (l, laneEa g x.p m scaled disp l)) = .error (.hold t) → exec i s = .next t) ∧
      (∀ t, groupPlaces s x g (memKind s x m kind.writes (kind.reads && kind.writes)) false
          ((lanesOf (activeOf g x.p h)).map fun l => (l, laneEa g x.p m scaled disp l)) = .error (.trap t) →
        exec i s = .next (raiseOn s x.who t x.p.pc))) := by
  rw [hi]
  exact lane_access hx hr

theorem path_ready {i : Instr} {s : State} {x : Ex} {m : MemArg} {u : Use} {la : BitVec 4} {disp : Bool} {kind : OpKind} {dest : Dest}
    {sds : List Nat} {data : Path → List Byte} (hr : Ready s x memRuleAll u none)
    (hi : exec i s = issue s memRuleAll u none (pathAccess s la m disp kind dest sds data)) :
    (64 ≤ memCount s x.who → exec i s = .next s) ∧
    (memCount s x.who < 64 →
      (∀ pl t, onePlace s x (memKind s x m kind.writes (kind.reads && kind.writes)) (pathEa x.p m disp) = .ok (pl, t) →
        exec i s = .next (startOp t x kind m dest (splitAcc m.size.bytes 0 (pathEa x.p m disp) pl (data x.p) []) la.toNat [] sds)) ∧
      (∀ t, onePlace s x (memKind s x m kind.writes (kind.reads && kind.writes)) (pathEa x.p m disp) = .error (.hold t) → exec i s = .next t) ∧
      (∀ t, onePlace s x (memKind s x m kind.writes (kind.reads && kind.writes)) (pathEa x.p m disp) = .error (.trap t) →
        exec i s = .next (raiseOn s x.who t x.p.pc))) := by
  rw [hi]
  exact path_access hr

/-- Settles O23: each word is `laneAccess` or `pathAccess` with its own kind, destination and data. -/
theorem accessWordsComplete : Obligations.AccessWordsComplete := by
  unfold Obligations.AccessWordsComplete
  refine ⟨fun s x g h m op hx => ⟨fun hr => ?_, fun hr => ?_, fun hr => ?_, fun hr => ?_, fun hr => ?_, fun hr => ?_⟩,
    fun s x la m op => ⟨fun hr => ?_, fun hr => ?_, fun hr => ?_⟩⟩
  · exact lane_ready (data := noData) hx hr rfl
  · exact lane_ready (data := noData) hx hr rfl
  · exact lane_ready (data := fun g l => (laneData g m.data.toNat m.size.bytes l, [])) hx hr rfl
  · exact lane_ready (data := fun g l => (laneData g m.data.toNat m.size.bytes l, [])) hx hr rfl
  · exact lane_ready (data := fun g l => (laneData g m.data.toNat m.size.bytes l, [])) hx hr rfl
  · exact lane_ready (data := fun g l => (laneData g (casNew m) m.size.bytes l, laneData g m.data.toNat m.size.bytes l)) hx hr rfl
  · exact path_ready (data := fun _ => []) hr rfl
  · exact path_ready (la := 0) (data := fun p => toBytes m.size.bytes (rdS p (dataS m)).toNat) hr rfl
  · exact path_ready (data := fun p => toBytes m.size.bytes (rdS p (dataS m)).toNat) hr rfl

/-! ### Retired words (R71 to R73) -/

theorem curEx_ready {s : State} {x : Ex} {r : Rule} {u : Use} {h : Option Head} (hr : Ready s x r u h) : curEx s = some x := by
  rw [curEx, hr.cur]
  exact hr.here

/-- Counting an execution changes no executor. -/
theorem exOf_countRet (s : State) (pasid : Nat) (opc : W64) (e : Issuer) : exOf (countRet s pasid opc) e = exOf s e := by
  cases e <;> rfl

/-- A microcoded word counts what it executes, and is then like any long-latency word. -/
theorem counted_ready {i : Instr} {s : State} {x : Ex} {g : Group} {h : Head} {u : Use} {opc : W64} {vds : List Nat}
    {F : Group → Nat → List (Nat × W32) × Flags} {f : Nat → List (Nat × W32) × Flags} (hg : x.g = some g) (hr : Ready s x vecRule u (some h))
    (hi : exec i s = issue s vecRule u (some h) (counted s h opc fun s => longFpBody s h vds F)) (hf : F g = f) :
    (activeOf g x.p h = 0 → exec i s = .next (advance s x)) ∧
    (activeOf g x.p h ≠ 0 → h.la = 0 →
      exec i s = .next (advance (onGroup (countRet s x.pasid opc) x fun g' => takeFp g' (fpLanes (activeOf g x.p h) f)) x)) ∧
    (activeOf g x.p h ≠ 0 → h.la ≠ 0 → exec i s = .next (resultsPending (countRet s x.pasid opc) x true h.la vds []
      (fpLanes (activeOf g x.p h) f).1 [] (fpLanes (activeOf g x.p h) f).2)) := by
  subst hf
  rw [exec_ready _ hi hr, counted, active_some hg, longFpBody, withGroup_some hg]
  refine ⟨fun h0 => ?_, fun h0 hla => ?_, fun h0 hla => ?_⟩
  · rw [if_pos h0, if_pos h0, bodyEnd_ok]
  · rw [if_neg h0, if_neg h0, bodyEnd_ok, hla, longBody_lanes]
  · rw [if_neg h0, if_neg h0, bodyEnd_ok, longBody_late hla]

section Trapped
variable {s : State} {x : Ex} {r : Rule} {u : Use} {h : Option Head} {opc : W64}

/-- A ready word of a rule, taken as one that is retired: its cause is the first that is met, in the active lanes alone. -/
theorem checks_gone (hr : Ready s x r u h) (ha : x.active h ≠ 0) :
    checks { r with gone := true } u h x = some { cause := .retired, lanes := some (x.active h) } :=
  checks_retired ⟨hr.listed, hr.budget, hr.last⟩ hr.mode hr.legal hr.role hr.whole rfl ha

theorem ready_gone (hr : Ready s x r u h) (ha : x.active h = 0) : Ready s x { r with gone := true } u h :=
  ⟨hr.cur, hr.here, hr.free, hr.listed, hr.budget, hr.last, hr.legal, hr.mode, hr.role, hr.whole, fun _ => ha, hr.clear, hr.clean⟩

theorem trapped_raises (hr : Ready s x r u h) (ha : x.active h ≠ 0) :
    trapped s r u h opc = .next (raiseOn (countRet s x.pasid opc) x.who { cause := .retired, lanes := some (x.active h) } x.p.pc) := by
  have hc := checks_gone hr ha
  simp only [trapped, curEx_ready hr, Option.any_some, hr.free, hc, Bool.not_false, Bool.true_and, beq_self_eq_true, if_true]
  exact issue_raises _ hr.cur ((exOf_countRet s x.pasid opc x.who).trans hr.here) hr.free hc

theorem trapped_idle (hr : Ready s x r u h) (ha : x.active h = 0) : trapped s r u h opc = .next (advance s x) := by
  have hg := ready_gone hr ha
  simp only [trapped, curEx_ready hr, Option.any_some, checks_ready hg, Option.any_none, Bool.and_false, Bool.false_eq_true, if_false]
  exact issue_ready hg _

end Trapped

/-- Settles O39: the microcoded words are `counted`, the others `trapped`. -/
theorem retiredWordsComplete : Obligations.RetiredWordsComplete := by
  unfold Obligations.RetiredWordsComplete
  intro s x g h m vd va vb b hg
  refine ⟨fun hr => counted_ready hg hr rfl rfl, fun hr => counted_ready hg hr rfl rfl,
    fun hr => ⟨fun ha => trapped_raises hr ha, fun ha => trapped_idle hr ha⟩, fun hr => ?_⟩
  rw [← active_some hg h]
  exact ⟨fun ha => trapped_raises hr ha, fun ha => trapped_idle hr ha⟩

/-! ### Handler words (R283 to R286, R294, R301) -/

section Handler
variable {s : State} {x : Ex} {g : Group} (hg : x.g = some g)
include hg

theorem tret_ready (hr : Ready s x { ruleHandler with ctl := true } {} none) :
    exec .tret s = .next (bodyEnd s x (
      if x.p.wins ≠ [] then .error (.hold s)
      else if g.isWalker && g.frames.length == 1 then
        (if walkerAlone g x.p then .ok (walkerReturn (noteIssue s x) g) else bad .illegal)
      else (leaveHandler (noteIssue s x) g x.p).mapError .trap)) := by
  rw [exec_ready _ rfl hr, withGroup_some hg]
  cases leaveHandler (noteIssue s x) g x.p <;> rfl

/-- `tret`, by what its group may do. -/
theorem tret_cases (hr : Ready s x { ruleHandler with ctl := true } {} none) :
    (x.p.wins ≠ [] → exec .tret s = .next s) ∧
    (x.p.wins = [] → g.isWalker = true → g.frames.length = 1 →
      (walkerAlone g x.p = true → exec .tret s = .next (walkerReturn (noteIssue s x) g)) ∧
      (walkerAlone g x.p = false → exec .tret s = .next (raiseOn s x.who { cause := .illegal } x.p.pc))) ∧
    (x.p.wins = [] → g.isWalker = false ∨ g.frames.length ≠ 1 →
      (∀ t, leaveHandler (noteIssue s x) g x.p = .ok t → exec .tret s = .next t) ∧
      (∀ e, leaveHandler (noteIssue s x) g x.p = .error e → exec .tret s = .next (raiseOn s x.who e x.p.pc))) := by
  rw [tret_ready hg hr]
  refine ⟨fun hw => by rw [if_pos hw, bodyEnd_hold], fun hw hwalk hlen => ?_, fun hw hno => ?_⟩
  · have hend : (g.isWalker && g.frames.length == 1) = true := by rw [hwalk, hlen]; rfl
    rw [if_neg (not_not.mpr hw), if_pos hend]
    exact ⟨fun ha => by rw [if_pos ha, bodyEnd_ok], fun ha => by rw [ha]; rfl⟩
  · have hend : ¬(g.isWalker && g.frames.length == 1) = true := by
      rw [Bool.and_eq_true, beq_iff_eq]
      rintro ⟨hwalk, hlen⟩
      rcases hno with hno | hno
      · rw [hwalk] at hno; cases hno
      · exact hno hlen
    rw [if_neg (not_not.mpr hw), if_neg hend]
    exact ⟨fun t ht => by rw [ht]; rfl, fun e he => by rw [he]; rfl⟩

end Handler

/-- `ovld` once its page is translated (R197, R286). -/
theorem ovld_ready {s : State} {x : Ex} {g : Group} {sa sb : SReg} {frame : BitVec 5} {got : List (Nat × W64 × Place)} {t : State}
    (hg : x.g = some g) (hr : Ready s x ruleHandler { ss := [sa.toNat, sb.toNat] } none) (hn : (rdS x.p sb).toNat ≤ 8191)
    (ha : (rdS x.p sa).toNat % 16384 = 0) (hw : inWindow (rdS x.p sa) = false)
    (hgot : groupPlaces s x g (sysKind s x false true 16) true ((List.range 4).map fun k => (0, rdS x.p sa + BitVec.ofNat 64 (4096 * k))) = .ok (got, t)) :
    (mayReadPages t x (got.map fun e => e.2.2) = false → exec (.ovld sa sb frame) s = .next t) ∧
    (mayReadPages t x (got.map fun e => e.2.2) = true →
      let r := got.foldl (fun (r : List PByte × State) e =>
        let (b, s) := readPlace r.2 x.die x.core e.2.2 4096 .weak 0 plainChoice
        (r.1 ++ b, s)) ([], t)
      exec (.ovld sa sb frame) s = .next (advance (stageFrame r.2 x.die x.core frame.toNat
        { pasid := x.pasid, base := codeBase g.ehdr, ovl := (rdS x.p sb).toNat } (wordsOf (r.1.map fun e => e.1))) x)) := by
  have hbig : (curEx s).any (fun x => decide (8191 < (rdS x.p sb).toNat)) = false := by
    rw [curEx_ready hr, Option.any_some]
    exact decide_eq_false (Nat.not_lt.mpr hn)
  have hi : exec (.ovld sa sb frame) s = execOvld sa sb frame s := rfl
  simp only [hi, execOvld, hbig, Bool.false_eq_true, if_false]
  refine ⟨fun hm => (issue_ready hr _).trans ?_, fun hm => (issue_ready hr _).trans ?_⟩
  all_goals
    rw [withGroup_some hg, if_neg (not_not.mpr ha), hw, hgot]
    simp only [hm]
    rfl

/-- Settles O37: each word by the branches of its body. -/
theorem translationWordsComplete : Obligations.TranslationWordsComplete := by
  unfold Obligations.TranslationWordsComplete
  intro s x g sa sb size mode die frame hg
  refine ⟨fun hr => tret_cases hg hr, fun hr hl => ?_, fun hr => ⟨fun hu => ?_, fun ht hc => ?_, fun hu => ?_, fun hu => ?_⟩,
    fun hr hn ha hw got t hgot => ovld_ready hg hr hn ha hw hgot⟩
  · have hill : tlbIll s sa size = none := by
      rw [tlbIll, curEx_ready hr]
      exact if_pos hl
    show execTlbw sa size s = _
    rw [execTlbw, hill]
    exact issue_ready hr _
  · rw [exec_ready _ rfl hr, if_pos (by simpa only [Bool.or_eq_true] using hu), bodyEnd_hold]
  · rw [exec_ready _ rfl hr, if_neg (by rw [ht, hc]; decide), bodyEnd_ok]
  · rw [exec_ready _ rfl hr, if_pos hu, bodyEnd_hold]
  · rw [exec_ready _ rfl hr, if_neg (by rw [hu]; decide), bodyEnd_ok]

/-! ### Completions of the memory system (R178, R182, R216, R217, R223, R329) -/

/-- Where no pseudo-channel of a unit has failed, the unit is not lost. -/
theorem unitLost_of_not_failed {s : State} {a : Nat} (h : unitFailed s a = false) : unitLost s a = false := by
  unfold unitFailed at h
  unfold unitLost
  cases hd : die? s (fabDie a) with
  | none => rfl
  | some d =>
    rw [hd] at h
    dsimp only at h ⊢
    rcases (Bool.and_eq_false_iff).mp h with he | hany
    · rw [he]; rfl
    · have hnil : (List.range (unitBytes s a / 32)).filter (fun k => d.failed.contains (hbmPch (a / unitBytes s a * unitBytes s a + 32 * k))) = [] :=
        List.filter_eq_nil_iff.mpr fun k hk => List.any_eq_false.mp hany k hk
      rw [hnil]
      simp

theorem eccApply_clean {s : State} {p : Place} (hg : isHbm p = true → placeGran p = granOf s (placeAddr p))
    (hf : unitFailed s (placeAddr p) = false) : eccApply s p .clean = (s, false) := by
  unfold eccApply
  cases hp : isHbm p with
  | false => rfl
  | true =>
    rw [if_neg (by decide), if_neg (not_not.mpr (hg hp))]
    simp only [decodeUnit, unitLost_of_not_failed hf, Bool.false_eq_true, if_false]

/-- A source with no error and the granules it was checked under is read as it stands. -/
theorem decodeSource_clean {s : State} {units : List (Nat × Place)} (k : Nat)
    (hg : ∀ u ∈ units, isHbm u.2 = true → placeGran u.2 = granOf s (placeAddr u.2)) (hf : ∀ z, unitFailed s z = false) :
    decodeSource .clean k units s = (s, none) := by
  induction units generalizing k with
  | nil => rfl
  | cons u rest ih =>
    obtain ⟨off, p⟩ := u
    rw [decodeSource, ite_self, eccApply_clean (hg _ List.mem_cons_self) (hf _)]
    simp only [Bool.false_eq_true, if_false]
    exact ih (k - 1) fun u hu => hg u (List.mem_cons_of_mem _ hu)

section Landing
variable {s : State} {b : BulkOp} {g : Group} {id i unit : Nat} {ecc : Ecc} (hb : s.bulks.find? (fun b => b.id == id) = some b)
  (hi : i ∈ b.todo) (hg : grp? s b.gid = some g) (hr : sourceReady s b g.die i = true)
include hb hi hg hr

/-- A ready chunk whose source meets a lost home leaves that cause. -/
theorem landOne_lost {u : Nat × Place}
    (hu : (sourceUnits s b.src (chunkReads b i).1 (chunkReads b i).2).find? (fun u => placeLost s g.die u.2) = some u) :
    landOne s id ecc unit i = noteLate (chunkDone s b i) g.gid b.pid b.pc { cause := .homeLost, va := b.sva + BitVec.ofNat 64 u.1, aux := 1 } := by
  have hc : b.todo.contains i = true := List.contains_iff_mem.mpr hi
  simp only [landOne, hb, hg, hc, hr, hu, Bool.not_true, Bool.or_self, Bool.false_eq_true, if_false]

/-- One with a wrong tag leaves that cause. -/
theorem landOne_wrong (hu : ∀ u ∈ sourceUnits s b.src (chunkReads b i).1 (chunkReads b i).2, placeLost s g.die u.2 = false) {t : State} {off : Nat}
    (hd : decodeSource ecc unit (sourceUnits s b.src (chunkReads b i).1 (chunkReads b i).2) s = (t, some off)) :
    landOne s id ecc unit i = noteLate (chunkDone t b i) g.gid b.pid b.pc { cause := .granule, va := b.sva + BitVec.ofNat 64 off, aux := 1 } := by
  have hc : b.todo.contains i = true := List.contains_iff_mem.mpr hi
  have hn : (sourceUnits s b.src (chunkReads b i).1 (chunkReads b i).2).find? (fun u => placeLost s g.die u.2) = none :=
    List.find?_eq_none.mpr fun u hm => by rw [hu u hm]; exact Bool.false_ne_true
  simp only [landOne, hb, hg, hc, hr, hn, hd, Bool.not_true, Bool.or_self, Bool.false_eq_true, if_false]

/-- One whose source is read lands. -/
theorem landOne_lands (hu : ∀ u ∈ sourceUnits s b.src (chunkReads b i).1 (chunkReads b i).2, placeLost s g.die u.2 = false) {t : State}
    (hd : decodeSource ecc unit (sourceUnits s b.src (chunkReads b i).1 (chunkReads b i).2) s = (t, none)) :
    landOne s id ecc unit i = landChunk t b g.die g.core i := by
  have hc : b.todo.contains i = true := List.contains_iff_mem.mpr hi
  have hn : (sourceUnits s b.src (chunkReads b i).1 (chunkReads b i).2).find? (fun u => placeLost s g.die u.2) = none :=
    List.find?_eq_none.mpr fun u hm => by rw [hu u hm]; exact Bool.false_ne_true
  simp only [landOne, hb, hg, hc, hr, hn, hd, Bool.not_true, Bool.or_self, Bool.false_eq_true, if_false]

end Landing

/-- Landing one chunk. -/
theorem exec_land {s t : State} {id i unit : Nat} {ecc : Ecc} (h : landOne s id ecc unit i = t) :
    exec (.bulkCopyLand id [i] { ecc, unit }) s = .next (finishBulks t) := by
  show execBulkCopyLand id [i] { ecc, unit } s = _
  simp only [execBulkCopyLand, List.foldl_cons, List.foldl_nil, h]

/-- Settles O41: each event by the branches of its meaning. -/
theorem memoryEventsComplete : Obligations.MemoryEventsComplete := by
  unfold Obligations.MemoryEventsComplete
  intro s id i line gid unit ecc lanes c
  refine ⟨fun o wv ws fl ho hk ha => ?_, fun b g hb hi hg hr => ⟨fun off p hu => ?_, fun hu => ⟨fun t off hd => ?_, fun t hd => ?_, fun hgr hf => ?_⟩⟩,
    fun l hl => ⟨fun ho => ?_, fun ho => ?_⟩, fun g r l hg hw hl => ?_⟩
  · show Host.Outcome.next (completeAccess s id lanes c) = _
    simp only [completeAccess, ho, hk, ha, Bool.false_eq_true, if_false]
  · exact exec_land (landOne_lost (u := (off, p)) hb hi hg hr hu)
  · exact exec_land (landOne_wrong hb hi hg hr hu (off := off) hd)
  · exact exec_land (landOne_lands hb hi hg hr hu hd)
  · exact exec_land (landOne_lands hb hi hg hr hu (decodeSource_clean 0 hgr hf))
  · show Host.Outcome.next (endLease s line) = _
    simp only [endLease, hl, ho, Bool.not_false, if_true]
  · show Host.Outcome.next (endLease s line) = _
    simp only [endLease, hl, ho, Bool.not_true, Bool.false_eq_true, if_false]
  · show execImpreciseFault gid s = _
    simp only [execImpreciseFault, hg, deliverImprecise, hw, Bool.false_eq_true, if_false, deliverLate, hl]

/-! ### The frame of the register words (R57, R94, R99, R122, R124) -/

section Frames
variable {i : Instr} {s : State} {x : Ex} {f : Form} {h : Head} {ty : IntTy} {ft : FpTy} {sd sa sb : SReg} {vd va vb : VReg}

/-! #### Scalar words -/

theorem division_frame {la : BitVec 4} {F : Int × Int → Int} (he : exec i s = scalarDiv s la ty sd sa sb F)
    (hr : Ready s x ruleAll { ss := [sa.toNat, sb.toNat], sd := [sd.toNat] } none) :
    ∃ t, exec i s = .next t ∧ RegisterFrame s t x { use := { ss := [sa.toNat, sb.toNat], sd := [sd.toNat] }, long := some la } := by
  refine ⟨_, scalarDiv_ready hr he rfl, long_frame hr false la rfl _ _ _ _ _ (fun e he => nomatch he) (fun e he => ?_) fun _ => rfl⟩
  rw [List.mem_singleton.mp he]
  exact ⟨List.mem_singleton.mpr rfl, sd.isLt⟩

theorem arith_frame {sat : Bool} {F : Int → Int → Int} (he : exec i s = scalarArith s ty sd sa sb sat F)
    (hr : Ready s x ruleAll { ss := [sa.toNat, sb.toNat], sd := [sd.toNat] } none) :
    ∃ t, exec i s = .next t ∧ RegisterFrame s t x { use := { ss := [sa.toNat, sb.toNat], sd := [sd.toNat] } } :=
  scalar_case (ss := [sa, sb]) he rfl hr

theorem bits_frame {F : Nat → Nat → Nat} (he : exec i s = scalarBits s ty sd sa sb F)
    (hr : Ready s x ruleAll { ss := [sa.toNat, sb.toNat], sd := [sd.toNat] } none) :
    ∃ t, exec i s = .next t ∧ RegisterFrame s t x { use := { ss := [sa.toNat, sb.toNat], sd := [sd.toNat] } } :=
  scalar_case (ss := [sa, sb]) he rfl hr

theorem shift_frame {F : Nat → Nat → Nat → Nat} (he : exec i s = scalarShift s ty sd sa sb F)
    (hr : Ready s x ruleAll { ss := [sa.toNat, sb.toNat], sd := [sd.toNat] } none) :
    ∃ t, exec i s = .next t ∧ RegisterFrame s t x { use := { ss := [sa.toNat, sb.toNat], sd := [sd.toNat] } } :=
  scalar_case (ss := [sa, sb]) he rfl hr

theorem imm_frame {imm : BitVec 33} {F : W64 → W64 → W64} (he : exec i s = scalarImm s sd sa imm F)
    (hr : Ready s x ruleAll { ss := [sa.toNat], sd := [sd.toNat] } none) :
    ∃ t, exec i s = .next t ∧ RegisterFrame s t x { use := { ss := [sa.toNat], sd := [sd.toNat] } } := scalar_case (ss := [sa]) he rfl hr

/-! #### Words of the lanes -/

/-- A word that writes integer results of the lanes. -/
theorem vecBody_frame {F : Group → Path → Nat → List (Nat × W32)} (hh : f.head = some h)
    (he : exec i s = issue s vecRule f.use (some h) (vecBody s h F)) (hr : Ready s x vecRule f.use f.head)
    (hF : ∀ g p l, Keys f.use.vd l (F g p l)) : ∃ t, exec i s = .next t ∧ RegisterFrame s t x f :=
  lane_case (F := fun g p act => mapLanes g act (F g p)) hh he hr fun g => lanes_map (hF g x.p)

/-- One that writes floating results and flags of the lanes. -/
theorem fpBody_frame {F : Group → Nat → List (Nat × W32) × Flags} (hh : f.head = some h) (hfp : f.fp = true)
    (he : exec i s = issue s vecRule f.use (some h) (fpBody s h F)) (hr : Ready s x vecRule f.use f.head)
    (hF : ∀ g l, Keys f.use.vd l (F g l).1) : ∃ t, exec i s = .next t ∧ RegisterFrame s t x f :=
  lane_case (F := fun g _ act => takeFp g (fpLanes act (F g))) hh he hr fun g => hfp ▸ lanes_fp (hF g)

theorem lanesOnly_mask_of_active (g : Group) (vd : List Nat) (m : Nat) (md : List Nat) (hm : m ∈ md) (act v : Mask) (fp : Bool) :
    LanesOnly g (if act = 0 then g else wrM g m act v) vd md act fp := by
  split
  · exact .refl ..
  · exact lanesOnly_wrM g vd m md hm act v fp

/-- One that writes a mask register in the lanes. -/
theorem maskBody_frame {md : MReg} {F : Group → Path → Mask} (hh : f.head = some h) (hm : md.toNat ∈ f.md)
    (he : exec i s = issue s vecRule f.use (some h) (maskBody s h md F)) (hr : Ready s x vecRule f.use f.head) :
    ∃ t, exec i s = .next t ∧ RegisterFrame s t x f :=
  lane_case (F := fun g p act => if act = 0 then g else wrM g md.toNat act (F g p)) hh he hr fun g => lanesOnly_mask_of_active g _ _ _ hm _ _ _

theorem maskScalar_frame {ma : MReg} {F : Mask → W64} (he : exec i s = maskScalar s h sd ma F)
    (hr : Ready s x vecRule { sd := [sd.toNat] } (some h)) :
    ∃ t, exec i s = .next t ∧ RegisterFrame s t x { use := { sd := [sd.toNat] }, head := some h } := by
  obtain ⟨_, _, g, -, -, hx⟩ := ready_group hr rfl rfl
  refine ⟨_, ?_, scalar_frame hr sd (List.mem_singleton.mpr rfl) (F (rdM g x.p ma &&& activeOf g x.p h))⟩
  rw [he, maskScalar, issue_ready hr, withGroup_some hx, bodyEnd_ok]

/-! #### Integer rows -/

theorem vecOp_frame {vs : List VReg} {F : Group → Path → Nat → List (Nat × W32)} (he : exec i s = vecOp s h vs vd F)
    (hr : Ready s x vecRule { vs := nums vs, vd := [vd.toNat] } (some h)) (hF : ∀ g p l, Keys [vd.toNat] l (F g p l)) :
    ∃ t, exec i s = .next t ∧ RegisterFrame s t x { use := { vs := nums vs, vd := [vd.toNat] }, head := some h } :=
  vecBody_frame rfl he hr hF

theorem vecOne_frame {vs : List VReg} {F : Group → Path → Nat → W32} (he : exec i s = vecOp s h vs vd fun g p l => [(vd.toNat * 64 + l, F g p l)])
    (hr : Ready s x vecRule { vs := nums vs, vd := [vd.toNat] } (some h)) :
    ∃ t, exec i s = .next t ∧ RegisterFrame s t x { use := { vs := nums vs, vd := [vd.toNat] }, head := some h } :=
  vecOp_frame he hr fun _ _ _ => keys_one _ _ _

theorem vecArith_frame {sat : Bool} {F : Int → Int → Int} (hw : ty.width ≠ 64) (he : exec i s = vecArith s h ty vd va vb sat F)
    (hr : Ready s x vecRule { vs := nums [va, vb], vd := [vd.toNat] } (some h)) :
    ∃ t, exec i s = .next t ∧ RegisterFrame s t x { use := { vs := nums [va, vb], vd := [vd.toNat] }, head := some h } :=
  vecOp_frame he hr fun _ _ _ => keys_intWrites32 ty hw vd _ _

theorem vecBits_frame {F : Nat → Nat → Nat} (hw : ty.width ≠ 64) (he : exec i s = vecBits s h ty vd va vb F)
    (hr : Ready s x vecRule { vs := nums [va, vb], vd := [vd.toNat] } (some h)) :
    ∃ t, exec i s = .next t ∧ RegisterFrame s t x { use := { vs := nums [va, vb], vd := [vd.toNat] }, head := some h } :=
  vecOp_frame he hr fun _ _ _ => keys_intWrites32 ty hw vd _ _

theorem vecShift_frame {F : Nat → Nat → Nat → Nat} (hw : ty.width ≠ 64) (he : exec i s = vecShift s h ty vd va vb F)
    (hr : Ready s x vecRule { vs := nums [va, vb], vd := [vd.toNat] } (some h)) :
    ∃ t, exec i s = .next t ∧ RegisterFrame s t x { use := { vs := nums [va, vb], vd := [vd.toNat] }, head := some h } :=
  vecBits_frame hw he hr

theorem vecBit1_frame {F : Nat → Nat} (hw : ty.width ≠ 64) (he : exec i s = vecBit1 s h ty vd va F)
    (hr : Ready s x vecRule { vs := nums [va], vd := [vd.toNat] } (some h)) :
    ∃ t, exec i s = .next t ∧ RegisterFrame s t x { use := { vs := nums [va], vd := [vd.toNat] }, head := some h } :=
  vecOp_frame he hr fun _ _ _ => keys_intWrites32 ty hw vd _ _

theorem vecCnt_frame {F : Nat → Nat} (he : exec i s = vecCnt s h ty vd va F)
    (hr : Ready s x vecRule { vs := nums [va], vd := [vd.toNat] } (some h)) :
    ∃ t, exec i s = .next t ∧ RegisterFrame s t x { use := { vs := nums [va], vd := [vd.toNat] }, head := some h } :=
  vecOp_frame he hr fun _ _ _ => keys_one _ _ _

theorem vecArithImm_frame {imm : BitVec 25} {F : Int → Int → Int} (hw : ty.width ≠ 64) (he : exec i s = vecArithImm s h ty vd va imm F)
    (hr : Ready s x vecRule { vs := nums [va], vd := [vd.toNat] } (some h)) :
    ∃ t, exec i s = .next t ∧ RegisterFrame s t x { use := { vs := nums [va], vd := [vd.toNat] }, head := some h } :=
  vecOp_frame he hr fun _ _ _ => keys_intWrites32 ty hw vd _ _

theorem vecBitsImm_frame {imm : BitVec 25} {F : Nat → Nat → Nat} (hw : ty.width ≠ 64) (he : exec i s = vecBitsImm s h ty vd va imm F)
    (hr : Ready s x vecRule { vs := nums [va], vd := [vd.toNat] } (some h)) :
    ∃ t, exec i s = .next t ∧ RegisterFrame s t x { use := { vs := nums [va], vd := [vd.toNat] }, head := some h } :=
  vecOp_frame he hr fun _ _ _ => keys_intWrites32 ty hw vd _ _

theorem vecShiftImm_frame {imm : BitVec 25} {F : Nat → Nat → Nat → Nat} (hw : ty.width ≠ 64)
    (he : exec i s = vecShiftImm s h ty vd va imm F) (hr : Ready s x vecRule { vs := nums [va], vd := [vd.toNat] } (some h)) :
    ∃ t, exec i s = .next t ∧ RegisterFrame s t x { use := { vs := nums [va], vd := [vd.toNat] }, head := some h } :=
  vecBitsImm_frame hw he hr

/-- A carry goes through the mask register, lane by lane. -/
theorem carryOp_frame {k : MReg} {F : Nat → Nat → Nat → Nat × Bool} (he : exec i s = carryOp s h vd va vb k F)
    (hr : Ready s x vecRule { vs := nums [va, vb], vd := [vd.toNat] } (some h)) :
    ∃ t, exec i s = .next t ∧
      RegisterFrame s t x { use := { vs := nums [va, vb], vd := [vd.toNat] }, head := some h, md := [k.toNat] } := by
  refine lane_case rfl he hr fun g => LanesOnly.trans ?_ (lanesOnly_mask_of_active _ _ _ _ (List.mem_singleton.mpr rfl) _ _ _)
  refine lanesOnly_aluVec _ _ _ _ _ _ fun e he => ?_
  simp only [List.map_map, List.mem_map, Function.comp_apply] at he
  obtain ⟨l, hl, rfl⟩ := he
  exact key_ok (List.mem_singleton.mpr rfl) hl

/-! #### Floating rows -/

theorem keys_fpRes (ty : FpTy) (r : VReg) (l : Nat) (v : Nat × Flags) : Keys (fpRegs ty r) l (fpRes ty r l v).1 := keys_fpWrites ty r l v.1

theorem fpOp1_frame {F : Nat → Nat × Flags} (he : exec i s = fpOp1 s h ft vd va F)
    (hr : Ready s x vecRule { vs := fpRegs ft va, vd := fpRegs ft vd } (some h)) :
    ∃ t, exec i s = .next t ∧ RegisterFrame s t x { use := { vs := fpRegs ft va, vd := fpRegs ft vd }, head := some h, fp := true } :=
  fpBody_frame rfl rfl he hr fun _ _ => keys_fpRes _ _ _ _

theorem fpOp2_frame {F : Nat → Nat → Nat × Flags} (he : exec i s = fpOp2 s h ft vd va vb F)
    (hr : Ready s x vecRule { vs := fpRegs ft va ++ fpRegs ft vb, vd := fpRegs ft vd } (some h)) :
    ∃ t, exec i s = .next t ∧
      RegisterFrame s t x { use := { vs := fpRegs ft va ++ fpRegs ft vb, vd := fpRegs ft vd }, head := some h, fp := true } :=
  fpBody_frame rfl rfl he hr fun _ _ => keys_fpRes _ _ _ _

theorem fpLong1_frame {F : Nat → Nat × Flags} (he : exec i s = fpLong1 s h ft vd va F)
    (hr : Ready s x vecRule { vs := fpRegs ft va, vd := fpRegs ft vd } (some h)) :
    ∃ t, exec i s = .next t ∧
      RegisterFrame s t x { use := { vs := fpRegs ft va, vd := fpRegs ft vd }, head := some h, fp := true, long := some h.la } :=
  long_case rfl rfl rfl he hr fun _ _ => keys_fpRes _ _ _ _

/-- Writing the lanes `act` of a mask register, with the flags gathered. -/
theorem lanesOnly_compare (g : Group) (vd : List Nat) (m : Nat) (md : List Nat) (hm : m ∈ md) (act v : Mask) (fl : Flags) :
    LanesOnly g (if act = 0 then g else { wrM g m act v with fpfl := g.fpfl ||| flagWord fl }) vd md act true := by
  split
  · exact .refl ..
  · exact (lanesOnly_wrM g vd m md hm act v true).trans (lanesOnly_flags (wrM g m act v) vd md act fl)

end Frames

theorem width_le_of_vecIN {ty : IntTy} (h : ty.vecIN = true) : ty.width ≤ 32 := of_decide_eq_true (Bool.and_eq_true_iff.mp h).2

theorem width_le_of_vecB {ty : IntTy} (h : ty.vecB = true) : ty.width ≤ 32 := of_decide_eq_true (Bool.and_eq_true_iff.mp h).2

/-- The scalar words, each by its shape. -/
theorem scalarForm_frame {i : Instr} {f : Form} {s : State} {x : Ex} (hf : scalarForm i = some f) (hr : Ready s x ruleAll f.use none) :
    ∃ t, exec i s = .next t ∧ RegisterFrame s t x f := by
  cases i with
  | sadd ty sd sa sb sat | ssub ty sd sa sb sat | smul ty sd sa sb sat => cases hf; exact arith_frame rfl hr
  | smin ty sd sa sb | smax ty sd sa sb => cases hf; exact arith_frame rfl hr
  | smulh ty sd sa sb => cases hf; exact arith_frame (F := fun a b => a * b / (2 ^ ty.width : Nat)) rfl hr
  | sdiv la ty sd sa sb | srem la ty sd sa sb => cases hf; exact division_frame rfl hr
  | sand ty sd sa sb | sor ty sd sa sb | sxor ty sd sa sb => cases hf; exact bits_frame rfl hr
  | sandn ty sd sa sb => cases hf; exact bits_frame (F := fun a b => a - Nat.land a b) rfl hr
  | sshl ty sd sa sb | ssra ty sd sa sb | srot ty sd sa sb => cases hf; exact shift_frame rfl hr
  | sshr ty sd sa sb => cases hf; exact shift_frame (F := fun _ a c => shrN a c) rfl hr
  | sclz ty sd sa => cases hf; exact scalar_case (ss := [sa]) (v := fun p => BitVec.ofNat 64 (clzN ty.width (scaBits ty p sa))) rfl rfl hr
  | spopc ty sd sa => cases hf; exact scalar_case (ss := [sa]) (v := fun p => BitVec.ofNat 64 (popcN ty.width (scaBits ty p sa))) rfl rfl hr
  | sbfe ty sd sa pos len =>
    cases hf
    exact scalar_case (ss := [sa]) (v := fun p =>
      extend 64 ty (narrow ty false (signField ty.isI (fieldN (scaBits ty p sa) pos.toNat (len.toNat + 1)) (len.toNat + 1)))) rfl rfl hr
  | sbfi ty sd sa sb pos len =>
    cases hf
    exact scalar_case (ss := [sa, sb]) (v := fun p =>
      BitVec.ofNat 64 (insertN (scaBits ty p sa) (scaBits ty p sb) pos.toNat (len.toNat + 1))) rfl rfl hr
  | ssel sd sa sb sc => cases hf; exact scalar_case (ss := [sa, sb, sc]) (v := fun p => if rdS p sc = 0 then rdS p sb else rdS p sa) rfl rfl hr
  | scmp ty c sd sa sb =>
    cases hf
    exact scalar_case (ss := [sa, sb]) (v := fun p => if cndHolds c (scaInt ty p sa) (scaInt ty p sb) then 1 else 0) rfl rfl hr
  | smov sd sa => cases hf; exact scalar_case (ss := [sa]) (v := fun p => rdS p sa) rfl rfl hr
  | sli sd imm => cases hf; exact scalar_case (ss := []) (v := fun _ => imm.signExtend 64) rfl rfl hr
  | sliHi sd imm => cases hf; exact scalar_case (ss := [sd]) (v := fun p => imm ++ (rdS p sd).extractLsb' 0 32) rfl rfl hr
  | saddImm sd sa imm => cases hf; exact imm_frame (F := (· + ·)) rfl hr
  | smulImm sd sa imm => cases hf; exact imm_frame (F := (· * ·)) rfl hr
  | sandImm sd sa imm => cases hf; exact imm_frame (F := (· &&& ·)) rfl hr
  | sorImm sd sa imm => cases hf; exact imm_frame (F := (· ||| ·)) rfl hr
  | sxorImm sd sa imm => cases hf; exact imm_frame (F := (· ^^^ ·)) rfl hr
  | sshlImm sd sa imm => cases hf; exact imm_frame (F := fun a b => a <<< (b.toNat % 64)) rfl hr
  | sshrImm sd sa imm => cases hf; exact imm_frame (F := fun a b => a >>> (b.toNat % 64)) rfl hr
  | ssraImm sd sa imm => cases hf; exact imm_frame (F := fun a b => a.sshiftRight (b.toNat % 64)) rfl hr
  | _ => cases hf

/-- The vector and mask words, each by its shape; an admitted type of the integer rows has at most 32 bits. -/
theorem vectorForm_frame {i : Instr} {f : Form} {s : State} {x : Ex} (hi : ill i = none) (hf : vectorForm i = some f)
    (hr : Ready s x vecRule f.use f.head) : ∃ t, exec i s = .next t ∧ RegisterFrame s t x f := by
  cases i with
  | vadd h ty vd va vb sat | vsub h ty vd va vb sat | vmul h ty vd va vb sat =>
    cases hf; exact vecArith_frame (width_of hi width_le_of_vecIN) rfl hr
  | vmin h ty vd va vb | vmax h ty vd va vb => cases hf; exact vecArith_frame (width_of hi width_le_of_vecIN) rfl hr
  | vmulh h ty vd va vb => cases hf; exact vecArith_frame (F := fun a b => a * b / (2 ^ ty.width : Nat)) (width_of hi width_le_of_vecIN) rfl hr
  | vmad h ty vd va vb vc sat =>
    cases hf
    exact vecOp_frame (vs := [va, vb, vc]) (F := fun g _ i =>
      intWrites ty vd.toNat i (narrow ty sat (laneInt g ty va.toNat i * laneInt g ty vb.toNat i + laneInt g ty vc.toNat i))) rfl hr
      fun _ _ _ => keys_intWrites32 ty (width_of hi width_le_of_vecIN) vd _ _
  | vand h ty vd va vb | vor h ty vd va vb | vxor h ty vd va vb => cases hf; exact vecBits_frame (width_of hi width_le_of_vecB) rfl hr
  | vandn h ty vd va vb => cases hf; exact vecBits_frame (F := fun a b => a - Nat.land a b) (width_of hi width_le_of_vecB) rfl hr
  | vshl h ty vd va vb | vsra h ty vd va vb => cases hf; exact vecShift_frame (width_of hi width_le_of_vecB) rfl hr
  | vshr h ty vd va vb => cases hf; exact vecShift_frame (F := fun _ a c => shrN a c) (width_of hi width_le_of_vecB) rfl hr
  | vnot h ty vd va => cases hf; exact vecBit1_frame (F := fun a => 2 ^ ty.width - 1 - a) (width_of hi width_le_of_vecB) rfl hr
  | vbrev h ty vd va => cases hf; exact vecBit1_frame (F := brevN ty.width) (width_of hi width_le_of_vecB) rfl hr
  | vclz h ty vd va => cases hf; exact vecCnt_frame (F := clzN ty.width) rfl hr
  | vpopc h ty vd va => cases hf; exact vecCnt_frame (F := popcN ty.width) rfl hr
  | vabs h ty vd va sat =>
    cases hf
    exact vecOp_frame (vs := [va]) (F := fun g _ i => intWrites ty vd.toNat i (narrow ty sat (laneInt g ty va.toNat i).natAbs)) rfl hr
      fun _ _ _ => keys_intWrites32 ty (width_of hi fun hk => width_le_of_vecIN (Bool.and_eq_true_iff.mp hk).2) vd _ _
  | vneg h ty vd va sat =>
    cases hf
    exact vecOp_frame (vs := [va]) (F := fun g _ i => intWrites ty vd.toNat i (narrow ty sat (-(laneInt g ty va.toNat i)))) rfl hr
      fun _ _ _ => keys_intWrites32 ty (width_of hi fun hk => width_le_of_vecIN (Bool.and_eq_true_iff.mp hk).2) vd _ _
  | vbfe h ty vd va vc => cases hf; exact vecOne_frame rfl hr
  | vbfi h vd va vb vc => cases hf; exact vecOne_frame rfl hr
  | vclmul h vd va vb vc hi xacc => cases hf; exact vecOne_frame rfl hr
  | vli h vd imm | vlane h vd => cases hf; exact vecOne_frame (vs := []) rfl hr
  | vaddc h vd va vb k => cases hf; exact carryOp_frame (F := fun a b c => (a + b + c, decide (2 ^ 32 ≤ a + b + c))) rfl hr
  | vsubb h vd va vb k => cases hf; exact carryOp_frame (F := fun a b c => (a + 2 ^ 33 - b - c, decide (a < b + c))) rfl hr
  | vmov h ty vd va => cases hf; exact vecBody_frame rfl rfl hr fun _ _ _ => keys_move _ _ _ _ _
  | vsel h ty vd va vb k => cases hf; exact vecBody_frame rfl rfl hr fun _ _ _ => keys_move _ _ _ _ _
  | vbcast h ty vd ss => cases hf; exact vecBody_frame rfl rfl hr fun _ _ _ => keys_intWrites _ _ _ _
  | vaddImm h ty vd va imm | vsubImm h ty vd va imm | vmulImm h ty vd va imm | vminImm h ty vd va imm | vmaxImm h ty vd va imm =>
    cases hf; exact vecArithImm_frame (width_of hi width_le_of_vecIN) rfl hr
  | vandImm h ty vd va imm | vorImm h ty vd va imm | vxorImm h ty vd va imm =>
    cases hf; exact vecBitsImm_frame (width_of hi width_le_of_vecB) rfl hr
  | vshlImm h ty vd va imm | vsraImm h ty vd va imm => cases hf; exact vecShiftImm_frame (width_of hi width_le_of_vecB) rfl hr
  | vshrImm h ty vd va imm => cases hf; exact vecShiftImm_frame (F := fun _ a c => shrN a c) (width_of hi width_le_of_vecB) rfl hr
  | vfadd h ty vd va vb rm | vfsub h ty vd va vb rm | vfmul h ty vd va vb rm => cases hf; exact fpOp2_frame rfl hr
  | vfmin h ty vd va vb | vfmax h ty vd va vb => cases hf; exact fpOp2_frame rfl hr
  | vfsgn h ty vd va vb => cases hf; exact fpOp2_frame (F := fun a b => fpSetSign ty a (signOf ty b) (sigFlag (readFp ty b))) rfl hr
  | vffma h ty vd va vb vc rm => cases hf; exact fpBody_frame rfl rfl rfl hr fun _ _ => keys_fpRes _ _ _ _
  | vfabs h ty vd va => cases hf; exact fpOp1_frame (F := fun a => fpSetSign ty a false 0) rfl hr
  | vfneg h ty vd va => cases hf; exact fpOp1_frame (F := fun a => fpSetSign ty a (!signOf ty a) 0) rfl hr
  | vffract h ty vd va rm | vfround h ty vd va rm => cases hf; exact fpOp1_frame rfl hr
  | vfrcp h vd va | vfrsq h vd va | vfexp2 h vd va | vflog2 h vd va | vfsin h vd va | vfcos h vd va => cases hf; exact fpLong1_frame rfl hr
  | vfsqrt h ty vd va rm => cases hf; exact fpLong1_frame rfl hr
  | vdot h ta tb vd va vb vc mx => cases hf; exact long_case rfl rfl rfl rfl hr fun _ _ => keys_fpRes .f32 vd _ _
  | vfclass h ty vd va => cases hf; exact vecBody_frame rfl rfl hr fun _ _ _ => keys_one _ _ _
  | vfcmp h ty c md va vb => cases hf; exact lane_case rfl rfl hr fun g => lanesOnly_compare g _ _ _ (List.mem_singleton.mpr rfl) _ _ _
  | vfcvt h dst src vd va rm ovf => cases hf; exact fpBody_frame rfl rfl rfl hr fun _ _ => keys_fpRes _ _ _ _
  | vfscale h ty vd va vb rm => cases hf; exact fpBody_frame rfl rfl rfl hr fun _ _ => keys_fpRes _ _ _ _
  | vicvt h dst src vd va rm => cases hf; exact fpBody_frame rfl rfl rfl hr fun _ _ => keys_intWrites _ _ _ _
  | vpack h ty vd va rm ovf => cases hf; exact fpBody_frame rfl rfl rfl hr fun _ _ => keys_one _ _ _
  | vunpack h ty vd va =>
    cases hf
    refine fpBody_frame rfl rfl rfl hr fun g l e he => ?_
    simp only [List.map_map, List.mem_map, Function.comp_apply, List.mem_range] at he
    obtain ⟨j, hj, rfl⟩ := he
    exact ⟨vd.toNat + j, List.mem_map.mpr ⟨j, List.mem_range.mpr hj, rfl⟩, rfl⟩
  | vpackDense h ty vd va => cases hf; exact vecBody_frame rfl rfl hr fun _ _ _ => keys_run _ _ _ _
  | vunpackDense h ty vd va => cases hf; exact vecBody_frame rfl rfl hr fun _ _ _ => keys_run _ _ _ _
  | vcmp h ty c md va vb => cases hf; exact maskBody_frame rfl (List.mem_singleton.mpr rfl) rfl hr
  | mand h md ma mb | mor h md ma mb | mxor h md ma mb | mandn h md ma mb => cases hf; exact maskBody_frame rfl (List.mem_singleton.mpr rfl) rfl hr
  | mnot h md ma | mmov h md ma => cases hf; exact maskBody_frame rfl (List.mem_singleton.mpr rfl) rfl hr
  | mfroms h md ss => cases hf; exact maskBody_frame rfl (List.mem_singleton.mpr rfl) rfl hr
  | mpopc h sd ma => cases hf; exact maskScalar_frame (F := fun m => BitVec.ofNat 64 (popcount m)) rfl hr
  | mffs h sd ma => cases hf; exact maskScalar_frame (F := fun m => BitVec.ofNat 64 ((lanesOf m).head?.getD 64)) rfl hr
  | mfls h sd ma => cases hf; exact maskScalar_frame (F := fun m => BitVec.ofNat 64 ((lanesOf m).getLast?.getD 64)) rfl hr
  | mtos h sd ma => cases hf; exact maskScalar_frame (F := id) rfl hr
  | _ => cases hf

/-- Settles O10: a word is a scalar one or one of the lanes. -/
theorem registerWordsFrame : Obligations.RegisterWordsFrame := by
  unfold Obligations.RegisterWordsFrame
  rintro i f s x hi (⟨hf, hr⟩ | ⟨hf, hr⟩)
  · exact scalarForm_frame hf hr
  · exact vectorForm_frame hi hf hr

end Sys2Proof.Machine
end

section
/-! Integers of n bits (O2, O3, O4): division, the bits of shifted and rotated values, and narrowing. -/
namespace Sys2Proof.Machine

/-! ### Division (R87) -/

section Division
variable {ty : IntTy} {a b : Int}

theorem divRem_zero : divRem ty a 0 = (((2 ^ ty.width : Nat) : Int) - 1, a) := if_pos rfl

/-- MIN ÷ −1 is the one quotient that the type does not hold. -/
theorem divRem_overflow (h : ty.isI = true ∧ a = tyMin ty ∧ b = -1) : divRem ty a b = (tyMin ty, 0) := by
  obtain ⟨hi, rfl, rfl⟩ := h
  simp [divRem, hi]

theorem divRem_trunc (hb : b ≠ 0) (h : ¬(ty.isI = true ∧ a = tyMin ty ∧ b = -1)) : divRem ty a b = (a.tdiv b, a.tmod b) := by
  rw [divRem, if_neg hb, if_neg (by simpa [and_assoc] using h)]

end Division

theorem abs_tmod_lt (a : Int) {b : Int} (hb : b ≠ 0) : |a.tmod b| < |b| := by
  rw [Int.abs_eq_natAbs, Int.abs_eq_natAbs, Int.natAbs_tmod]
  exact_mod_cast Nat.mod_lt _ (Int.natAbs_pos.mpr hb)

/-- The remainder takes the sign of the dividend. -/
theorem tmod_pos_iff {a b : Int} (hm : a.tmod b ≠ 0) : 0 < a.tmod b ↔ 0 < a := by
  rcases lt_trichotomy a 0 with ha | rfl | ha
  · have := Int.tmod_nonneg b (Int.neg_nonneg.mpr ha.le)
    rw [Int.neg_tmod] at this
    omega
  · exact absurd (Int.zero_tmod b) hm
  · have := Int.tmod_nonneg b ha.le
    omega

theorem abs_tdiv_mul_le (a b : Int) : |a.tdiv b| * |b| ≤ |a| := by
  rw [Int.abs_eq_natAbs, Int.abs_eq_natAbs, Int.abs_eq_natAbs, Int.natAbs_tdiv]
  exact_mod_cast Nat.div_mul_le_self ..

/-- Settles O2: division by zero, MIN ÷ −1, and the truncated quotient of every other pair. -/
theorem divisionRule : Obligations.DivisionRule := by
  unfold Obligations.DivisionRule
  refine fun ty a b => ⟨fun hb => hb ▸ divRem_zero, divRem_overflow, fun h => ?_⟩
  obtain ⟨hb, ho⟩ := h
  rw [divRem_trunc hb ho]
  exact ⟨(Int.mul_tdiv_add_tmod a b).symm, abs_tmod_lt a hb, tmod_pos_iff, abs_tdiv_mul_le a b⟩

/-! ### Shifts and rotates (R86) -/

section Shift
variable {n a c i : Nat}

theorem testBit_shlN (hi : i < n) : (shlN n a c).testBit i = (decide (c ≤ i) && a.testBit (i - c)) := by
  rw [shlN, Nat.testBit_mod_two_pow, Nat.testBit_mul_two_pow, decide_eq_true hi, Bool.true_and]

theorem shlN_lt : shlN n a c < 2 ^ n := Nat.mod_lt _ (Nat.two_pow_pos n)

/-- A right shift of an n-bit value brings in zeros. -/
theorem testBit_shrN (ha : a < 2 ^ n) : (shrN a c).testBit i = (decide (i + c < n) && a.testBit (i + c)) := by
  rw [shrN, Nat.testBit_div_two_pow]
  by_cases h : i + c < n
  · rw [decide_eq_true h, Bool.true_and]
  · rw [decide_eq_false h, Bool.false_and]
    exact Nat.testBit_lt_two_pow (ha.trans_le (Nat.pow_le_pow_right (by decide) (Nat.le_of_not_lt h)))

theorem shrN_lt (ha : a < 2 ^ n) : shrN a c < 2 ^ n := (Nat.div_le_self ..).trans_lt ha

/-- The sign of an n-bit value is its greatest bit. -/
theorem testBit_sign (hn : 0 < n) (ha : a < 2 ^ n) : a.testBit (n - 1) = decide (2 ^ (n - 1) ≤ a) := by
  by_cases h : 2 ^ (n - 1) ≤ a
  · rw [decide_eq_true h]
    exact Nat.testBit_of_two_pow_le_and_two_pow_add_one_gt h (by rwa [Nat.sub_add_cancel hn])
  · rw [decide_eq_false h, Nat.testBit_lt_two_pow (Nat.lt_of_not_le h)]

/-- An arithmetic shift of a value with the sign set is the complement of a logical shift of the complement. -/
theorem sraN_neg (h : 2 ^ (n - 1) ≤ a) : sraN n a c = 2 ^ n - (shrN (2 ^ n - (a + 1)) c + 1) := by
  rw [sraN, if_neg (Nat.not_lt.mpr h), shrN, Nat.sub_sub, Nat.sub_sub, Nat.add_comm 1 a, Nat.add_comm 1]

theorem sraN_pos (h : a < 2 ^ (n - 1)) : sraN n a c = shrN a c := if_pos h

theorem testBit_sraN (hn : 0 < n) (ha : a < 2 ^ n) (hi : i < n) :
    (sraN n a c).testBit i = if i + c < n then a.testBit (i + c) else a.testBit (n - 1) := by
  rw [testBit_sign hn ha]
  by_cases h : 2 ^ (n - 1) ≤ a
  · have hc : 2 ^ n - (a + 1) < 2 ^ n := by omega
    rw [sraN_neg h, Nat.testBit_two_pow_sub_succ (shrN_lt hc), testBit_shrN hc, Nat.testBit_two_pow_sub_succ ha]
    by_cases hic : i + c < n <;> simp [hi, hic, h]
  · rw [sraN_pos (Nat.lt_of_not_le h), testBit_shrN ha]
    by_cases hic : i + c < n <;> simp [hic, h]

theorem sraN_lt (ha : a < 2 ^ n) : sraN n a c < 2 ^ n := by
  rcases Nat.lt_or_ge a (2 ^ (n - 1)) with h | h
  · exact sraN_pos h ▸ shrN_lt ha
  · exact sraN_neg h ▸ Nat.sub_lt (Nat.two_pow_pos n) (Nat.succ_pos _)

/-- A rotation puts the low bits above the high ones. -/
theorem rotN_eq (n a c : Nat) : rotN n a c = (2 ^ (n - c) * a + shrN a c) % 2 ^ n := by
  rw [rotN, shrN, Nat.add_comm, Nat.mul_comm]

theorem testBit_rotN (ha : a < 2 ^ n) (hc : c < n) (hi : i < n) : (rotN n a c).testBit i = a.testBit ((i + c) % n) := by
  have hs : shrN a c < 2 ^ (n - c) := by
    rw [shrN, Nat.div_lt_iff_lt_mul (Nat.two_pow_pos c), ← Nat.pow_add, Nat.sub_add_cancel hc.le]
    exact ha
  rw [rotN_eq, Nat.testBit_mod_two_pow, decide_eq_true hi, Bool.true_and, Nat.testBit_two_pow_mul_add _ hs]
  by_cases h : i + c < n
  · rw [if_pos (by omega), testBit_shrN ha, decide_eq_true h, Bool.true_and, Nat.mod_eq_of_lt h]
  · rw [if_neg (by omega), Nat.mod_eq_sub_mod (Nat.le_of_not_lt h), Nat.mod_eq_of_lt (by omega)]
    congr 1
    omega

theorem rotN_lt : rotN n a c < 2 ^ n := Nat.mod_lt _ (Nat.two_pow_pos n)

end Shift

theorem shiftCount_lt {n : Nat} (hn : 0 < n) (b : Nat) : shiftCount n b < n := Nat.mod_lt _ hn

/-- Settles O3: each operation bit by bit, under a count below n. -/
theorem shiftRule : Obligations.ShiftRule := by
  unfold Obligations.ShiftRule
  intro n a b i hn ha hi
  exact ⟨rfl, testBit_shlN hi, testBit_shrN ha, testBit_sraN hn ha hi, testBit_rotN ha (shiftCount_lt hn b) hi,
    shlN_lt, shrN_lt ha, sraN_lt ha, rotN_lt⟩

/-! ### Narrowing (R84, R85) -/

theorem width_pos (ty : IntTy) : 0 < ty.width := by cases ty <;> decide

theorem two_pow_width (ty : IntTy) : 2 ^ ty.width = 2 * 2 ^ (ty.width - 1) := by
  rw [← Nat.pow_succ', Nat.succ_eq_add_one, Nat.sub_add_cancel (width_pos ty)]

/-- A type of n bits holds 2^n values. -/
theorem tyMax_eq (ty : IntTy) : tyMax ty = tyMin ty + (2 ^ ty.width : Nat) - 1 := by
  unfold tyMax tyMin
  split <;> push_cast [two_pow_width ty] <;> ring

/-- The value read has the bits of the pattern. -/
theorem readInt_emod (ty : IntTy) (x : Nat) : readInt ty x % (2 ^ ty.width : Nat) = x % (2 ^ ty.width : Nat) := by
  simp only [readInt]
  split
  · rw [Int.sub_emod_right, Int.natCast_emod, Int.emod_emod_of_dvd _ dvd_rfl]
  · rw [Int.natCast_emod, Int.emod_emod_of_dvd _ dvd_rfl]

theorem readInt_mem (ty : IntTy) (x : Nat) : tyMin ty ≤ readInt ty x ∧ readInt ty x ≤ tyMax ty := by
  have hx := Nat.mod_lt x (Nat.two_pow_pos ty.width)
  have h2 := two_pow_width ty
  rw [tyMax_eq, tyMin, readInt]
  cases ty.isI with
  | false => simp only [Bool.false_and, Bool.false_eq_true, if_false]; omega
  | true =>
    simp only [Bool.true_and, decide_eq_true_eq, if_true]
    split <;> omega

/-- A pattern with the bits of a value of the type reads as that value. -/
theorem readInt_eq {ty : IntTy} {x : Nat} {v : Int} (hv : tyMin ty ≤ v ∧ v ≤ tyMax ty)
    (h : (x : Int) % (2 ^ ty.width : Nat) = v % (2 ^ ty.width : Nat)) : readInt ty x = v := by
  have hd : ((2 ^ ty.width : Nat) : Int) ∣ readInt ty x - v := Int.ModEq.dvd ((readInt_emod ty x).trans h).symm
  have hr := readInt_mem ty x
  rw [tyMax_eq] at hv hr
  exact sub_eq_zero.mp (Int.eq_zero_of_abs_lt_dvd hd (abs_lt.mpr (by omega)))

theorem narrow_wrap (ty : IntTy) (v : Int) : (narrow ty false v : Int) = v % (2 ^ ty.width : Nat) :=
  Int.toNat_of_nonneg (Int.emod_nonneg v (by positivity))

/-- Clamping is wrapping the clamped value. -/
theorem narrow_sat (ty : IntTy) (v : Int) : narrow ty true v = narrow ty false (min (max v (tyMin ty)) (tyMax ty)) := rfl

theorem readInt_narrow {ty : IntTy} {v : Int} (hv : tyMin ty ≤ v ∧ v ≤ tyMax ty) : readInt ty (narrow ty false v) = v :=
  readInt_eq hv (by rw [narrow_wrap, Int.emod_emod_of_dvd _ dvd_rfl])

theorem clamp_mem (ty : IntTy) (v : Int) :
    tyMin ty ≤ min (max v (tyMin ty)) (tyMax ty) ∧ min (max v (tyMin ty)) (tyMax ty) ≤ tyMax ty := by
  have := Nat.two_pow_pos ty.width
  rw [tyMax_eq]
  omega

/-- An extension to 64 bits keeps the value. -/
theorem readInt_extend {ty : IntTy} (hw : ty.width ≤ 64) (x : Nat) : readInt ty (extend 64 ty x).toNat = readInt ty x := by
  refine readInt_eq (readInt_mem ty x) ?_
  rw [extend, BitVec.toNat_ofInt, Int.toNat_of_nonneg (Int.emod_nonneg _ (by decide))]
  exact Int.emod_emod_of_dvd _ (by exact_mod_cast Nat.pow_dvd_pow 2 hw)

/-- Settles O4: a value that the type holds is the one reading of its bits. -/
theorem narrowingRule : Obligations.NarrowingRule := by
  unfold Obligations.NarrowingRule
  exact fun ty v hw => ⟨narrow_wrap ty v, narrow_sat ty v ▸ readInt_narrow (clamp_mem ty v), readInt_narrow, readInt_extend hw _⟩

end Sys2Proof.Machine
end

section
/-! Rounding (O7): to an integer under each mode, and of the values that a format holds. -/
namespace Sys2Proof.Machine

/-! ### Rounding to an integer (R89) -/

/-- Whether a magnitude m / 2^sh that is no integer is rounded away from zero. -/
def roundsAway (neg : Bool) (m sh : Nat) : RoundMode → Bool
  | .rne => decide (2 * (m % 2 ^ sh) > 2 ^ sh) || (decide (2 * (m % 2 ^ sh) = 2 ^ sh) && m / 2 ^ sh % 2 == 1)
  | .rtz => false
  | .rup => !neg
  | .rdn => neg
  | .rna => decide (2 * (m % 2 ^ sh) ≥ 2 ^ sh)

/-- A magnitude below one half is rounded away from zero by a directed mode only. -/
theorem roundsAway_small {m sh : Nat} (h : 2 * m < 2 ^ sh) (neg : Bool) (rm : RoundMode) : roundsAway neg m sh rm =
    match rm with
    | .rup => !neg
    | .rdn => neg
    | _ => false := by
  have hr : m % 2 ^ sh = m := Nat.mod_eq_of_lt (by omega)
  cases rm with
  | rne => simp [roundsAway, hr, h.ne, h.le]
  | rna => simp [roundsAway, hr, h]
  | rtz | rup | rdn => rfl

/-- The test by which `rintMag` does not shift a small magnitude. -/
theorem small_of_log2 {m sh : Nat} (h : sh > m.log2 + 1) : 2 * m < 2 ^ sh := by
  have h1 : m < 2 ^ (m.log2 + 1) := Nat.lt_log2_self
  have h2 : 2 ^ (m.log2 + 1 + 1) ≤ 2 ^ sh := Nat.pow_le_pow_right (by decide) h
  omega

theorem ite_succ_eq (b : Bool) (q : Nat) : (if b then q + 1 else q) = q + b.toNat := by cases b <;> rfl

/-- The magnitude is the quotient or, away from zero, the next integer. -/
theorem rintMag_eq (neg : Bool) (m sh : Nat) (rm : RoundMode) : rintMag neg m sh rm =
    if m % 2 ^ sh = 0 then (m / 2 ^ sh, false) else (m / 2 ^ sh + (roundsAway neg m sh rm).toNat, true) := by
  unfold rintMag
  by_cases hm : m = 0
  · simp [hm]
  rw [if_neg hm]
  by_cases hs : sh > m.log2 + 1
  · have hlt := small_of_log2 hs
    rw [if_pos hs, Nat.mod_eq_of_lt (by omega : m < 2 ^ sh), if_neg hm, Nat.div_eq_of_lt (by omega : m < 2 ^ sh), roundsAway_small hlt]
    cases rm <;> cases neg <;> rfl
  · rw [if_neg hs]
    simp only [ite_succ_eq]
    cases rm <;> rfl

/-! ### The rational value -/

/-- The part of m / 2^sh below one. -/
def fracOf (m sh : Nat) : ℚ := (m % 2 ^ sh : Nat) / 2 ^ sh

section Frac
variable (m sh : Nat)

theorem div_eq_add_fracOf : (m : ℚ) / 2 ^ sh = (m / 2 ^ sh : Nat) + fracOf m sh := by
  rw [fracOf, eq_comm, ← eq_sub_iff_add_eq, ← sub_div]
  have : (m : ℚ) = 2 ^ sh * (m / 2 ^ sh : Nat) + (m % 2 ^ sh : Nat) := by exact_mod_cast (Nat.div_add_mod m (2 ^ sh)).symm
  rw [eq_div_iff (pow_pos two_pos sh).ne']
  linarith

theorem fracOf_nonneg : 0 ≤ fracOf m sh := by unfold fracOf; positivity

theorem fracOf_lt_one : fracOf m sh < 1 := by
  rw [fracOf, div_lt_one (pow_pos two_pos sh)]
  exact_mod_cast Nat.mod_lt m (Nat.two_pow_pos sh)

theorem fracOf_eq_zero : fracOf m sh = 0 ↔ m % 2 ^ sh = 0 := by
  rw [fracOf, div_eq_zero_iff, or_iff_left (pow_pos two_pos sh).ne', Nat.cast_eq_zero]

theorem fracOf_lt_half : fracOf m sh < 1 / 2 ↔ 2 * (m % 2 ^ sh) < 2 ^ sh := by
  rw [fracOf, div_lt_div_iff₀ (pow_pos two_pos sh) two_pos, one_mul, mul_comm]
  exact_mod_cast Iff.rfl

theorem fracOf_eq_half : fracOf m sh = 1 / 2 ↔ 2 * (m % 2 ^ sh) = 2 ^ sh := by
  rw [fracOf, div_eq_div_iff (pow_pos two_pos sh).ne' two_ne_zero, one_mul, mul_comm]
  exact_mod_cast Iff.rfl

theorem floor_magnitude : ⌊(m : ℚ) / 2 ^ sh⌋ = (m / 2 ^ sh : Nat) := by
  rw [Int.floor_eq_iff, Int.cast_natCast, div_eq_add_fracOf]
  have h0 := fracOf_nonneg m sh
  have h1 := fracOf_lt_one m sh
  constructor <;> linarith

theorem ceil_magnitude : ⌈(m : ℚ) / 2 ^ sh⌉ = (if m % 2 ^ sh = 0 then m / 2 ^ sh else m / 2 ^ sh + 1 : Nat) := by
  rw [Int.ceil_eq_iff, Int.cast_natCast, div_eq_add_fracOf]
  have h0 := fracOf_nonneg m sh
  have h1 := fracOf_lt_one m sh
  split
  · next h =>
    rw [(fracOf_eq_zero m sh).mpr h]
    constructor <;> linarith
  · next h =>
    have h2 := h0.lt_of_ne' fun hf => h ((fracOf_eq_zero m sh).mp hf)
    push_cast
    constructor <;> linarith

end Frac

section Modes
variable {neg : Bool} {m sh : Nat} {rm : RoundMode}

theorem rintMag_exact (h : fracOf m sh = 0) : rintMag neg m sh rm = (m / 2 ^ sh, false) := by
  rw [rintMag_eq, if_pos ((fracOf_eq_zero m sh).mp h)]

theorem rintMag_inexact (h : fracOf m sh ≠ 0) : rintMag neg m sh rm = (m / 2 ^ sh + (roundsAway neg m sh rm).toNat, true) := by
  rw [rintMag_eq, if_neg (mt (fracOf_eq_zero m sh).mpr h)]

theorem rintMag_rtz : ((rintMag neg m sh .rtz).1 : ℤ) = ⌊(m : ℚ) / 2 ^ sh⌋ := by
  rw [floor_magnitude, rintMag_eq]
  split <;> rfl

/-- The directed modes take a magnitude down or up as the sign says. -/
theorem rintMag_rup : ((rintMag neg m sh .rup).1 : ℤ) = if neg then ⌊(m : ℚ) / 2 ^ sh⌋ else ⌈(m : ℚ) / 2 ^ sh⌉ := by
  rw [floor_magnitude, ceil_magnitude, rintMag_eq]
  cases neg <;> split <;> rfl

theorem rintMag_rdn : ((rintMag neg m sh .rdn).1 : ℤ) = if neg then ⌈(m : ℚ) / 2 ^ sh⌉ else ⌊(m : ℚ) / 2 ^ sh⌋ := by
  rw [floor_magnitude, ceil_magnitude, rintMag_eq]
  cases neg <;> split <;> rfl

theorem roundsAway_rne : roundsAway neg m sh .rne = true ↔ 1 / 2 < fracOf m sh ∨ (fracOf m sh = 1 / 2 ∧ m / 2 ^ sh % 2 = 1) := by
  rw [← not_le, le_iff_lt_or_eq, fracOf_lt_half, fracOf_eq_half]
  simp [roundsAway]
  omega

theorem roundsAway_rna : roundsAway neg m sh .rna = true ↔ 1 / 2 ≤ fracOf m sh := by
  rw [← not_lt, fracOf_lt_half, roundsAway, decide_eq_true_iff, not_lt]

/-- How far the rounded magnitude of a value that is no integer lies from it. -/
theorem sub_rintMag (h : fracOf m sh ≠ 0) :
    (m : ℚ) / 2 ^ sh - (rintMag neg m sh rm).1 = fracOf m sh - if roundsAway neg m sh rm then 1 else 0 := by
  rw [rintMag_inexact h, div_eq_add_fracOf]
  cases roundsAway neg m sh rm <;> simp

theorem sub_rintMag_exact (h : fracOf m sh = 0) : (m : ℚ) / 2 ^ sh - (rintMag neg m sh rm).1 = 0 := by
  rw [rintMag_exact h, div_eq_add_fracOf, h, add_zero, sub_self]

/-- RNE is nearest, and even on a tie. -/
theorem rintMag_rne : |(m : ℚ) / 2 ^ sh - (rintMag neg m sh .rne).1| ≤ 1 / 2 ∧
    (|(m : ℚ) / 2 ^ sh - (rintMag neg m sh .rne).1| = 1 / 2 → (rintMag neg m sh .rne).1 % 2 = 0) := by
  by_cases h : fracOf m sh = 0
  · rw [sub_rintMag_exact h]
    norm_num
  have h0 := fracOf_nonneg m sh
  have h1 := fracOf_lt_one m sh
  have hb := roundsAway_rne (neg := neg) (m := m) (sh := sh)
  rw [sub_rintMag h, rintMag_inexact h]
  cases hr : roundsAway neg m sh .rne with
  | false =>
    obtain ⟨hle, ht⟩ := not_or.mp (hb.not.mp (by rw [hr]; exact Bool.false_ne_true))
    rw [if_neg Bool.false_ne_true, sub_zero, abs_of_nonneg h0]
    exact ⟨not_lt.mp hle, fun he => Nat.mod_two_ne_one.mp fun ho => ht ⟨he, ho⟩⟩
  | true =>
    rw [if_pos rfl, abs_of_neg (by linarith), Bool.toNat_true]
    rcases hb.mp hr with hlt | ⟨he, ho⟩
    · exact ⟨by linarith, fun he => by linarith⟩
    · exact ⟨by linarith, fun _ => by omega⟩

/-- RNA is nearest, and farther from zero on a tie. -/
theorem rintMag_rna : |(m : ℚ) / 2 ^ sh - (rintMag neg m sh .rna).1| ≤ 1 / 2 ∧
    (|(m : ℚ) / 2 ^ sh - (rintMag neg m sh .rna).1| = 1 / 2 → (m : ℚ) / 2 ^ sh < (rintMag neg m sh .rna).1) := by
  by_cases h : fracOf m sh = 0
  · rw [sub_rintMag_exact h]
    norm_num
  have h0 := fracOf_nonneg m sh
  have h1 := fracOf_lt_one m sh
  have hb := roundsAway_rna (neg := neg) (m := m) (sh := sh)
  rw [← sub_neg, sub_rintMag h]
  cases hr : roundsAway neg m sh .rna with
  | false =>
    have hlt := not_le.mp (hb.not.mp (by rw [hr]; exact Bool.false_ne_true))
    rw [if_neg Bool.false_ne_true, sub_zero, abs_of_nonneg h0]
    exact ⟨hlt.le, fun he => absurd he hlt.ne⟩
  | true =>
    have hle := hb.mp hr
    rw [if_pos rfl, abs_of_neg (by linarith)]
    exact ⟨by linarith, fun _ => by linarith⟩

/-- A rounding is inexact where it changes the value. -/
theorem rintMag_inexact_iff : (rintMag neg m sh rm).2 = true ↔ ((rintMag neg m sh rm).1 : ℚ) ≠ (m : ℚ) / 2 ^ sh := by
  rw [ne_comm, ← sub_ne_zero]
  by_cases h : fracOf m sh = 0
  · rw [sub_rintMag_exact h, rintMag_exact h]
    simp
  · rw [sub_rintMag h, rintMag_inexact h]
    refine iff_of_true rfl ?_
    cases roundsAway neg m sh rm with
    | false => simpa using h
    | true => simpa using sub_ne_zero.mpr (fracOf_lt_one m sh).ne

end Modes

/-! ### Values that a format holds (R88, R90) -/

/-- The fields of a pattern (R88). -/
def expField (t : FpTy) (p : Nat) : Nat := p / 2 ^ (fmtShape t).mb % 2 ^ (fmtShape t).eb
/-- The fraction field. -/
def fracField (t : FpTy) (p : Nat) : Nat := p % 2 ^ (fmtShape t).mb

section Shapes
variable {t : FpTy} (ht : t ≠ .e8m0)
include ht

/-- Sign, exponent and fraction fill a format. -/
theorem fmtShape_width : (fmtShape t).w = 1 + (fmtShape t).eb + (fmtShape t).mb := by
  cases t <;> simp [fmtShape] at ht ⊢

/-- The greatest exponent of a finite value is the greatest, or the one below where that holds infinities and NaNs. -/
theorem fmtShape_maxE : (fmtShape t).maxE = 2 ^ (fmtShape t).eb - 1 - (hasInf t).toNat := by
  cases t <;> simp [fmtShape, hasInf] at ht ⊢

theorem fmtShape_maxF (h4 : t ≠ .e4m3) : (fmtShape t).maxF = 2 ^ (fmtShape t).mb - 1 := by
  cases t <;> simp [fmtShape] at ht h4 ⊢

end Shapes

theorem one_le_maxE (t : FpTy) : 1 ≤ (fmtShape t).maxE := by cases t <;> decide

section Fields
variable {t : FpTy} {p : Nat}

theorem fracField_lt : fracField t p < 2 ^ (fmtShape t).mb := Nat.mod_lt _ (Nat.two_pow_pos _)

/-- A pattern is its fields. -/
theorem pattern_eq (ht : t ≠ .e8m0) (hp : p < 2 ^ (fmtShape t).w) :
    p = signBit t (decide (p / 2 ^ ((fmtShape t).w - 1) % 2 = 1)) + expField t p * 2 ^ (fmtShape t).mb + fracField t p := by
  have hw : (fmtShape t).w - 1 = (fmtShape t).mb + (fmtShape t).eb := by rw [fmtShape_width ht]; omega
  have hs : p / 2 ^ ((fmtShape t).w - 1) < 2 := by
    rw [Nat.div_lt_iff_lt_mul (Nat.two_pow_pos _), ← Nat.pow_succ', hw]
    rwa [fmtShape_width ht, show 1 + (fmtShape t).eb + (fmtShape t).mb = (fmtShape t).mb + (fmtShape t).eb + 1 by omega] at hp
  have hsign : signBit t (decide (p / 2 ^ ((fmtShape t).w - 1) % 2 = 1)) = 2 ^ ((fmtShape t).w - 1) * (p / 2 ^ ((fmtShape t).w - 1)) := by
    rw [Nat.mod_eq_of_lt hs, signBit]
    rcases Nat.lt_succ_iff_lt_or_eq.mp hs with h | h
    · simp [Nat.lt_one_iff.mp h]
    · simp [h]
  have hE := Nat.div_add_mod (p / 2 ^ (fmtShape t).mb) (2 ^ (fmtShape t).eb)
  have hF := Nat.div_add_mod p (2 ^ (fmtShape t).mb)
  rw [Nat.div_div_eq_div_mul, ← Nat.pow_add] at hE
  rw [hsign, hw, expField, fracField, Nat.pow_add, mul_assoc, mul_comm (_ % _), ← mul_add, ← Nat.pow_add, hE, hF]

/-- What a pattern of a finite value is read as (R88, R91): its sign, the significand and the exponent of its unit; the exponent field is
not the one of infinities and NaNs. -/
theorem readFp_fin {n : Bool} {m : Nat} {e : Int} (ht : t ≠ .e8m0) (h : readFp t p = .fin n m e) :
    n = decide (p / 2 ^ ((fmtShape t).w - 1) % 2 = 1) ∧
    ¬(hasInf t = true ∧ expField t p = 2 ^ (fmtShape t).eb - 1) ∧ ¬(t = .e4m3 ∧ p % 128 = 127) ∧
    ((expField t p = 0 ∧ m = fracField t p ∧ e = 1 - ((fmtShape t).bias : Int) - (fmtShape t).mb) ∨
     (expField t p ≠ 0 ∧ m = 2 ^ (fmtShape t).mb + fracField t p ∧ e = (expField t p : Int) - (fmtShape t).bias - (fmtShape t).mb)) := by
  simp only [readFp, if_neg ht] at h
  split at h
  · split at h <;> cases h
  next hi =>
  split at h
  · cases h
  next h4 =>
  have hi' : ¬(hasInf t = true ∧ expField t p = 2 ^ (fmtShape t).eb - 1) := by simpa [expField] using hi
  split at h
  · next h0 =>
    cases h
    exact ⟨rfl, hi', h4, .inl ⟨h0, rfl, rfl⟩⟩
  · next h0 =>
    cases h
    exact ⟨rfl, hi', h4, .inr ⟨h0, rfl, rfl⟩⟩

/-- A value whose unit is the spacing of the format there, and which is not above the greatest, is rounded to itself (R90). -/
theorem rnd_on_grid {neg : Bool} {m : Nat} {e : Int} (rm : RoundMode) (ovf : Bool) (ht : t ≠ .e8m0)
    (h0 : m ≠ 0) (hm : m < 2 ^ ((fmtShape t).mb + 1))
    (hq : max ((m.log2 : Int) + e) (1 - ((fmtShape t).bias : Int)) - (fmtShape t).mb = e)
    (htop : e ≤ ((fmtShape t).maxE : Int) - (fmtShape t).bias - (fmtShape t).mb)
    (hmax : m ≤ (2 ^ (fmtShape t).mb + (fmtShape t).maxF) * 2 ^ (((fmtShape t).maxE : Int) - (fmtShape t).bias - (fmtShape t).mb - e).toNat) :
    rnd (.fin neg m e) t rm ovf = (signBit t neg + if m < 2 ^ (fmtShape t).mb then m
      else (e + (fmtShape t).mb + (fmtShape t).bias).toNat * 2 ^ (fmtShape t).mb + (m - 2 ^ (fmtShape t).mb), 0) := by
  simp [rnd, ht, h0, hq, htop.not_gt, hmax.not_gt, hm.ne]

/-- The exponent field of a finite value is at most the greatest, and with the greatest the fraction is too. -/
theorem expField_le (ht : t ≠ .e8m0) (hi : ¬(hasInf t = true ∧ expField t p = 2 ^ (fmtShape t).eb - 1)) (h4 : ¬(t = .e4m3 ∧ p % 128 = 127)) :
    expField t p ≤ (fmtShape t).maxE ∧ (expField t p = (fmtShape t).maxE → fracField t p ≤ (fmtShape t).maxF) := by
  have hE : expField t p < 2 ^ (fmtShape t).eb := Nat.mod_lt _ (Nat.two_pow_pos _)
  refine ⟨?_, fun he => ?_⟩
  · rw [fmtShape_maxE ht]
    cases hh : hasInf t with
    | false => exact Nat.le_sub_one_of_lt hE
    | true =>
      have hne : expField t p ≠ 2 ^ (fmtShape t).eb - 1 := fun h => hi ⟨hh, h⟩
      rw [Bool.toNat_true]
      omega
  · by_cases ht4 : t = .e4m3
    · subst ht4
      have h127 : p % 128 ≠ 127 := fun h => h4 ⟨rfl, h⟩
      simp only [expField, fracField, fmtShape] at he ⊢
      omega
    · rw [fmtShape_maxF ht ht4]
      exact Nat.le_sub_one_of_lt fracField_lt

/-- The sign of a zero is kept. -/
theorem rnd_zero {neg : Bool} {e : Int} (rm : RoundMode) (ovf : Bool) (ht : t ≠ .e8m0) : rnd (.fin neg 0 e) t rm ovf = (signBit t neg, 0) := by
  simp only [rnd, if_neg ht, if_true]

/-- A subnormal of the format. -/
theorem rnd_subnormal {neg : Bool} {F : Nat} (rm : RoundMode) (ovf : Bool) (ht : t ≠ .e8m0) (h0 : F ≠ 0) (hF : F < 2 ^ (fmtShape t).mb) :
    rnd (.fin neg F (1 - ((fmtShape t).bias : Int) - (fmtShape t).mb)) t rm ovf = (signBit t neg + F, 0) := by
  have h1 := one_le_maxE t
  have hlog : F.log2 < (fmtShape t).mb := (Nat.log2_lt h0).mpr hF
  rw [rnd_on_grid rm ovf ht h0 (by rw [Nat.pow_succ]; omega) (by omega) (by omega), if_pos hF]
  exact hF.le.trans ((Nat.le_add_right ..).trans (Nat.le_mul_of_pos_right _ (Nat.two_pow_pos _)))

/-- A normal value of the format. -/
theorem rnd_normal {neg : Bool} {E F : Nat} (rm : RoundMode) (ovf : Bool) (ht : t ≠ .e8m0) (h0 : E ≠ 0) (hF : F < 2 ^ (fmtShape t).mb)
    (hE : E ≤ (fmtShape t).maxE) (hmax : E = (fmtShape t).maxE → F ≤ (fmtShape t).maxF) :
    rnd (.fin neg (2 ^ (fmtShape t).mb + F) ((E : Int) - (fmtShape t).bias - (fmtShape t).mb)) t rm ovf =
      (signBit t neg + (E * 2 ^ (fmtShape t).mb + F), 0) := by
  have hpos := Nat.two_pow_pos (fmtShape t).mb
  have hlt : 2 ^ (fmtShape t).mb + F < 2 ^ ((fmtShape t).mb + 1) := by rw [Nat.pow_succ]; omega
  have hlog : (2 ^ (fmtShape t).mb + F).log2 = (fmtShape t).mb := (Nat.log2_eq_iff (by omega)).mpr ⟨Nat.le_add_right .., hlt⟩
  have hfield : ((E : Int) - (fmtShape t).bias - (fmtShape t).mb + (fmtShape t).mb + (fmtShape t).bias).toNat = E := by omega
  rw [rnd_on_grid rm ovf ht (by omega) hlt (by rw [hlog]; omega) (by omega), if_neg (by omega), hfield, Nat.add_sub_cancel_left]
  rw [show (((fmtShape t).maxE : Int) - (fmtShape t).bias - (fmtShape t).mb - ((E : Int) - (fmtShape t).bias - (fmtShape t).mb)).toNat =
    (fmtShape t).maxE - E by omega]
  rcases hE.eq_or_lt with he | he
  · rw [he, Nat.sub_self, pow_zero, mul_one]
    exact Nat.add_le_add_left (hmax he) _
  · calc 2 ^ (fmtShape t).mb + F ≤ 2 ^ (fmtShape t).mb * 2 ^ 1 := by omega
      _ ≤ (2 ^ (fmtShape t).mb + (fmtShape t).maxF) * 2 ^ ((fmtShape t).maxE - E) :=
        Nat.mul_le_mul (Nat.le_add_right ..) (Nat.pow_le_pow_right (by decide) (by omega))

/-- Rounding the value of a pattern gives the pattern. -/
theorem rnd_readFp {n : Bool} {m : Nat} {e : Int} (rm : RoundMode) (ovf : Bool) (ht : t ≠ .e8m0) (hp : p < 2 ^ (fmtShape t).w)
    (h : readFp t p = .fin n m e) : rnd (.fin n m e) t rm ovf = (p, 0) := by
  obtain ⟨rfl, hi, h4, hm⟩ := readFp_fin ht h
  obtain ⟨hE, hF⟩ := expField_le ht hi h4
  have hpat := pattern_eq ht hp
  rcases hm with ⟨h0, rfl, rfl⟩ | ⟨h0, rfl, rfl⟩
  · rw [h0, zero_mul, add_zero] at hpat
    by_cases hz : fracField t p = 0
    · rw [hz, add_zero] at hpat
      rw [hz, rnd_zero rm ovf ht, ← hpat]
    · rw [rnd_subnormal rm ovf ht hz fracField_lt, ← hpat]
  · rw [rnd_normal rm ovf ht h0 fracField_lt hE hF, ← add_assoc, ← hpat]

end Fields

/-- A value rounded up is the least integer not below it. -/
theorem signed_rup (neg : Bool) (m sh : Nat) : (if neg then -1 else 1 : ℚ) * (rintMag neg m sh .rup).1 =
    ⌈(if neg then -1 else 1 : ℚ) * ((m : ℚ) / 2 ^ sh)⌉ := by
  rw [← Int.cast_natCast, rintMag_rup]
  cases neg <;> simp [Int.ceil_neg]

theorem signed_rdn (neg : Bool) (m sh : Nat) : (if neg then -1 else 1 : ℚ) * (rintMag neg m sh .rdn).1 =
    ⌊(if neg then -1 else 1 : ℚ) * ((m : ℚ) / 2 ^ sh)⌋ := by
  rw [← Int.cast_natCast, rintMag_rdn]
  cases neg <;> simp [Int.floor_neg]

/-- Settles O7: the quotient and the part below one decide each mode, and a value that a format holds lies on its grid. -/
theorem roundingRule : Obligations.RoundingRule := by
  unfold Obligations.RoundingRule
  refine ⟨?_, fun t p rm ovf n m e ht hp h => rnd_readFp rm ovf ht hp h⟩
  intro neg m sh sign v r
  have hw : 0 ≤ (m : ℚ) / 2 ^ sh := by positivity
  have hv : v = sign * ((m : ℚ) / 2 ^ sh) := mul_div_assoc ..
  have hs : |sign| = 1 := by simp only [sign]; cases neg <;> norm_num
  have habs : ∀ y : ℚ, |v - sign * y| = |(m : ℚ) / 2 ^ sh - y| := fun y => by rw [hv, ← mul_sub, abs_mul, hs, one_mul]
  have hvabs : |v| = (m : ℚ) / 2 ^ sh := by rw [hv, abs_mul, hs, one_mul, abs_of_nonneg hw]
  have hne : sign ≠ 0 := fun h => by simp [h] at hs
  refine ⟨?_, ?_, ?_, ?_, ?_, ?_⟩
  · simp only [r, habs]
    exact rintMag_rne
  · rw [hvabs]
    exact rintMag_rtz
  · rw [hv]
    exact signed_rup neg m sh
  · rw [hv]
    exact signed_rdn neg m sh
  · simp only [r, habs, hvabs]
    refine ⟨rintMag_rna.1, fun h => ?_⟩
    rw [abs_mul, hs, one_mul, Nat.abs_cast]
    exact rintMag_rna.2 h
  · intro rm
    rw [rintMag_inexact_iff]
    simp only [r, hv]
    rw [Ne, Ne, mul_right_inj' hne]

end Sys2Proof.Machine
end

section
/-! Lane-wise integer words (O5). -/
namespace Sys2Proof.Machine

section Lanes
variable {i : Instr} {s : State} {x : Ex} {h : Head} {ty : IntTy} {vd va vb : VReg} {imm : BitVec 25}

/-- A ready lane-wise word of single registers writes what it lists for each active lane (R57, R122). -/
theorem vecOp_ready {vs : List VReg} {F : Group → Path → Nat → List (Nat × W32)} {f : Group → Nat → List (Nat × W32)}
    (hr : Ready s x vecRule { vs := nums vs, vd := [vd.toNat] } (some h)) (hi : exec i s = vecOp s h vs vd F)
    (hf : ∀ g l, F g x.p l = f g l) : exec i s = .next (lanesWritten s x h f) := by
  obtain rfl : (fun g => F g x.p) = f := funext fun g => funext (hf g)
  exact hi.trans (issue_lanes hr rfl rfl _)

/-- A row of two integers: the exact result, narrowed (R85, R127). -/
theorem vecArith_ready {sat : Bool} {F : Int → Int → Int}
    (hr : Ready s x vecRule { vs := nums [va, vb], vd := [vd.toNat] } (some h)) (hi : exec i s = vecArith s h ty vd va vb sat F) :
    exec i s = .next (lanesWritten s x h fun g l =>
      intWrites ty vd.toNat l (narrow ty sat (F (laneInt g ty va.toNat l) (laneInt g ty vb.toNat l)))) :=
  vecOp_ready hr hi fun _ _ => rfl

/-- A row of two patterns. -/
theorem vecBits_ready {F : Nat → Nat → Nat}
    (hr : Ready s x vecRule { vs := nums [va, vb], vd := [vd.toNat] } (some h)) (hi : exec i s = vecBits s h ty vd va vb F) :
    exec i s = .next (lanesWritten s x h fun g l => intWrites ty vd.toNat l (F (laneBits g ty va.toNat l) (laneBits g ty vb.toNat l))) :=
  vecOp_ready hr hi fun _ _ => rfl

/-- A shift by the count of R86. -/
theorem vecShift_ready {F : Nat → Nat → Nat → Nat}
    (hr : Ready s x vecRule { vs := nums [va, vb], vd := [vd.toNat] } (some h)) (hi : exec i s = vecShift s h ty vd va vb F) :
    exec i s = .next (lanesWritten s x h fun g l =>
      intWrites ty vd.toNat l (F ty.width (laneBits g ty va.toNat l) (shiftCount ty.width (laneBits g ty vb.toNat l)))) :=
  vecBits_ready (F := fun a b => F ty.width a (shiftCount ty.width b)) hr hi

section Source
variable (hr : Ready s x vecRule { vs := nums [va], vd := [vd.toNat] } (some h))
include hr

/-- A row of one pattern. -/
theorem vecBit1_ready {F : Nat → Nat} (hi : exec i s = vecBit1 s h ty vd va F) :
    exec i s = .next (lanesWritten s x h fun g l => intWrites ty vd.toNat l (F (laneBits g ty va.toNat l))) :=
  vecOp_ready hr hi fun _ _ => rfl

/-- A count is an unsigned 32-bit integer whatever the type (R127). -/
theorem vecCnt_ready {F : Nat → Nat} (hi : exec i s = vecCnt s h ty vd va F) :
    exec i s = .next (lanesWritten s x h fun g l => [(vd.toNat * 64 + l, BitVec.ofNat 32 (F (laneBits g ty va.toNat l)))]) :=
  vecOp_ready hr hi fun _ _ => rfl

/-- The immediate of a VI form is sign-extended and read under the type (R131). -/
theorem vecArithImm_ready {F : Int → Int → Int} (hi : exec i s = vecArithImm s h ty vd va imm F) :
    exec i s = .next (lanesWritten s x h fun g l =>
      intWrites ty vd.toNat l (narrow ty false (F (laneInt g ty va.toNat l) (readInt ty (imm.signExtend 32).toNat)))) :=
  vecOp_ready hr hi fun _ _ => rfl

theorem vecBitsImm_ready {F : Nat → Nat → Nat} (hi : exec i s = vecBitsImm s h ty vd va imm F) :
    exec i s = .next (lanesWritten s x h fun g l =>
      intWrites ty vd.toNat l (F (laneBits g ty va.toNat l) (lowBits ty.width (imm.signExtend 32).toNat))) :=
  vecOp_ready hr hi fun _ _ => rfl

theorem vecShiftImm_ready {F : Nat → Nat → Nat → Nat} (hi : exec i s = vecShiftImm s h ty vd va imm F) :
    exec i s = .next (lanesWritten s x h fun g l => intWrites ty vd.toNat l
      (F ty.width (laneBits g ty va.toNat l) (shiftCount ty.width (lowBits ty.width (imm.signExtend 32).toNat)))) :=
  vecBitsImm_ready (F := fun a b => F ty.width a (shiftCount ty.width b)) hr hi

end Source
end Lanes

/-- Settles O5: each word is a row of its kind with its own result. -/
theorem vectorIntegerWordsComplete : Obligations.VectorIntegerWordsComplete := by
  unfold Obligations.VectorIntegerWordsComplete
  intro s x h ty vd va vb vc sat imm
  refine ⟨fun hr => ?_, fun hr => ?_, fun hr => ?_⟩
  · exact ⟨vecArith_ready hr rfl, vecArith_ready hr rfl, vecArith_ready hr rfl,
      vecArith_ready (F := fun a b => a * b / (2 ^ ty.width : Nat)) hr rfl, vecArith_ready hr rfl,
      vecArith_ready hr rfl, vecBits_ready hr rfl, vecBits_ready hr rfl, vecBits_ready hr rfl,
      vecBits_ready (F := fun a b => a - Nat.land a b) hr rfl, vecShift_ready hr rfl,
      vecShift_ready (F := fun _ a c => shrN a c) hr rfl, vecShift_ready hr rfl⟩
  · exact ⟨vecOp_ready hr rfl fun _ _ => rfl, vecOp_ready hr rfl fun _ _ => rfl, vecBit1_ready (F := fun a => 2 ^ ty.width - 1 - a) hr rfl,
      vecBit1_ready hr rfl, vecCnt_ready hr rfl, vecCnt_ready hr rfl, vecArithImm_ready hr rfl, vecArithImm_ready hr rfl, vecArithImm_ready hr rfl,
      vecArithImm_ready hr rfl, vecArithImm_ready hr rfl, vecBitsImm_ready hr rfl, vecBitsImm_ready hr rfl, vecBitsImm_ready hr rfl,
      vecShiftImm_ready hr rfl, vecShiftImm_ready (F := fun _ a c => shrN a c) hr rfl, vecShiftImm_ready hr rfl⟩
  · exact vecOp_ready hr rfl fun _ _ => rfl

end Sys2Proof.Machine
end

section
/-! System registers (O16, O17): who reaches which register, and what `mfs` and `mts` read and write. -/
namespace Sys2Proof.Machine

/-! ### `mfs` and `mts` (R96, R115, R116) -/

/-- Only FPFL waits, and for floating instructions only (R96). -/
theorem awaitsFloats_false {p : Path} {reg : BitVec 12} (h : reg ≠ 0x18 ∨ ∀ w ∈ p.wins, w.fp = false) : awaitsFloats p reg.toNat = false := by
  rw [awaitsFloats, Bool.and_eq_false_iff]
  refine h.imp (fun hn => beq_false_of_ne fun he => hn (BitVec.eq_of_toNat_eq he)) fun hw => ?_
  exact List.any_eq_false.mpr fun w hm => by simp [hw w hm]

theorem awaitsFloats_true {p : Path} {reg : BitVec 12} (h : reg = 0x18 ∧ ∃ w ∈ p.wins, w.fp = true) : awaitsFloats p reg.toNat = true := by
  obtain ⟨rfl, hw⟩ := h
  rw [awaitsFloats, List.any_eq_true.mpr hw]
  rfl

/-- A word that reaches a system register acts at once, or waits at its place. -/
theorem exec_sysWord {i : Instr} {s : State} {x : Ex} {reg : BitVec 12} {write : Bool} {u : Use} {act : Ex → State}
    (hi : exec i s = issue s (sysRule (curUser s) reg.toNat write) u none fun x =>
      if awaitsFloats x.p reg.toNat then .error (.hold s) else .ok (act x))
    (hr : Ready s x (sysRule x.user reg.toNat write) u none) :
    (reg ≠ 0x18 ∨ (∀ w ∈ x.p.wins, w.fp = false) → exec i s = .next (act x)) ∧
    (reg = 0x18 ∧ (∃ w ∈ x.p.wins, w.fp = true) → exec i s = .next s) := by
  rw [exec_ready _ (curUser_ready hr ▸ hi) hr]
  refine ⟨fun h => ?_, fun h => ?_⟩
  · rw [if_neg (Bool.eq_false_iff.mp (awaitsFloats_false h)), bodyEnd_ok]
  · rw [if_pos (awaitsFloats_true h), bodyEnd_hold]

/-- Settles O16: both words are one shape, with the read or the write as their act. -/
theorem systemRegisterWordsComplete : Obligations.SystemRegisterWordsComplete := by
  unfold Obligations.SystemRegisterWordsComplete
  exact fun s x sd sa reg => ⟨exec_sysWord (act := fun x => advance (setS s x sd (sysRead s x reg.toNat)) x) rfl,
    exec_sysWord (act := fun x => advance (sysWrite s x reg.toNat (rdS x.p sa)) x) rfl⟩

/-! ### Who reaches a register (R115, R117) -/

/-- The access that a row gives in a mode. -/
def SysRow.acc (r : SysRow) (user : Bool) : SysAcc := if user then r.user else r.hand

/-- Whether a row gives an access in a mode: none gives no access, read-only no write. -/
def SysRow.opens (r : SysRow) (user write : Bool) : Bool := r.acc user != .none && !(write && r.acc user == .ro)

/-- Whether a row lists an executor. -/
def SysRow.lists (r : SysRow) : Issuer → Bool
  | .grp _ _ => r.g
  | .qthr _ _ => r.q
  | .copyc _ _ => r.c

/-- An executor reaches a register that has a row which lists it and gives the access (R115). -/
theorem sysRule_open (who : Issuer) (user : Bool) (n : Nat) (w : Bool) :
    ((sysRule user n w).admits who && !(sysRule user n w).priv && !(sysRule user n w).sys) =
      ((sysRow n).any fun r => r.lists who && r.opens user w) := by
  cases hn : sysRow n with
  | none => cases who <;> simp [sysRule, hn, Rule.admits]
  | some r =>
    cases who <;> simp [sysRule, hn, Rule.admits, SysRow.lists, SysRow.opens, SysRow.acc, bne, Bool.and_comm, Bool.and_left_comm]

/-- R117's table, row by row. -/
theorem sysRow_any (n : Nat) (P : SysRow → Bool) : (sysRow n).any P = true ↔
    ((n = 0 ∨ n = 0x18 ∨ n = 0x19 ∨ n = 0x24) ∧ P ⟨true, false, false, .rw, .rw⟩ = true) ∨
    ((1 ≤ n ∧ n ≤ 0xA) ∧ P ⟨true, false, false, .ro, .ro⟩ = true) ∨
    (((0xB ≤ n ∧ n ≤ 0xE) ∨ n = 0x10 ∨ n = 0x11 ∨ n = 0x30 ∨ n = 0x31) ∧ P ⟨true, true, true, .ro, .ro⟩ = true) ∨
    ((0x20 ≤ n ∧ n ≤ 0x23) ∧ P ⟨true, false, false, .ro, .rw⟩ = true) ∨
    (n = 0x406 ∧ P ⟨true, false, false, .none, .ro⟩ = true) ∨
    ((0x400 ≤ n ∧ n ≤ 0x408 ∧ n ≠ 0x406) ∧ P ⟨true, false, false, .none, .rw⟩ = true) ∨
    (n = 0x800 ∧ P ⟨false, true, false, .ro, .rw⟩ = true) ∨
    ((n = 0x801 ∨ n = 0x802) ∧ P ⟨false, true, false, .ro, .ro⟩ = true) ∨
    (n = 0xC00 ∧ P ⟨false, false, true, .ro, .ro⟩ = true) := by
  unfold sysRow
  split_ifs <;> grind

/-- The handler registers give no access at user level (R117). -/
theorem sysRow_trap {n : Nat} (h : 0x400 ≤ n ∧ n ≤ 0x408) : sysRow n =
    some ⟨true, false, false, .none, if n = 0x406 then .ro else .rw⟩ := by
  rw [sysRow, if_neg (by omega), if_neg (by omega), if_neg (by omega), if_neg (by omega)]
  by_cases hn : n = 0x406
  · rw [if_pos hn, if_pos hn]
  · rw [if_neg hn, if_pos h, if_neg hn]

theorem sysRule_trap_priv {n : Nat} (h : 0x400 ≤ n ∧ n ≤ 0x408) (w : Bool) : (sysRule true n w).priv = true := by
  simp only [sysRule, sysRow_trap h]
  rfl

section Reach
variable (n gid slot d t k : Nat)

/-- What a group reads at user level it reads in handler mode too. -/
theorem group_reads (user : Bool) :
    n ≤ 0x0E ∨ n = 0x10 ∨ n = 0x11 ∨ n = 0x18 ∨ n = 0x19 ∨ (0x20 ≤ n ∧ n ≤ 0x24) ∨ n = 0x30 ∨ n = 0x31 →
    ((sysRow n).any fun r => r.lists (.grp gid slot) && r.opens user false) = true := by
  rw [sysRow_any]
  cases user <;> simp [SysRow.lists, SysRow.opens, SysRow.acc] <;> omega

theorem group_writes_user :
    n = 0 ∨ n = 0x18 ∨ n = 0x19 ∨ n = 0x24 ↔ ((sysRow n).any fun r => r.lists (.grp gid slot) && r.opens true true) = true := by
  simp [sysRow_any, SysRow.lists, SysRow.opens, SysRow.acc]

/-- Of the handler registers only HLEVEL is not written (R117). -/
theorem group_reaches_trap (h : 0x400 ≤ n ∧ n ≤ 0x408) :
    ((sysRow n).any fun r => r.lists (.grp gid slot) && r.opens false false) = true ∧
    (((sysRow n).any fun r => r.lists (.grp gid slot) && r.opens false true) = true ↔ n ≠ 0x406) := by
  rw [sysRow_trap h]
  by_cases hn : n = 0x406 <;> simp [hn, SysRow.lists, SysRow.opens, SysRow.acc]

/-- The matrix row progress is written in handler mode only. -/
theorem group_writes_mrp (h : 0x20 ≤ n ∧ n ≤ 0x23) :
    ((sysRow n).any fun r => r.lists (.grp gid slot) && r.opens true true) = false ∧
    ((sysRow n).any fun r => r.lists (.grp gid slot) && r.opens false true) = true := by
  rw [← Bool.not_eq_true, ← group_writes_user]
  simp [sysRow_any, SysRow.lists, SysRow.opens, SysRow.acc]
  omega

theorem qthread_reads : ((sysRow n).any fun r => r.lists (.qthr d t) && r.opens true false) = true ↔
    (0xB ≤ n ∧ n ≤ 0xE) ∨ n = 0x10 ∨ n = 0x11 ∨ n = 0x30 ∨ n = 0x31 ∨ (0x800 ≤ n ∧ n ≤ 0x802) := by
  simp [sysRow_any, SysRow.lists, SysRow.opens, SysRow.acc]
  omega

theorem copy_reads : ((sysRow n).any fun r => r.lists (.copyc d k) && r.opens true false) = true ↔
    (0xB ≤ n ∧ n ≤ 0xE) ∨ n = 0x10 ∨ n = 0x11 ∨ n = 0x30 ∨ n = 0x31 ∨ n = 0xC00 := by
  simp [sysRow_any, SysRow.lists, SysRow.opens, SysRow.acc]
  omega

/-- QBIND is the one register that a Q program writes, at system level; a copy program writes none. -/
theorem programs_write : (((sysRow n).any fun r => r.lists (.qthr d t) && r.opens false true) = true ↔ n = 0x800) ∧
    ((sysRow n).any fun r => r.lists (.copyc d k) && r.opens false true) = false := by
  rw [← Bool.not_eq_true]
  simp [sysRow_any, SysRow.lists, SysRow.opens, SysRow.acc]

end Reach

/-! ### What `mts` writes (R94, R117, R118, R231, R246) -/

/-- The bits of a mask that are written as ones are cleared. -/
theorem getLsbD_cleared (a v m : W64) (k : Nat) : (a &&& ~~~ (v &&& m)).getLsbD k = (a.getLsbD k && !(m.getLsbD k && v.getLsbD k)) := by
  by_cases hk : k < 64
  · simp [hk, Bool.and_comm]
  · simp [BitVec.getLsbD_of_ge a k (Nat.le_of_not_lt hk)]

theorem getLsbD_ones {n : Nat} (hn : n ≤ 64) (k : Nat) : (BitVec.ofNat 64 (2 ^ n - 1)).getLsbD k = decide (k < n) := by
  rw [BitVec.getLsbD_ofNat, Nat.testBit_two_pow_sub_one, ← Bool.decide_and]
  exact decide_eq_decide.mpr (by omega)

/-- The write-one-to-clear bits of BARST (R231). -/
theorem getLsbD_barstMask (k : Nat) : (0xFF0000#64).getLsbD k = decide (16 ≤ k ∧ k < 24) := by
  rw [show 0xFF0000#64 = BitVec.ofNat 64 (2 ^ 8 - 1) <<< 16 by decide, BitVec.getLsbD_shiftLeft, getLsbD_ones (by decide), Bool.eq_iff_iff]
  simp
  omega

section Write
variable (g : Group) (v : W64) (k : Nat)

theorem groupWrite_gstat : (groupWrite g 0x00 v).gstat.getLsbD k = (g.gstat.getLsbD k && !(decide (k < 4) && v.getLsbD k)) := by
  rw [← getLsbD_ones (n := 4) (by decide)]
  exact getLsbD_cleared ..

theorem groupWrite_fpfl : (groupWrite g 0x18 v).fpfl.getLsbD k = (decide (k < 5) && v.getLsbD k) := by
  rw [← getLsbD_ones (n := 5) (by decide), Bool.and_comm]
  exact BitVec.getLsbD_and

theorem groupWrite_barst : (groupWrite g 0x19 v).barst.getLsbD k = (g.barst.getLsbD k && !(decide (16 ≤ k ∧ k < 24) && v.getLsbD k)) := by
  rw [← getLsbD_barstMask]
  exact getLsbD_cleared ..

theorem groupWrite_mstat : (groupWrite g 0x24 v).mstat.getLsbD k = (g.mstat.getLsbD k && !(decide (k < 5) && v.getLsbD k)) := by
  rw [← getLsbD_ones (n := 5) (by decide)]
  exact getLsbD_cleared ..

end Write

/-! ### What `mfs` reads (R117, R119, R120) -/

section Read
variable {s : State} {x : Ex} {g : Group}

/-- The registers that every executor has are not the group's. -/
theorem sysRead_group (hx : x.g = some g) {n : Nat} (hn : n ∉ [0xB, 0xC, 0xD, 0xE, 0x10, 0x11, 0x30, 0x31]) :
    sysRead s x n = groupReg s x g n := by
  simp only [List.mem_cons, List.not_mem_nil, or_false, not_or] at hn
  obtain ⟨h1, h2, h3, h4, h5, h6, h7, h8⟩ := hn
  rw [sysRead, if_neg h1, if_neg h2, if_neg h3, if_neg h4, if_neg h5, if_neg h6, if_neg h7, if_neg h8, hx]

/-- The registers of the team: its coordinates, and its counts of cores, pool pages and groups. -/
theorem sysRead_team {t : Team} (hx : x.g = some g) (ht : team? s g.team = some t) :
    sysRead s x 0x03 = t.x.setWidth 64 ∧ sysRead s x 0x04 = t.y.setWidth 64 ∧ sysRead s x 0x05 = t.z.setWidth 64 ∧
    sysRead s x 0x06 = BitVec.ofNat 64 (t.cores.length * 2 ^ 32 + t.pool * 2 ^ 16 + t.groups) := by
  refine ⟨?_, ?_, ?_, ?_⟩ <;> rw [sysRead_group hx (by decide)] <;> simp [groupReg, ht]

theorem sysRead_role (hx : x.g = some g) {r : Role} (hr : g.role = some r) : sysRead s x 0x08 = BitVec.ofNat 64 r.num := by
  rw [sysRead_group hx (by decide)]
  simp [groupReg, hr]

theorem sysRead_mrp (hx : x.g = some g) {k : Nat} (hk : k < 4) : sysRead s x (0x20 + k) = sget 0 g.mrp k := by
  rw [sysRead_group hx (by simp only [List.mem_cons, List.not_mem_nil, or_false, not_or]; omega)]
  interval_cases k <;> rfl

theorem sysRead_die {d : Die} (hx : x.g = some g) (hd : die? s x.die = some d) :
    sysRead s x 0x407 = sget 0 d.ptbase x.pasid ∧ sysRead s x 0x408 = d.poolbase := by
  rw [sysRead_group hx (by decide), sysRead_group hx (by decide)]
  simp [groupReg, dieReg, hd]

/-- CYC of a group counts the clocked cycles of its die (R120). -/
theorem sysRead_cyc {d : Die} (hx : x.g = some g) (hd : die? s g.die = some d) : sysRead s x 0x0E = BitVec.ofNat 64 (d.cyc / 16) := by
  simp [sysRead, hx, dieReg, hd]

theorem sysRead_context {c : Context} (hc : ctx? s x.pasid = some c) :
    sysRead s x 0x10 = c.feat0 ∧ sysRead s x 0x11 = c.feat1 ∧ sysRead s x 0x30 = c.retcnt ∧ sysRead s x 0x31 = c.retlast := by
  simp [sysRead, ctxReg, hc]

end Read

/-- Settles O17: R117's table decides who reaches a register, and each register has its own read and write. -/
theorem systemRegisterAccess : Obligations.SystemRegisterAccess := by
  unfold Obligations.SystemRegisterAccess
  refine ⟨?_, fun g v => ?_, fun s x g t hx ht => ?_⟩
  · intro reaches n gid slot d t k
    simp only [reaches, sysRule_open]
    exact ⟨fun h => ⟨group_reads n gid slot true h, group_reads n gid slot false h⟩, group_writes_user n gid slot,
      fun h => ⟨sysRule_trap_priv h false, sysRule_trap_priv h true, group_reaches_trap n gid slot h⟩, group_writes_mrp n gid slot,
      qthread_reads n d t, copy_reads n d k, programs_write n d t k⟩
  · exact ⟨groupWrite_gstat g v, groupWrite_fpfl g v, groupWrite_barst g v, groupWrite_mstat g v, rfl, rfl, rfl, rfl⟩
  · obtain ⟨hX, hY, hZ, hCnt⟩ := sysRead_team hx ht
    exact ⟨sysRead_group hx (by decide), sysRead_group hx (by decide), hX, hY, hZ, hCnt, sysRead_group hx (by decide), fun r => sysRead_role hx,
      rfl, rfl, rfl, sysRead_group hx (by decide), sysRead_group hx (by decide), fun k => sysRead_mrp hx, sysRead_group hx (by decide),
      sysRead_group hx (by decide), sysRead_group hx (by decide), sysRead_group hx (by decide), sysRead_group hx (by decide), sysRead_group hx (by decide),
      sysRead_group hx (by decide), fun d => sysRead_die hx, fun d => sysRead_cyc hx, fun c => sysRead_context⟩

end Sys2Proof.Machine
end

section
/-! Reductions and scans over lanes (O22). -/
namespace Sys2Proof.Machine

/-- A combination takes one lane more at its end (R152: ascending lane order). -/
theorem scanOver_concat (g : Group) (op : ScanOp) (ty : IntTy) (vs : VReg) (l : List Nat) (j : Nat) :
    scanOver g op ty vs (l ++ [j]) = scanFn op ty (scanOver g op ty vs l) (rdV g vs.toNat j) := List.foldl_concat ..

theorem scanOver_add (g : Group) (ty : IntTy) (vs : VReg) (l : List Nat) :
    scanOver g .add ty vs l = BitVec.ofNat 32 ((l.map fun j => (rdV g vs.toNat j).toNat).sum) := by
  induction l using List.reverseRecOn with
  | nil => rfl
  | append_singleton l j ih => simp [scanOver_concat, scanFn, ih, BitVec.ofNat_add]

section Bits
variable (g : Group) (ty : IntTy) (vs : VReg) (l : List Nat) (k : Nat)

theorem getLsbD_scanOver_and (hk : k < 32) :
    (scanOver g .and ty vs l).getLsbD k = true ↔ ∀ j ∈ l, (rdV g vs.toNat j).getLsbD k = true := by
  induction l using List.reverseRecOn with
  | nil =>
    have hunit : (BitVec.allOnes 32).getLsbD k = true := by rw [BitVec.getLsbD_allOnes, decide_eq_true hk]
    exact iff_of_true hunit (by simp)
  | append_singleton l j ih => simp [scanOver_concat, scanFn, ih, or_imp, forall_and]

theorem getLsbD_scanOver_or :
    (scanOver g .or ty vs l).getLsbD k = true ↔ ∃ j ∈ l, (rdV g vs.toNat j).getLsbD k = true := by
  induction l using List.reverseRecOn with
  | nil => simp [scanOver, scanUnit]
  | append_singleton l j ih => simp [scanOver_concat, scanFn, ih, or_and_right, exists_or]

theorem getLsbD_scanOver_xor :
    (scanOver g .xor ty vs l).getLsbD k = true ↔ (l.filter fun j => (rdV g vs.toNat j).getLsbD k).length % 2 = 1 := by
  induction l using List.reverseRecOn with
  | nil => simp [scanOver, scanUnit]
  | append_singleton l j ih =>
    rw [scanOver_concat, scanFn, BitVec.getLsbD_xor, bne_iff_ne, ne_eq, Bool.eq_iff_iff, ih, List.filter_append, List.length_append]
    by_cases hj : (rdV g vs.toNat j).getLsbD k = true
    · simp [hj]; omega
    · simp [hj]

end Bits

/-! ### The least and the greatest member -/

/-- A register's value in the order of a type (R152). -/
def orderKey (ty : IntTy) (w : W32) : Int := if ty.isI then w.toInt else w.toNat

theorem orderKey_injective (ty : IntTy) : Function.Injective (orderKey ty) := by
  intro a b hab
  unfold orderKey at hab
  split at hab
  · exact BitVec.eq_of_toInt_eq hab
  · exact BitVec.eq_of_toNat_eq (by exact_mod_cast hab)

theorem scanFn_min (ty : IntTy) (a b : W32) : scanFn .min ty a b = if orderKey ty a ≤ orderKey ty b then a else b := by
  simp only [scanFn, orderKey]
  split <;> simp

theorem scanFn_max (ty : IntTy) (a b : W32) : scanFn .max ty a b = if orderKey ty b ≤ orderKey ty a then a else b := by
  simp only [scanFn, orderKey]
  split <;> simp

/-- The identities of R152 are the ends of the type's range. -/
theorem orderKey_units {ty : IntTy} (hw : ty.width = 32) (w : W32) :
    orderKey ty (scanUnit .max ty) ≤ orderKey ty w ∧ orderKey ty w ≤ orderKey ty (scanUnit .min ty) := by
  simp only [orderKey, scanUnit, tyMin, tyMax, hw]
  cases ty.isI
  · have hn := w.isLt
    exact ⟨Int.natCast_nonneg _, Int.ofNat_le.mpr (Nat.le_sub_one_of_lt hn)⟩
  · exact ⟨w.le_toInt, Int.le_sub_one_of_lt w.toInt_lt⟩

/-! An operation that keeps the operand of the smaller key, and starts from the greatest key there is, gives the member of the
smallest key. -/

section Select
variable {g : Group} {op : ScanOp} {ty : IntTy} {vs : VReg} {key : W32 → Int}
  (hsel : ∀ a b, scanFn op ty a b = if key a ≤ key b then a else b)
include hsel

theorem scanOver_key_le (l : List Nat) : ∀ j ∈ l, key (scanOver g op ty vs l) ≤ key (rdV g vs.toNat j) := by
  induction l using List.reverseRecOn with
  | nil => simp
  | append_singleton l i ih =>
    intro j hj
    rw [scanOver_concat, hsel]
    rcases List.mem_append.mp hj with hj | hj
    · have := ih j hj
      split <;> omega
    · obtain rfl := List.mem_singleton.mp hj
      split <;> omega

theorem scanOver_eq_member (hinj : Function.Injective key) (htop : ∀ w, key w ≤ key (scanUnit op ty)) {l : List Nat} (hl : l ≠ []) :
    ∃ j ∈ l, scanOver g op ty vs l = rdV g vs.toNat j := by
  induction l using List.reverseRecOn with
  | nil => exact absurd rfl hl
  | append_singleton l i ih =>
    rw [scanOver_concat, hsel]
    split
    next hle =>
      rcases eq_or_ne l [] with rfl | hl'
      · exact ⟨i, by simp, hinj (le_antisymm hle (htop _))⟩
      · obtain ⟨j, hj, he⟩ := ih hl'
        exact ⟨j, List.mem_append_left _ hj, he⟩
    next => exact ⟨i, by simp, rfl⟩

end Select

/-- Settles O22: each operation by induction on the lanes, the last one first; the greatest member is the least under the negated order. -/
theorem scanRule : Obligations.ScanRule := by
  unfold Obligations.ScanRule
  intro g ty vs l hw v num
  have hmax : ∀ a b, scanFn .max ty a b = if -orderKey ty a ≤ -orderKey ty b then a else b := fun a b => by
    simp only [scanFn_max, neg_le_neg_iff]
  refine ⟨scanOver_add g ty vs l, fun k hk => ⟨getLsbD_scanOver_and g ty vs l k hk, getLsbD_scanOver_or g ty vs l k,
    getLsbD_scanOver_xor g ty vs l k⟩, fun j hj => ⟨scanOver_key_le (scanFn_min ty) l j hj, ?_⟩, fun hl => ⟨?_, ?_⟩, ?_⟩
  · exact neg_le_neg_iff.mp (scanOver_key_le (key := fun w => -orderKey ty w) hmax l j hj)
  · exact scanOver_eq_member (scanFn_min ty) (orderKey_injective ty) (fun w => (orderKey_units hw w).2) hl
  · exact scanOver_eq_member (key := fun w => -orderKey ty w) hmax (neg_injective.comp (orderKey_injective ty))
      (fun w => neg_le_neg (orderKey_units hw w).1) hl
  · rintro rfl
    exact ⟨rfl, rfl⟩

end Sys2Proof.Machine
end

section
/-! Moves, bit fields and masks (O6), and floating words that complete at issue (O8). -/
namespace Sys2Proof.Machine

section Bodies
variable {i : Instr} {s : State} {x : Ex} {h : Head} {u : Use}

/-- A ready word of integer results writes what it lists for each active lane (R57, R122). -/
theorem vecBody_ready {F : Group → Path → Nat → List (Nat × W32)} {f : Group → Nat → List (Nat × W32)} (hr : Ready s x vecRule u (some h))
    (hi : exec i s = issue s vecRule u (some h) (vecBody s h F)) (hf : ∀ g l, F g x.p l = f g l) : exec i s = .next (lanesWritten s x h f) := by
  obtain rfl : (fun g => F g x.p) = f := funext fun g => funext (hf g)
  exact hi.trans (issue_lanes hr rfl rfl _)

/-- A ready word of floating results gathers the flags of the active lanes too (R95). -/
theorem fpBody_ready {F f : Group → Nat → List (Nat × W32) × Flags} (hr : Ready s x vecRule u (some h))
    (hi : exec i s = issue s vecRule u (some h) (fpBody s h F)) (hf : ∀ g l, F g l = f g l) : exec i s = .next (floatsWritten s x h f) := by
  obtain rfl : F = f := funext fun g => funext (hf g)
  exact hi.trans (issue_lanes hr rfl rfl _)

/-- A ready word that writes a mask register does so in the active lanes (R124). The mask may speak of the active lanes itself: they are
those of the group that is written. -/
theorem maskBody_ready {md : MReg} {F : Group → Path → Mask} {f : Group → Mask} (hr : Ready s x vecRule u (some h))
    (hi : exec i s = issue s vecRule u (some h) (maskBody s h md F)) (hf : ∀ g, F g x.p = f g) : exec i s = .next (maskWritten s x h md f) := by
  obtain rfl : (fun g => F g x.p) = f := funext hf
  exact hi.trans (issue_lanes hr rfl rfl _)

/-- A count or a transfer of a mask reads its active lanes, of which there may be none (R134). -/
theorem maskScalar_ready {g : Group} {sd : SReg} {ma : MReg} {F : Mask → W64} (hg : x.g = some g)
    (hr : Ready s x vecRule { sd := [sd.toNat] } (some h)) (hi : exec i s = maskScalar s h sd ma F) :
    exec i s = .next (advance (setS s x sd (F (rdM g x.p ma &&& activeOf g x.p h))) x) := by
  rw [hi, maskScalar, issue_ready hr, withGroup_some hg, bodyEnd_ok]

end Bodies

/-- The lanes kept after a result was computed for each. -/
theorem filter_map_pair {β : Type} (l : List Nat) (f : Nat → β) (P : β → Bool) :
    (((l.map fun i => (i, f i)).filter fun e => P e.2).map fun e => e.1) = l.filter fun i => P (f i) := by
  simp [List.filter_map, Function.comp_def]

/-- A ready carry word writes its sum or difference, and the carries of the active lanes in the mask register (R129). -/
theorem carryOp_ready {i : Instr} {s : State} {x : Ex} {h : Head} {vd va vb : VReg} {k : MReg} {F : Nat → Nat → Nat → Nat × Bool}
    {v : Group → Nat → Nat} {out : Group → Nat → Bool} (hr : Ready s x vecRule { vs := nums [va, vb], vd := [vd.toNat] } (some h))
    (hi : exec i s = carryOp s h vd va vb k F)
    (hF : ∀ g l, F (rdV g va.toNat l).toNat (rdV g vb.toNat l).toNat ((rdM g x.p k).getLsbD l).toNat = (v g l, out g l)) :
    exec i s = .next (advance (onGroup s x fun g =>
      let act := x.active (some h)
      let g' := mapLanes g act fun l => [(vd.toNat * 64 + l, BitVec.ofNat 32 (v g l))]
      if act = 0 then g' else wrM g' k.toNat act (maskOf ((lanesOf act).filter (out g)))) x) := by
  rw [hi, carryOp, issue_lanes hr rfl rfl]
  simp only [hF, filter_map_pair, mapLanes, List.map_map, Function.comp_def, ← List.map_eq_flatMap]

/-- Settles O6: each word is one of lane results, of a mask, of a mask's count or of carries, with its own result. -/
theorem moveFieldAndMaskWordsComplete : Obligations.MoveFieldAndMaskWordsComplete := by
  unfold Obligations.MoveFieldAndMaskWordsComplete
  refine ⟨fun s x h ty cnd md ma mb va vb sd ss => ⟨fun hr => ?_, fun hr => ?_, fun hr => ?_, fun g hg hr => ?_⟩,
    fun s x h ty vd va vb vc k ss hi xacc imm => ⟨fun hr => ?_, fun hr => ?_, fun hr => ?_, fun hr => ?_, fun hr => ?_, fun hr => ?_,
      fun hr => ?_, fun hr => ?_⟩⟩
  · exact maskBody_ready hr rfl fun _ => rfl
  · refine ⟨?_, ?_, ?_, ?_, ?_, ?_⟩ <;> exact maskBody_ready hr rfl fun _ => rfl
  · exact maskBody_ready hr rfl fun _ => rfl
  · exact ⟨maskScalar_ready (F := fun m => BitVec.ofNat 64 (popcount m)) hg hr rfl,
      maskScalar_ready (F := fun m => BitVec.ofNat 64 ((lanesOf m).head?.getD 64)) hg hr rfl,
      maskScalar_ready (F := fun m => BitVec.ofNat 64 ((lanesOf m).getLast?.getD 64)) hg hr rfl, maskScalar_ready (F := id) hg hr rfl⟩
  · exact vecOp_ready hr rfl fun _ _ => rfl
  · exact vecOp_ready hr rfl fun _ _ => rfl
  · cases xacc <;> exact vecOp_ready hr rfl fun _ _ => rfl
  · exact vecBody_ready hr rfl fun _ _ => rfl
  · exact vecBody_ready hr rfl fun _ _ => rfl
  · exact vecBody_ready hr rfl fun _ _ => rfl
  · exact ⟨vecOp_ready (vs := []) hr rfl fun _ _ => rfl, vecOp_ready (vs := []) hr rfl fun _ _ => rfl⟩
  · exact ⟨carryOp_ready (F := fun a b c => (a + b + c, decide (2 ^ 32 ≤ a + b + c))) hr rfl fun _ _ => rfl,
      carryOp_ready (F := fun a b c => (a + 2 ^ 33 - b - c, decide (a < b + c))) hr rfl fun _ _ => by simp only [Nat.sub_sub]⟩

section Rows
variable {i : Instr} {s : State} {x : Ex} {h : Head} {ty : FpTy} {vd va vb : VReg}

/-- A floating row of one source (R135). -/
theorem fpOp1_ready {F : Nat → Nat × Flags} (hr : Ready s x vecRule { vs := fpRegs ty va, vd := fpRegs ty vd } (some h))
    (hi : exec i s = fpOp1 s h ty vd va F) :
    exec i s = .next (floatsWritten s x h fun g l => fpRes ty vd l (F (laneFp g ty va.toNat l))) :=
  fpBody_ready hr hi fun _ _ => rfl

/-- A floating row of two sources (R135). -/
theorem fpOp2_ready {F : Nat → Nat → Nat × Flags}
    (hr : Ready s x vecRule { vs := fpRegs ty va ++ fpRegs ty vb, vd := fpRegs ty vd } (some h)) (hi : exec i s = fpOp2 s h ty vd va vb F) :
    exec i s = .next (floatsWritten s x h fun g l => fpRes ty vd l (F (laneFp g ty va.toNat l) (laneFp g ty vb.toNat l))) :=
  fpBody_ready hr hi fun _ _ => rfl

end Rows

/-- A ready comparison writes its mask register and gathers its flags, in the active lanes (R140). -/
theorem vfcmp_ready {s : State} {x : Ex} {h : Head} {ty : FpTy} {cnd : FCnd} {md : MReg} {va vb : VReg}
    (hr : Ready s x vecRule { vs := fpRegs ty va ++ fpRegs ty vb } (some h)) :
    exec (.vfcmp h ty cnd md va vb) s = .next (advance (onGroup s x fun g =>
      let act := x.active (some h)
      let r := fun i => fpCmp ty cnd (laneFp g ty va.toNat i) (laneFp g ty vb.toNat i)
      if act = 0 then g
      else { wrM g md.toNat act (maskOf ((lanesOf act).filter fun i => (r i).1)) with
             fpfl := g.fpfl ||| flagWord (gatherFlags ((lanesOf act).map fun i => (r i).2)) }) x) := by
  show execVfcmp h ty cnd md va vb s = _
  rw [execVfcmp, issue_lanes hr rfl rfl]
  simp only [filter_map_pair, List.map_map, Function.comp_def]

/-- Settles O8: each word is one of floating or of integer results, with its own result. -/
theorem floatWordsComplete : Obligations.FloatWordsComplete := by
  unfold Obligations.FloatWordsComplete
  refine ⟨fun s x h ty vd va vb vc rm => ⟨fun hr => ?_, fun hr => ?_, fun hr => ?_, fun hr => ?_, fun hr => ?_⟩,
    fun s x h ty src ity cnd md vd va vb rm ovf => ⟨vfcmp_ready, fun hr => ?_, fun hr => ?_, fun hr => ?_, fun hr => ?_, fun hr => ?_, fun hr => ?_⟩⟩
  · exact ⟨fpOp2_ready (F := fpAdd ty rm) hr rfl, fpOp2_ready (F := fpSub ty rm) hr rfl, fpOp2_ready (F := fpMul ty rm) hr rfl,
      fpOp2_ready hr rfl, fpOp2_ready hr rfl, fpOp2_ready (F := fun a b => fpSetSign ty a (signOf ty b) (sigFlag (readFp ty b))) hr rfl⟩
  · exact ⟨fpOp1_ready (F := fun a => fpSetSign ty a false 0) hr rfl, fpOp1_ready (F := fun a => fpSetSign ty a (!signOf ty a) 0) hr rfl,
      fpOp1_ready hr rfl, fpOp1_ready hr rfl⟩
  · exact fpBody_ready hr rfl fun _ _ => rfl
  · exact fpBody_ready hr rfl fun _ _ => rfl
  · exact vecBody_ready hr rfl fun _ _ => rfl
  · exact fpBody_ready hr rfl fun _ _ => by cases src <;> rfl
  · exact fpBody_ready hr rfl fun _ _ => rfl
  · exact fpBody_ready hr rfl fun _ _ => rfl
  · exact fpBody_ready hr rfl fun _ _ => rfl
  · exact vecBody_ready hr rfl fun _ _ => rfl
  · exact vecBody_ready hr rfl fun _ _ => rfl

end Sys2Proof.Machine
end

section

/-!
# The memories stay canonical (SPEC log entry 4)

A step is a composition of the model's operations on the state. For each of them, in the order of the model, one lemma says that a
canonical state stays canonical: most leave the three memories as they are (`Canonical.congr`) or go through an operation whose lemma
stands before it; those that write go through the laws of the stores. A function that answers `.ok` or `.error (.hold t)` has a lemma
for each (`_hold`, and `_stop` for a stopped copy or stream). `canonical_exec` and `canonical_step` put them together.
-/

namespace Sys2Proof.Machine

theorem Canonical.iff (s : State) :
    Canonical s ↔ (Memory.wf s.mem = true ∧ Memory.wf s.hostMem = true ∧ Memory.wf s.guestMem = true) :=
  ⟨fun h => ⟨h.1,h.2,h.3⟩, fun h => ⟨h.1,h.2.1,h.2.2⟩⟩

/-- The state that a stopped matrix operation leaves. -/
def MatStop.state : MatStop → State
  | .wait s => s
  | .fail s _ => s

/-- The state that a stopped copy leaves. -/
def CopyStop.state : CopyStop → State
  | .trap s _ => s
  | .ats s _ _ => s
  | .silent s => s

theorem copyStop_state (s : State) (va : W64) (w : Bool) (f : XFail) : (copyStop s va w f).state = s := by
  cases f <;> rfl

/-! #### Reading and writing the parts of the state -/

theorem canonical_fresh {s} (h : Canonical s) : Canonical (fresh s).2 := h.congr rfl rfl rfl
theorem canonical_draw {s} (h : Canonical s) : Canonical (draw s).2 := h.congr rfl rfl rfl
theorem canonical_emit {s o} (h : Canonical s) : Canonical (emit s o) := h.congr rfl rfl rfl

/-! #### Records -/

theorem canonical_modGrp {s gid f} (h : Canonical s) : Canonical (modGrp s gid f) := h.congr rfl rfl rfl
theorem canonical_modTeam {s t f} (h : Canonical s) : Canonical (modTeam s t f) := h.congr rfl rfl rfl
theorem canonical_modLaunch {s l f} (h : Canonical s) : Canonical (modLaunch s l f) := h.congr rfl rfl rfl
theorem canonical_modDie {s d f} (h : Canonical s) : Canonical (modDie s d f) := h.congr rfl rfl rfl
theorem canonical_modCore {s d c f} (h : Canonical s) : Canonical (modCore s d c f) := h.congr rfl rfl rfl
theorem canonical_modCtx {s p f} (h : Canonical s) : Canonical (modCtx s p f) := h.congr rfl rfl rfl
theorem canonical_modQueue {s d q f} (h : Canonical s) : Canonical (modQueue s d q f) := h.congr rfl rfl rfl
theorem canonical_modQt {s d t f} (h : Canonical s) : Canonical (modQt s d t f) := h.congr rfl rfl rfl
theorem canonical_modCc {s d k f} (h : Canonical s) : Canonical (modCc s d k f) := h.congr rfl rfl rfl
theorem canonical_modGuest {s n f} (h : Canonical s) : Canonical (modGuest s n f) := h.congr rfl rfl rfl

/-! #### Paths -/

theorem canonical_modPath {s e pid f} (h : Canonical s) : Canonical (modPath s e pid f) := by
  unfold modPath
  grind [canonical_modGrp, canonical_modQt, canonical_modCc]

/-! #### The stores behind an address -/

theorem canonical_logFlight {s die event src unit auxa auxb} (h : Canonical s) :
    Canonical (logFlight s die event src unit auxa auxb) :=
  canonical_modDie h

/-! #### HBM -/

theorem canonical_taintFab {s a n} (h : Canonical s) : Canonical (taintFab s a n) := by
  grind [taintFab, canonical_taint]
theorem canonical_writeBackHome {s a} (h : Canonical s) : Canonical (writeBackHome s a) := by
  grind [writeBackHome, Canonical.iff, canonical_foldl]

/-! #### Scratchpads and rings -/

theorem canonical_taintScratch {s team core off n} (h : Canonical s) : Canonical (taintScratch s team core off n) := by
  grind [taintScratch, Canonical.iff, canonical_taint]
theorem canonical_writeScratch {s team core off bs} (h : Canonical s) :
    Canonical (writeScratch s team core off bs) := by
  grind [writeScratch, canonical_taintScratch, canonical_modTeam]

/-! #### Registers seen through the aperture -/

theorem canonical_writeReg {s gid reg lane bs} (h : Canonical s) :
    Canonical (writeReg s gid reg lane bs) :=
  canonical_modGrp h

/-! #### Homes -/

theorem canonical_freeBytes {s f bad n} (h : Canonical s) : Canonical (freeBytes s f bad n).2 := canonical_draw h

/-! #### Circuits -/

theorem canonical_sendFar {s die a data} (h : Canonical s) : Canonical (sendFar s die a data) := by
  grind [sendFar, canonical_sendTx]
theorem canonical_ownTx {before w pasid va n s} (h : Canonical s) : Canonical (ownTx before w pasid va n s) := by
  grind [ownTx, Canonical.iff]
theorem canonical_readHome {s p n} (h : Canonical s) : Canonical (readHome s p n).2 := by
  unfold readHome
  grind [canonical_freeBytes, canonical_spoilFailed, canonical_sendTx]

theorem canonical_returnPlace {s p n} (h : Canonical s) : Canonical (returnPlace s p n) := by
  unfold returnPlace
  grind [canonical_returnLines]

/-! #### Cached copies -/

theorem canonical_trimL2 {s die a} (h : Canonical s) : Canonical (trimL2 s die a) := by
  grind [trimL2, canonical_foldl, canonical_flushRemote]
theorem canonical_trimL1 {s die core} (h : Canonical s) : Canonical (trimL1 s die core) := by
  grind [trimL1, Canonical.iff]
theorem canonical_fillL1 {s die core a p} (h : Canonical s) : Canonical (fillL1 s die core a p) := by
  grind [fillL1, Canonical.iff, canonical_spoilFailed, canonical_trimL1]
theorem canonical_dropL1 {s die core a} (h : Canonical s) : Canonical (dropL1 s die core a) := h.congr rfl rfl rfl
theorem canonical_hostFill {s p c} (h : Canonical s) : Canonical (hostFill s p c) := by
  grind [hostFill, Canonical.iff]
theorem canonical_readThrough {s ls p n} (h : Canonical s) : Canonical (readThrough s ls p n).2 := by
  grind [readThrough, canonical_readHome]
theorem canonical_readVia {s die core p n sc ch c} (h : Canonical s) :
    Canonical (readVia s die core p n sc ch c).2 := by
  grind [readVia, Canonical.iff, canonical_readThrough, canonical_fillL2, canonical_readHome, canonical_flushRemote,
    canonical_fillL1, canonical_hostFill]

/-! #### The poison of a whole unit -/

theorem canonical_clearUnit {s die p} (h : Canonical s) : Canonical (clearUnit s die p) := by
  grind [clearUnit, Canonical.iff]
theorem canonical_clearSectors {s die ws} (h : Canonical s) : Canonical (clearSectors s die ws) := h.congr rfl rfl rfl
theorem canonical_clearWhole {s die ws new} (h : Canonical s) : Canonical (clearWhole s die ws new) := by
  grind [clearWhole, canonical_foldl, canonical_clearSectors, canonical_clearUnit, canonical_modTeam]

/-! #### Translation -/

theorem canonical_agentPlace {s die pasid va k q t'} (h : Canonical s) (hr : agentPlace s die pasid va k = .ok (q, t')) :
    Canonical t' := by
  grind [agentPlace, canonical_setAD]

theorem canonical_foldlExcept {α β ε : Type} {f : Except ε (α × State) → β → Except ε (α × State)} {l : List β} {r : Except ε (α × State)} {q t'}
    (hf : ∀ r b, (∀ q t, r = .ok (q, t) → Canonical t) → ∀ q t, f r b = .ok (q, t) → Canonical t)
    (h : ∀ q t, r = .ok (q, t) → Canonical t) (hr : l.foldl f r = .ok (q, t')) : Canonical t' := by
  induction l generalizing r with
  | nil => exact h _ _ hr
  | cons b l ih => exact ih (hf r b h) hr

theorem canonical_agentRead {s die pasid va n k q t'} (h : Canonical s)
    (hr : agentRead s die pasid va n k = .ok (q, t')) :
    Canonical t' := by
  refine canonical_foldlExcept (fun r b hb q t hq => ?_) (fun q t hq => ?_) hr
  · grind [→ canonical_agentPlace, canonical_returnPlace, canonical_readHome, canonical_ownTx]
  · grind

theorem canonical_agentWrite {s die pasid va bs k t'} (h : Canonical s) (hr : agentWrite s die pasid va bs k = .ok t') :
    Canonical t' := by
  simp only [agentWrite] at hr
  split at hr
  · contradiction
  · next l u hu =>
    have hc : Canonical u := canonical_foldlExcept (fun r b hb q t hq => by grind [→ canonical_agentPlace]) (fun q t hq
      => by grind) hu
    cases hr
    exact canonical_foldl _ (fun s b hs => canonical_ownTx (canonical_writeHome (canonical_returnPlace hs) _ _)) _ hc

/-! #### What queues, fault records, interrupts, completions, device registers and Quadrille do -/

theorem canonical_releaseAll {s} (h : Canonical s) : Canonical (releaseAll s) := by
  grind [releaseAll, canonical_foldl, canonical_releasePkg]
theorem canonical_tryWrite {s q va bs scope t'} (h : Canonical s) (hr : tryWrite s q va bs scope = some t') :
    Canonical t' := by
  grind [tryWrite, → canonical_agentWrite]

theorem canonical_countLost {s q hdr t'} (h : Canonical s) (hr : countLost s q hdr = some t') : Canonical t' := by
  grind [countLost, → canonical_tryWrite]
theorem canonical_getD {o : Option State} {s : State} (hs : Canonical s) (ho : ∀ t, o = some t → Canonical t) :
    Canonical (o.getD s) := by
  cases o with
  | none => exact hs
  | some t => exact ho t rfl

theorem canonical_writeRecord {s die qid r} (h : Canonical s) : Canonical (writeRecord s die qid r) := by
  unfold writeRecord
  dsimp only
  repeat' split
  all_goals grind [canonical_getD, canonical_emit, → canonical_agentRead, → canonical_tryWrite, → canonical_countLost,
    canonical_releaseAll]

theorem canonical_haltQueue {s die qid} (h : Canonical s) : Canonical (haltQueue s die qid) := canonical_modQueue h
theorem canonical_tlSignal {s die pasid va v secure t'} (h : Canonical s)
    (hr : tlSignal s die pasid va v secure = .ok t') :
    Canonical t' := by
  unfold tlSignal at hr
  grind [→ canonical_agentPlace, canonical_ownTx, canonical_writeHome, canonical_releaseAll]

theorem canonical_irqQueue {s die qid v} (h : Canonical s) : Canonical (irqQueue s die qid v) := by
  unfold irqQueue
  grind [canonical_getD, canonical_emit, → canonical_tryWrite, canonical_releaseAll]

theorem canonical_mailboxPush {s die v qid t t'} (h : Canonical s) (hr : mailboxPush s die v qid t = some t') :
    Canonical t' := by
  grind [mailboxPush, canonical_emit, canonical_modDie]

theorem canonical_threadEvent {s die qid bit} (h : Canonical s) :
    Canonical (threadEvent s die qid bit) :=
  h.congr rfl rfl rfl

theorem canonical_queueRecord {s die qid cause seq va aux} (h : Canonical s) :
    Canonical (queueRecord s die qid cause seq va aux) :=
  canonical_writeRecord h

/-! #### Packets -/

theorem canonical_finishPacket {s die qid p} (h : Canonical s) : Canonical (finishPacket s die qid p) := by
  grind [finishPacket, canonical_modQueue, canonical_irqQueue, → canonical_tlSignal, canonical_ownTx,
    canonical_haltQueue, canonical_queueRecord]

theorem canonical_queueTl {s q va n} (h : Canonical s) : Canonical (queueTl s q va n) := by
  grind [queueTl, → canonical_tlSignal]
theorem canonical_settleQueue {s die qid} (h : Canonical s) : Canonical (settleQueue s die qid) := by
  grind [settleQueue, canonical_foldl, canonical_finishPacket, canonical_threadEvent, canonical_modQueue,
    canonical_queueTl]

theorem canonical_settleAll {s} (h : Canonical s) : Canonical (settleAll s) := by
  grind [settleAll, canonical_foldl, canonical_settleQueue]
theorem canonical_gridEnd {s lid} (h : Canonical s) : Canonical (gridEnd s lid) := by
  unfold gridEnd
  split
  · exact h
  · split
    · exact h
    · dsimp only
      repeat' split
      all_goals grind [Canonical.iff, canonical_modLaunch, canonical_haltQueue, canonical_queueRecord,
        canonical_settleQueue, canonical_irqQueue, canonical_tlSignal, canonical_ownTx, canonical_modQueue]

theorem canonical_kickQueue {s die qid v} (h : Canonical s) : Canonical (kickQueue s die qid v) := by
  grind [kickQueue, canonical_modQueue, canonical_threadEvent, canonical_emit, canonical_haltQueue,
    canonical_queueRecord]

theorem canonical_suspack {s die qid v} (h : Canonical s) : Canonical (suspack s die qid v) := by
  grind [suspack, Canonical.iff, canonical_modQueue, canonical_settleQueue, canonical_threadEvent]
theorem canonical_noteRan {s g} (h : Canonical s) : Canonical (noteRan s g) := by
  grind [noteRan, canonical_modQueue]

/-! #### Device registers -/

theorem canonical_lateDrop {s f pasid xlat addr} (h : Canonical s) : Canonical (lateDrop s f pasid xlat addr) := by
  grind [lateDrop, Canonical.iff]
theorem canonical_devRead {s die off} (h : Canonical s) : Canonical (devRead s die off).2 := by
  unfold devRead
  dsimp only
  split
  · exact h
  · repeat' split
    all_goals grind [canonical_modDie]

theorem canonical_clearMinimalBit {s} (h : Canonical s) : Canonical (clearMinimalBit s) := by
  grind [clearMinimalBit, Canonical.iff]
theorem canonical_devWrite {s die off wide v} (h : Canonical s) : Canonical (devWrite s die off wide v) := by
  simp only [devWrite]
  repeat' split
  exacts [h, canonical_clearMinimalBit h, h, h.congr rfl rfl rfl, h, h.congr rfl rfl rfl, canonical_modDie h,
    canonical_modDie h, canonical_modDie h, canonical_kickQueue h, canonical_suspack h, h, canonical_modDie h, h]

theorem canonical_readPlace {s die core p n sc ch c} (h : Canonical s) :
    Canonical (readPlace s die core p n sc ch c).2 := by
  unfold readPlace
  grind [canonical_devRead, canonical_readVia]

theorem canonical_writePlace {s die core p bs sc ch c} (h : Canonical s) :
    Canonical (writePlace s die core p bs sc ch c) := by
  unfold writePlace
  grind [canonical_devWrite, canonical_writeVia]

/-! #### Quadrille -/

theorem canonical_quadSend {s sender words t'} (h : Canonical s) (hr : quadSend s sender words = some t') :
    Canonical t' := by
  grind [quadSend, Canonical.iff]

theorem canonical_quadKeep {s sender words} (h : Canonical s) : Canonical (quadKeep s sender words) := by
  exact canonical_getD (canonical_modDie h) fun _ hr => canonical_quadSend h hr

/-! #### Paths and the reconvergence stack -/

theorem canonical_settle {s gid} (h : Canonical s) : Canonical (settle s gid) := by
  grind [settle, Canonical.iff, canonical_modGrp]
theorem canonical_rotate {s e} (h : Canonical s) : Canonical (rotate s e) := by
  unfold rotate
  grind [canonical_modGrp]

/-! #### Faults found at the home -/

theorem canonical_groupRecord {s g cause flags pc va aux} (h : Canonical s) :
    Canonical (groupRecord s g cause flags pc va aux) := by
  grind [groupRecord, canonical_writeRecord]

theorem canonical_noteLate {s gid pid pc t} (h : Canonical s) : Canonical (noteLate s gid pid pc t) := by
  grind [noteLate, canonical_modTeam, canonical_groupRecord, canonical_modGrp]

/-! #### Accesses at their homes -/

theorem canonical_eccApply {s p e} (h : Canonical s) : Canonical (eccApply s p e).1 := by
  grind [eccApply, canonical_logFlight, canonical_spoilUnit, canonical_freeBytes, canonical_writeFab]
theorem canonical_setDest {s o a bs} (h : Canonical s) : Canonical (setDest s o a bs) := by
  grind [setDest, canonical_modGrp, canonical_modPath]
theorem canonical_endLeasesOf {s die} (h : Canonical s) : Canonical (endLeasesOf s die) := h.congr rfl rfl rfl
theorem canonical_releaseBy {s die sc} (h : Canonical s) : Canonical (releaseBy s die sc) := by
  grind [releaseBy, canonical_endLeasesOf, canonical_releaseAt]
theorem canonical_performLd {s o a c} (h : Canonical s) : Canonical (performLd s o a c).1 := by
  grind [performLd, canonical_eccApply, canonical_readPlace, canonical_setDest, canonical_acquireAt]
theorem canonical_performSt {s o a c} (h : Canonical s) : Canonical (performSt s o a c).1 := by
  grind [performSt, canonical_eccApply, canonical_releaseBy, canonical_writePlace]
theorem canonical_performRmw {s o a c f} (h : Canonical s) : Canonical (performRmw s o a c f).1 := by
  unfold performRmw
  split
  split
  · exact h
  split
  next u bad hu =>
  have h1 : Canonical u := by grind [canonical_eccApply]
  split
  · exact h1
  extract_lets c' v
  have h2 : Canonical v := by grind [canonical_releaseBy]
  split
  next bs w hw =>
  have h3 : Canonical w := by grind [canonical_readPlace]
  split
  · exact h3
  extract_lets old y z r
  have h4 : Canonical y := by grind [Canonical.iff]
  have h5 : Canonical z := by grind [canonical_writePlace]
  grind [canonical_setDest, canonical_acquireAt]

theorem canonical_performCwb {s o a} (h : Canonical s) : Canonical (performCwb s o a) := by
  grind [performCwb, Canonical.iff, canonical_foldl, canonical_writeBackLine]
theorem canonical_performCinv {s o a} (h : Canonical s) : Canonical (performCinv s o a) := by
  grind [performCinv, Canonical.iff, canonical_flushRemote]
theorem canonical_performAcc {s o a c} (h : Canonical s) : Canonical (performAcc s o a c).1 := by
  grind [performAcc, canonical_performLd, canonical_performSt, canonical_performRmw, canonical_performCwb,
    canonical_performCinv]

/-! #### Completion -/

theorem canonical_closeOp {s o} (h : Canonical s) : Canonical (closeOp s o) := canonical_modPath h
theorem canonical_finishOps {s} (h : Canonical s) : Canonical (finishOps s) := by
  grind [finishOps, Canonical.iff, canonical_foldl, canonical_closeOp]
theorem canonical_finishAlu {s o wv ws flags} (h : Canonical s) : Canonical (finishAlu s o wv ws flags) := by
  grind [finishAlu, Canonical.iff, canonical_foldl, canonical_modGrp, canonical_modPath, canonical_closeOp]
theorem canonical_noteDone {s o a} (h : Canonical s) : Canonical (noteDone s o a) := by
  grind [noteDone, Canonical.iff]
theorem canonical_accDone {s o a} (h : Canonical s) : Canonical (accDone s o a) := h.congr rfl rfl rfl
theorem canonical_performAll {id c l s} (h : Canonical s) : Canonical (performAll id c l s).1 := by
  fun_induction performAll id c l s <;> grind [canonical_releaseBy, canonical_sendTx, canonical_performAcc,
    canonical_accDone, canonical_noteDone, canonical_noteLate]

theorem canonical_noteForced {s o t} (h : Canonical s) : Canonical (noteForced s o t) := by
  grind [noteForced, canonical_noteLate]
theorem canonical_forceAcc {o c quiet s a} (h : Canonical s) : Canonical (forceAcc o c quiet s a) := by
  grind [forceAcc, canonical_sendTx, canonical_performAcc, canonical_returnPlace, canonical_noteForced]
theorem canonical_performLanes {id c lanes s} (h : Canonical s) : Canonical (performLanes id c lanes s).1 := by
  grind [performLanes, canonical_performAll, canonical_clearWhole]

/-! #### The bulk engine -/

theorem canonical_markAbsent {s team core off n} (h : Canonical s) : Canonical (markAbsent s team core off n) := by
  grind [markAbsent, canonical_foldl, canonical_modTeam]
theorem canonical_markPresent {s team core off n} (h : Canonical s) : Canonical (markPresent s team core off n) := by
  grind [markPresent, canonical_foldl, canonical_modTeam]
theorem canonical_readSource {s die core ch src off n} (h : Canonical s) :
    Canonical (readSource s die core ch src off n).2 := by
  induction n <;> grind [readSource, canonical_freeBytes, canonical_dropL1, canonical_readPlace, canonical_returnPlace]

theorem canonical_decodeSource {e k l s t' r} (h : Canonical s) (hr : decodeSource e k l s = (t', r)) :
    Canonical t' := by
  fun_induction decodeSource e k l s <;> grind [canonical_eccApply]

theorem canonical_chunkDone {s b i} (h : Canonical s) : Canonical (chunkDone s b i) := by
  grind [chunkDone, Canonical.iff, canonical_foldl, canonical_markPresent]
theorem canonical_clearHalves {s l} (h : Canonical s) : Canonical (clearHalves s l) := by
  grind [clearHalves, canonical_foldl, canonical_modTeam]
theorem canonical_landBytes {s b i bytes} (h : Canonical s) : Canonical (landBytes s b i bytes) := by
  grind [landBytes, canonical_foldl, canonical_writeScratch, canonical_chunkDone, canonical_clearHalves]
theorem canonical_landChunk {s b die core i} (h : Canonical s) : Canonical (landChunk s b die core i) := by
  grind [landChunk, canonical_readSource, canonical_ownTx, canonical_landBytes]
theorem canonical_wakeLines {s} (h : Canonical s) : Canonical (wakeLines s) := by
  grind [wakeLines, Canonical.iff, canonical_foldl]
theorem canonical_finishBulks {s} (h : Canonical s) :
    Canonical (finishBulks s) :=
  canonical_wakeLines (h.congr rfl rfl rfl)

/-! #### Traps -/

theorem canonical_logSecure {s die t} (h : Canonical s) : Canonical (logSecure s die t) := by
  grind [logSecure, canonical_modDie]

/-! #### Ends of groups and teams -/

theorem canonical_landOf {id s i} (h : Canonical s) : Canonical (landOf id s i) := by
  grind [landOf, canonical_landChunk]
theorem canonical_haltOps {s tid quiet} (h : Canonical s) : Canonical (haltOps s tid quiet) := by
  grind [haltOps, Canonical.iff, canonical_foldl, canonical_draw, canonical_forceAcc, canonical_landOf,
    canonical_finishBulks]

theorem canonical_dropMatrix {s gid} (h : Canonical s) : Canonical (dropMatrix s gid) := h.congr rfl rfl rfl
theorem canonical_dropTeam {s tid} (h : Canonical s) : Canonical (dropTeam s tid) := by
  grind [dropTeam, Canonical.iff, canonical_foldl, canonical_dropMatrix]
theorem canonical_haltTeam {s tid raised} (h : Canonical s) : Canonical (haltTeam s tid raised) := by
  grind [haltTeam, canonical_foldl, canonical_haltOps, canonical_groupRecord, canonical_dropTeam, canonical_gridEnd,
    canonical_modLaunch]

theorem canonical_killGroup {s g pc va} (h : Canonical s) : Canonical (killGroup s g pc va) := by
  grind [killGroup, Canonical.iff, canonical_foldl, canonical_groupRecord, canonical_dropMatrix, canonical_modGrp,
    canonical_modTeam]

/-! #### Handler frames and entry -/

theorem canonical_tableRead {s g pasid va fetch q t'} (h : Canonical s) (hr : tableRead s g pasid va fetch = .ok (q, t')) :
    Canonical t' := by
  unfold tableRead at hr
  grind [→ canonical_agentRead]

theorem canonical_handlerOf {s g pasid t} (h : Canonical s) : Canonical (handlerOf s g pasid t).2 := by
  unfold handlerOf
  dsimp only
  repeat' split
  all_goals grind [→ canonical_tableRead]

theorem canonical_enterAt {s g p t pc resume hd num} (h : Canonical s) :
    Canonical (enterAt s g p t pc resume hd num) := by
  grind [enterAt, canonical_fresh, canonical_modGrp]

theorem canonical_fatal {s g t pc} (h : Canonical s) : Canonical (fatal s g t pc) := canonical_haltTeam h
theorem canonical_deliverLate {s g} (h : Canonical s) : Canonical (deliverLate s g) := by
  grind [deliverLate, canonical_haltTeam, canonical_logSecure]
theorem canonical_doubleFault {s g pc aux va} (h : Canonical s) : Canonical (doubleFault s g pc aux va) := by
  grind [doubleFault, canonical_groupRecord, canonical_haltTeam]
theorem canonical_tryEnter {s g p t pc resume t'} (h : Canonical s) (hr : tryEnter s g p t pc resume = some t') :
    Canonical t' := by
  unfold tryEnter at hr
  grind [canonical_doubleFault, canonical_handlerOf, canonical_enterAt, canonical_fatal]

theorem canonical_askHandler {s g p t} (h : Canonical s) : Canonical (askHandler s g p t) := by
  grind [askHandler, Canonical.iff, canonical_handlerOf, canonical_fresh, canonical_emit]
theorem canonical_raiseRecoverable {s g p t pc resume} (h : Canonical s) :
    Canonical (raiseRecoverable s g p t pc resume) := by
  grind [raiseRecoverable, → canonical_tryEnter, canonical_modGrp, canonical_askHandler]

theorem canonical_raiseTeam {s g p t pc} (h : Canonical s) : Canonical (raiseTeam s g p t pc) := by
  grind [raiseTeam, canonical_logSecure, canonical_raiseRecoverable, canonical_killGroup, canonical_fatal]

/-! #### Stopped matrix streams -/

theorem canonical_modHead {s die core k f} (h : Canonical s) : Canonical (modHead s die core k f) := canonical_modCore h
theorem canonical_discardStream {s die core k gid team} (h : Canonical s) :
    Canonical (discardStream s die core k gid team) := by
  grind [discardStream, canonical_modTeam, canonical_modCore]

theorem canonical_reportStream {s c k} (h : Canonical s) : Canonical (reportStream s c k) := by
  grind [reportStream, canonical_discardStream, canonical_groupRecord]
theorem canonical_reportCore {s die core} (h : Canonical s) : Canonical (reportCore s die core) := by
  grind [reportCore, canonical_foldl, canonical_reportStream]
theorem canonical_stopStream {s die core k o cause va src} (h : Canonical s) :
    Canonical (stopStream s die core k o cause va src) := by
  grind [stopStream, canonical_discardStream, canonical_groupRecord, canonical_modHead, canonical_modGrp]

theorem canonical_matFailed {s die core k o t} (h : Canonical s) : Canonical (matFailed s die core k o t) := by
  grind [matFailed, canonical_modTeam, canonical_dropMatrix, canonical_groupRecord, canonical_killGroup,
    canonical_noteLate, canonical_discardStream, canonical_modHead]

theorem canonical_answerMat {s m die core t} (h : Canonical s) : Canonical (answerMat s m die core t) := by
  unfold answerMat
  grind [canonical_foldl, canonical_stopStream, canonical_matFailed]

theorem canonical_answerMiss {s m t} (h : Canonical s) : Canonical (answerMiss s m t) := by
  grind [answerMiss, canonical_answerMat, canonical_doubleFault, canonical_raiseTeam, canonical_modGrp]
theorem canonical_walkerDone {s g} (h : Canonical s) :
    Canonical (walkerDone s g) :=
  canonical_modCore (h.congr rfl rfl rfl)

theorem canonical_raiseGroup {s g p t pc} (h : Canonical s) : Canonical (raiseGroup s g p t pc) := by
  grind [raiseGroup, canonical_walkerDone, canonical_logSecure, canonical_answerMiss, canonical_raiseTeam]

/-! #### Q and C programs -/

theorem canonical_copyRecord {s c code pc va aux} (h : Canonical s) : Canonical (copyRecord s c code pc va aux) := by
  grind [copyRecord, canonical_writeRecord]
theorem canonical_endProgram {s d k} (h : Canonical s) : Canonical (endProgram s d k) := canonical_modCc h
theorem canonical_stopCopy {s c t pc} (h : Canonical s) : Canonical (stopCopy s c t pc) := by
  grind [stopCopy, canonical_modCc, canonical_copyRecord, canonical_logSecure]
theorem canonical_stopThread {s q code pc va aux} (h : Canonical s) : Canonical (stopThread s q code pc va aux) := by
  grind [stopThread, canonical_modQt, canonical_modQueue, canonical_haltQueue, canonical_writeRecord]
theorem canonical_raiseOn {s e t pc} (h : Canonical s) : Canonical (raiseOn s e t pc) := by
  unfold raiseOn
  grind [canonical_raiseGroup, canonical_stopThread, canonical_logSecure, canonical_endProgram, canonical_stopCopy]

/-! #### Return from a handler -/

theorem canonical_leaveHandler {s g p t'} (h : Canonical s) (hr : leaveHandler s g p = .ok t') : Canonical t' := by
  grind [leaveHandler, canonical_modGrp, canonical_settle]

/-! #### Issuing an instruction -/

theorem canonical_bad {c t'}  (hr : bad c = .ok t') : Canonical t' := by
  grind [bad]
theorem canonical_bad_hold {c t'}  (hr : bad c = .error (.hold t')) : Canonical t' := by
  grind [bad]

/-! #### The end of an instruction -/

theorem canonical_noteIssue {s x} (h : Canonical s) : Canonical (noteIssue s x) := by
  grind [noteIssue, canonical_modGrp, canonical_noteRan]
theorem canonical_settleArrived {s x} (h : Canonical s) : Canonical (settleArrived s x) := by
  grind [settleArrived, canonical_settle]
theorem canonical_advance {s x} (h : Canonical s) : Canonical (advance s x) := by
  grind [advance, canonical_settleArrived, canonical_modPath, canonical_noteIssue]
theorem canonical_transfer {s x hd} (h : Canonical s) : Canonical (transfer s x hd) := by
  grind [transfer, canonical_settleArrived, canonical_modPath, canonical_noteIssue]
theorem canonical_setS {s x r v} (h : Canonical s) : Canonical (setS s x r v) := canonical_modPath h
theorem canonical_onGroup {s x f} (h : Canonical s) : Canonical (onGroup s x f) := by
  grind [onGroup, canonical_modGrp]

/-! #### Targets and headers -/

theorem canonical_goto {s x hd before t'} (h : Canonical (before s)) (hr : goto s x hd before = .ok t') :
    Canonical t' := by
  grind [goto, canonical_transfer]

theorem canonical_goto_hold {s x hd before t'} : goto s x hd before ≠ .error (.hold t') := by
  grind [goto]
theorem canonical_askAts {s x va write} (h : Canonical s) : Canonical (askAts s x va write) := by
  grind [askAts, Canonical.iff, canonical_fresh, canonical_emit, canonical_modPath]
theorem canonical_fetchQC {s x hd q t'} (h : Canonical s) (hr : fetchQC s x hd = .ok (q, t')) : Canonical t' := by
  grind [fetchQC, → canonical_agentRead]
theorem canonical_fetchQC_hold {s x hd t'} (h : Canonical s) (hr : fetchQC s x hd = .error (.hold t')) :
    Canonical t' := by
  grind [fetchQC, fetchStop.eq_def, canonical_askAts]

theorem canonical_startProg {s q} (h : Canonical s) : Canonical (startProg s q) := by
  grind [startProg, canonical_modQueue]
theorem canonical_recordReturn {s x} (h : Canonical s) : Canonical (recordReturn s x) := by
  grind [recordReturn, canonical_startProg, canonical_modQt, canonical_modCc]
theorem canonical_groupHeader {s x g} (h : Canonical s) : Canonical (groupHeader s x g) := by
  unfold groupHeader
  dsimp only
  repeat' split
  all_goals grind [canonical_raiseGroup, canonical_modPath, canonical_modGrp]

theorem canonical_qcHeader {s x} (h : Canonical s) : Canonical (qcHeader s x) := by
  unfold qcHeader
  grind [canonical_raiseOn, → canonical_fetchQC, → canonical_fetchQC_hold, canonical_modPath, canonical_recordReturn]

theorem canonical_headerStep {s x} (h : Canonical s) : Canonical (headerStep s x) := by
  grind [headerStep, canonical_settleArrived, canonical_modPath, canonical_groupHeader, canonical_qcHeader]
theorem canonical_fetchWord {s x q t'} (h : Canonical s) (hr : fetchWord s x = .ok (q, t')) : Canonical t' := by
  grind [fetchWord, → canonical_fetchQC, → canonical_fetchQC_hold]
theorem canonical_fetchWord_hold {s x t'} (h : Canonical s) (hr : fetchWord s x = .error (.hold t')) : Canonical t' := by
  grind [fetchWord, → canonical_fetchQC, → canonical_fetchQC_hold]

/-! #### Lookahead -/

theorem canonical_openWindow {s x op fp la vds sds} (h : Canonical s) :
    Canonical (openWindow s x op fp la vds sds) :=
  canonical_modPath h

theorem canonical_longBody {s x fp la vds sds wv ws flags} (h : Canonical s) :
    Canonical (longBody s x fp la vds sds wv ws flags) := by
  grind [longBody, Canonical.iff, canonical_foldl, canonical_onGroup, canonical_advance, canonical_modPath,
    canonical_fresh, canonical_openWindow]

/-! #### Where the accesses of an instruction land -/

theorem canonical_lprFill {s x gid t r} (h : Canonical s) : Canonical (lprFill s x gid t r) := by
  unfold lprFill
  grind [canonical_modCore]

theorem canonical_lookup {s x gid lane va write q t'} (h : Canonical s) (hr : lookup s x gid lane va write = some (q, t')) :
    Canonical t' := by
  grind [lookup, canonical_lprFill, canonical_modCore]

theorem canonical_walkerOwn {s x k va} (h : Canonical s) : Canonical (walkerOwn s x k va).2 := by
  unfold walkerOwn
  grind [→ canonical_agentPlace]

theorem canonical_findLane {s x g k lane va} (h : Canonical s) : Canonical (findLane s x g k lane va).2 := by
  unfold findLane
  grind [→ canonical_lookup, canonical_walkerOwn]

theorem canonical_gatherLanes {x g k scal l r s} (h : Canonical s) : Canonical (gatherLanes x g k scal l r s).2 := by
  fun_induction gatherLanes x g k scal l r s <;> grind [canonical_findLane]
theorem canonical_pushMiss {s x gid va k mat lanes whole} (h : Canonical s) :
    Canonical (pushMiss s x gid va k mat lanes whole) := by
  grind [pushMiss, canonical_modPath, canonical_modCore]

theorem canonical_groupPlaces {s x g k scal l q t'} (h : Canonical s) (hr : groupPlaces s x g k scal l = .ok (q, t')) :
    Canonical t' := by
  grind [groupPlaces, canonical_gatherLanes, canonical_pushMiss]

theorem canonical_groupPlaces_hold {s x g k scal l t'} (h : Canonical s)
    (hr : groupPlaces s x g k scal l = .error (.hold t')) :
    Canonical t' := by
  grind [groupPlaces, canonical_gatherLanes, canonical_pushMiss]

theorem canonical_agentAccess {s x k va q t'} (h : Canonical s) (hr : agentAccess s x k va = .ok (q, t')) :
    Canonical t' := by
  grind [agentAccess, → canonical_agentPlace, canonical_askAts]

theorem canonical_agentAccess_hold {s x k va t'} (h : Canonical s) (hr : agentAccess s x k va = .error (.hold t')) :
    Canonical t' := by
  grind [agentAccess, → canonical_agentPlace, canonical_askAts]

theorem canonical_onePlace {s x k va q t'} (h : Canonical s) (hr : onePlace s x k va = .ok (q, t')) : Canonical t' := by
  unfold onePlace at hr
  grind [→ canonical_agentAccess, → canonical_agentAccess_hold, → canonical_groupPlaces, → canonical_groupPlaces_hold]

theorem canonical_onePlace_hold {s x k va t'} (h : Canonical s) (hr : onePlace s x k va = .error (.hold t')) :
    Canonical t' := by
  grind [onePlace, → canonical_agentAccess, → canonical_agentAccess_hold, → canonical_groupPlaces,
    → canonical_groupPlaces_hold]

/-! #### Operations -/

theorem canonical_startOp {s x kind m dest accs la vds sds counted} (h : Canonical s) :
    Canonical (startOp s x kind m dest accs la vds sds counted) := by
  grind [startOp, Canonical.iff, canonical_fresh, canonical_openWindow, canonical_advance, canonical_rotate,
    canonical_modPath]

/-! #### The collectives -/

theorem canonical_parkAt {s x w} (h : Canonical s) : Canonical (parkAt s x w) := by
  grind [parkAt, canonical_rotate, canonical_modPath]
theorem canonical_deadlockCheck {s gid} (h : Canonical s) : Canonical (deadlockCheck s gid) := by
  grind [deadlockCheck, canonical_raiseGroup]
theorem canonical_exitCheck {s gid} (h : Canonical s) : Canonical (exitCheck s gid) := by
  grind [exitCheck, canonical_raiseGroup, canonical_deadlockCheck]

/-! #### The matrix engine at work -/

theorem canonical_Eng_mod {s e f} (h : Canonical s) : Canonical (Eng.mod s e f) := by
  grind [Eng.mod, canonical_modHead]
theorem canonical_Eng_seek {s e write tline src va size q t'} (h : Canonical s)
    (hr : Eng.seek s e write tline src va size = .ok (q, t')) :
    Canonical t' := by
  grind [Eng.seek, canonical_findLane, canonical_Eng_mod, canonical_pushMiss]

theorem canonical_Eng_seek_stop {s e write tline src va size m} (h : Canonical s)
    (hr : Eng.seek s e write tline src va size = .error m) :
    Canonical m.state := by
  unfold Eng.seek at hr
  grind [MatStop.state, canonical_findLane, canonical_Eng_mod, canonical_pushMiss]

theorem canonical_Eng_own {s0 e before va n s} (h : Canonical s) : Canonical (Eng.own s0 e before va n s) := by
  grind [Eng.own, canonical_ownTx]
theorem canonical_Eng_anew {s e} (h : Canonical s) : Canonical (Eng.anew s e) := by
  grind [Eng.anew, canonical_fresh, canonical_Eng_mod]
theorem canonical_Eng_unit {s e src va u q t'} (h : Canonical s) (hr : Eng.unit s e src va u = .ok (q, t')) :
    Canonical t' := by
  unfold Eng.unit at hr
  grind [→ canonical_Eng_seek, → canonical_Eng_seek_stop, canonical_eccApply, canonical_readPlace, canonical_Eng_own]

theorem canonical_Eng_unit_stop {s e src va u m} (h : Canonical s) (hr : Eng.unit s e src va u = .error m) :
    Canonical m.state := by
  unfold Eng.unit at hr
  grind [MatStop.state, → canonical_Eng_seek, → canonical_Eng_seek_stop, canonical_eccApply, canonical_readPlace,
    canonical_Eng_own]

theorem canonical_Eng_read {s e src va u n q t'} (h : Canonical s) (hr : Eng.read s e src va u n = .ok (q, t')) :
    Canonical t' := by
  induction n generalizing q t' <;> grind [Eng.read, → canonical_Eng_unit]

theorem canonical_Eng_read_stop {s e src va u n m} (h : Canonical s) (hr : Eng.read s e src va u n = .error m) :
    Canonical m.state := by
  induction n generalizing m <;> grind [Eng.read, → canonical_Eng_read, → canonical_Eng_unit_stop]

theorem canonical_Eng_dests {s e va n q t'} (h : Canonical s) (hr : Eng.dests s e va n = .ok (q, t')) :
    Canonical t' := by
  induction n generalizing q t' <;> grind [Eng.dests, → canonical_Eng_seek, canonical_eccApply]

theorem canonical_Eng_dests_stop {s e va n m} (h : Canonical s) (hr : Eng.dests s e va n = .error m) :
    Canonical m.state := by
  induction n generalizing m <;> grind [Eng.dests, → canonical_Eng_dests, → canonical_Eng_seek,
    → canonical_Eng_seek_stop, canonical_eccApply, MatStop.state]

/-! #### Segments and elements -/

theorem canonical_Eng_setElem {s e n v} (h : Canonical s) : Canonical (Eng.setElem s e n v) := by
  grind [Eng.setElem, canonical_modCore]

/-! #### Progress -/

theorem canonical_Eng_readB {s e tb n q t'} (h : Canonical s) (hr : Eng.readB s e tb n = .ok (q, t')) :
    Canonical t' := by
  induction n generalizing q t' <;> grind [Eng.readB, → canonical_Eng_read]

theorem canonical_Eng_readB_stop {s e tb n m} (h : Canonical s) (hr : Eng.readB s e tb n = .error m) :
    Canonical m.state := by
  induction n generalizing m <;> grind [Eng.readB, → canonical_Eng_readB, → canonical_Eng_read,
    → canonical_Eng_read_stop]

theorem canonical_Eng_takeB {s e tb mx t'} (h : Canonical s) (hr : Eng.takeB s e tb mx = .ok t') : Canonical t' := by
  unfold Eng.takeB at hr
  split at hr
  · contradiction
  · next u hu =>
    have hc := canonical_Eng_readB h hu
    clear hu
    grind [→ canonical_Eng_read, canonical_Eng_anew, canonical_Eng_mod]

theorem canonical_Eng_takeB_stop {s e tb mx m} (h : Canonical s) (hr : Eng.takeB s e tb mx = .error m) :
    Canonical m.state := by
  unfold Eng.takeB at hr
  split at hr
  · next hu =>
    cases hr
    exact canonical_Eng_readB_stop h hu
  · next u hu =>
    have hc := canonical_Eng_readB h hu
    clear hu
    grind [→ canonical_Eng_read, → canonical_Eng_read_stop]

theorem canonical_Eng_takeA {s e ta mx t'} (h : Canonical s) (hr : Eng.takeA s e ta mx = .ok t') : Canonical t' := by
  unfold Eng.takeA at hr
  grind [→ canonical_Eng_read, → canonical_Eng_read_stop, canonical_Eng_mod]

theorem canonical_Eng_takeA_stop {s e ta mx m} (h : Canonical s) (hr : Eng.takeA s e ta mx = .error m) :
    Canonical m.state := by
  unfold Eng.takeA at hr
  grind [MatStop.state, → canonical_Eng_read, → canonical_Eng_read_stop, canonical_Eng_mod]

theorem canonical_Eng_takeRow {s e ty t'} (h : Canonical s) (hr : Eng.takeRow s e ty = .ok t') : Canonical t' := by
  unfold Eng.takeRow at hr
  grind [→ canonical_Eng_read, → canonical_Eng_read_stop, canonical_Eng_mod]

theorem canonical_Eng_takeRow_stop {s e ty m} (h : Canonical s) (hr : Eng.takeRow s e ty = .error m) :
    Canonical m.state := by
  grind [Eng.takeRow, MatStop.state, → canonical_Eng_read, → canonical_Eng_read_stop, canonical_Eng_mod]

theorem canonical_Eng_next {s e fl} (h : Canonical s) : Canonical (Eng.next s e fl) := by
  grind [Eng.next, canonical_Eng_mod]
theorem canonical_Eng_oneElem {s e seg} (h : Canonical s) : Canonical (Eng.oneElem s e seg) := by
  grind [Eng.oneElem, canonical_Eng_next, canonical_Eng_setElem, canonical_Eng_mod]
theorem canonical_Eng_rowDone {s e} (h : Canonical s) : Canonical (Eng.rowDone s e) := by
  grind [Eng.rowDone, canonical_modGrp, canonical_Eng_anew, canonical_Eng_mod]
theorem canonical_Eng_rowEnd {s e seg t'} (h : Canonical s) (hr : Eng.rowEnd s e seg = .ok t') : Canonical t' := by
  unfold Eng.rowEnd at hr
  grind [canonical_foldl, → canonical_Eng_dests, → canonical_Eng_dests_stop, canonical_Eng_own, canonical_writePlace,
    canonical_Eng_rowDone, canonical_clearWhole]

theorem canonical_Eng_rowEnd_stop {s e seg m} (h : Canonical s) (hr : Eng.rowEnd s e seg = .error m) :
    Canonical m.state := by
  grind [Eng.rowEnd, canonical_foldl, MatStop.state, → canonical_Eng_dests, → canonical_Eng_dests_stop,
    canonical_Eng_own, canonical_writePlace, canonical_Eng_rowDone, canonical_clearWhole]

theorem canonical_Eng_complete {s e} (h : Canonical s) : Canonical (Eng.complete s e) := by
  grind [Eng.complete, canonical_tlWrite, canonical_releaseBy, canonical_fresh, canonical_modCore]
theorem canonical_Eng_signal {s e t'} (h : Canonical s) (hr : Eng.signal s e = .ok t') : Canonical t' := by
  unfold Eng.signal at hr
  grind [canonical_Eng_complete, → canonical_Eng_seek, → canonical_Eng_seek_stop, canonical_Eng_own,
    canonical_writeHome, canonical_releaseBy, canonical_Eng_mod]

theorem canonical_Eng_signal_stop {s e m} (h : Canonical s) (hr : Eng.signal s e = .error m) : Canonical m.state := by
  grind [Eng.signal, MatStop.state, canonical_Eng_complete, → canonical_Eng_seek, → canonical_Eng_seek_stop,
    canonical_Eng_own, canonical_writeHome, canonical_releaseBy, canonical_Eng_mod]

theorem canonical_Eng_finish {s e t'} (h : Canonical s) (hr : Eng.finish s e = .ok t') : Canonical t' := by
  grind [Eng.finish, canonical_Eng_complete, canonical_modCore, → canonical_Eng_signal, → canonical_Eng_signal_stop]
theorem canonical_Eng_finish_stop {s e m} (h : Canonical s) (hr : Eng.finish s e = .error m) : Canonical m.state := by
  unfold Eng.finish at hr
  grind [MatStop.state, canonical_Eng_complete, canonical_modCore, → canonical_Eng_signal, → canonical_Eng_signal_stop]

theorem canonical_Eng_begin {s e t'} (h : Canonical s) (hr : Eng.begin s e = .ok t') : Canonical t' := by
  grind [Eng.begin, → canonical_Eng_takeRow, → canonical_Eng_takeRow_stop, → canonical_Eng_takeB,
    → canonical_Eng_takeB_stop, → canonical_Eng_takeA, → canonical_Eng_takeA_stop, canonical_Eng_mod]

theorem canonical_Eng_begin_stop {s e m} (h : Canonical s) (hr : Eng.begin s e = .error m) : Canonical m.state := by
  unfold Eng.begin at hr
  grind [MatStop.state, → canonical_Eng_takeRow, → canonical_Eng_takeRow_stop, → canonical_Eng_takeB,
    → canonical_Eng_takeB_stop, → canonical_Eng_takeA, → canonical_Eng_takeA_stop, canonical_Eng_mod]

theorem canonical_Eng_act {s e t'} (h : Canonical s) (hr : Eng.act s e = .ok t') : Canonical t' := by
  grind [Eng.act, → canonical_Eng_finish, → canonical_Eng_finish_stop, → canonical_Eng_begin,
    → canonical_Eng_begin_stop, canonical_Eng_oneElem, → canonical_Eng_rowEnd, → canonical_Eng_rowEnd_stop]

theorem canonical_Eng_act_stop {s e m} (h : Canonical s) (hr : Eng.act s e = .error m) : Canonical m.state := by
  grind [Eng.act, MatStop.state, → canonical_Eng_finish, → canonical_Eng_finish_stop, → canonical_Eng_begin,
    → canonical_Eng_begin_stop, canonical_Eng_oneElem, → canonical_Eng_rowEnd, → canonical_Eng_rowEnd_stop]

theorem canonical_streamStep {s die core k ecc} (h : Canonical s) : Canonical (streamStep s die core k ecc).1 := by
  grind [streamStep, MatStop.state, → canonical_Eng_act, → canonical_Eng_act_stop, canonical_matFailed]
theorem canonical_streamRun {die core k num go ecc n s} (h : Canonical s) :
    Canonical (streamRun die core k num go ecc n s) := by
  fun_induction streamRun die core k num go ecc n s <;> grind [canonical_streamStep]

theorem canonical_runHead {s die core k ecc} (h : Canonical s) : Canonical (runHead s die core k ecc) := by
  grind [runHead, canonical_streamRun]

/-! #### Team barriers -/

theorem canonical_modBar {s tid b f} (h : Canonical s) : Canonical (modBar s tid b f) := canonical_modTeam h
theorem canonical_arrive {s g b roles t'} (h : Canonical s) (hr : arrive s g b roles = some t') : Canonical t' := by
  grind [arrive, canonical_modBar, canonical_modGrp]
theorem canonical_recordLanes {s x g b roles t'} (h : Canonical s) (hr : recordLanes s x g b roles = some t') :
    Canonical t' := by
  grind [recordLanes, canonical_modBar, → canonical_arrive]

theorem canonical_barExit {s gid} (h : Canonical s) : Canonical (barExit s gid) := by
  unfold barExit
  split
  · exact h
  · split
    · exact h
    · refine canonical_foldl _ (fun u b hu => ?_) _ h
      grind [→ canonical_arrive, canonical_raiseGroup]

theorem canonical_completePhase {s tid b} (h : Canonical s) : Canonical (completePhase s tid b) := by
  grind [completePhase, canonical_foldl, canonical_modBar, canonical_modGrp, canonical_acquireNear]

/-! #### Branches -/

theorem canonical_splitPath {s x g taken fall tgt t'} (h : Canonical s) (hr : splitPath s x g taken fall tgt = .ok t') :
    Canonical t' := by
  grind [splitPath, Canonical.iff, → canonical_bad, → canonical_bad_hold, canonical_noteIssue, canonical_settle,
    canonical_modGrp]

theorem canonical_splitPath_hold {s x g taken fall tgt t'} (h : Canonical s)
    (hr : splitPath s x g taken fall tgt = .error (.hold t')) :
    Canonical t' := by
  grind [splitPath, Canonical.iff, → canonical_bad, → canonical_bad_hold, canonical_noteIssue, canonical_settle,
    canonical_modGrp]

/-! #### Calls and returns -/

theorem canonical_noteCall {s x} (h : Canonical s) : Canonical (noteCall s x) := by
  grind [noteCall, canonical_modPath]

/-! #### Exit -/

theorem canonical_exitProgram {s x} (h : Canonical s) : Canonical (exitProgram s x) := by
  grind [exitProgram, canonical_modPath, canonical_modQt, canonical_modCc]
theorem canonical_exitPath {s x g} (h : Canonical s) : Canonical (exitPath s x g) := by
  grind [exitPath, canonical_modGrp, canonical_noteIssue, canonical_reportCore, canonical_exitCheck, canonical_barExit,
    canonical_settle]

/-! #### Spawn -/

theorem canonical_spawnOne {x g t e args s slot} (h : Canonical s) : Canonical (spawnOne x g t e args s slot) := by
  grind [spawnOne, Canonical.iff, canonical_foldl, canonical_fresh]

/-! #### System registers -/

theorem canonical_sysWrite {s x n v} (h : Canonical s) : Canonical (sysWrite s x n v) := by
  grind [sysWrite, canonical_modDie, canonical_modGrp, canonical_modQt]

/-! #### Prefetch and cache maintenance -/

theorem canonical_prefetchPlace {s x ch p} (h : Canonical s) : Canonical (prefetchPlace s x ch p) := by
  grind [prefetchPlace, canonical_fillL2, canonical_dropL1, canonical_fillL1]

/-! #### Bulk copy and multicast -/

theorem canonical_bulkSource {s x g src n q t'} (h : Canonical s) (hr : bulkSource s x g src n = .ok (q, t')) :
    Canonical t' := by
  unfold bulkSource at hr
  grind [→ canonical_groupPlaces, → canonical_groupPlaces_hold]

theorem canonical_bulkSource_hold {s x g src n t'} (h : Canonical s) (hr : bulkSource s x g src n = .error (.hold t')) :
    Canonical t' := by
  grind [bulkSource, → canonical_groupPlaces, → canonical_groupPlaces_hold]

theorem canonical_startBulk {s x g multi sva src n dests buf ch} (h : Canonical s) :
    Canonical (startBulk s x g multi sva src n dests buf ch) := by
  grind [startBulk, Canonical.iff, canonical_foldl, canonical_fresh, canonical_markAbsent, canonical_advance]

/-! #### Fences -/

theorem canonical_stall {s x} (h : Canonical s) : Canonical (stall s x) := canonical_modPath h

/-! #### Timelines -/

theorem canonical_tlPlace {s x m write q t'} (h : Canonical s) (hr : tlPlace s x m write = .ok (q, t')) : Canonical t' := by
  grind [tlPlace, → canonical_onePlace, → canonical_onePlace_hold]
theorem canonical_tlPlace_hold {s x m write} (h : Canonical s) (hr : tlPlace s x m write = .error (.hold t')) :
    Canonical t' := by
  grind [tlPlace, → canonical_onePlace, → canonical_onePlace_hold]

theorem canonical_endWait {s x ws acq} (h : Canonical s) : Canonical (endWait s x ws acq) := by
  unfold endWait
  grind [canonical_foldl, canonical_modPath, canonical_advance, canonical_acquireAt]

/-! #### Waiting on a line -/

theorem canonical_waitRead {s x pl n sc ch} (h : Canonical s) :
    Canonical (waitRead s x pl n sc ch).2 :=
  canonical_readPlace h

/-! #### Barriers -/

theorem canonical_parkAtBar {s x b} (h : Canonical s) (hr : parkAtBar s x b = .ok t') : Canonical t' := by
  grind [parkAtBar, canonical_parkAt]
theorem canonical_parkAtBar_hold {s x b} (h : Canonical s) (hr : parkAtBar s x b = .error (.hold t')) :
    Canonical t' := by
  grind [parkAtBar, canonical_parkAt]

theorem canonical_parkAfterBar {s x b} (h : Canonical s) : Canonical (parkAfterBar s x b) := by
  grind [parkAfterBar, canonical_rotate, canonical_modPath, canonical_noteIssue]
theorem canonical_record {s x g b roles k t'} (h : Canonical s) (hk : ∀ u, Canonical u → Canonical (k u))
    (hr : record s x g b roles k = .ok t') :
    
    Canonical t' := by
  grind [record, → canonical_recordLanes, bad]

theorem canonical_record_hold {s x g b roles k t'} : record s x g b roles k ≠ .error (.hold t') := by
  grind [record, bad]

/-! #### Defining a ring -/

theorem canonical_reissueRacq {s tid k} (h : Canonical s) : Canonical (reissueRacq s tid k) := by
  grind [reissueRacq, Canonical.iff, canonical_foldl]

/-! #### Acquiring a stage -/

theorem canonical_takeStage {s x t st k j sd cons} (h : Canonical s) : Canonical (takeStage s x t st k j sd cons) := by
  grind [takeStage, canonical_endWait, canonical_modTeam]
theorem canonical_grantRacq {s tid k j} (h : Canonical s) : Canonical (grantRacq s tid k j) := by
  simp only [grantRacq]
  repeat' split
  all_goals grind [canonical_takeStage, Canonical.iff]

/-! #### Releasing a stage -/

theorem canonical_giveStage {s x t st k j} (h : Canonical s) (hr : giveStage s x t st k j = .ok t') : Canonical t' := by
  grind [giveStage, canonical_endWait, canonical_modTeam, canonical_releaseBy, → canonical_bad, → canonical_bad_hold]
theorem canonical_giveStage_hold {s x t st k j} (h : Canonical s) (hr : giveStage s x t st k j = .error (.hold t')) :
    Canonical t' := by
  grind [giveStage, canonical_endWait, canonical_modTeam, canonical_releaseBy, → canonical_bad, → canonical_bad_hold]

theorem canonical_completeRrel {s gid pid} (h : Canonical s) : Canonical (completeRrel s gid pid) := by
  unfold completeRrel
  repeat' split
  all_goals grind [→ canonical_giveStage, → canonical_giveStage_hold, canonical_raiseOn]

/-! #### Consuming packets -/

theorem canonical_packetAt {s q q' t'} (h : Canonical s) (hr : packetAt s q = .ok (q', t')) : Canonical t' := by
  grind [packetAt, → canonical_agentRead]
theorem canonical_consume {s q raw} (h : Canonical s) : Canonical (consume s q raw) := by
  refine canonical_getD ?_ ?_ <;> grind [canonical_acquireAt, canonical_modQueue, → canonical_tryWrite]
theorem canonical_modPacket {s die qid seq f} (h : Canonical s) :
    Canonical (modPacket s die qid seq f) :=
  canonical_modQueue h

theorem canonical_queueTlValue {s q va n t'} (h : Canonical s) (hr : queueTlValue s q va = some (n, t')) :
    Canonical t' := by
  grind [queueTlValue, → canonical_agentPlace, canonical_readHome]

theorem canonical_waitgeDone {s q p} (h : Canonical s) : Canonical (waitgeDone s q p) := by
  unfold waitgeDone
  grind [→ canonical_queueTlValue, canonical_modQueue, canonical_settleQueue, canonical_modPacket]

theorem canonical_waitgeTest {s q} (h : Canonical s) : Canonical (waitgeTest s q) := by
  grind [waitgeTest, canonical_waitgeDone]
theorem canonical_performSimple {s q raw t'} (h : Canonical s) (hr : performSimple s q raw = .ok t') :
    Canonical t' := by
  simp only [performSimple] at hr
  split at hr
  · grind [→ canonical_tlSignal, canonical_settleQueue]
  · split at hr
    · contradiction
    · cases hr
      refine canonical_getD h fun t ht => ?_
      obtain ⟨k, -, rfl⟩ := Option.map_eq_some_iff.1 ht
      exact canonical_waitgeTest h
  · grind
  · cases hr
    exact canonical_settleQueue h

theorem canonical_performSimple_stop {s q raw m} (h : Canonical s) (hr : performSimple s q raw = .error m) :
    Canonical m.1 := by
  grind [performSimple]

theorem canonical_concern {s x seq} (h : Canonical s) : Canonical (concern s x seq) := by
  grind [concern, canonical_modQt]
theorem canonical_leavePacket {s t seq} (h : Canonical s) : Canonical (leavePacket s t seq) := canonical_modQt h

/-! #### Launches -/

theorem canonical_launchCheck {s x raw} (h : Canonical s) (hr : launchCheck s x raw = .ok (q, t')) : Canonical t' := by
  unfold launchCheck at hr
  grind [→ canonical_agentRead, canonical_draw]

theorem canonical_startGrid {s q seq p d} (h : Canonical s) : Canonical (startGrid s q seq p d) := by
  grind [startGrid, Canonical.iff, canonical_fresh, canonical_modPacket]

/-! #### Interrupts and sleep -/

theorem canonical_toMailbox {s x t v} (h : Canonical s) (hr : toMailbox s x t v = .ok t') : Canonical t' := by
  grind [toMailbox, → canonical_mailboxPush, canonical_advance]
theorem canonical_toMailbox_hold {s x t v} (h : Canonical s) (hr : toMailbox s x t v = .error (.hold t')) :
    Canonical t' := by
  grind [toMailbox, → canonical_mailboxPush, canonical_advance]

theorem canonical_wakeThread {s x t sd} (h : Canonical s) : Canonical (wakeThread s x t sd) := by
  grind [wakeThread, canonical_modQt, canonical_advance, canonical_modPath]

/-! #### Operations -/

theorem canonical_modCopy {s c f} (h : Canonical s) : Canonical (modCopy s c f) := canonical_modCc h
theorem canonical_Cop_own {c before va n s} (h : Canonical s) : Canonical (Cop.own c before va n s) := by
  grind [Cop.own, canonical_ownTx]
theorem canonical_copyRead {c l s q t'} (h : Canonical s) (hr : copyRead c l s = .ok (q, t')) : Canonical t' := by
  fun_induction copyRead c l s generalizing q t' <;> grind [→ canonical_agentPlace, canonical_eccApply,
    canonical_freeBytes, canonical_readPlace, canonical_returnPlace, canonical_Cop_own]

theorem canonical_copyRead_stop {c l s m} (h : Canonical s) (hr : copyRead c l s = .error m) : Canonical m.state := by
  fun_induction copyRead c l s generalizing m <;> grind [copyStop_state, CopyStop.state, → canonical_agentPlace,
    canonical_eccApply, canonical_freeBytes, canonical_readPlace, canonical_returnPlace, canonical_Cop_own]

theorem canonical_copyIndex {c o e s} (h : Canonical s) (hr : copyIndex c o e s = .ok (q, t')) : Canonical t' := by
  grind [copyIndex, → canonical_copyRead, → canonical_copyRead_stop]
theorem canonical_copyIndex_stop {c o e s} (h : Canonical s) (hr : copyIndex c o e s = .error m) :
    Canonical m.state := by
  grind [copyIndex, CopyStop.state, copyStop_state, → canonical_copyRead, → canonical_copyRead_stop]

theorem canonical_copyTake {s c o} (h : Canonical s) (hr : copyTake s c o = .ok t') : Canonical t' := by
  grind [copyTake, → canonical_copyIndex, → canonical_copyIndex_stop, → canonical_copyRead, → canonical_copyRead_stop,
    canonical_modCopy]

theorem canonical_copyTake_stop {s c o} (h : Canonical s) (hr : copyTake s c o = .error m) : Canonical m.state := by
  grind [copyTake, CopyStop.state, copyStop_state, → canonical_copyIndex, → canonical_copyIndex_stop,
    → canonical_copyRead, → canonical_copyRead_stop, canonical_modCopy]

theorem canonical_copyPut {s c o bytes} (h : Canonical s) (hr : copyPut s c o bytes = .ok t') : Canonical t' := by
  unfold copyPut at hr
  grind [→ canonical_agentPlace, canonical_eccApply, canonical_taintFab, canonical_Cop_own, canonical_writePlace,
    canonical_returnPlace, canonical_fresh, canonical_modCopy]

theorem canonical_copyPut_stop {s c o bytes} (h : Canonical s) (hr : copyPut s c o bytes = .error m) :
    Canonical m.state := by
  unfold copyPut at hr
  grind [CopyStop.state, copyStop_state, → canonical_agentPlace, canonical_eccApply, canonical_taintFab,
    canonical_Cop_own, canonical_writePlace, canonical_returnPlace, canonical_fresh, canonical_modCopy]

/-! #### Reformatting -/

theorem canonical_reformFrame {s a gran} (h : Canonical s) : Canonical (reformFrame s a gran) := h.congr rfl rfl rfl

/-! #### Progress -/

theorem canonical_copyAct {s c o} (h : Canonical s) (hr : copyAct s c o = .ok t') : Canonical t' := by
  grind [copyAct, canonical_eccApply, canonical_spoilFailed, canonical_modCopy, canonical_reformFrame,
    → canonical_copyPut, → canonical_copyPut_stop, → canonical_copyTake, → canonical_copyTake_stop]

theorem canonical_copyAct_stop {s c o} (h : Canonical s) (hr : copyAct s c o = .error m) : Canonical m.state := by
  unfold copyAct at hr
  grind [CopyStop.state, copyStop_state, canonical_eccApply, canonical_spoilFailed, canonical_modCopy,
    canonical_reformFrame, → canonical_copyPut, → canonical_copyPut_stop, → canonical_copyTake,
      → canonical_copyTake_stop]

theorem canonical_copyTimeline {s x num} (h : Canonical s) : Canonical (copyTimeline s x num) := by
  grind [copyTimeline, canonical_tlWrite]
/-- The state that a piece of a copy ends in is canonical. -/
def CopyEnd.Kept : CopyEnd → Prop
  | .all s | .more s => Canonical s
  | .stop s e => Canonical s ∧ Canonical e.state

theorem canonical_copyRun {c n s} (h : Canonical s) : (copyRun c n s).Kept := by
  fun_induction copyRun c n s <;> grind [CopyEnd.Kept, CopyStop.state, → canonical_copyAct, → canonical_copyAct_stop]
theorem canonical_copyEnds {s x o} (h : Canonical s) : Canonical (copyEnds s x o) := by
  grind [copyEnds, canonical_modCc, canonical_advance, canonical_fresh, canonical_copyTimeline, canonical_settleQueue]
theorem canonical_copyDone {s c x o} (h : Canonical s) : Canonical (copyDone s c x o) := by
  grind [copyDone, canonical_copyEnds, canonical_releaseBy, → canonical_tlSignal, canonical_stopCopy,
    canonical_Cop_own, canonical_modCopy]

theorem canonical_startProgram {s x o} (h : Canonical s) : Canonical (startProgram s x o) := by
  grind [startProgram, canonical_fresh, canonical_modCc]
theorem canonical_copyAts {s x va write} (h : Canonical s) : Canonical (copyAts s x va write) := by
  grind [copyAts, Canonical.iff, canonical_fresh, canonical_emit]
theorem canonical_completeCopy {s die k ecc} (h : Canonical s) : Canonical (completeCopy s die k ecc) := by
  unfold completeCopy
  split
  · next x o _ _ =>
    have hk := canonical_copyRun (c := copOf s x ecc) (n := o.work) h
    grind [CopyEnd.Kept, CopyStop.state, canonical_startProgram, canonical_copyDone, canonical_copyAts,
      canonical_stopCopy]
  · exact h

theorem canonical_faultCopy {s die k} (h : Canonical s) : Canonical (faultCopy s die k) := by
  unfold faultCopy
  split
  · next x o _ _ =>
    have hk := canonical_copyRun (c := copOf s x .clean) (n := o.work) h
    grind [CopyEnd.Kept, CopyStop.state, canonical_stopCopy]
  · exact h

theorem canonical_partCopy {s die k n} (h : Canonical s) : Canonical (partCopy s die k n) := by
  unfold partCopy
  split
  · exact h
  · next x _ =>
    have hk := canonical_copyRun (c := copOf s x .clean) (n := n) h
    grind [CopyEnd.Kept, CopyStop.state, canonical_copyAts]

/-! #### The engines -/

theorem canonical_serveTurn {s die k} (h : Canonical s) : Canonical (serveTurn s die k) := canonical_modDie h

/-! #### The instructions -/

theorem canonical_handCopy {s x t q p kind sd args} (h : Canonical s) :
    Canonical (handCopy s x t q p kind sd args) := by
  grind [handCopy, canonical_modCc, canonical_modPacket, canonical_advance, canonical_setS]

/-! #### Return from a handler -/

theorem canonical_answerWalk {s m t} (h : Canonical s) : Canonical (answerWalk s m t) := by
  grind [answerWalk, canonical_answerMiss]
theorem canonical_walkerReturn {s g} (h : Canonical s) : Canonical (walkerReturn s g) := by
  grind [walkerReturn, canonical_walkerDone, canonical_answerWalk]

/-! #### Translations -/

theorem canonical_installTlb {s die core t} (h : Canonical s) : Canonical (installTlb s die core t) := by
  grind [installTlb, canonical_modCore, canonical_modDie]

/-! #### Overlays and frame pools -/

theorem canonical_stageFrame {s die core frame tag words} (h : Canonical s) :
    Canonical (stageFrame s die core frame tag words) :=
  canonical_modCore h

theorem canonical_readWord {s x p n} (h : Canonical s) : Canonical (readWord s x p n).2 := canonical_readPlace h

/-! #### The host IOMMU -/

theorem canonical_sendPri {s pasid va w gid pid} (h : Canonical s) (hr : sendPri s pasid va w gid pid = some t') :
    Canonical t' := by
  grind [sendPri, Canonical.iff, canonical_fresh, canonical_emit, canonical_modGrp]

/-! #### Quadrille and halts -/

theorem canonical_haltCopy {s x d k aux} (h : Canonical s) : Canonical (haltCopy s x d k aux) := by
  grind [haltCopy, canonical_endProgram, canonical_modCc, canonical_copyRecord]

/-! #### Memory -/

theorem canonical_raiseGroupOp {s g o t} (h : Canonical s) : Canonical (raiseGroupOp s g o t) := by
  grind [raiseGroupOp, canonical_raiseGroup, canonical_noteLate, canonical_killGroup, canonical_fatal]
theorem canonical_raiseOp {s o t} (h : Canonical s) : Canonical (raiseOp s o t) := by
  grind [raiseOp, Canonical.iff, canonical_raiseGroupOp, canonical_raiseOn]
theorem canonical_completeAccess {s id lanes c} (h : Canonical s) : Canonical (completeAccess s id lanes c) := by
  grind [completeAccess, canonical_finishAlu, canonical_performLanes, canonical_finishOps, canonical_raiseOp]
theorem canonical_deliverImprecise {s g} (h : Canonical s) : Canonical (deliverImprecise s g) := by
  grind [deliverImprecise, canonical_raiseGroup, canonical_deliverLate]
theorem canonical_landOne {s id ecc unit i} (h : Canonical s) : Canonical (landOne s id ecc unit i) := by
  unfold landOne
  grind [canonical_noteLate, canonical_chunkDone, → canonical_decodeSource, canonical_landChunk]

theorem canonical_endLease {s line} (h : Canonical s) : Canonical (endLease s line) := by
  grind [endLease, Canonical.iff, canonical_finishOps]

/-! #### Timelines and lines -/

theorem canonical_wakeTwait {die t v s x} (h : Canonical s) : Canonical (wakeTwait die t v s x) := by
  grind [wakeTwait, canonical_endWait]
theorem canonical_tlSeen {s die t} (h : Canonical s) : Canonical (tlSeen s die t).2 := by
  grind [tlSeen, canonical_freeBytes]
theorem canonical_wakeWchg {s x} (h : Canonical s) : Canonical (wakeWchg s x) := by
  grind [wakeWchg, canonical_modPath, canonical_waitRead, canonical_endWait]
theorem canonical_timeoutWchg {s x} (h : Canonical s) : Canonical (timeoutWchg s x) := by
  grind [timeoutWchg, canonical_waitRead, canonical_endWait]

/-! #### Traps and the walker -/

theorem canonical_enterPending {s gid pid} (h : Canonical s) : Canonical (enterPending s gid pid) := by
  unfold enterPending
  grind [canonical_getD, → canonical_tryEnter, canonical_askHandler]

theorem canonical_walkerAsks {s die core m} (h : Canonical s) : Canonical (walkerAsks s die core m) := by
  grind [walkerAsks, Canonical.iff, canonical_fresh, canonical_modCore, canonical_emit]
theorem canonical_walkSet {s die core ea t w} (h : Canonical s) : Canonical (walkSet s die core ea t w) := by
  grind [walkSet, canonical_setAD, canonical_installTlb]
theorem canonical_vendorWalk {s die core m} (h : Canonical s) : Canonical (vendorWalk s die core m) := by
  grind [vendorWalk, canonical_answerMiss, canonical_walkSet, canonical_answerWalk, canonical_walkerAsks]
theorem canonical_serveMiss {s die core} (h : Canonical s) : Canonical (serveMiss s die core) := by
  unfold serveMiss
  grind [Canonical.iff, canonical_modCore, canonical_vendorWalk, canonical_fresh]

/-! #### Matrix streams -/

theorem canonical_stopAtOperand {s die core k} (h : Canonical s) : Canonical (stopAtOperand s die core k) := by
  grind [stopAtOperand, canonical_runHead, canonical_stopStream, canonical_modCore]
theorem canonical_deliverMatrix {s g p} (h : Canonical s) : Canonical (deliverMatrix s g p) := by
  grind [deliverMatrix, Canonical.iff, canonical_modGrp, canonical_raiseGroup]

/-! #### The host's answers -/

theorem canonical_answerPri {s id ok} (h : Canonical s) : Canonical (answerPri s id ok) := by
  grind [answerPri, Canonical.iff, canonical_foldl, canonical_modGrp, canonical_raiseGroup]
theorem canonical_walkerIdle {s die core} (h : Canonical s) : Canonical (walkerIdle s die core) := canonical_modCore h
theorem canonical_walkerAts {s r core status leaf} (h : Canonical s) : Canonical (walkerAts s r core status leaf) := by
  unfold walkerAts
  repeat' split
  all_goals grind [canonical_getD, canonical_walkerIdle, canonical_installTlb, canonical_answerMiss,
    → canonical_sendPri, canonical_answerWalk]

theorem canonical_handlerAts {s r t gid} (h : Canonical s) : Canonical (handlerAts s r t gid) := by
  grind [handlerAts, canonical_doubleFault]
theorem canonical_accessAts {s r status leaf} (h : Canonical s) : Canonical (accessAts s r status leaf) := by
  grind [accessAts, canonical_modPath, canonical_modDie, canonical_raiseOn, canonical_stopCopy, canonical_handlerAts]
theorem canonical_answerAts {s id status leaf} (h : Canonical s) : Canonical (answerAts s id status leaf) := by
  unfold answerAts
  grind [Canonical.iff, canonical_walkerAts, canonical_accessAts, canonical_finishAlu]

/-! #### Placing a team -/

theorem canonical_addGroup {l t s e} (h : Canonical s) : Canonical (addGroup l t s e) := by
  grind [addGroup, Canonical.iff, canonical_fresh]
theorem canonical_placeTeam {s l d cores} (h : Canonical s) : Canonical (placeTeam s l d cores) := by
  unfold placeTeam
  extract_lets tid u i t
  exact canonical_foldl _ (fun _ _ hs => canonical_addGroup hs) _
    (canonical_foldl _ (fun _ _ hs => canonical_acquireAt hs _ _ _) _ (canonical_modLaunch (h.congr rfl rfl rfl)))

/-! #### The order of admission -/

theorem canonical_placeAll {lid n s t'} (h : Canonical s) (hr : placeAll lid n s = some t') : Canonical t' := by
  fun_induction placeAll lid n s <;> grind [canonical_placeTeam]
theorem canonical_admitAt {lid o pl t'} (h : ∀ t, o = some t → Canonical t) (hr : admitAt lid o pl = some t') :
    Canonical t' := by
  unfold admitAt at hr
  grind [canonical_placeTeam, Option.bind_eq_some_iff]

theorem canonical_foldlOption {β : Type} {f : Option State → β → Option State} {l : List β} {o : Option State} {t'}
    (hf : ∀ o b, (∀ t, o = some t → Canonical t) → ∀ t, f o b = some t → Canonical t)
    (h : ∀ t, o = some t → Canonical t) (hr : l.foldl f o = some t') : Canonical t' := by
  induction l generalizing o with
  | nil => exact h _ hr
  | cons b l ih => exact ih (hf o b h) hr

theorem canonical_admitTeams {s lid places} (h : Canonical s) : Canonical (admitTeams s lid places) := by
  have hf : ∀ t (l : List (Nat × List Nat)), l.foldl (admitAt lid) (some s) = some t → Canonical t := fun t l =>
    canonical_foldlOption (fun _ _ ho _ => canonical_admitAt ho) (fun t ht => Option.some.inj ht ▸ h)
  grind [admitTeams, canonical_getD]

/-! #### Retirement -/

theorem canonical_reportStopped {s t} (h : Canonical s) : Canonical (reportStopped s t) := by
  grind [reportStopped, canonical_foldl, canonical_reportStream]
theorem canonical_retire {s tid} (h : Canonical s) : Canonical (retire s tid) := by
  grind [retire, canonical_reportStopped, canonical_gridEnd, canonical_modLaunch, canonical_dropTeam]

/-! #### Pre-emption -/

theorem canonical_removeTeam {s tid} (h : Canonical s) : Canonical (removeTeam s tid) := by
  grind [removeTeam, canonical_dropTeam, canonical_haltOps]
theorem canonical_dropAgain {s l t} (h : Canonical s) : Canonical (dropAgain s l t) := by
  grind [dropAgain, canonical_modLaunch, canonical_removeTeam]
theorem canonical_preemptTeam {s t} (h : Canonical s) : Canonical (preemptTeam s t) := by
  grind [preemptTeam, canonical_dropAgain, canonical_modTeam]
theorem canonical_askQuiesce {s pasid} (h : Canonical s) : Canonical (askQuiesce s pasid) := by
  grind [askQuiesce, canonical_foldl, canonical_emit, canonical_modGuest]
theorem canonical_preempt {s die cores ctx} (h : Canonical s) : Canonical (preempt s die cores ctx) := by
  grind [preempt, canonical_foldl, canonical_askQuiesce, canonical_preemptTeam]

/-! #### Saving -/

theorem canonical_stopStreamAt {s die core k} (h : Canonical s) : Canonical (stopStreamAt s die core k) := by
  grind [stopStreamAt, canonical_streamRun]
theorem canonical_stopStreams {s t} (h : Canonical s) : Canonical (stopStreams s t) := by
  grind [stopStreams, canonical_foldl, canonical_stopStreamAt]
theorem canonical_clearSaved {s t gs} (h : Canonical s) : Canonical (clearSaved s t gs) := by
  grind [clearSaved, Canonical.iff, canonical_foldl, canonical_walkerDone]
theorem canonical_saveTeam {s tid} (h : Canonical s) : Canonical (saveTeam s tid) := by
  grind [saveTeam, canonical_dropAgain, canonical_releaseBy, canonical_stopStreams, canonical_modTeam,
    canonical_clearSaved]

/-! #### Resumption -/

theorem canonical_restoreGroup {d d0 cores o g t'} (h : ∀ t, o = some t → Canonical t)
    (hr : restoreGroup d d0 cores o g = some t') :
    Canonical t' := by
  simp only [restoreGroup, Option.bind_eq_some_iff, Option.map_eq_some_iff] at hr
  obtain ⟨u, hu, r, -, rfl⟩ := hr
  exact (h u hu).congr rfl rfl rfl

theorem canonical_restoreEngine {t d cores s e} (h : Canonical s) : Canonical (restoreEngine t d cores s e) := by
  grind [restoreEngine, canonical_foldl, canonical_modCore]
theorem canonical_resumeOn {s t d0 d cores t'} (h : Canonical s) (hr : resumeOn s t d0 d cores = some t') :
    Canonical t' := by
  simp only [resumeOn, Option.map_eq_some_iff] at hr
  obtain ⟨u, hu, rfl⟩ := hr
  have hc : Canonical u := canonical_foldlOption (fun _ _ ho _ => canonical_restoreGroup ho) (fun _ ht =>
    Option.some.inj ht ▸ h) hu
  exact canonical_foldl _ (fun _ _ hs => canonical_acquireAt hs _ _ _) _
    (canonical_modTeam (canonical_foldl _ (fun _ _ hs => canonical_restoreEngine hs) _ hc))

theorem canonical_resumeTeam {s tid d cores t'} (h : Canonical s) (hr : resumeTeam s tid d cores = some t') :
    Canonical t' := by
  obtain ⟨t, -, ht⟩ := Option.bind_eq_some_iff.1 hr
  grind [→ canonical_resumeOn]

/-! #### The next message of a die -/

theorem canonical_takeMsg {s die ok f} (h : Canonical s) (hf : ∀ u i n l, Canonical u → Canonical (f u i n l)) :
    Canonical (takeMsg s die ok f) := by
  grind [takeMsg, canonical_acquirePkg, canonical_modDie]

theorem canonical_sendOr {s0 r} (h : Canonical s0) (hr : ∀ t, r = some t → Canonical t) : Canonical (sendOr s0 r) :=
  canonical_getD h hr

/-! #### Replicas -/

theorem canonical_newTable {s die} (h : Canonical s) : Canonical (newTable s die).2 := by
  grind [newTable, canonical_modDie]
theorem canonical_writeEntry {die va e level l table s} (h : Canonical s) :
    Canonical (writeEntry die va e level l table s) := by
  fun_induction writeEntry die va e level l table s <;> grind [canonical_putPte, canonical_newTable]

theorem canonical_writeReplica {s die pasid level va e} (h : Canonical s) :
    Canonical (writeReplica s die pasid level va e) :=
  canonical_writeEntry h

/-! #### Shoot-down -/

theorem canonical_tellGuest {id words s socket} (h : Canonical s) : Canonical (tellGuest id words s socket) := by
  grind [tellGuest, canonical_emit, canonical_modGuest]
theorem canonical_openShootDown {s hd} (h : Canonical s) : Canonical (openShootDown s hd) := by
  grind [openShootDown, Canonical.iff, canonical_foldl, canonical_tellGuest]
theorem canonical_startShoot {s die pasid va len ats n t'} (h : Canonical s)
    (hr : startShoot s die pasid va len ats = some (n, t')) :
    Canonical t' := by
  obtain ⟨u, hu, he⟩ := Option.map_eq_some_iff.1 hr
  cases he
  exact canonical_openShootDown (canonical_quadSend (canonical_fresh h) hu)

theorem canonical_modShoot {s id f} (h : Canonical s) : Canonical (modShoot s id f) := h.congr rfl rfl rfl
theorem canonical_tearEnds {s t} (h : Canonical s) : Canonical (tearEnds s t) := by
  grind [tearEnds, Canonical.iff, canonical_threadEvent, canonical_modPacket, canonical_irqQueue, canonical_settleQueue]
theorem canonical_shootEnds {s hd} (h : Canonical s) : Canonical (shootEnds s hd) := by
  grind [shootEnds, Canonical.iff, canonical_emit, canonical_tearEnds]
theorem canonical_shootCheck {s id} (h : Canonical s) : Canonical (shootCheck s id) := by
  unfold shootCheck
  split
  · exact h
  split
  · exact h
  split
  · refine canonical_sendOr h fun t ht => ?_
    obtain ⟨u, hu, rfl⟩ := Option.map_eq_some_iff.1 ht
    exact canonical_foldl _ (fun _ _ hs => canonical_tellGuest hs) _ (canonical_modShoot (canonical_quadSend h hu))
  · exact canonical_shootEnds h

theorem canonical_checkShoots {s} (h : Canonical s) : Canonical (checkShoots s) := by
  grind [checkShoots, canonical_foldl, canonical_shootCheck]
theorem canonical_mapTlbs {s die f} (h : Canonical s) : Canonical (mapTlbs s die f) := by
  grind [mapTlbs, Canonical.iff, canonical_modDie]
theorem canonical_prepareAt {s die sender m} (h : Canonical s) : Canonical (prepareAt s die sender m) := by
  grind [prepareAt, canonical_foldl, canonical_openShootDown, canonical_writeReplica, canonical_modDie,
    canonical_mapTlbs, canonical_modShoot]

theorem canonical_commitAt {s die id} (h : Canonical s) : Canonical (commitAt s die id) := by
  grind [commitAt, Canonical.iff, canonical_modShoot, canonical_mapTlbs]
theorem canonical_prepareMsg {die s} (h : Canonical s) : Canonical (prepareMsg die s) := by
  grind [prepareMsg, canonical_takeMsg, canonical_sendOr, → canonical_quadSend, canonical_prepareAt]
theorem canonical_commitMsg {die s} (h : Canonical s) : Canonical (commitMsg die s) := by
  grind [commitMsg, canonical_takeMsg, canonical_sendOr, → canonical_quadSend, canonical_commitAt]

/-! #### First touch -/

theorem canonical_poolTake {s die cls n t'} (h : Canonical s) (hr : poolTake s die cls = some (n, t')) :
    Canonical t' := by
  simp only [poolTake] at hr
  split at hr
  · split at hr
    · contradiction
    · split at hr
      · next hw =>
        cases hr
        exact canonical_agentWrite h hw
      · contradiction
  · contradiction

theorem canonical_allocPage {s die pasid va t'} (h : Canonical s) (hr : allocPage s die pasid va = some t') :
    Canonical t' := by
  simp only [allocPage] at hr
  split at hr
  · split at hr
    · obtain ⟨r, hp, hq⟩ := Option.bind_eq_some_iff.1 hr
      obtain ⟨u, hu, rfl⟩ := Option.map_eq_some_iff.1 hq
      exact canonical_modDie (canonical_quadSend (canonical_poolTake h hp) hu)
    · cases hr; exact h
  · cases hr; exact h

theorem canonical_allocAt {s die pasid va} (h : Canonical s) : Canonical (allocAt s die pasid va) := by
  exact canonical_getD (canonical_modDie h) fun _ hr => canonical_allocPage h hr
theorem canonical_payAllocs {s die} (h : Canonical s) : Canonical (payAllocs s die) := by
  grind [payAllocs, canonical_foldl, → canonical_allocPage, canonical_modDie]

/-! #### The loss of a die -/

theorem canonical_moveQueue {to' s q} (h : Canonical s) : Canonical (moveQueue to' s q) := by
  grind [moveQueue, Canonical.iff, canonical_queueRecord]
theorem canonical_loseTeam {d s t} (h : Canonical s) : Canonical (loseTeam d s t) := by
  grind [loseTeam, canonical_modLaunch, canonical_dropTeam]
theorem canonical_lostGrids {s die d} (h : Canonical s) : Canonical (lostGrids s die d) := by
  grind [lostGrids, canonical_foldl, canonical_haltQueue, canonical_queueRecord]
theorem canonical_loseLine {d up s l} (h : Canonical s) : Canonical (loseLine d up s l) := by
  grind [loseLine, canonical_writeBackLine]
theorem canonical_stopDie {s d} (h : Canonical s) : Canonical (stopDie s d) := by
  grind [stopDie, Canonical.iff, canonical_foldl, canonical_loseTeam]
theorem canonical_loseAtomic {s d up o} (h : Canonical s) : Canonical (loseAtomic s d up o) := by
  grind [loseAtomic, canonical_noteLate, canonical_raiseOp]
theorem canonical_actOnLoss {s die d} (h : Canonical s) : Canonical (actOnLoss s die d) := by
  grind [actOnLoss, Canonical.iff, canonical_foldl, canonical_modDie, canonical_loseLease, canonical_loseLine,
    canonical_loseAtomic]

theorem canonical_rehomeTable {d l table base r} (h : Canonical r.1) : Canonical (rehomeTable d l table base r).1 := by
  induction l generalizing table base r with
  | nil => exact h
  | cons lvl lower ih =>
    unfold rehomeTable
    generalize List.range 512 = ks
    induction ks generalizing r with
    | nil => exact h
    | cons i ks ihk =>
      rw [List.foldl_cons]
      apply ihk
      dsimp only
      repeat' split
      all_goals grind [canonical_putPte]

theorem canonical_rehomeReplicas {s die d} (h : Canonical s) : Canonical (rehomeReplicas s die d) := by
  refine canonical_foldl _ (fun u r hs => ?_) _ h
  have hc := canonical_rehomeTable (d := d) (l := levels) (table := r.2) (base := 0) (r := (u, [])) hs
  split
  next v l hv =>
  rw [hv] at hc
  exact canonical_modDie hc

theorem canonical_payShoots {s die} (h : Canonical s) : Canonical (payShoots s die) := by
  unfold payShoots
  grind [canonical_foldl, → canonical_startShoot, canonical_modDie]

theorem canonical_settleLost {s} (h : Canonical s) : Canonical (settleLost s) := by
  grind [settleLost, canonical_foldl, canonical_settleAll, canonical_gridEnd]
theorem canonical_dieDownAt {s die i d} (h : Canonical s) : Canonical (dieDownAt s die i d) := by
  unfold dieDownAt
  split
  · exact h
  · have h1 : Canonical (lostGrids (actOnLoss (if dieUp s d then stopDie s d else s) die d) die d) := by
      grind [canonical_lostGrids, canonical_actOnLoss, canonical_stopDie]
    extract_lets u v w
    have h2 : Canonical v := by
      unfold v
      split
      · exact canonical_foldl _ (fun _ _ hs => canonical_moveQueue hs) _ h1
      · exact h1
    have h3 : Canonical w := by grind [canonical_rehomeReplicas]
    exact canonical_settleLost (canonical_checkShoots (canonical_payShoots (canonical_finishOps (canonical_finishBulks
      (canonical_logFlight h3)))))

theorem canonical_declareLost {s sender d} (h : Canonical s) : Canonical (declareLost s sender d) := by
  grind [declareLost, canonical_quadKeep, canonical_stopDie]
theorem canonical_sendUnsent {s die} (h : Canonical s) : Canonical (sendUnsent s die) := by
  grind [sendUnsent, canonical_foldl, → canonical_quadSend, canonical_modDie]

/-! #### What software on the host and the die kernels does to queues, contexts and device registers -/

theorem canonical_answerRead {s b} (h : Canonical s) : Canonical (answerRead s b) := canonical_emit h

/-! #### Queues -/

theorem canonical_assignCcx {s die ccx pasid} (h : Canonical s) :
    Canonical (assignCcx s die ccx pasid) :=
  canonical_modCc h

theorem canonical_unbind {s die t} (h : Canonical s) : Canonical (unbind s die t) := by
  grind [unbind, canonical_modQt, canonical_modQueue]

/-! #### Contexts and their end -/

theorem canonical_tearShoot {s t} (h : Canonical s) : Canonical (tearShoot s t) := by
  unfold tearShoot
  grind [Canonical.iff, → canonical_startShoot]

theorem canonical_tearGoesOn {s pasid} (h : Canonical s) : Canonical (tearGoesOn s pasid) := by
  grind [tearGoesOn, canonical_tearShoot]
theorem canonical_tearContext {s die qid pasid seq} (h : Canonical s) :
    Canonical (tearContext s die qid pasid seq) := by
  grind [tearContext, Canonical.iff, canonical_foldl, canonical_removeTeam, canonical_askQuiesce, canonical_tearGoesOn]

theorem canonical_forget {s pasid} (h : Canonical s) : Canonical (forget s pasid) := by
  grind [forget, Canonical.iff, canonical_foldl, canonical_unbind]

/-! #### Accesses that arrive from outside -/

theorem canonical_poisonedData {s n} (h : Canonical s) : Canonical (poisonedData s n) := by
  grind [poisonedData, canonical_freeBytes, canonical_answerRead]
theorem canonical_performReq {s port p req} (h : Canonical s) : Canonical (performReq s port p req) := by
  grind [performReq, Canonical.iff, canonical_writeHome, canonical_readHome, canonical_answerRead]
theorem canonical_devReq {s p req} (h : Canonical s) : Canonical (devReq s p req) := by
  grind [devReq, canonical_writePlace, canonical_readPlace, canonical_answerRead]
theorem canonical_hostHome {s port req} (h : Canonical s) : Canonical (hostHome s port req) := by
  grind [hostHome, canonical_devReq, canonical_performReq, canonical_poisonedData]
theorem canonical_hostXlat {s die port pasid req} (h : Canonical s) : Canonical (hostXlat s die port pasid req) := by
  grind [hostXlat, canonical_hostHome, canonical_queueRecord]
theorem canonical_hostDma {s die pasid req} (h : Canonical s) : Canonical (hostDma s die pasid req) := by
  simp only [hostDma]
  repeat' split
  all_goals grind [canonical_queueRecord, → canonical_agentPlace, canonical_devReq, → canonical_agentWrite,
    → canonical_agentRead, canonical_answerRead]

/-! #### Supervisor cores -/

theorem canonical_supAccess {s die write addr data len} (h : Canonical s) :
    Canonical (supAccess s die write addr data len) := by
  grind [supAccess, canonical_writePlace, canonical_readPlace, canonical_answerRead]

theorem canonical_supOp {s die op} (h : Canonical s) : Canonical (supOp s die op) := by
  cases op <;> grind [supOp, canonical_supAccess, canonical_acquirePkg, canonical_releaseBy, canonical_modDie,
    canonical_logFlight, canonical_answerRead, canonical_getD, → canonical_quadSend]

/-! #### Circuits -/

theorem canonical_losePair {die e s p} (h : Canonical s) : Canonical (losePair die e s p) := by
  grind [losePair, canonical_declareLost]
theorem canonical_tearCircuit {s die circuit} (h : Canonical s) : Canonical (tearCircuit s die circuit) := by
  unfold tearCircuit
  dsimp only
  split
  · exact h
  · refine canonical_foldl _ (fun _ _ hs => canonical_losePair hs) _ ?_
    grind [Canonical.iff, canonical_logFlight]

theorem canonical_countFailure {s die circuit key limit log} (h : Canonical s)
    (hl : ∀ u, Canonical u → Canonical (log u)) :
    
    Canonical (countFailure s die circuit key limit log) := by
  grind [countFailure, Canonical.iff, canonical_tearCircuit]

theorem canonical_badCrc {s c src dst tag} (h : Canonical s) : Canonical (badCrc s c src dst tag) := by
  unfold badCrc
  grind [canonical_emit, canonical_logFlight, canonical_countFailure]

theorem canonical_goodCrc {s c} (h : Canonical s) : Canonical (goodCrc s c) := by
  unfold goodCrc
  grind [Canonical.iff]

theorem canonical_transact {s dst p req} (h : Canonical s) : Canonical (transact s dst p req).2 := by
  grind [transact, canonical_writePlace, canonical_readPlace]
theorem canonical_goodTransaction {s src dst tag req} (h : Canonical s) :
    Canonical (goodTransaction s src dst tag req) := by
  grind [goodTransaction, Canonical.iff, canonical_goodCrc, canonical_emit, canonical_transact]

theorem canonical_farDone {s o a data bad} (h : Canonical s) : Canonical (farDone s o a data bad) := by
  grind [farDone, canonical_accDone, canonical_raiseOp, canonical_setDest, canonical_finishOps, canonical_acquireAt]
theorem canonical_endTx {s t data bad} (h : Canonical s) : Canonical (endTx s t data bad) := by
  grind [endTx, Canonical.iff, canonical_farDone]
theorem canonical_workDone {s w} (h : Canonical s) : Canonical (workDone s w) := by
  unfold workDone
  grind [canonical_settleQueue, canonical_gridEnd]

theorem canonical_resend {s tag} (h : Canonical s) : Canonical (resend s tag) := by
  grind [resend, Canonical.iff, canonical_emit]
theorem canonical_flitSeen {s die circuit flit} (h : Canonical s) : Canonical (flitSeen s die circuit flit) := by
  grind [flitSeen, Canonical.iff]
theorem canonical_poisonRead {id s a} (h : Canonical s) : Canonical (poisonRead id s a) := by
  grind [poisonRead, Canonical.iff, canonical_freeBytes, canonical_setDest]
theorem canonical_poisonBulk {far s b} (h : Canonical s) : Canonical (poisonBulk far s b) := by
  grind [poisonBulk, Canonical.iff, canonical_foldl, canonical_freeBytes, canonical_landBytes]
theorem canonical_poisonCopy {far before s x} (h : Canonical s) : Canonical (poisonCopy far before s x) := by
  grind [poisonCopy, → canonical_copyAct, → canonical_copyAct_stop]
theorem canonical_poisonMatrix {die core far before s k} (h : Canonical s) :
    Canonical (poisonMatrix die core far before s k) := by
  grind [poisonMatrix, MatStop.state, canonical_matFailed, → canonical_Eng_act_stop]

theorem canonical_poisonReads {s die far before} (h : Canonical s) : Canonical (poisonReads s die far before) := by
  grind [poisonReads, canonical_foldl, canonical_poisonRead, canonical_poisonBulk, canonical_poisonCopy,
    canonical_poisonMatrix, canonical_finishOps, canonical_finishBulks]

theorem canonical_poisonTx {s t} (h : Canonical s) : Canonical (poisonTx s t) := by
  grind [poisonTx, canonical_freeBytes, canonical_endTx]

/-! #### Guests -/

theorem canonical_losePacket {s e} (h : Canonical s) : Canonical (losePacket s e) := canonical_modPacket h
theorem canonical_fenceQueue {die packets s q} (h : Canonical s) : Canonical (fenceQueue die packets s q) := by
  grind [fenceQueue, canonical_haltQueue, canonical_writeRecord]
theorem canonical_poisonGuest {s k} (h : Canonical s) : Canonical (poisonGuest s k) := by
  grind [poisonGuest, canonical_foldl, canonical_poisonReads, canonical_farDone]
theorem canonical_fenceGuest {s k duty} (h : Canonical s) : Canonical (fenceGuest s k duty) := by
  grind [fenceGuest, canonical_foldl, canonical_modGuest, canonical_poisonGuest, canonical_logFlight,
    canonical_losePacket, canonical_checkShoots, canonical_fenceQueue]

theorem canonical_fromGuest {s k f} (h : Canonical s) (hf : ∀ g, Canonical (f g)) : Canonical (fromGuest s k f) := by
  grind [fromGuest]
theorem canonical_logHeld {s k} (h : Canonical s) : Canonical (logHeld s k) := by
  grind [logHeld, canonical_freeBytes, canonical_logFlight]
theorem canonical_linkUp {s k vendor engines atc duty} (h : Canonical s) :
    Canonical (linkUp s k vendor engines atc duty) := by
  grind [linkUp, canonical_modGuest, canonical_logHeld]

theorem canonical_guestPlace {s k pasid va req} (h : Canonical s) (hr : guestPlace s k pasid va req = some (q, t')) :
    Canonical t' := by
  grind [guestPlace, → canonical_agentPlace]

theorem canonical_guestPerform {s k p req} (h : Canonical s) : Canonical (guestPerform s k p req) := by
  grind [guestPerform, canonical_writePlace, canonical_readPlace, canonical_answerRead]
theorem canonical_guestTranslation {s k pasid va w} (h : Canonical s) :
    Canonical (guestTranslation s k pasid va w).2.2 := by
  unfold guestTranslation
  grind [→ canonical_agentPlace]

theorem canonical_guestDone {s k die qid seq} (h : Canonical s) : Canonical (guestDone s k die qid seq) := by
  grind [guestDone, canonical_modGuest, canonical_modPacket, canonical_settleQueue]
theorem canonical_badGuestMessage {s socket} (h : Canonical s) : Canonical (badGuestMessage s socket) := by
  grind [badGuestMessage, canonical_fenceGuest]

/-! #### The matrix instructions -/

theorem canonical_bindEngine {s g} (h : Canonical s) : Canonical (bindEngine s g) := by
  grind [bindEngine, Canonical.iff, canonical_modCore]
theorem canonical_pushOp {s x g strm kind zd a b k} (h : Canonical s) :
    Canonical (pushOp s x g strm kind zd a b k) :=
  canonical_modCore h

theorem canonical_binding {s g} (h : Canonical s) (hr : binding s g = some t') : Canonical t' := by
  grind [binding, canonical_bindEngine]

/-! #### Resuming a stopped stream -/

theorem canonical_resumeStream {s g k discard} (h : Canonical s) : Canonical (resumeStream s g k discard) := by
  grind [resumeStream, canonical_modGrp, canonical_fresh, canonical_modCore]

/-! #### Worlds -/

theorem canonical_secureTeams {s d c} (h : Canonical s) : Canonical (secureTeams s d c) := by
  grind [secureTeams, canonical_foldl, canonical_haltTeam]
theorem canonical_secureQueue {k s e} (h : Canonical s) : Canonical (secureQueue k s e) := by
  grind [secureQueue, canonical_modPacket, canonical_haltQueue, canonical_writeRecord]
theorem canonical_stopBlock {s b} (h : Canonical s) : Canonical (stopBlock s b) := by
  unfold stopBlock
  grind [canonical_foldl, canonical_secureTeams, canonical_stopCopy, canonical_stopThread, canonical_secureQueue]

/-! #### Pavane -/

theorem canonical_setCore {s die c st} (h : Canonical s) : Canonical (setCore s die c st) := canonical_modCore h
theorem canonical_setPavane {s die c ph} (h : Canonical s) : Canonical (setPavane s die c ph) := canonical_modDie h
theorem canonical_leaveCore {s die c st} (h : Canonical s) : Canonical (leaveCore s die c st) := by
  grind [leaveCore, canonical_setPavane, canonical_setCore]
theorem canonical_suspectQueue {c s q} (h : Canonical s) : Canonical (suspectQueue c s q) := by
  grind [suspectQueue, canonical_writeRecord, canonical_modQueue]
theorem canonical_suspectAll {s c} (h : Canonical s) : Canonical (suspectAll s c) := by
  grind [suspectAll, canonical_foldl, canonical_suspectQueue]
theorem canonical_scanPass {s c fold} (h : Canonical s) : Canonical (scanPass s c fold) := by
  grind [scanPass, canonical_foldl, canonical_modCore, canonical_logFlight, canonical_settleAll, canonical_gridEnd]
theorem canonical_scanFail {s c lane fold} (h : Canonical s) : Canonical (scanFail s c lane fold) := by
  grind [scanFail, canonical_suspectAll, canonical_logFlight, canonical_modCore]
theorem canonical_scanEnd {s c r} (h : Canonical s) : Canonical (scanEnd s c r).1 := by
  unfold scanEnd
  grind [canonical_scanPass, canonical_scanFail]

/-! #### Power and temperature -/

theorem canonical_gateMore {s die} (h : Canonical s) : Canonical (gateMore s die) := by
  grind [gateMore, canonical_logFlight, canonical_modDie]
theorem canonical_gateLess {s die} (h : Canonical s) : Canonical (gateLess s die) := by
  grind [gateLess, canonical_logFlight, canonical_modDie]

/-! #### Resets -/

theorem canonical_carry {s r} (h : Canonical s) (hm : Memory.wf r.mem = true) :
    Canonical (carry s r) :=
  ⟨hm, h.hostMem, h.guestMem⟩

theorem canonical_onlyDie0 {s} (h : Canonical s) : Canonical (onlyDie0 s) := h.congr rfl rfl rfl
theorem canonical_coldState {s} (h : Canonical s) : Canonical (coldState s) := by
  exact ⟨rfl, h.hostMem, h.guestMem⟩
theorem canonical_warmState {s} (h : Canonical s) : Canonical (warmState s) := by
  exact h.congr rfl rfl rfl

/-! #### Boot -/

theorem canonical_wantNext {s die l} (h : Canonical s) : Canonical (wantNext s die l) := canonical_modDie h
theorem canonical_startFails {s die stage reason} (h : Canonical s) : Canonical (startFails s die stage reason) := by
  unfold startFails
  have h1 : Canonical { s with bootwhy := failWord s die stage reason } := h.congr rfl rfl rfl
  dsimp only
  split
  · exact canonical_wantNext (canonical_coldState h1)
  · exact canonical_wantNext (s := { s with bootwhy := _, dies := _ }) (h.congr rfl rfl rfl)

theorem canonical_acceptImage {s d} (h : Canonical s) :
    Canonical (acceptImage s d) :=
  canonical_modDie (h.congr rfl rfl rfl)

theorem canonical_askBoot {s die} (h : Canonical s) : Canonical (askBoot s die) := by
  grind [askBoot, canonical_emit, canonical_modDie]
theorem canonical_bootSilent {s d} (h : Canonical s) : Canonical (bootSilent s d) := by
  grind [bootSilent, canonical_wantNext, canonical_startFails]
theorem canonical_startDone {s} (h : Canonical s) : Canonical (startDone s) := canonical_wantNext (h.congr rfl rfl rfl)
theorem canonical_bootAnswered {s die} (h : Canonical s) : Canonical (bootAnswered s die) := canonical_wantNext h

/-! #### Management -/

theorem canonical_answer {s b} (h : Canonical s) : Canonical (answer s b) := canonical_emit h
theorem canonical_openAnswer {s} (h : Canonical s) : Canonical (openAnswer s) := by
  grind [openAnswer, canonical_draw, canonical_answer]

/-! #### The retired encodings -/

theorem canonical_countRet {s pasid opc} (h : Canonical s) : Canonical (countRet s pasid opc) := canonical_modCtx h

/-! #### Who may issue -/

theorem canonical_boundary {s x} (h : Canonical s) (hr : boundary s x = some t') : Canonical t' := by
  grind [boundary, canonical_deliverImprecise, canonical_deliverMatrix]

/-! #### Selection -/

theorem canonical_agePath {s x} (h : Canonical s) : Canonical (agePath s x) := canonical_modPath h
theorem canonical_columnCycle {s d c k} (h : Canonical s) : Canonical (columnCycle s d c k) := by
  grind [columnCycle, Canonical.iff, canonical_foldl, canonical_agePath]

/-! #### Time -/

theorem canonical_passTime {s n} (h : Canonical s) : Canonical (passTime s n) := h.congr rfl rfl rfl

/-! #### What the machine does unasked -/

theorem canonical_loseTlb {s die core} (h : Canonical s) : Canonical (loseTlb s die core) := by
  grind [loseTlb, canonical_modDie, canonical_modCore]
theorem canonical_imageOf {s die pasid hd} (h : Canonical s) (hr : imageOf s die pasid hd = some (q, t')) :
    Canonical t' := by
  unfold imageOf at hr
  grind [→ canonical_agentRead]

theorem canonical_loadFrame {s die core frame gid hd} (h : Canonical s) :
    Canonical (loadFrame s die core frame gid hd) := by
  unfold loadFrame
  grind [→ canonical_imageOf, canonical_stageFrame]

theorem canonical_poisonSector {s a} (h : Canonical s) : Canonical (poisonSector s a) := by
  have mark : ∀ (u : State) (l : List Byte) (a : Nat) (p : SMap Bool),
    Canonical u → Canonical { u with mem := ssetN 0 u.mem a l, pois := p } :=
    fun u l a p hu => ⟨memory_wf_ssetN _ _ _ hu.mem, hu.hostMem, hu.guestMem⟩
  have h1 : Canonical (taintFab s (a % 2 ^ 43 / 32 * 32) 32) := canonical_taintFab h
  simp only [poisonSector]
  repeat' split
  all_goals first | exact h1 | exact canonical_logFlight (mark _ _ _ _ (canonical_freeBytes (h1.congr rfl rfl rfl)))

theorem canonical_upsetHbm {s a} (h : Canonical s) : Canonical (upsetHbm s a) := by
  grind [upsetHbm, canonical_spoilUnit]
theorem canonical_upsetAt {s u} (h : Canonical s) : Canonical (upsetAt s u) := by
  unfold upsetAt
  grind [Canonical.iff, canonical_modGrp, canonical_modPath, canonical_modTeam, canonical_taintScratch,
    canonical_modCore, canonical_poisonSector, canonical_taintFab, canonical_logFlight, canonical_upsetHbm]

theorem canonical_failPch {s die pch} (h : Canonical s) : Canonical (failPch s die pch) := by
  grind [failPch, canonical_logFlight, canonical_modDie]
theorem canonical_choice {s c} (h : Canonical s) : Canonical (choice s c) := by
  cases c with
  | retry =>
    simp only [choice]
    refine canonical_checkShoots (canonical_foldl _ (fun u d hu => ?_) _ (canonical_foldl _ (fun u d hu => ?_) _ h))
    · exact canonical_payAllocs (canonical_payShoots hu)
    · exact canonical_sendUnsent hu
  | evictL1 d c a => exact h.congr rfl rfl rfl
  | _ => grind [choice, canonical_writeBackHome, canonical_flushRemote, canonical_loseTlb, canonical_loadFrame,
    canonical_streamRun, canonical_partCopy, canonical_serveTurn, canonical_upsetAt, canonical_failPch,
      canonical_resend, canonical_gateLess, canonical_askBoot, canonical_badGuestMessage]

/-- Every state that a body's end carries is canonical. -/
def EndKept : Except Stop State → Prop
  | .ok t | .error (.hold t) => Canonical t
  | .error (.trap _) => True

/-- The state that an outcome goes on in is canonical. -/
def NextKept : Host.Outcome State Fault Refusal → Prop
  | .next t => Canonical t
  | .fault _ | .refused _ => True

/-! #### The checks at issue -/

theorem canonical_issue {s r u hd body} (h : Canonical s) (hb : ∀ x, EndKept (body x)) :
    NextKept (issue s r u hd body) := by
  unfold issue
  repeat' split
  all_goals grind [NextKept, EndKept, canonical_raiseOn]

theorem endKept_bad (c : Cause) : EndKept (bad c) := trivial
theorem endKept_error {e : Stop} (he : ∀ t, e = .hold t → Canonical t) : EndKept (.error e) := by
  cases e with
  | trap t => trivial
  | hold t => exact he t rfl

theorem endKept_withGroup {f x} (hf : ∀ g, EndKept (f x g)) : EndKept (withGroup f x) := by
  unfold withGroup
  split
  · exact hf _
  · exact endKept_bad _

theorem endKept_withThread {s f x} (hf : ∀ q, EndKept (f x q)) : EndKept (withThread s f x) := by
  unfold withThread
  split
  · exact hf _
  · exact endKept_bad _

theorem endKept_laneBody {s hd f x} (h : Canonical s) : EndKept (laneBody s hd f x) := 
  endKept_withGroup fun _ => canonical_advance (canonical_onGroup h)
theorem endKept_scalarBody {s sd f x} (h : Canonical s) :
    EndKept (scalarBody s sd f x) :=
  canonical_advance (canonical_setS h)

theorem endKept_longFpBody {s hd vds f x} (h : Canonical s) : EndKept (longFpBody s hd vds f x) := by
  refine endKept_withGroup fun g => ?_
  grind [EndKept, canonical_advance, canonical_longBody]

theorem endKept_collective {s mm lane eff x} (h : Canonical s) : EndKept (collective s mm lane eff x) := by
  refine endKept_withGroup fun g => ?_
  grind [EndKept, bad, canonical_foldl, canonical_fresh, canonical_deadlockCheck, canonical_parkAt,
    canonical_noteIssue, canonical_modGrp, canonical_modPath, canonical_settle]

theorem endKept_laneAccess {s hd m scaled disp kind dest vds data x} (h : Canonical s) :
    EndKept (laneAccess s hd m scaled disp kind dest vds data x) := by
  refine endKept_withGroup fun g => ?_
  grind [EndKept, endKept_error, canonical_advance, → canonical_groupPlaces, → canonical_groupPlaces_hold,
    canonical_startOp]

theorem endKept_pathAccess {s la m disp kind dest sds data x} (h : Canonical s) :
    EndKept (pathAccess s la m disp kind dest sds data x) := by
  grind [pathAccess, EndKept, endKept_error, → canonical_onePlace, → canonical_onePlace_hold, canonical_startOp]

theorem endKept_bulkBody {s f x} (h : Canonical s) (hf : ∀ g t, EndKept (f x g t)) : EndKept (bulkBody s f x) := by
  refine endKept_withGroup fun g => ?_
  grind [EndKept, canonical_advance, canonical_onGroup]

theorem endKept_barBody {s roles f x} (h : Canonical s) (hf : ∀ g, EndKept (f x g)) :
    EndKept (barBody s roles f x) := by
  refine endKept_withGroup fun g => ?_
  grind [EndKept, bad, canonical_stall]

theorem endKept_irqBody {s f x} (h : Canonical s) (hf : ∀ u q, Canonical u → EndKept (f u x q)) :
    EndKept (irqBody s f x) := by
  refine endKept_withThread fun q => ?_
  grind [EndKept, canonical_releaseBy]

theorem endKept_copyBody {s kind sd sa sb x} (h : Canonical s) : EndKept (copyBody s kind sd sa sb x) := by
  have ht : ∀ f : Ex → QThread → Except Stop State, (∀ q,
    EndKept (f x q)) → EndKept (withThread s f x) := fun f hf => endKept_withThread hf
  unfold copyBody
  grind [EndKept, bad, canonical_modCc, canonical_handCopy]

theorem endKept_matBody {s strm zd kind bd vals a b k x} (h : Canonical s) :
    EndKept (matBody s strm zd kind bd vals a b k x) := by
  refine endKept_withGroup fun g => ?_
  grind [EndKept, canonical_advance, canonical_pushOp, → canonical_binding]

theorem endKept_counted {s hd opc body x} (h : Canonical s) (hb : ∀ u, Canonical u → EndKept (body u x)) :
    EndKept (counted s hd opc body x) := by
  grind [counted, canonical_countRet]

theorem endKept_toMailbox {s x t v} (h : Canonical s) : EndKept (toMailbox s x t v) := by
  grind [toMailbox, EndKept, → canonical_mailboxPush, canonical_advance]
theorem endKept_of {r : Except Stop State} (ho : ∀ t, r = .ok t → Canonical t)
    (hh : ∀ t, r = .error (.hold t) → Canonical t) :
    EndKept r := by
  cases r with
  | ok t => exact ho t rfl
  | error e => exact endKept_error fun t he => hh t (by rw [he])

theorem endKept_goto {s x hd before} (h : Canonical (before s)) : EndKept (goto s x hd before) :=
  endKept_of (fun _ => canonical_goto h) fun _ hr => absurd hr canonical_goto_hold
theorem endKept_splitPath {s x g taken fall tgt} (h : Canonical s) : EndKept (splitPath s x g taken fall tgt) :=
  endKept_of (fun _ => canonical_splitPath h) fun _ => canonical_splitPath_hold h
theorem endKept_record {s x g b roles k} (h : Canonical s) (hk : ∀ u, Canonical u → Canonical (k u)) :
    EndKept (record s x g b roles k) :=
  endKept_of (fun _ => canonical_record h hk) fun _ hr => absurd hr canonical_record_hold

theorem endKept_parkAtBar {s x b} (h : Canonical s) : EndKept (parkAtBar s x b) := canonical_parkAt h
theorem endKept_giveStage {s x t st k j} (h : Canonical s) : EndKept (giveStage s x t st k j) :=
  endKept_of (fun _ => canonical_giveStage h) fun _ => canonical_giveStage_hold h
theorem namedStage_ne_hold {s g k j t} : namedStage s g k j ≠ .error (.hold t) := by
  grind [namedStage]
/-- The state that a run of `qpop` ends in is canonical. -/
def Pop.Kept : Pop → Prop
  | .done s _ _ | .trap s _ | .hold s => Canonical s

/-! #### Consuming packets -/

theorem canonical_popLoop {x die bound n s} (h : Canonical s) : (popLoop x die bound n s).Kept := by
  induction n generalizing s with
  | zero => exact h
  | succ n ih =>
    have h1 : Canonical (((bound.bind fun b => queue? s die b).map (waitgeTest s)).getD s) := canonical_getD h fun t ht
      => by
      obtain ⟨q, -, rfl⟩ := Option.map_eq_some_iff.1 ht
      exact canonical_waitgeTest h
    simp only [popLoop]
    generalize ((bound.bind fun b => queue? s die b).map (waitgeTest s)).getD s = u at h1 ⊢
    split
    · exact h1
    · next q _ =>
      have h2 := canonical_modQueue (d := die) (q := q.qid) (f := fun q => { q with kicked := false }) h1
      generalize modQueue u die q.qid (fun q => { q with kicked := false }) = v at h2 ⊢
      split
      · exact h2
      split
      · exact h2
      split
      · exact canonical_askAts h2
      · exact h2
      · exact canonical_concern h2
      · next hp => exact canonical_packetAt h2 hp
      · next raw w hp =>
        have h3 := canonical_packetAt h2 hp
        split
        · exact canonical_haltQueue (canonical_queueRecord h3)
        split
        · exact h3
        split
        · exact h3
        have h4 := @canonical_consume _ q raw h3
        split
        · next he =>
          refine canonical_concern ?_
          split at he
          · exact canonical_performSimple_stop h4 he
          · contradiction
        · next he =>
          split at he
          · have h5 := canonical_performSimple h4 he
            split
            · exact ih h5
            · exact h5
          · cases he
            split
            · exact ih h4
            · exact h4

/-! #### The scalar instructions -/

theorem canonical_scalarOp {s ss sd f} (h : Canonical s) : NextKept (scalarOp s ss sd f) :=
  canonical_issue h fun _ => endKept_scalarBody h
theorem canonical_scalarArith {s ty sd sa sb sat f} (h : Canonical s) : NextKept (scalarArith s ty sd sa sb sat f) :=
  canonical_scalarOp h
theorem canonical_scalarBits {s ty sd sa sb f} (h : Canonical s) : NextKept (scalarBits s ty sd sa sb f) :=
  canonical_scalarOp h
theorem canonical_scalarShift {s ty sd sa sb f} (h : Canonical s) : NextKept (scalarShift s ty sd sa sb f) :=
  canonical_scalarOp h
theorem canonical_scalarDiv {s la ty sd sa sb f} (h : Canonical s) : NextKept (scalarDiv s la ty sd sa sb f) := by
  refine canonical_issue h fun x => ?_
  grind [EndKept, bad, endKept_error, canonical_longBody]

theorem canonical_scalarImm {s sd sa imm f} (h : Canonical s) : NextKept (scalarImm s sd sa imm f) :=
  canonical_scalarOp h

/-! #### The collectives -/

theorem canonical_voteOp {s vs md mm f} (h : Canonical s) : NextKept (voteOp s vs md mm f) :=
  canonical_issue h fun _ => endKept_collective h
theorem canonical_memberOp {s vs vd mm f} (h : Canonical s) : NextKept (memberOp s vs vd mm f) :=
  canonical_issue h fun _ => endKept_collective h

/-! #### Branches -/

theorem canonical_execBr {cc disp s} (h : Canonical s) : NextKept (execBr cc disp s) := by
  refine canonical_issue h fun x => ?_
  grind [EndKept, bad, endKept_error, endKept_goto, canonical_advance]

theorem canonical_execBrm {inv ma disp s} (h : Canonical s) : NextKept (execBrm inv ma disp s) := by
  refine canonical_issue h fun x => ?_
  refine endKept_withGroup fun g => ?_
  grind [EndKept, bad, endKept_error, endKept_goto, endKept_splitPath, canonical_advance]

/-! #### Calls and returns -/

theorem canonical_execCall {link disp s} (h : Canonical s) : NextKept (execCall link disp s) :=
  canonical_issue h fun _ => endKept_goto (canonical_setS h)
theorem canonical_execCalli {link sa s} (h : Canonical s) : NextKept (execCalli link sa s) :=
  canonical_issue h fun _ => endKept_goto (canonical_setS (canonical_noteCall h))

/-! #### Exit -/

theorem canonical_execExit {s} (h : Canonical s) : NextKept (execExit s) := by
  refine canonical_issue h fun x => ?_
  grind [EndKept, bad, endKept_error, canonical_exitPath, canonical_exitProgram]

/-! #### Spawn -/

theorem canonical_execSpawn {sd se sb nm1 argc s} (h : Canonical s) : NextKept (execSpawn sd se sb nm1 argc s) := by
  refine canonical_issue h fun x => ?_
  refine endKept_withGroup fun g => ?_
  grind [EndKept, bad, endKept_error, canonical_advance, canonical_setS, canonical_spawnOne, canonical_foldl]

/-! #### Yield, nop and software traps -/

theorem canonical_execYield {s} (h : Canonical s) : NextKept (execYield s) := by
  refine canonical_issue h fun x => ?_
  grind [EndKept, bad, endKept_error, canonical_advance, canonical_modPath]

theorem canonical_execNop {s} (h : Canonical s) : NextKept (execNop s) := by
  refine canonical_issue h fun x => ?_
  grind [EndKept, bad, endKept_error, canonical_advance]

theorem canonical_execTrap {imm s} (h : Canonical s) : NextKept (execTrap imm s) := by
  refine canonical_issue h fun x => ?_
  grind [EndKept, bad, endKept_error]

theorem canonical_execBrk {imm s} (h : Canonical s) : NextKept (execBrk imm s) := by
  refine canonical_issue h fun x => ?_
  grind [EndKept, bad, endKept_error]

/-! #### System registers -/

theorem canonical_execMfs {sd reg s} (h : Canonical s) : NextKept (execMfs sd reg s) := by
  refine canonical_issue h fun x => ?_
  grind [EndKept, bad, endKept_error, canonical_advance, canonical_setS]

theorem canonical_execMts {reg sa s} (h : Canonical s) : NextKept (execMts reg sa s) := by
  refine canonical_issue h fun x => ?_
  grind [EndKept, bad, endKept_error, canonical_advance, canonical_sysWrite]

/-! #### Loads, stores, atomics, bulk copy, multicast, prefetch and cache maintenance -/

theorem canonical_loadOp {s hd m scaled} (h : Canonical s) : NextKept (loadOp s hd m scaled) :=
  canonical_issue h fun _ => endKept_laneAccess h
theorem canonical_storeOp {s hd m scaled} (h : Canonical s) : NextKept (storeOp s hd m scaled) :=
  canonical_issue h fun _ => endKept_laneAccess h

/-! #### Prefetch and cache maintenance -/

theorem canonical_execPf {hd m s} (h : Canonical s) : NextKept (execPf hd m s) := by
  refine canonical_issue h fun x => ?_
  refine endKept_withGroup fun g => ?_
  grind [EndKept, bad, endKept_error, canonical_gatherLanes, canonical_advance, canonical_prefetchPlace,
    canonical_foldl]

theorem canonical_cacheOp {s m kind} (h : Canonical s) : NextKept (cacheOp s m kind) := by
  refine canonical_issue h fun x => ?_
  grind [EndKept, bad, endKept_error, → canonical_onePlace, → canonical_onePlace_hold, canonical_startOp,
    → canonical_groupPlaces, → canonical_groupPlaces_hold]

theorem canonical_cacheIssue {s m kind} (h : Canonical s) : NextKept (cacheIssue s m kind) := by
  unfold cacheIssue
  split
  · exact canonical_cacheOp h
  · exact canonical_issue h fun _ => trivial

/-! #### Bulk copy and multicast -/

theorem canonical_execBcp {m s} (h : Canonical s) : NextKept (execBcp m s) := by
  refine canonical_issue h fun x => ?_
  refine endKept_bulkBody h fun g t => ?_
  grind [EndKept, bad, endKept_error, → canonical_bulkSource, → canonical_bulkSource_hold, canonical_startBulk]

theorem canonical_execLdm {m s} (h : Canonical s) : NextKept (execLdm m s) := by
  refine canonical_issue h fun x => ?_
  refine endKept_bulkBody h fun g t => ?_
  grind [EndKept, bad, endKept_error, → canonical_bulkSource, → canonical_bulkSource_hold, canonical_startBulk]

/-! #### Fences -/

theorem canonical_fenceOp {s scope pred succ} (h : Canonical s) : NextKept (fenceOp s scope pred succ) := by
  refine canonical_issue h fun x => ?_
  grind [EndKept, bad, endKept_error, canonical_stall, canonical_releaseBy, canonical_advance, canonical_acquireAt]

/-! #### Timelines -/

theorem canonical_execTsig {scope sa sb s} (h : Canonical s) : NextKept (execTsig scope sa sb s) := by
  refine canonical_issue h fun x => ?_
  grind [EndKept, bad, endKept_error, → canonical_tlPlace, → canonical_tlPlace_hold, canonical_startOp]

theorem canonical_execTread {la sd sa s} (h : Canonical s) : NextKept (execTread la sd sa s) := by
  refine canonical_issue h fun x => ?_
  grind [EndKept, bad, endKept_error, → canonical_tlPlace, → canonical_tlPlace_hold, canonical_startOp]

theorem canonical_execTwait {scope sd sa sb s} (h : Canonical s) : NextKept (execTwait scope sd sa sb s) := by
  refine canonical_issue h fun x => ?_
  grind [EndKept, bad, endKept_error, → canonical_tlPlace, → canonical_tlPlace_hold, canonical_readHome,
    canonical_endWait, canonical_parkAt]

/-! #### Waiting on a line -/

theorem canonical_execWchg {m s} (h : Canonical s) : NextKept (execWchg m s) := by
  refine canonical_issue h fun x => ?_
  grind [EndKept, bad, endKept_error, → canonical_onePlace, → canonical_onePlace_hold, canonical_parkAt,
    canonical_waitRead, canonical_modPath, canonical_endWait]

/-! #### Barriers -/

theorem canonical_execBarr {b roles s} (h : Canonical s) : NextKept (execBarr b roles s) := by
  refine canonical_issue h fun x => endKept_barBody h fun g => ?_
  split
  · exact endKept_parkAtBar h
  · exact endKept_record h fun _ => canonical_advance

theorem canonical_execBarw {b roles s} (h : Canonical s) : NextKept (execBarw b roles s) := by
  refine canonical_issue h fun x => ?_
  refine endKept_barBody h fun g => ?_
  grind [EndKept, bad, endKept_error, canonical_parkAfterBar, canonical_advance, canonical_acquireNear]

theorem canonical_execBar {b roles s} (h : Canonical s) : NextKept (execBar b roles s) := by
  refine canonical_issue h fun x => endKept_barBody h fun g => ?_
  split
  · exact endKept_parkAtBar h
  · exact endKept_record h fun _ => canonical_parkAfterBar

/-! #### Defining a ring -/

theorem canonical_execRinit {k stagesm1 sa sb s} (h : Canonical s) : NextKept (execRinit k stagesm1 sa sb s) := by
  refine canonical_issue h fun x => ?_
  refine endKept_withGroup fun g => ?_
  grind [EndKept, bad, endKept_error, canonical_modTeam, canonical_advance, canonical_reissueRacq]

/-! #### Acquiring a stage -/

theorem canonical_execRacq {sd k sa cons s} (h : Canonical s) : NextKept (execRacq sd k sa cons s) := by
  refine canonical_issue h fun x => ?_
  refine endKept_withGroup fun g => ?_
  grind [EndKept, bad, endKept_error, namedStage_ne_hold, canonical_takeStage, canonical_modPath, Canonical.iff]

/-! #### Releasing a stage -/

theorem canonical_execRrel {k sa s} (h : Canonical s) : NextKept (execRrel k sa s) := by
  refine canonical_issue h fun x => ?_
  refine endKept_withGroup fun g => ?_
  grind [EndKept, bad, endKept_error, namedStage_ne_hold, endKept_giveStage, canonical_modPath]

theorem canonical_execRstat {sd k sa s} (h : Canonical s) : NextKept (execRstat sd k sa s) := by
  refine canonical_issue h fun x => ?_
  refine endKept_withGroup fun g => ?_
  grind [EndKept, bad, endKept_error, namedStage_ne_hold, canonical_advance, canonical_setS]

theorem canonical_execRacqGrant {team k j s} (h : Canonical s) :
    NextKept (execRacqGrant team k j s) :=
  canonical_grantRacq h

theorem canonical_execRrelComplete {gid pid s} (h : Canonical s) :
    NextKept (execRrelComplete gid pid s) :=
  canonical_completeRrel h

/-! #### Consuming packets -/

theorem canonical_execQpop {sd sb s} (h : Canonical s) : NextKept (execQpop sd sb s) := by
  refine canonical_issue h fun x => endKept_withThread fun q => ?_
  have hp := fun n => canonical_popLoop (x := x) (die := q.die) (bound := q.bound) (n := n) h
  grind [EndKept, Pop.Kept, canonical_raiseOn, canonical_modQt, canonical_modPath, canonical_advance, canonical_setS]

theorem canonical_execQack {sa sb cause irq s} (h : Canonical s) : NextKept (execQack sa sb cause irq s) := by
  refine canonical_issue h fun x => ?_
  refine endKept_withThread fun g => ?_
  grind [EndKept, bad, endKept_error, canonical_modPacket, canonical_advance, canonical_settleQueue,
    canonical_leavePacket, canonical_queueRecord, canonical_haltQueue]

/-! #### Launches -/

theorem canonical_execLaunch {sd sa sb s} (h : Canonical s) : NextKept (execLaunch sd sa sb s) := by
  refine canonical_issue h fun x => ?_
  refine endKept_withThread fun g => ?_
  grind [EndKept, bad, endKept_error, → canonical_launchCheck, canonical_releaseBy, canonical_askAts,
    canonical_modPacket, canonical_advance, canonical_setS, canonical_startGrid]

/-! #### Interrupts and sleep -/

theorem canonical_execIrqHost {sa s} (h : Canonical s) : NextKept (execIrqHost sa s) := by
  refine canonical_issue h fun x => endKept_irqBody h fun u q hu => ?_
  grind [EndKept, endKept_toMailbox, canonical_advance, canonical_irqQueue]

theorem canonical_execIrqKern {sa s} (h : Canonical s) : NextKept (execIrqKern sa s) :=
  canonical_issue h fun _ => endKept_irqBody h fun _ _ => endKept_toMailbox
theorem canonical_execQsleep {sd s} (h : Canonical s) : NextKept (execQsleep sd s) := by
  refine canonical_issue h fun x => ?_
  refine endKept_withThread fun g => ?_
  grind [EndKept, bad, endKept_error, canonical_modQt, canonical_wakeThread]

/-! #### The instructions -/

theorem canonical_copyOp {s kind onC sd sa sb} (h : Canonical s) : NextKept (copyOp s kind onC sd sa sb) :=
  canonical_issue h fun _ => endKept_copyBody h
theorem canonical_execCopyOpComplete {die k ecc s} (h : Canonical s) : NextKept (execCopyOpComplete die k ecc s) := by
  grind [execCopyOpComplete, NextKept, canonical_completeCopy, canonical_serveTurn]
theorem canonical_execCopyFaultStop {die k s} (h : Canonical s) : NextKept (execCopyFaultStop die k s) := by
  grind [execCopyFaultStop, NextKept, canonical_faultCopy, canonical_serveTurn]
theorem canonical_execCopyContextResume {die k s} (h : Canonical s) : NextKept (execCopyContextResume die k s) := by
  grind [execCopyContextResume, NextKept, canonical_fresh, canonical_modCc]
theorem canonical_execCopyContextAbort {die k s} (h : Canonical s) : NextKept (execCopyContextAbort die k s) := by
  grind [execCopyContextAbort, NextKept, canonical_modPacket, canonical_modCc]

/-! #### Return from a handler -/

theorem canonical_execTret {s} (h : Canonical s) : NextKept (execTret s) := by
  refine canonical_issue h fun x => ?_
  refine endKept_withGroup fun g => ?_
  grind [EndKept, bad, endKept_error, canonical_walkerReturn, canonical_noteIssue, → canonical_leaveHandler]

/-! #### Translations -/

theorem canonical_execTlbw {sa size s} (h : Canonical s) : NextKept (execTlbw sa size s) := by
  refine canonical_issue h fun x => ?_
  grind [EndKept, bad, endKept_error, canonical_advance, canonical_installTlb]

theorem canonical_execTlbinv {sa mode die s} (h : Canonical s) : NextKept (execTlbinv sa mode die s) := by
  refine canonical_issue h fun x => ?_
  grind [EndKept, bad, endKept_error, canonical_modCore, canonical_advance, canonical_modDie]

theorem canonical_execLprinv {sa mode s} (h : Canonical s) : NextKept (execLprinv sa mode s) := by
  refine canonical_issue h fun x => ?_
  grind [EndKept, bad, endKept_error, canonical_advance, canonical_modCore]

/-! #### Overlays and frame pools -/

theorem canonical_execOvld {sa sb frame s} (h : Canonical s) : NextKept (execOvld sa sb frame s) := by
  have hf : ∀ x : Ex, ∀ (l : List (Nat × W64 × Place)) (r : List PByte × State),
    Canonical r.2 → Canonical (l.foldl (fun (r : List PByte × State) e =>
      let (b, s) := readPlace r.2 x.die x.core e.2.2 4096 .weak 0 plainChoice
      (r.1 ++ b, s)) r).2 := by
    intro x l
    induction l with
    | nil => exact fun r hr => hr
    | cons e l ih => exact fun r hr => ih _ (canonical_readPlace hr)
  refine canonical_issue h fun x => endKept_withGroup fun g => ?_
  dsimp only
  split
  · trivial
  split
  · trivial
  split
  · next hp => exact endKept_error fun t ht => canonical_groupPlaces_hold h (ht ▸ hp)
  · next got u hp =>
    have hu := canonical_groupPlaces h hp
    split
    · exact hu
    · exact canonical_advance (canonical_stageFrame (hf x got ([], u) hu))

theorem canonical_execPgrab {sd gran size s} (h : Canonical s) : NextKept (execPgrab sd gran size s) := by
  refine canonical_issue h fun x => ?_
  dsimp only
  split
  · next hp => exact endKept_error fun t ht => canonical_onePlace_hold h (ht ▸ hp)
  · next p u hp =>
    have hu := canonical_onePlace h hp
    split
    · exact hu
    split
    · trivial
    have hw : Canonical (readWord (readWord (readWord (readWord (acquireNear (readWord u x p 8).2 x.die x.core) x
      (p.add 8) 8).2 x (p.add 16) 8).2 x
        (p.add 24) 4).2 x (p.add 28) 4).2 :=
      canonical_readWord (canonical_readWord (canonical_readWord (canonical_readWord (canonical_acquireNear
        (canonical_readWord hu) _ _))))
    split
    · exact canonical_advance (canonical_setS (canonical_emit hw))
    split
    · next hq => exact endKept_error fun t ht => canonical_onePlace_hold hw (ht ▸ hq)
    · next q v hq =>
      have hv := canonical_onePlace hw hq
      split
      · exact hv
      split
      · trivial
      refine canonical_advance (canonical_setS ?_)
      split
      · exact canonical_emit (canonical_writePlace (canonical_readWord hv))
      · exact canonical_writePlace (canonical_readWord hv)

/-! #### The host IOMMU -/

theorem canonical_execAts {la sd sa w s} (h : Canonical s) : NextKept (execAts la sd sa w s) := by
  refine canonical_issue h fun x => ?_
  exact canonical_advance (canonical_openWindow (canonical_emit (h.congr rfl rfl rfl)))

theorem canonical_execPri {sa w s} (h : Canonical s) : NextKept (execPri sa w s) := by
  refine canonical_issue h fun x => ?_
  grind [EndKept, bad, endKept_error, → canonical_sendPri, canonical_advance]

/-! #### Quadrille and halts -/

theorem canonical_execDmsg {sd sa s} (h : Canonical s) : NextKept (execDmsg sd sa s) := by
  refine canonical_issue h fun x => ?_
  grind [EndKept, bad, endKept_error, → canonical_quadSend, canonical_releaseBy, canonical_advance, canonical_setS]

theorem canonical_execHlt {sa s} (h : Canonical s) : NextKept (execHlt sa s) := by
  refine canonical_issue h fun x => ?_
  grind [EndKept, bad, endKept_error, canonical_stopThread, canonical_haltCopy, canonical_haltTeam]

/-! #### Memory -/

theorem canonical_execMemoryAccessComplete {op lanes c s} (h : Canonical s) :
    NextKept (execMemoryAccessComplete op lanes c s) :=
  canonical_completeAccess h

theorem canonical_execImpreciseFault {gid s} (h : Canonical s) : NextKept (execImpreciseFault gid s) := by
  grind [execImpreciseFault, NextKept, canonical_deliverImprecise]
theorem canonical_execBulkCopyLand {op lines ecc s} (h : Canonical s) : NextKept (execBulkCopyLand op lines ecc s) := by
  have hf : ∀ (l : List Nat) (r : State × Ecc), Canonical r.1 →
      Canonical (l.foldl (fun (r : State × Ecc) i => (landOne r.1 op r.2 ecc.unit i, Ecc.clean)) r).1 := by
    intro l
    induction l with
    | nil => exact fun r hr => hr
    | cons i l ih => exact fun r hr => ih _ (canonical_landOne hr)
  exact canonical_finishBulks (hf _ _ h)

theorem canonical_execLeaseExpire {line s} (h : Canonical s) : NextKept (execLeaseExpire line s) := canonical_endLease h

/-! #### Timelines and lines -/

theorem canonical_execTwaitWake {die t s} (h : Canonical s) : NextKept (execTwaitWake die t s) := by
  grind [execTwaitWake, NextKept, canonical_tlSeen, canonical_wakeTwait, canonical_foldl]
theorem canonical_execWaitgeComplete {die qid s} (h : Canonical s) : NextKept (execWaitgeComplete die qid s) := by
  grind [execWaitgeComplete, NextKept, canonical_waitgeTest]
theorem canonical_execWchgWake {gid pid s} (h : Canonical s) : NextKept (execWchgWake gid pid s) := by
  grind [execWchgWake, NextKept, canonical_wakeWchg]
theorem canonical_execWchgTimeout {gid pid s} (h : Canonical s) : NextKept (execWchgTimeout gid pid s) := by
  grind [execWchgTimeout, NextKept, canonical_timeoutWchg]
theorem canonical_execBarrierPhaseComplete {team b s} (h : Canonical s) :
    NextKept (execBarrierPhaseComplete team b s) :=
  canonical_completePhase h

/-! #### Rotation -/

theorem canonical_execSpinRotation {gid s} (h : Canonical s) : NextKept (execSpinRotation gid s) := canonical_modGrp h
theorem canonical_execSpillExchange {gid s} (h : Canonical s) : NextKept (execSpillExchange gid s) := canonical_modGrp h

/-! #### Traps and the walker -/

theorem canonical_execTrapEntry {gid pid s} (h : Canonical s) :
    NextKept (execTrapEntry gid pid s) :=
  canonical_enterPending h

theorem canonical_execWalkerRequest {die core s} (h : Canonical s) :
    NextKept (execWalkerRequest die core s) :=
  canonical_serveMiss h

/-! #### Matrix streams -/

theorem canonical_execMatrixStreamStop {die core strm s} (h : Canonical s) :
    NextKept (execMatrixStreamStop die core strm s) := by
  grind [execMatrixStreamStop, NextKept, canonical_stopAtOperand]

theorem canonical_execMatrixFault {gid pid s} (h : Canonical s) : NextKept (execMatrixFault gid pid s) := by
  grind [execMatrixFault, NextKept, canonical_deliverMatrix]
theorem canonical_execMatrixOpComplete {die core strm ecc s} (h : Canonical s) :
    NextKept (execMatrixOpComplete die core strm ecc s) :=
  canonical_runHead h

/-! #### Threads -/

theorem canonical_execQsleepWake {die t s} (h : Canonical s) : NextKept (execQsleepWake die t s) := by
  grind [execQsleepWake, NextKept, canonical_wakeThread]

/-! #### The host's answers -/

theorem canonical_execPriResponse {id ok s} (h : Canonical s) :
    NextKept (execPriResponse id ok s) :=
  canonical_answerPri h

theorem canonical_execAtsCompletion {id status leaf s} (h : Canonical s) :
    NextKept (execAtsCompletion id status leaf s) := by
  grind [execAtsCompletion, NextKept, canonical_answerAts]

theorem canonical_execAtsTimeout {id s} (h : Canonical s) : NextKept (execAtsTimeout id s) := by
  grind [execAtsTimeout, NextKept, canonical_answerAts]

/-! #### The order of admission -/

theorem canonical_execTeamAdmit {launch places s} (h : Canonical s) :
    NextKept (execTeamAdmit launch places s) :=
  canonical_admitTeams h

theorem canonical_execAdmissionWaitExpire {launch s} (h : Canonical s) :
    NextKept (execAdmissionWaitExpire launch s) := by
  grind [execAdmissionWaitExpire, NextKept, canonical_modLaunch]

/-! #### Retirement -/

theorem canonical_execTeamRetire {team s} (h : Canonical s) : NextKept (execTeamRetire team s) := canonical_retire h

/-! #### Pre-emption -/

theorem canonical_execPreemptRequest {die cores s} (h : Canonical s) :
    NextKept (execPreemptRequest die cores s) :=
  canonical_preempt h

/-! #### Saving -/

theorem canonical_execPreemptSave {team s} (h : Canonical s) : NextKept (execPreemptSave team s) := canonical_saveTeam h

/-! #### Resumption -/

theorem canonical_execTeamResume {team die cores s} (h : Canonical s) : NextKept (execTeamResume team die cores s) := by
  have hf : ∀ t (l : List (Nat × Nat × List Nat)),
    l.foldl (fun r e => r.bind fun s => resumeTeam s e.1 e.2.1 e.2.2) (resumeTeam s team die cores.cores) = some t →
      Canonical t := fun t l => canonical_foldlOption (fun o b ho t ht => by
        obtain ⟨u, hu, hr⟩ := Option.bind_eq_some_iff.1 ht
        exact canonical_resumeTeam (ho u hu) hr) fun t => canonical_resumeTeam h
  grind [execTeamResume, NextKept, canonical_getD]

/-! #### Shoot-down -/

theorem canonical_execPrepare {die s} (h : Canonical s) : NextKept (execPrepare die s) := canonical_prepareMsg h
theorem canonical_execCommit {die s} (h : Canonical s) : NextKept (execCommit die s) := canonical_commitMsg h
theorem canonical_execAck {die s} (h : Canonical s) : NextKept (execAck die s) := by
  grind [execAck, NextKept, canonical_takeMsg, canonical_shootCheck, canonical_modShoot]
theorem canonical_execMap {die s} (h : Canonical s) : NextKept (execMap die s) := by
  grind [execMap, NextKept, canonical_takeMsg, canonical_modDie, canonical_writeReplica]
theorem canonical_execAtsInvalidationRequest {pasid va len s} (h : Canonical s) :
    NextKept (execAtsInvalidationRequest pasid va len s) := by
  grind [execAtsInvalidationRequest, NextKept, → canonical_startShoot, canonical_modDie]

/-! #### First touch -/

theorem canonical_execAlloc {die s} (h : Canonical s) : NextKept (execAlloc die s) := by
  grind [execAlloc, NextKept, canonical_takeMsg, canonical_allocAt]

/-! #### The loss of a die -/

theorem canonical_execDieDown {die s} (h : Canonical s) : NextKept (execDieDown die s) := by
  grind [execDieDown, NextKept, canonical_takeMsg, canonical_dieDownAt]
theorem canonical_execDieFatalError {die s} (h : Canonical s) : NextKept (execDieFatalError die s) := by
  grind [execDieFatalError, NextKept, canonical_declareLost]
theorem canonical_execHeartbeat {die s} (h : Canonical s) : NextKept (execHeartbeat die s) := by
  grind [execHeartbeat, NextKept, canonical_takeMsg, canonical_modDie]
theorem canonical_execHeartbeatSend {die s} (h : Canonical s) : NextKept (execHeartbeatSend die s) := by
  show Canonical _
  split
  · exact h
  · split
    · exact h
    · refine canonical_sendOr h fun t ht => ?_
      obtain ⟨u, hu, rfl⟩ := Option.map_eq_some_iff.1 ht
      exact canonical_modDie (canonical_quadSend h hu)

theorem canonical_execHeartbeatTimeout {die silent s} (h : Canonical s) :
    NextKept (execHeartbeatTimeout die silent s) := by
  grind [execHeartbeatTimeout, NextKept, canonical_declareLost]

/-! #### Circuits and routes -/

theorem canonical_execConn {die s} (h : Canonical s) : NextKept (execConn die s) := by
  grind [execConn, NextKept, canonical_takeMsg, canonical_modDie]
theorem canonical_execRoute {die s} (h : Canonical s) : NextKept (execRoute die s) := by
  grind [execRoute, NextKept, canonical_takeMsg, canonical_modDie]
theorem canonical_execDieKernelMessage {die s} (h : Canonical s) : NextKept (execDieKernelMessage die s) := by
  grind [execDieKernelMessage, NextKept, canonical_takeMsg]

/-! #### Device registers -/

theorem canonical_execKick {die qid v s} (h : Canonical s) : NextKept (execKick die qid v s) := canonical_kickQueue h
theorem canonical_execSuspack {die qid v s} (h : Canonical s) :
    NextKept (execSuspack die qid v s) :=
  canonical_suspack h

theorem canonical_execMbpop {die s} (h : Canonical s) : NextKept (execMbpop die s) := by
  grind [execMbpop, NextKept, canonical_devRead, canonical_answerRead]
theorem canonical_execMinimalClear {s} (h : Canonical s) : NextKept (execMinimalClear s) := canonical_clearMinimalBit h
theorem canonical_execDeviceRegisterWrite {die off wide v s} (h : Canonical s) :
    NextKept (execDeviceRegisterWrite die off wide v s) := by
  grind [execDeviceRegisterWrite, NextKept, canonical_devWrite]

/-! #### Queues -/

theorem canonical_execQueueCreate {die qid pasid desc s} (h : Canonical s) :
    NextKept (execQueueCreate die qid pasid desc s) := by
  grind [execQueueCreate, NextKept, Canonical.iff]

theorem canonical_execQueueBind {die t qid cap ccx header s} (h : Canonical s) :
    NextKept (execQueueBind die t qid cap ccx header s) := by
  grind [execQueueBind, NextKept, canonical_fresh, canonical_modQueue, canonical_assignCcx, canonical_modQt]

theorem canonical_execQueueUnbind {die t s} (h : Canonical s) : NextKept (execQueueUnbind die t s) := canonical_unbind h
theorem canonical_execQueueRestart {die qid ridx s} (h : Canonical s) : NextKept (execQueueRestart die qid ridx s) := by
  show Canonical _
  repeat' split
  all_goals grind [canonical_getD, canonical_modQueue, → canonical_tryWrite, canonical_threadEvent, canonical_emit]

theorem canonical_execGuestPacket {die qid seq s} (h : Canonical s) : NextKept (execGuestPacket die qid seq s) := by
  grind [execGuestPacket, NextKept, canonical_modPacket, canonical_modGuest, canonical_emit]

/-! #### Contexts and their end -/

theorem canonical_execTear {die qid seq s} (h : Canonical s) : NextKept (execTear die qid seq s) := by
  grind [execTear, NextKept, canonical_tearContext]
theorem canonical_execTearDrainTimeout {pasid s} (h : Canonical s) :
    NextKept (execTearDrainTimeout pasid s) :=
  canonical_tearGoesOn h

theorem canonical_execQuarantineEnd {pasid s} (h : Canonical s) : NextKept (execQuarantineEnd pasid s) := by
  grind [execQuarantineEnd, NextKept, canonical_forget]
theorem canonical_execContextCreate {pasid fn mode htb s} (h : Canonical s) :
    NextKept (execContextCreate pasid fn mode htb s) := by
  grind [execContextCreate, NextKept, Canonical.iff]

theorem canonical_execFunctionLevelReset {fn s} (h : Canonical s) : NextKept (execFunctionLevelReset fn s) := by
  grind [execFunctionLevelReset, NextKept, canonical_answerPri, canonical_tearContext, canonical_foldl]
theorem canonical_execVirtualFunctionAssign {v port s} (h : Canonical s) :
    NextKept (execVirtualFunctionAssign v port s) := by
  grind [execVirtualFunctionAssign, NextKept, Canonical.iff]

/-! #### Accesses that arrive from outside -/

theorem canonical_execHostCxlAccess {fn pasid req s} (h : Canonical s) :
    NextKept (execHostCxlAccess fn pasid req s) := by
  grind [execHostCxlAccess, NextKept, canonical_hostHome, canonical_lateDrop, canonical_poisonedData,
    canonical_hostXlat, canonical_hostDma]

theorem canonical_execHostSnoop {line act s} (h : Canonical s) : NextKept (execHostSnoop line act s) := by
  have h1 : Canonical (if s.hostCache.contains line then
        emit (if act = .read then s else { s with hostCache := s.hostCache.filter fun l => l != line }) (.snoopData
          line)
      else s) := by grind [Canonical.iff, canonical_emit]
  cases act with
  | write data => exact ⟨h1.mem, memory_wf_ssetN _ _ _ h1.hostMem, h1.guestMem⟩
  | read => exact h1
  | invalidate => exact h1

/-! #### Supervisor cores -/

theorem canonical_execSupervisorCoreAccess {die core op s} (h : Canonical s) :
    NextKept (execSupervisorCoreAccess die core op s) := by
  grind [execSupervisorCoreAccess, NextKept, canonical_supOp]

/-! #### Circuits -/

theorem canonical_execLinkTransaction {src dst tag req crcOk s} (h : Canonical s) :
    NextKept (execLinkTransaction src dst tag req crcOk s) := by
  grind [execLinkTransaction, NextKept, canonical_goodTransaction, canonical_badCrc]

theorem canonical_execTransactionAck {tag data s} (h : Canonical s) : NextKept (execTransactionAck tag data s) := by
  grind [execTransactionAck, NextKept, canonical_badCrc, canonical_workDone, canonical_endTx, canonical_goodCrc]
theorem canonical_execFlitReplay {die f s} (h : Canonical s) : NextKept (execFlitReplay die f s) := by
  grind [execFlitReplay, NextKept, canonical_countFailure, canonical_flitSeen, canonical_logFlight]
theorem canonical_execRerouteReadTimeout {die circuit s} (h : Canonical s) :
    NextKept (execRerouteReadTimeout die circuit s) := by
  grind [execRerouteReadTimeout, NextKept, canonical_poisonTx, canonical_poisonReads, canonical_foldl]

/-! #### Guests -/

theorem canonical_execGuestLinkUp {socket vendor engines atc duty s} (h : Canonical s) :
    NextKept (execGuestLinkUp socket vendor engines atc duty s) := by
  grind [execGuestLinkUp, NextKept, canonical_linkUp]

theorem canonical_execGuestContextBind {socket pasid s} (h : Canonical s) :
    NextKept (execGuestContextBind socket pasid s) := by
  grind [execGuestContextBind, NextKept, canonical_fromGuest, canonical_modGuest]

theorem canonical_execGuestAccess {socket pasid va translated req s} (h : Canonical s) :
    NextKept (execGuestAccess socket pasid va translated req s) := by
  grind [execGuestAccess, NextKept, canonical_fromGuest, canonical_lateDrop, canonical_poisonedData,
    canonical_fenceGuest, → canonical_guestPlace, canonical_guestPerform]

theorem canonical_execGuestAtsRequest {socket pasid va w s} (h : Canonical s) :
    NextKept (execGuestAtsRequest socket pasid va w s) := by
  grind [execGuestAtsRequest, NextKept, canonical_fromGuest, canonical_emit, canonical_guestTranslation]

theorem canonical_execGdone {socket seq s} (h : Canonical s) : NextKept (execGdone socket seq s) := by
  grind [execGdone, NextKept, canonical_fromGuest, canonical_guestDone, canonical_fenceGuest]
theorem canonical_execGuestFaultReport {socket rec s} (h : Canonical s) :
    NextKept (execGuestFaultReport socket rec s) := by
  grind [execGuestFaultReport, NextKept, canonical_fromGuest, canonical_writeRecord, canonical_fenceGuest]

theorem canonical_execGuestAtcAck {socket id s} (h : Canonical s) : NextKept (execGuestAtcAck socket id s) := by
  grind [execGuestAtcAck, NextKept, canonical_fromGuest, canonical_modGuest, canonical_shootCheck, canonical_modShoot]
theorem canonical_execGuestAtcTimeout {socket s} (h : Canonical s) : NextKept (execGuestAtcTimeout socket s) := by
  grind [execGuestAtcTimeout, NextKept, canonical_fromGuest, canonical_fenceGuest]
theorem canonical_execGuestQuiesceReport {socket ok s} (h : Canonical s) :
    NextKept (execGuestQuiesceReport socket ok s) := by
  grind [execGuestQuiesceReport, NextKept, canonical_fromGuest, canonical_modGuest]

theorem canonical_execGuestQuiesceTimeout {socket s} (h : Canonical s) :
    NextKept (execGuestQuiesceTimeout socket s) := by
  grind [execGuestQuiesceTimeout, NextKept, canonical_fromGuest, canonical_fenceGuest]

theorem canonical_execGuestFenceLift {socket s} (h : Canonical s) :
    NextKept (execGuestFenceLift socket s) :=
  canonical_modGuest h

/-! #### Resuming a stopped stream -/

theorem canonical_execMresume {strm discard s} (h : Canonical s) : NextKept (execMresume strm discard s) := by
  refine canonical_issue h fun x => ?_
  refine endKept_withGroup fun g => ?_
  grind [EndKept, bad, endKept_error, → canonical_binding, canonical_advance, canonical_resumeStream]

/-! #### Worlds -/

theorem canonical_execWorldChange {b secure s} (h : Canonical s) : NextKept (execWorldChange b secure s) := by
  grind [execWorldChange, NextKept, canonical_stopBlock, Canonical.iff]

/-! #### Pavane -/

theorem canonical_execPavaneDrainStart {die s} (h : Canonical s) : NextKept (execPavaneDrainStart die s) := by
  grind [execPavaneDrainStart, NextKept, canonical_setPavane, canonical_setCore]
theorem canonical_execPavaneDrainTimeout {die s} (h : Canonical s) : NextKept (execPavaneDrainTimeout die s) := by
  grind [execPavaneDrainTimeout, NextKept, canonical_setPavane, canonical_preempt]
theorem canonical_execPavaneSkip {die s} (h : Canonical s) : NextKept (execPavaneSkip die s) := by
  grind [execPavaneSkip, NextKept, canonical_leaveCore, canonical_logFlight]
theorem canonical_execPavaneScanStart {die s} (h : Canonical s) : NextKept (execPavaneScanStart die s) := by
  grind [execPavaneScanStart, NextKept, canonical_setPavane, canonical_modCore]
theorem canonical_execPavaneScanResult {die r s} (h : Canonical s) : NextKept (execPavaneScanResult die r s) := by
  grind [execPavaneScanResult, NextKept, canonical_scanEnd, canonical_leaveCore]
theorem canonical_execCoreReturn {die core s} (h : Canonical s) : NextKept (execCoreReturn die core s) := by
  grind [execCoreReturn, NextKept, canonical_setCore]

/-! #### Power and temperature -/

theorem canonical_execGateStep {die s} (h : Canonical s) : NextKept (execGateStep die s) := canonical_gateMore h
theorem canonical_execThermalGate {die s} (h : Canonical s) : NextKept (execThermalGate die s) := canonical_gateMore h
theorem canonical_execThermalTrip {die temp s} (h : Canonical s) : NextKept (execThermalTrip die temp s) := by
  grind [execThermalTrip, NextKept, canonical_logFlight, canonical_emit, canonical_foldl, Canonical.iff]

/-! #### Resets -/

theorem canonical_execColdReset {s} (h : Canonical s) : NextKept (execColdReset s) := canonical_coldState h
theorem canonical_execWarmReset {s} (h : Canonical s) : NextKept (execWarmReset s) := canonical_warmState h

/-! #### Boot -/

theorem canonical_execBootRomStart {die img s} (h : Canonical s) : NextKept (execBootRomStart die img s) := by
  grind [execBootRomStart, NextKept, canonical_startFails, canonical_acceptImage]
theorem canonical_execBootRequestTimeout {die s} (h : Canonical s) : NextKept (execBootRequestTimeout die s) := by
  grind [execBootRequestTimeout, NextKept, canonical_askBoot, canonical_bootSilent]
theorem canonical_execBootReadyTimeout {die s} (h : Canonical s) : NextKept (execBootReadyTimeout die s) := by
  grind [execBootReadyTimeout, NextKept, canonical_startFails]
theorem canonical_execDieKernelReady {die s} (h : Canonical s) : NextKept (execDieKernelReady die s) := by
  grind [execDieKernelReady, NextKept, canonical_modDie, canonical_startDone]
theorem canonical_execReadImage {die image offset bytes s} (h : Canonical s) :
    NextKept (execReadImage die image offset bytes s) := by
  grind [execReadImage, NextKept, canonical_modDie, canonical_bootAnswered, canonical_wantNext]

theorem canonical_execGetStartRecord {rec s} (h : Canonical s) : NextKept (execGetStartRecord rec s) := by
  grind [execGetStartRecord, NextKept, canonical_bootAnswered, canonical_onlyDie0, Canonical.iff]
theorem canonical_execPutStartRecord {s} (h : Canonical s) : NextKept (execPutStartRecord s) := by
  grind [execPutStartRecord, NextKept, canonical_bootAnswered, Canonical.iff]
theorem canonical_execFuseBlow {f s} (h : Canonical s) : NextKept (execFuseBlow f s) :=
  h.congr rfl rfl rfl

/-! #### Management -/

theorem canonical_execMctpControl {msg s} (h : Canonical s) : NextKept (execMctpControl msg s) := canonical_openAnswer h
theorem canonical_execPldmRequest {kind die s} (h : Canonical s) : NextKept (execPldmRequest kind die s) := by
  grind [execPldmRequest, NextKept, canonical_answer, canonical_openAnswer]
theorem canonical_execSpdmRequest {msg s} (h : Canonical s) : NextKept (execSpdmRequest msg s) := by
  grind [execSpdmRequest, NextKept, canonical_draw, canonical_answer]
theorem canonical_execGetLimit {s} (h : Canonical s) : NextKept (execGetLimit s) := canonical_answer h
theorem canonical_execSetLimit {watts s} (h : Canonical s) : NextKept (execSetLimit watts s) := by
  grind [execSetLimit, NextKept, canonical_answer, Canonical.iff]
theorem canonical_execReadFr {die seq count s} (h : Canonical s) : NextKept (execReadFr die seq count s) := by
  grind [execReadFr, NextKept, canonical_answer]
theorem canonical_execReadBootwhy {s} (h : Canonical s) : NextKept (execReadBootwhy s) := canonical_answer h
theorem canonical_execClearMinimal {s} (h : Canonical s) : NextKept (execClearMinimal s) := by
  grind [execClearMinimal, NextKept, canonical_answer, canonical_clearMinimalBit]

/-! #### Vector integer, move and mask instructions -/

theorem canonical_vecOp {s hd vs vd f} (h : Canonical s) : NextKept (vecOp s hd vs vd f) :=
  canonical_issue h fun _ => endKept_laneBody h
theorem canonical_vecArith {s hd ty vd va vb sat f} (h : Canonical s) : NextKept (vecArith s hd ty vd va vb sat f) :=
  canonical_vecOp h
theorem canonical_vecBits {s hd ty vd va vb f} (h : Canonical s) : NextKept (vecBits s hd ty vd va vb f) :=
  canonical_vecOp h
theorem canonical_vecBit1 {s hd ty vd va f} (h : Canonical s) : NextKept (vecBit1 s hd ty vd va f) :=
  canonical_vecOp h
theorem canonical_vecCnt {s hd ty vd va f} (h : Canonical s) : NextKept (vecCnt s hd ty vd va f) :=
  canonical_vecOp h
theorem canonical_vecShift {s hd ty vd va vb f} (h : Canonical s) : NextKept (vecShift s hd ty vd va vb f) :=
  canonical_vecBits h
theorem canonical_vecArithImm {s hd ty vd va imm f} (h : Canonical s) : NextKept (vecArithImm s hd ty vd va imm f) :=
  canonical_vecOp h
theorem canonical_vecBitsImm {s hd ty vd va imm f} (h : Canonical s) : NextKept (vecBitsImm s hd ty vd va imm f) :=
  canonical_vecOp h
theorem canonical_vecShiftImm {s hd ty vd va imm f} (h : Canonical s) : NextKept (vecShiftImm s hd ty vd va imm f) :=
  canonical_vecBitsImm h
theorem canonical_carryOp {s hd vd va vb k f} (h : Canonical s) : NextKept (carryOp s hd vd va vb k f) :=
  canonical_issue h fun _ => endKept_laneBody h

/-! #### Masks -/

theorem canonical_maskOp {s hd md f} (h : Canonical s) : NextKept (maskOp s hd md f) :=
  canonical_issue h fun _ => endKept_laneBody h
theorem canonical_maskScalar {s hd sd ma f} (h : Canonical s) : NextKept (maskScalar s hd sd ma f) := by
  refine canonical_issue h fun x => ?_
  refine endKept_withGroup fun g => ?_
  grind [EndKept, bad, endKept_error, canonical_advance, canonical_setS]

/-! #### Vector floating point, conversion, packing and the dot product -/

theorem canonical_fpOp1 {s hd ty vd va f} (h : Canonical s) : NextKept (fpOp1 s hd ty vd va f) :=
  canonical_issue h fun _ => endKept_laneBody h
theorem canonical_fpOp2 {s hd ty vd va vb f} (h : Canonical s) : NextKept (fpOp2 s hd ty vd va vb f) :=
  canonical_issue h fun _ => endKept_laneBody h
theorem canonical_fpLong1 {s hd ty vd va f} (h : Canonical s) : NextKept (fpLong1 s hd ty vd va f) :=
  canonical_issue h fun _ => endKept_longFpBody h

/-! #### The retired encodings -/

theorem canonical_execVdp4E4m3 {hd vd va vb s} (h : Canonical s) : NextKept (execVdp4E4m3 hd vd va vb s) :=
  canonical_issue h fun _ => endKept_counted h fun _ => endKept_longFpBody
theorem canonical_execVfdivF32Fast {hd vd va vb s} (h : Canonical s) : NextKept (execVfdivF32Fast hd vd va vb s) :=
  canonical_issue h fun _ => endKept_counted h fun _ => endKept_longFpBody
theorem canonical_trapped {s r u hd opc} (h : Canonical s) : NextKept (trapped s r u hd opc) := by
  unfold trapped
  have hc : Canonical (match curEx s with
    | some x => countRet s x.pasid opc
    | none => s) := by grind [canonical_countRet]
  refine canonical_issue ?_ fun x => canonical_advance ?_
  all_goals
    split
    · exact hc
    · exact h

theorem canonical_noInstruction {s} (h : Canonical s) : NextKept (noInstruction s) := by
  refine canonical_issue h fun x => ?_
  grind [EndKept, bad, endKept_error]

/-! #### The meaning of every operation and event -/

theorem canonical_exec {i s} (h : Canonical s) : NextKept (exec i s) := by
  cases i with
  | br => exact canonical_execBr h
  | brm => exact canonical_execBrm h
  | jmpi | ret =>
    unfold exec
    exact canonical_issue h fun _ => endKept_goto h
  | call => exact canonical_execCall h
  | calli => exact canonical_execCalli h
  | exit => exact canonical_execExit h
  | spawn => exact canonical_execSpawn h
  | yield => exact canonical_execYield h
  | nop => exact canonical_execNop h
  | trap => exact canonical_execTrap h
  | brk => exact canonical_execBrk h
  | mfs => exact canonical_execMfs h
  | mts => exact canonical_execMts h
  | sadd | ssub | smul | smulh | smin | smax =>
    unfold exec
    exact canonical_scalarArith h
  | sdiv | srem =>
    unfold exec
    exact canonical_scalarDiv h
  | sand | sor | sxor | sandn =>
    unfold exec
    exact canonical_scalarBits h
  | sshl | sshr | ssra | srot =>
    unfold exec
    exact canonical_scalarShift h
  | sclz | spopc | sbfe | sbfi | ssel | scmp | smov | sli | sliHi =>
    unfold exec
    exact canonical_scalarOp h
  | saddImm | smulImm | sandImm | sorImm | sxorImm | sshlImm | sshrImm | ssraImm =>
    unfold exec
    exact canonical_scalarImm h
  | vadd | vsub | vmul | vmulh | vmin | vmax =>
    unfold exec
    exact canonical_vecArith h
  | vmad | vabs | vneg | vbfe | vbfi | vclmul | vli | vlane =>
    unfold exec
    exact canonical_vecOp h
  | vand | vor | vxor | vandn =>
    unfold exec
    exact canonical_vecBits h
  | vnot | vbrev =>
    unfold exec
    exact canonical_vecBit1 h
  | vshl | vshr | vsra =>
    unfold exec
    exact canonical_vecShift h
  | vclz | vpopc =>
    unfold exec
    exact canonical_vecCnt h
  | vaddc | vsubb =>
    unfold exec
    exact canonical_carryOp h
  | vmov | vsel | vbcast | vffma | vfclass | vfcmp | vfcvt | vicvt | vfscale | vpack | vunpack | vpackDense |
    vunpackDense | vcmp | mfroms
    =>
    unfold exec
    exact canonical_issue h fun _ => endKept_laneBody h
  | vaddImm | vsubImm | vmulImm | vminImm | vmaxImm =>
    unfold exec
    exact canonical_vecArithImm h
  | vandImm | vorImm | vxorImm =>
    unfold exec
    exact canonical_vecBitsImm h
  | vshlImm | vshrImm | vsraImm =>
    unfold exec
    exact canonical_vecShiftImm h
  | vfadd | vfsub | vfmul | vfmin | vfmax | vfsgn =>
    unfold exec
    exact canonical_fpOp2 h
  | vfabs | vfneg | vffract | vfround =>
    unfold exec
    exact canonical_fpOp1 h
  | vfrcp | vfrsq | vfsqrt | vfexp2 | vflog2 | vfsin | vfcos =>
    unfold exec
    exact canonical_fpLong1 h
  | vdot =>
    unfold exec
    exact canonical_issue h fun _ => endKept_longFpBody h
  | mand | mor | mxor | mandn | mnot | mmov =>
    unfold exec
    exact canonical_maskOp h
  | mpopc | mffs | mfls | mtos =>
    unfold exec
    exact canonical_maskScalar h
  | voteAny | voteAll | voteBallot | voteUni =>
    unfold exec
    exact canonical_voteOp h
  | shflIdx | shflUp | shflDown | shflXor | vscan | vred =>
    unfold exec
    exact canonical_memberOp h
  | vappend | vreadl | vwritel =>
    unfold exec
    exact canonical_issue h fun _ => endKept_collective h
  | ld | ldx =>
    unfold exec
    exact canonical_loadOp h
  | st | stx =>
    unfold exec
    exact canonical_storeOp h
  | lds | sts | satom =>
    unfold exec
    exact canonical_issue h fun _ => endKept_pathAccess h
  | ldm => exact canonical_execLdm h
  | bcp => exact canonical_execBcp h
  | pf => exact canonical_execPf h
  | atom | cas =>
    unfold exec
    exact canonical_issue h fun _ => endKept_laneAccess h
  | wchg => exact canonical_execWchg h
  | cwb | cinv =>
    unfold exec
    exact canonical_cacheIssue h
  | fence | fenceSc =>
    unfold exec
    exact canonical_fenceOp h
  | tsig => exact canonical_execTsig h
  | twait => exact canonical_execTwait h
  | tread => exact canonical_execTread h
  | bar => exact canonical_execBar h
  | barr => exact canonical_execBarr h
  | barw => exact canonical_execBarw h
  | mzero | mld | mma | mloop | mst =>
    unfold exec
    exact canonical_issue h fun _ => endKept_matBody h
  | mresume => exact canonical_execMresume h
  | rinit => exact canonical_execRinit h
  | racq => exact canonical_execRacq h
  | rrel => exact canonical_execRrel h
  | rstat => exact canonical_execRstat h
  | qpop => exact canonical_execQpop h
  | qack => exact canonical_execQack h
  | launch => exact canonical_execLaunch h
  | irqHost => exact canonical_execIrqHost h
  | irqKern => exact canonical_execIrqKern h
  | qsleep => exact canonical_execQsleep h
  | cpy | cpyProg | cpy2d | cpyg | cpys | cfill =>
    unfold exec
    exact canonical_copyOp h
  | reform =>
    unfold exec
    exact canonical_issue h fun _ => endKept_copyBody h
  | tret => exact canonical_execTret h
  | tlbw => exact canonical_execTlbw h
  | tlbinv => exact canonical_execTlbinv h
  | lprinv => exact canonical_execLprinv h
  | ovld => exact canonical_execOvld h
  | pgrab => exact canonical_execPgrab h
  | ats => exact canonical_execAts h
  | pri => exact canonical_execPri h
  | dmsg => exact canonical_execDmsg h
  | hlt => exact canonical_execHlt h
  | vdp4E4m3 => exact canonical_execVdp4E4m3 h
  | vfdivF32Fast => exact canonical_execVfdivF32Fast h
  | barAll | ldcst =>
    unfold exec
    exact canonical_trapped h
  | txfetch | mmaT8 | unassignedOpcode =>
    unfold exec
    exact canonical_noInstruction h
  | memoryAccessComplete => exact canonical_execMemoryAccessComplete h
  | impreciseFault => exact canonical_execImpreciseFault h
  | bulkCopyLand => exact canonical_execBulkCopyLand h
  | twaitWake => exact canonical_execTwaitWake h
  | waitgeComplete => exact canonical_execWaitgeComplete h
  | wchgWake => exact canonical_execWchgWake h
  | wchgTimeout => exact canonical_execWchgTimeout h
  | barrierPhaseComplete => exact canonical_execBarrierPhaseComplete h
  | racqGrant => exact canonical_execRacqGrant h
  | rrelComplete => exact canonical_execRrelComplete h
  | spinRotation => exact canonical_execSpinRotation h
  | spillExchange => exact canonical_execSpillExchange h
  | trapEntry => exact canonical_execTrapEntry h
  | walkerRequest => exact canonical_execWalkerRequest h
  | matrixStreamStop => exact canonical_execMatrixStreamStop h
  | matrixFault => exact canonical_execMatrixFault h
  | matrixOpComplete => exact canonical_execMatrixOpComplete h
  | copyOpComplete => exact canonical_execCopyOpComplete h
  | copyFaultStop => exact canonical_execCopyFaultStop h
  | kick => exact canonical_execKick h
  | suspack => exact canonical_execSuspack h
  | mbpop => exact canonical_execMbpop h
  | minimalClear => exact canonical_execMinimalClear h
  | deviceRegisterWrite => exact canonical_execDeviceRegisterWrite h
  | qsleepWake => exact canonical_execQsleepWake h
  | queueCreate => exact canonical_execQueueCreate h
  | queueBind => exact canonical_execQueueBind h
  | queueRestart => exact canonical_execQueueRestart h
  | copyContextResume => exact canonical_execCopyContextResume h
  | copyContextAbort => exact canonical_execCopyContextAbort h
  | guestPacket => exact canonical_execGuestPacket h
  | tear => exact canonical_execTear h
  | tearDrainTimeout => exact canonical_execTearDrainTimeout h
  | quarantineEnd => exact canonical_execQuarantineEnd h
  | teamAdmit => exact canonical_execTeamAdmit h
  | admissionWaitExpire => exact canonical_execAdmissionWaitExpire h
  | teamRetire => exact canonical_execTeamRetire h
  | preemptRequest => exact canonical_execPreemptRequest h
  | preemptSave => exact canonical_execPreemptSave h
  | teamResume => exact canonical_execTeamResume h
  | leaseExpire => exact canonical_execLeaseExpire h
  | priResponse => exact canonical_execPriResponse h
  | atsCompletion => exact canonical_execAtsCompletion h
  | atsTimeout => exact canonical_execAtsTimeout h
  | atsInvalidationRequest => exact canonical_execAtsInvalidationRequest h
  | hostCxlAccess => exact canonical_execHostCxlAccess h
  | functionLevelReset => exact canonical_execFunctionLevelReset h
  | map => exact canonical_execMap h
  | prepare => exact canonical_execPrepare h
  | commit => exact canonical_execCommit h
  | ack => exact canonical_execAck h
  | alloc => exact canonical_execAlloc h
  | dieDown => exact canonical_execDieDown h
  | heartbeat => exact canonical_execHeartbeat h
  | heartbeatSend => exact canonical_execHeartbeatSend h
  | heartbeatTimeout => exact canonical_execHeartbeatTimeout h
  | dieFatalError => exact canonical_execDieFatalError h
  | conn => exact canonical_execConn h
  | route => exact canonical_execRoute h
  | dieKernelMessage => exact canonical_execDieKernelMessage h
  | linkTransaction => exact canonical_execLinkTransaction h
  | transactionAck => exact canonical_execTransactionAck h
  | flitReplay => exact canonical_execFlitReplay h
  | rerouteReadTimeout => exact canonical_execRerouteReadTimeout h
  | guestLinkUp => exact canonical_execGuestLinkUp h
  | guestAccess => exact canonical_execGuestAccess h
  | gdone => exact canonical_execGdone h
  | guestFaultReport => exact canonical_execGuestFaultReport h
  | guestAtcTimeout => exact canonical_execGuestAtcTimeout h
  | guestQuiesceTimeout => exact canonical_execGuestQuiesceTimeout h
  | worldChange => exact canonical_execWorldChange h
  | pavaneDrainStart => exact canonical_execPavaneDrainStart h
  | pavaneDrainTimeout => exact canonical_execPavaneDrainTimeout h
  | pavaneSkip => exact canonical_execPavaneSkip h
  | pavaneScanStart => exact canonical_execPavaneScanStart h
  | pavaneScanResult => exact canonical_execPavaneScanResult h
  | coreReturn => exact canonical_execCoreReturn h
  | gateStep => exact canonical_execGateStep h
  | thermalGate => exact canonical_execThermalGate h
  | thermalTrip => exact canonical_execThermalTrip h
  | coldReset => exact canonical_execColdReset h
  | warmReset => exact canonical_execWarmReset h
  | bootRomStart => exact canonical_execBootRomStart h
  | bootRequestTimeout => exact canonical_execBootRequestTimeout h
  | bootReadyTimeout => exact canonical_execBootReadyTimeout h
  | dieKernelReady => exact canonical_execDieKernelReady h
  | mctpControl msg => exact canonical_execMctpControl (msg := msg) h
  | pldmRequest kind die => exact canonical_execPldmRequest (die := die) h
  | spdmRequest => exact canonical_execSpdmRequest h
  | getLimit => exact canonical_execGetLimit h
  | setLimit => exact canonical_execSetLimit h
  | readFr => exact canonical_execReadFr h
  | readBootwhy => exact canonical_execReadBootwhy h
  | clearMinimal => exact canonical_execClearMinimal h
  | readImage => exact canonical_execReadImage h
  | getStartRecord => exact canonical_execGetStartRecord h
  | putStartRecord => exact canonical_execPutStartRecord h
  | contextCreate => exact canonical_execContextCreate h
  | supervisorCoreAccess => exact canonical_execSupervisorCoreAccess h
  | queueUnbind => exact canonical_execQueueUnbind h
  | guestAtcAck => exact canonical_execGuestAtcAck h
  | guestQuiesceReport socket ok => exact canonical_execGuestQuiesceReport (ok := ok) h
  | guestAtsRequest => exact canonical_execGuestAtsRequest h
  | guestContextBind => exact canonical_execGuestContextBind h
  | guestFenceLift => exact canonical_execGuestFenceLift h
  | hostSnoop => exact canonical_execHostSnoop h
  | virtualFunctionAssign => exact canonical_execVirtualFunctionAssign h
  | fuseBlow => exact canonical_execFuseBlow h

/-! #### The default schedule -/

theorem canonical_actOnMessage {s die} (h : Canonical s) : NextKept (actOnMessage s die) := by
  unfold actOnMessage
  split
  · exact h
  · split
    · exact canonical_execMap h
    · exact canonical_execPrepare h
    · exact canonical_execCommit h
    · exact canonical_execAck h
    · exact canonical_execAlloc h
    · exact canonical_execDieDown h
    · exact canonical_execHeartbeat h
    · exact canonical_execConn h
    · exact canonical_execRoute h
    · exact canonical_execDieKernelMessage h

/-! #### One step of the module -/

theorem canonical_issueWord {s x} (h : Canonical s) : NextKept (issueWord s x) := by
  unfold issueWord
  split
  · exact canonical_raiseOn h
  · next hf => exact canonical_fetchWord_hold h hf
  · next w u hf =>
    have hu := canonical_fetchWord h hf
    split
    · exact canonical_raiseOn hu
    · exact canonical_exec (hu.congr rfl rfl rfl)

theorem canonical_runExecutor {s e} (h : Canonical s) : NextKept (runExecutor s e) := by
  unfold runExecutor
  split
  · exact h
  split
  · exact h
  split
  · next hb => exact canonical_boundary h hb
  split
  · exact canonical_headerStep h
  split
  · exact h
  · exact canonical_issueWord h

theorem canonical_step {s} (h : Canonical s) : NextKept (step s) := by
  have hr : ∀ l, Canonical { s with agenda := l } := fun l => h.congr rfl rfl rfl
  unfold step
  split
  · exact hr _
  · exact canonical_runExecutor (hr _)
  · split
    · exact hr _
    · exact canonical_runExecutor (hr _)
  · split
    · exact canonical_exec (hr _)
    · exact hr _
  · split
    · exact hr _
    · exact canonical_actOnMessage (hr _)
  · exact canonical_passTime (hr _)
  · exact canonical_columnCycle (hr _)
  · show Canonical _
    split
    · exact hr _
    · exact canonical_choice (hr _)

/-- Settles O59: a step goes on through operations that each keep the memories in their canonical form. -/
theorem stepKeepsCanonical : Obligations.StepKeepsCanonical := by
  unfold Obligations.StepKeepsCanonical
  intro s t h ht
  have hk := canonical_step h
  rwa [ht] at hk

/-- Settles O58: at reset no byte is listed. -/
theorem canonicalAtReset : Obligations.CanonicalAtReset := by
  unfold Obligations.CanonicalAtReset
  obtain ⟨hm, hh, hg⟩ := canonical_reset_empty
  exact ⟨by rw [hm]; rfl, by rw [hh]; rfl, by rw [hg]; rfl⟩

end Sys2Proof.Machine

end

section
/-! Timelines and the reset state (O31, O60). -/
namespace Sys2Proof.Machine

theorem tlWrite_of_le {s : State} {die t : Nat} {v : W64} (h : (tlGet s die t).toNat ≤ v.toNat) :
    tlWrite s die t v = { s with tl := sset 0 s.tl (tlKey die t) v } := if_pos h

theorem tlWrite_of_lt {s : State} {die t : Nat} {v : W64} (h : v.toNat < (tlGet s die t).toNat) :
    tlWrite s die t v = { s with tldisc := sset false s.tldisc (tlKey die t) true } := if_neg (Nat.not_le.mpr h)

/-- Settles O31: the written value is kept or noted as discarded, as it is not lower or lower. -/
theorem timelineRule : Obligations.TimelineRule := by
  unfold Obligations.TimelineRule
  intro s die t v u
  obtain h | h := le_or_gt (tlGet s die t).toNat v.toNat
  · have hu : u = _ := tlWrite_of_le h
    have hn : ¬ v.toNat < (tlGet s die t).toNat := Nat.not_lt.mpr h
    rw [hu]
    exact ⟨by simpa [tlGet] using h, fun k hk => by simp [timelineAt, sget_sset_ne, hk], fun k => by simp [hn], rfl⟩
  · have hu : u = _ := tlWrite_of_lt h
    rw [hu]
    refine ⟨by simpa [tlGet] using h.le, fun k _ => rfl, fun k => ?_, rfl⟩
    by_cases hk : k = tlKey die t <;> simp [sget_sset, hk, h]

/-! ### What a cold reset leaves -/

theorem reset_conn {d : Die} (hd : d ∈ State.reset.dies) : d.conn = bootConn ∧ d.flight = [] ∧ d.fseq = 0 := by
  obtain ⟨n, -, rfl⟩ := List.mem_map.mp hd
  exact ⟨rfl, rfl, rfl⟩

/-- The first 66 entries connect the pairs of dies. -/
theorem bootConn_pairs : ∀ k < 66, connV (sget 0 bootConn k) = true ∧ connOpt (sget 0 bootConn k) = false ∧
    diePairs[k]? = some (connSrc (sget 0 bootConn k), connDst (sget 0 bootConn k)) ∧ connWaves (sget 0 bootConn k) = 2 := by
  decide +kernel

/-- The next 64 connect the ports. -/
theorem bootConn_ports : ∀ p < 64, connV (sget 0 bootConn (66 + p)) = true ∧ connOpt (sget 0 bootConn (66 + p)) = true ∧
    connSrc (sget 0 bootConn (66 + p)) = p % 12 ∧ connDst (sget 0 bootConn (66 + p)) = p ∧ connWaves (sget 0 bootConn (66 + p)) = 2 := by
  decide +kernel

theorem bootConn_free : ∀ k < 126, connV (sget 0 bootConn (130 + k)) = false := by
  decide +kernel

/-- Settles O60. -/
theorem resetValues : Obligations.ResetValues := by
  unfold Obligations.ResetValues
  refine ⟨fun a => ⟨fun _ => rfl, rfl, rfl⟩, rfl, rfl, rfl, rfl, fun d hd => ?_⟩
  obtain ⟨hc, hf, hs⟩ := reset_conn hd
  rw [hc]
  exact ⟨hf, hs, bootConn_pairs, bootConn_ports, bootConn_free⟩

end Sys2Proof.Machine
end

section
/-! Accesses at their homes (O25, O27, O29): what leaves every byte of memory as it is, what a store writes and a load brings, and the walker
routine, whose own accesses walk the tables themselves. -/
namespace Sys2Proof.Machine

/-! ### The walker routine's own accesses (R294; log entry 85) -/

/-- The walker routine's own accesses go to a place or raise a cause: none of them waits for the routine. -/
theorem walkerOwn_ne_miss (s : State) (x : Ex) (k : AccKind) (va : W64) : (walkerOwn s x k va).1 ≠ .miss := by
  unfold walkerOwn
  split <;> simp

/-- An access of the walker group that misses every level is not reported as a miss. -/
theorem findLane_walker_ne_miss {s : State} {x : Ex} {g : Group} {k : AccKind} {lane : Option Nat} {va : W64}
    (hh : halfCheck va k.user true = none) (ha : va.toNat % k.size = 0) (hw : inWindow va = false) (hd : deniedAt x.p va = none)
    (hl : lookup s x g.gid lane va (k.write || k.atomic) = none) (hg : g.isWalker = true) :
    (findLane s x g k lane va).1 ≠ .miss := by
  have hf : findLane s x g k lane va = walkerOwn s x k va := by
    simp [findLane, hh, ha, hw, hd, hl, hg]
  rw [hf]
  exact walkerOwn_ne_miss s x k va

/-- A miss of a load at address 0. -/
def routineMiss : Miss :=
  { gid := 768, pid := 1, pasid := 0, va := 0, write := false, fetch := false, hroot := false, mat := false, lanes := 0xFF#64, whole := true }

/-- A path of handler code past its header. -/
def routinePath : Path := placedPath 0 true

/-- The walker group of core 0 of die 0 with that path, as it works on that miss after a reset. -/
def routineGroup : Group :=
  { walkerGroup State.reset 0 0 routineMiss 0x1000#64 1 with stack := { a := some routinePath, b := none, rest := [] } }

/-- Its executor. -/
def routineEx : Ex :=
  { who := .grp 0 0, p := routinePath, g := some routineGroup, die := 0, core := 0, pasid := 0, user := false, secure := false }

/-- The memory operand of four bytes at address 0: every scalar register of the path is 0. -/
def routineArg : MemArg := ⟨0, 1, 0xFF, .b32, .weak, .plain, 0, false, 0, 0⟩

/-- Every lane of the path. -/
def routineHead : Head := ⟨0, false, false, 0, false⟩

/-- The module with that group at its word, and with tables for context 0: the root at 0 names the table at 0x1000, whose first entry is a leaf
over HBM from address 0, neither accessed nor written (R157). -/
def routineWorld : State :=
  { State.reset with
    groups := [routineGroup], cur := some (.grp 0 0),
    mem := [(0, 0x01), (1, 0x10), (0x1000, 0x03), (0x1001, 0x01), (0x1007, 0x04)] }

theorem routineWorld_unfailed (z : Nat) : unitFailed routineWorld z = false := by
  have hall : ∀ d ∈ State.reset.dies, d.failed = [] := fun d hd => by
    obtain ⟨n, -, rfl⟩ := List.mem_map.mp hd
    rfl
  unfold unitFailed
  split
  · next d hd =>
    rw [hall d (List.mem_of_find?_eq_some hd)]
    rfl
  · rfl

theorem routineEx_ready : Ready routineWorld routineEx { memRule with hint := true } { vs := [], ss := [1] } (some routineHead) where
  cur := rfl
  here := rfl
  free := by decide +kernel
  listed := rfl
  budget := by decide +kernel
  last := by decide
  legal := rfl
  mode := rfl
  role := rfl
  whole := rfl
  kept := by decide
  clear := by decide
  clean := by decide

/-- The prefetch of the walker group sets A in the leaf's entry, the byte at 0x1000 (R159). -/
theorem exec_pf_routine : (match exec (.pf routineHead routineArg) routineWorld with
    | .next t => byteAt t 0x1000
    | _ => 0) = 0x43 := by
  decide +kernel

/-- Refutes O25: right after reset no level holds a translation of address 0, and the load of the walker group there does not miss: the
tables are read for it. -/
theorem not_accessChecksInOrder : ¬ Obligations.AccessChecksInOrder := by
  unfold Obligations.AccessChecksInOrder
  intro h
  let k : AccKind := memKind State.reset routineEx routineArg false false
  have hh : halfCheck 0 k.user true = none := by decide +kernel
  have ha : (0 : W64).toNat % k.size = 0 := rfl
  have hw : inWindow 0 = false := by decide +kernel
  have hd : deniedAt routineEx.p 0 = none := rfl
  have hl : lookup State.reset routineEx routineGroup.gid none 0 (k.write || k.atomic) = none := by decide +kernel
  obtain ⟨-, -, hmiss, -⟩ := (h State.reset routineEx routineGroup k none 0).2.2 hh ha
  exact findLane_walker_ne_miss hh ha hw hd hl rfl (congrArg Prod.fst (hmiss hw hd hl))

/-- Refutes O29: `pf` of the walker group, whose address misses every level, walks the tables and sets A in the entry that it uses, so that a
byte of memory changes though no unit has failed and no remote line is held. -/
theorem not_cacheAndBulkWordsComplete : ¬ Obligations.CacheAndBulkWordsComplete := by
  unfold Obligations.CacheAndBulkWordsComplete
  intro h
  obtain ⟨t, ht, -, -, hmem⟩ := (h.1 routineWorld routineEx routineHead routineArg).1 routineEx_ready
  have hbyte := exec_pf_routine
  rw [ht] at hbyte
  have hsame := (hmem routineWorld_unfailed (by decide)).1.fabric 0x1000
  have hadv := (onlyExecutors_advance t routineEx).sameMemory.fabric 0x1000
  rw [show byteAt (advance t routineEx) 0x1000 = 0x43 from hbyte, hsame] at hadv
  exact absurd hadv (by decide +kernel)

/-! ### What leaves every byte of memory -/

theorem SameMemory.refl (s : State) : SameMemory s s := ⟨fun _ => rfl, fun _ => rfl, fun _ => rfl, fun _ _ => rfl⟩

theorem SameMemory.trans {s t u : State} (h : SameMemory s t) (k : SameMemory t u) : SameMemory s u :=
  ⟨fun a => (k.fabric a).trans (h.fabric a), fun a => (k.host a).trans (h.host a), fun a => (k.guest a).trans (h.guest a),
    fun n a => (k.scratch n a).trans (h.scratch n a)⟩

/-- A state with the same memories and teams has the same bytes. -/
theorem sameMemory_of {s t : State} (hm : t.mem = s.mem) (hh : t.hostMem = s.hostMem) (hg : t.guestMem = s.guestMem)
    (ht : t.teams = s.teams) : SameMemory s t :=
  ⟨fun a => by simp only [byteAt, hm], fun a => by simp only [hostByteAt, hh], fun a => by simp only [guestByteAt, hg],
    fun n a => by simp only [scratchAt, team?, ht]⟩

theorem sameMemory_foldl {α : Type} {f : State → α → State} (hf : ∀ s a, SameMemory s (f s a)) (l : List α) (s : State) :
    SameMemory s (l.foldl f s) := by
  induction l generalizing s with
  | nil => exact .refl s
  | cons a l ih => exact (hf s a).trans (ih (f s a))

theorem team?_modTeam (s : State) (t n : Nat) (f : Team → Team) (hf : ∀ x, (f x).tid = x.tid) :
    team? (modTeam s t f) n = (team? s n).map fun x => if x.tid = t then f x else x := by
  rw [team?, modTeam_teams, find?_modWhere _ _ _ _ (by simp [hf])]
  simp [team?]

theorem team?_tid {s : State} {n : Nat} {x : Team} (h : team? s n = some x) : x.tid = n := by
  simpa [team?] using List.find?_some h

/-- A change of a team that leaves its number and its scratchpad leaves every byte. -/
theorem sameMemory_modTeam (s : State) (t : Nat) (f : Team → Team) (hf : ∀ x, (f x).tid = x.tid ∧ (f x).smem = x.smem) :
    SameMemory s (modTeam s t f) := by
  refine ⟨fun _ => rfl, fun _ => rfl, fun _ => rfl, fun n a => ?_⟩
  rw [scratchAt, scratchAt, team?_modTeam s t n f fun x => (hf x).1]
  cases team? s n with
  | none => rfl
  | some x =>
    simp only [Option.map_some]
    split
    · rw [(hf x).2]
    · rfl

theorem sameMemory_clearUnit (s : State) (die : Nat) (p : Place) : SameMemory s (clearUnit s die p) := by
  unfold clearUnit
  dsimp only
  split
  · exact sameMemory_of rfl rfl rfl rfl
  · split <;> exact sameMemory_of rfl rfl rfl rfl

/-- Clearing marks of poison changes no byte. -/
theorem sameMemory_clearWhole (s : State) (die : Nat) (ws new : List (Place × Nat)) : SameMemory s (clearWhole s die ws new) := by
  unfold clearWhole
  refine .trans (.trans ?_ (sameMemory_foldl (fun s w => ?_) new _)) (sameMemory_foldl (fun s w => ?_) new _)
  · split
    · exact .refl s
    · exact sameMemory_of rfl rfl rfl rfl
  · split
    · dsimp only
      split
      · exact sameMemory_clearUnit ..
      · exact .refl s
    · exact .refl s
  · split
    · dsimp only
      split
      · exact sameMemory_modTeam _ _ _ fun _ => ⟨rfl, rfl⟩
      · exact .refl s
    · exact .refl s

theorem clearUnit_groups (s : State) (die : Nat) (p : Place) : (clearUnit s die p).groups = s.groups := by
  unfold clearUnit
  dsimp only
  repeat' split
  all_goals rfl

theorem clearWhole_groups (s : State) (die : Nat) (ws new : List (Place × Nat)) : (clearWhole s die ws new).groups = s.groups := by
  unfold clearWhole
  refine (foldl_keeps _ State.groups (fun s w => ?_) new _).trans ((foldl_keeps _ State.groups (fun s w => ?_) new _).trans ?_)
  · split
    · dsimp only
      split <;> rfl
    · rfl
  · split
    · dsimp only
      split
      · exact clearUnit_groups ..
      · rfl
    · rfl
  · split <;> rfl

/-! ### Completion -/

theorem onlyExecutors_foldl {α : Type} {f : State → α → State} (hf : ∀ s a, OnlyExecutors s (f s a)) (l : List α) (s : State) :
    OnlyExecutors s (l.foldl f s) := by
  induction l generalizing s with
  | nil => exact .refl s
  | cons a l ih => exact (hf s a).trans (ih (f s a))

theorem onlyExecutors_finishOps (s : State) : OnlyExecutors s (finishOps s) :=
  .trans (b := { s with ops := s.ops.filter fun o => !o.isDone }) rfl (onlyExecutors_foldl (fun s (o : MemOp) => onlyExecutors_modPath s o.who o.pid _) _ _)

theorem pathsOnly_foldl {α : Type} {f : State → α → State} {gid : Nat}
    (hf : ∀ s a g, grp? s gid = some g → ∃ g', grp? (f s a) gid = some g' ∧ PathsOnly g g') (l : List α) {s : State} {g : Group}
    (h : grp? s gid = some g) : ∃ g', grp? (l.foldl f s) gid = some g' ∧ PathsOnly g g' := by
  induction l generalizing s g with
  | nil => exact ⟨g, h, .refl g⟩
  | cons a l ih =>
    obtain ⟨g1, h1, p1⟩ := hf s a g h
    obtain ⟨g2, h2, p2⟩ := ih h1
    exact ⟨g2, h2, p1.trans p2⟩

theorem pathsOnly_finishOps {s : State} {gid : Nat} {g : Group} (h : grp? s gid = some g) :
    ∃ g', grp? (finishOps s) gid = some g' ∧ PathsOnly g g' :=
  pathsOnly_foldl (fun _ o _ => pathsOnly_modPath o.who o.pid _) _ (s := { s with ops := s.ops.filter fun o => !o.isDone }) h

theorem lanesOf_one {lane : Nat} (h : lane < 64) : lanesOf (BitVec.ofNat 64 (2 ^ lane)) = [lane] := by
  revert lane
  decide +kernel

theorem performAll_one {s u : State} {id : Nat} {c : MemChoice} {o : MemOp} {a : Acc} (ho : s.ops.find? (fun o => o.id == id) = some o)
    (hc : canPerform s o a = true) (hl : leaves o a = none) (hp : performAcc s o a c = (u, none)) :
    performAll id c [a] s = (accDone (noteDone u o a) o a, none) := by
  simp only [performAll, ho, hc, hl, hp, Bool.not_true, Bool.false_eq_true, if_false]

/-- An event that performs the one access of a lane: what the access does, and then only marks, executors and operations change. -/
theorem completeAccess_one {s u : State} {id lane : Nat} {c : MemChoice} {o : MemOp} {a : Acc}
    (ho : s.ops.find? (fun o => o.id == id) = some o) (hk : ∀ wv ws fl, o.kind ≠ .alu wv ws fl) (hlane : lane < 64)
    (ha : laneAccs o c lane = [a]) (hc : canPerform s o a = true) (hl : leaves o a = none) (hp : performAcc s o a c = (u, none)) :
    ∃ t, exec (.memoryAccessComplete id (BitVec.ofNat 64 (2 ^ lane)) c) s = .next t ∧ SameMemory u t ∧
      ∀ gid g, grp? u gid = some g → ∃ g', grp? t gid = some g' ∧ PathsOnly g g' := by
  have hall : performAll id c ([lane].flatMap (laneAccs o c)) s = (accDone (noteDone u o a) o a, none) := by
    rw [List.flatMap_singleton, ha]
    exact performAll_one ho hc hl hp
  obtain ⟨all, new, hw⟩ : ∃ all new, performLanes id c [lane] s =
      (clearWhole (accDone (noteDone u o a) o a) (placeOf (accDone (noteDone u o a) o a) o.who).1 all new, none) := by
    simp only [performLanes, ho, hall]
    exact ⟨_, _, rfl⟩
  have hn : OnlyExecutors u (noteDone u o a) := by
    unfold noteDone
    split <;> rfl
  have hg : (noteDone u o a).groups = u.groups := by
    unfold noteDone
    split <;> rfl
  refine ⟨_, rfl, ?_, fun gid g h => ?_⟩
  · rw [completeAccess, ho]
    dsimp only
    split
    · next h => exact absurd h (hk _ _ _)
    rw [lanesOf_one hlane, hw]
    exact ((hn.trans (c := accDone (noteDone u o a) o a) rfl).sameMemory.trans (sameMemory_clearWhole _ _ _ _)).trans
      (onlyExecutors_finishOps _).sameMemory
  · rw [completeAccess, ho]
    dsimp only
    split
    · next h => exact absurd h (hk _ _ _)
    rw [lanesOf_one hlane, hw]
    refine pathsOnly_finishOps ?_
    rw [grp?, clearWhole_groups]
    exact (congrArg (List.find? fun g : Group => g.gid == gid) hg).trans h

/-! ### An access at its home -/

/-- The home die of an access that may be performed, and whose place is not lost, answers. -/
theorem dieUp_of_canPerform {s : State} {o : MemOp} {a : Acc} {y mt : Nat} {ccl gr : Nat} {repl : Bool} (hc : canPerform s o a = true)
    (hl : placeLost s (placeOf s o.who).1 a.place = false) (hp : a.place = .fab y mt ccl gr repl) (hd : fabDie y < 12) :
    dieUp s (fabDie y) = true := by
  simp only [canPerform, Bool.and_eq_true, Bool.not_eq_true', homeSilent, hp, Place.home, hd, if_true, Option.any_some] at hc
  rw [placeLost, hp, Place.home, if_pos hd, Option.any_some] at hl
  have hq := hc.1.1.1.1.2
  simpa [hl] using hq

/-! ### A store at its home -/

section Store
variable {s : State} {o : MemOp} {a : Acc} {c : MemChoice}

/-- A store that is no release, at a place whose tag agrees, writes its bytes. -/
theorem performSt_clean (hr : ordRel o.ord = false) (hl : placeLost s (placeOf s o.who).1 a.place = false) (he : c.ecc = .clean)
    (hf : ∀ z, unitFailed s z = false) (hg : isHbm a.place = true → placeGran a.place = granOf s (placeAddr a.place)) :
    performSt s o a c = (writePlace s (placeOf s o.who).1 (placeOf s o.who).2 a.place (cleanBytes a.data) o.scope o.ch c, none) := by
  simp only [performSt, hl, he, eccApply_clean hg (hf _), hr, Bool.false_eq_true, if_false]

/-- Outside the device registers and the memory that a die holds remotely, a write goes to its home; only the core's own copies change before. -/
theorem writePlace_home {die core : Nat} {p : Place} {bs : List PByte} {sc : Scope} {ch : BitVec 2} (hd : isDev p = false)
    (hr : remotable die p = false) : ∃ l1, writePlace s die core p bs sc ch c = writeHome { s with l1 := l1 } p bs := by
  have hv : writePlace s die core p bs sc ch c = writeVia s die core p bs sc ch c := by
    unfold writePlace
    split
    · next y mt ccl gr repl =>
      rw [if_neg]
      rintro ⟨rfl, hy⟩
      simp [isDev, hy] at hd
    · rfl
  rw [hv, writeVia, hr]
  simp only [Bool.false_eq_true, if_false]
  split
  · split <;> exact ⟨_, rfl⟩
  · exact ⟨s.l1, rfl⟩

end Store

theorem cleanBytes_fst (l : List Byte) : (cleanBytes l).map (fun b => b.1) = l := by
  simp [cleanBytes, Function.comp_def]

/-- What reading a range that holds `l` gives. -/
theorem sget_ssetN_inside {m : SMap Byte} {l : List Byte} {y k : Nat} (h : k < l.length) :
    sget 0 (ssetN 0 m y l) (y + k) = (l[k]?).getD 0 := by
  rw [sget_ssetN, if_pos (by omega), Nat.add_sub_cancel_left, List.getD_eq_getElem?_getD]

theorem sget_ssetN_apart {m : SMap Byte} {l : List Byte} {y z : Nat} (h : z < y ∨ y + l.length ≤ z) :
    sget 0 (ssetN 0 m y l) z = sget 0 m z := sget_ssetN_outside 0 l m (by omega)

/-- A write to HBM or a vault: its bytes, and marks of poison at the home and in the operations under way. -/
theorem writeFab_eq (s : State) (a : Nat) (bs : List PByte) : ∃ pois l2bad ops,
    writeFab s a bs = { s with mem := ssetN 0 s.mem a (bs.map fun b => b.1), pois := pois, l2bad := l2bad, ops := ops } := by
  have ht : ∀ hit, ∃ ops, taint s hit = { s with ops := ops } := fun hit => by
    unfold taint
    split <;> exact ⟨_, rfl⟩
  unfold writeFab
  split
  · obtain ⟨ops, ho⟩ := ht _
    rw [taintFab, ho]
    exact ⟨_, _, _, rfl⟩
  · exact ⟨_, _, _, rfl⟩

theorem sameMemory_backInvalidate (s : State) (a n : Nat) : SameMemory s (backInvalidate s a n) := by
  unfold backInvalidate
  refine sameMemory_foldl (fun s l => ?_) _ s
  exact sameMemory_of rfl rfl rfl rfl

/-- A write to HBM or a vault of a die that answers, without a mirror. -/
theorem writeHome_fab (s : State) {y mt ccl gr : Nat} {bs : List PByte} (hd : fabDie y < 12) (hu : dieUp s (fabDie y) = true)
    (hr : regionOf (fabOff y) ≠ .tline) :
    writeHome s (.fab y mt ccl gr false) bs = writeFab (if ccl = 2 then backInvalidate s y bs.length else s) y bs := by
  simp only [writeHome, if_neg (Nat.not_le.mpr hd), hu, Bool.not_true, Bool.false_and, Bool.false_eq_true, if_false]

/-- The bytes of memory after a write to HBM or a vault. -/
theorem bytes_writeHome_fab (s : State) {y mt ccl gr : Nat} {l : List Byte} (hd : fabDie y < 12) (hu : dieUp s (fabDie y) = true)
    (hr : regionOf (fabOff y) ≠ .tline) :
    let t := writeHome s (.fab y mt ccl gr false) (cleanBytes l)
    (∀ k, k < l.length → byteAt t (y + k) = (l[k]?).getD 0) ∧ (∀ z, z < y ∨ y + l.length ≤ z → byteAt t z = byteAt s z) ∧
    (∀ z, hostByteAt t z = hostByteAt s z) ∧ (∀ z, guestByteAt t z = guestByteAt s z) ∧ ∀ w z, scratchAt t w z = scratchAt s w z := by
  intro t
  obtain ⟨u, hm, ht⟩ : ∃ u, SameMemory s u ∧ t = writeFab u y (cleanBytes l) := by
    refine ⟨_, ?_, writeHome_fab s hd hu hr⟩
    split
    · exact sameMemory_backInvalidate ..
    · exact .refl s
  obtain ⟨pois, l2bad, ops, hw⟩ := writeFab_eq u y (cleanBytes l)
  rw [ht, hw, cleanBytes_fst]
  exact ⟨fun k hk => sget_ssetN_inside hk, fun z hz => (sget_ssetN_apart hz).trans (hm.fabric z), hm.host, hm.guest, hm.scratch⟩

theorem bytes_writeHome_host (s : State) {b y ccl : Nat} {l : List Byte} :
    let t := writeHome s (.host b y ccl) (cleanBytes l)
    (∀ k, k < l.length → hostByteAt t (hostKey b y + k) = (l[k]?).getD 0) ∧
    (∀ z, z < hostKey b y ∨ hostKey b y + l.length ≤ z → hostByteAt t z = hostByteAt s z) ∧
    (∀ z, byteAt t z = byteAt s z) ∧ (∀ z, guestByteAt t z = guestByteAt s z) ∧ ∀ w z, scratchAt t w z = scratchAt s w z := by
  simp only [writeHome, cleanBytes_fst]
  exact ⟨fun k hk => sget_ssetN_inside hk, fun z hz => sget_ssetN_apart hz, fun _ => rfl, fun _ => rfl, fun _ _ => rfl⟩

theorem writeScratch_clean (s : State) (w j y : Nat) (l : List Byte) :
    writeScratch s w j y (cleanBytes l) = modTeam s w fun t =>
      { t with smem := ssetN 0 t.smem (scrKey j y) l, spois := scrPoison t.spois (scrKey j y) (cleanBytes l) } := by
  have hc : (cleanBytes l).any (fun b => b.2) = false := by simp [cleanBytes]
  simp only [writeScratch, hc, cleanBytes_fst, Bool.false_eq_true, if_false]

theorem bytes_writeHome_scratch {s : State} {w j y : Nat} {l : List Byte} {x : Team} (hx : team? s w = some x) :
    let t := writeHome s (.scratch w j y) (cleanBytes l)
    (∀ k, k < l.length → scratchAt t w (scrKey j y + k) = (l[k]?).getD 0) ∧
    (∀ v z, v ≠ w ∨ z < scrKey j y ∨ scrKey j y + l.length ≤ z → scratchAt t v z = scratchAt s v z) ∧
    (∀ z, byteAt t z = byteAt s z) ∧ (∀ z, hostByteAt t z = hostByteAt s z) ∧ ∀ z, guestByteAt t z = guestByteAt s z := by
  have hs : ∀ v z, scratchAt (writeHome s (.scratch w j y) (cleanBytes l)) v z =
      if v = w then sget 0 (ssetN 0 x.smem (scrKey j y) l) z else scratchAt s v z := fun v z => by
    rw [writeHome, writeScratch_clean, scratchAt, team?_modTeam]
    case hf => exact fun _ => rfl
    by_cases hv : v = w
    · simp only [hv, hx, Option.map_some, team?_tid hx, if_true]
    · rw [scratchAt, if_neg hv]
      cases hu : team? s v with
      | none => rfl
      | some u => simp only [Option.map_some, team?_tid hu, if_neg hv]
  refine ⟨fun k hk => ?_, fun v z hz => ?_, ?_⟩
  · rw [hs, if_pos rfl]
    exact sget_ssetN_inside hk
  · rw [hs]
    split
    · next hv =>
      rw [sget_ssetN_apart (hz.resolve_left (not_not.mpr hv)), scratchAt, hv, hx]
    · rfl
  · rw [writeHome, writeScratch_clean]
    exact ⟨fun _ => rfl, fun _ => rfl, fun _ => rfl⟩

/-! ### A load at its home -/

/-- Where no unit has failed, none becomes uncorrectable before a read (R180). -/
theorem spoilFailed_none {s : State} (hf : ∀ z, unitFailed s z = false) (a n : Nat) : spoilFailed s a n = s := by
  unfold spoilFailed
  split
  · rfl
  · refine List.foldl_fixed' (fun b => ?_) _
    simp [unitLost_of_not_failed (hf b)]

/-- A read of HBM or a vault that no copy serves brings the bytes of its home; only the core's own copies change. -/
theorem readPlace_home {s : State} {die core y mt ccl gr n : Nat} {repl : Bool} {sc : Scope} {ch : BitVec 2} {c : MemChoice}
    (hmt : mt ≠ 2) (hr : remotable die (.fab y mt ccl gr repl) = false) (h1 : c.useL1 = false) (h2 : c.fillL1 = false) (hd : fabDie y < 12)
    (hu : dieUp s (fabDie y) = true) (hreg : regionOf (fabOff y) ≠ .tline) (hf : ∀ z, unitFailed s z = false) :
    ∃ l1, readPlace s die core (.fab y mt ccl gr repl) n sc ch c = (readFab s y n, { s with l1 := l1 }) := by
  have home : ∀ l1, readHome { s with l1 := l1 } (.fab y mt ccl gr repl) n = (readFab s y n, { s with l1 := l1 }) := fun l1 => by
    have hu' : dieUp { s with l1 := l1 } (fabDie y) = true := hu
    simp only [readHome, if_neg (Nat.not_le.mpr hd), hu', Bool.not_true, Bool.false_eq_true, if_false]
    rw [spoilFailed_none (s := { s with l1 := l1 }) hf]
    rfl
  simp only [readPlace, hmt, false_and, if_false, readVia, hr, Bool.false_eq_true, h1, h2, Bool.and_false, Bool.false_and]
  split
  · split
    · exact ⟨_, home _⟩
    · exact ⟨_, home s.l1⟩
  · exact ⟨_, home s.l1⟩

/-- A plain load of a group at a place in HBM or a vault writes into its register what the place holds, the first byte the least significant. -/
theorem performLd_home {s : State} {o : MemOp} {a : Acc} {c : MemChoice} {y mt ccl gr : Nat} {repl : Bool} (hp : a.place = .fab y mt ccl gr repl)
    (hord : o.ord = .plain) (hmt : mt ≠ 2) (hl : placeLost s (placeOf s o.who).1 a.place = false)
    (hr : remotable (placeOf s o.who).1 a.place = false) (he : c.ecc = .clean)
    (h1 : c.useL1 = false) (h2 : c.fillL1 = false) (hd : fabDie y < 12) (hu : dieUp s (fabDie y) = true) (hreg : regionOf (fabOff y) ≠ .tline)
    (hf : ∀ z, unitFailed s z = false) (hg : isHbm a.place = true → placeGran a.place = granOf s (placeAddr a.place)) :
    ∃ l1, performLd s o a c = (setDest { s with l1 := l1 } o a (readFab s y o.bytes), none) := by
  obtain ⟨c', hc', h1', h2'⟩ : ∃ c', (if (placeOf s o.who).2 = 64 then { c with useL1 := false, fillL1 := false } else c) = c' ∧
      c'.useL1 = false ∧ c'.fillL1 = false := by
    refine ⟨_, rfl, ?_, ?_⟩ <;> split <;> trivial
  obtain ⟨l1, hread⟩ := readPlace_home (s := s) (die := (placeOf s o.who).1) (core := (placeOf s o.who).2) (n := o.bytes) (sc := o.scope)
    (ch := o.ch) hmt (hp ▸ hr) h1' h2' hd hu hreg hf
  refine ⟨l1, ?_⟩
  have hecc : eccApply s a.place c.ecc = (s, false) := he ▸ eccApply_clean hg (hf _)
  simp only [performLd, hl, hecc, hc', hord, ordAcq, Bool.false_eq_true, if_false]
  rw [hp, hread]

theorem onlyExecutors_setDest (s : State) (o : MemOp) (a : Acc) (bs : List PByte) : OnlyExecutors s (setDest s o a bs) := by
  unfold setDest
  dsimp only
  split
  · rfl
  · exact onlyExecutors_modPath ..
  · exact .refl s

theorem wrVP_gid (g : Group) (r i : Nat) (v : W32) (b : Bool) : (wrVP g r i v b).gid = g.gid := by
  unfold wrVP
  dsimp only
  repeat' split
  all_goals rfl

/-- What a load leaves in its registers; one of sixteen bytes writes the pair of the half that it brings. -/
theorem setDest_vec {s : State} {o : MemOp} {a : Acc} {bs : List PByte} {r gid slot : Nat} {g : Group} (hdest : o.dest = .vec r)
    (hw : o.who = .grp gid slot) (hg : grp? s gid = some g) (hlane : a.lane < 64) :
    ∃ g', grp? (setDest s o a bs) gid = some g' ∧ (o.size ≠ 16 →
      rdV g' r a.lane = BitVec.ofNat 32 (ofBytes (bs.map fun b => b.1)) ∧
      (4 < o.size → rdV g' (r + 1) a.lane = BitVec.ofNat 32 (ofBytes (bs.map fun b => b.1) / 2 ^ 32))) := by
  simp only [setDest, hdest, hw]
  refine ⟨_, grp?_modGrp_self _ (fun g => ?_) hg, fun hs => ⟨?_, fun h4 => ?_⟩⟩
  · split
    · rw [wrVP_gid]
    · rw [wrVP_gid, wrVP_gid]
  · split <;> simp [hs, rdV_wrVP, hlane]
  · simp [hs, Nat.not_le.mpr h4, rdV_wrVP, hlane]

theorem readFab_fst (s : State) (y n : Nat) : (readFab s y n).map (fun b => b.1) = (List.range n).map fun k => byteAt s (y + k) := by
  rw [readFab, List.map_map]
  rfl

theorem regionOf_ne_tline {y : Nat} (h : regionOf (fabOff y) = .hbm ∨ regionOf (fabOff y) = .vault) : regionOf (fabOff y) ≠ .tline := by
  rcases h with h | h <;> rw [h] <;> decide

/-- Settles O27: the event performs the access alone, a store at its home through `writeHome`, a load through `readFab`, and what
completes after it moves no byte. -/
theorem accessPerformed : Obligations.AccessPerformed := by
  unfold Obligations.AccessPerformed
  refine ⟨fun s id lane c o a ho hk hord hlane ha hc hl he hf hg hr => ?_,
    fun s id lane gid slot g c o a ho hk hord hwho hgrp hlane ha hal hc hl he h1 h2 hf hg hr y mt ccl gr repl hp hmt hd hreg => ?_⟩
  · obtain ⟨t, ht⟩ : ∃ t, exec (.memoryAccessComplete id (BitVec.ofNat 64 (2 ^ lane)) c) s = .next t := ⟨_, rfl⟩
    have store : ∀ pl, a.place = pl → isDev pl = false → leaves o a = none →
        ∃ l1, SameMemory (writeHome { s with l1 := l1 } pl (cleanBytes a.data)) t := fun pl hp hdev hlv => by
      obtain ⟨l1, hw⟩ := writePlace_home (s := s) (c := c) (core := (placeOf s o.who).2) (bs := cleanBytes a.data) (sc := o.scope) (ch := o.ch)
        (hp ▸ hdev) hr
      have hperf : performAcc s o a c = (writeHome { s with l1 := l1 } pl (cleanBytes a.data), none) := by
        rw [performAcc, hk]
        exact (performSt_clean hord hl he hf hg).trans (by rw [hw, hp])
      obtain ⟨t', ht', hm, -⟩ := completeAccess_one ho (by simp [hk]) hlane ha hc hlv hperf
      cases ht.symm.trans ht'
      exact ⟨l1, hm⟩
    refine ⟨t, ht, fun y mt ccl gr hp hmt hd hreg => ?_, fun b y ccl hp => ?_, fun w j y hp hx => ?_⟩
    · obtain ⟨l1, hm⟩ := store _ hp (by simp [isDev, hmt]) (by simp [leaves, hp])
      obtain ⟨hin, hout, hhost, hguest, hscr⟩ := bytes_writeHome_fab { s with l1 := l1 } (mt := mt) (ccl := ccl) (gr := gr) (l := a.data) hd
        (dieUp_of_canPerform hc hl hp hd) (regionOf_ne_tline hreg)
      exact ⟨fun k hk => (hm.fabric _).trans (hin k hk), fun z hz => (hm.fabric z).trans (hout z hz), fun z => (hm.host z).trans (hhost z),
        fun z => (hm.guest z).trans (hguest z), fun w z => (hm.scratch w z).trans (hscr w z)⟩
    · obtain ⟨l1, hm⟩ := store _ hp rfl (by simp [leaves, hp])
      obtain ⟨hin, hout, hfab, hguest, hscr⟩ := bytes_writeHome_host { s with l1 := l1 } (b := b) (y := y) (ccl := ccl) (l := a.data)
      exact ⟨fun k hk => (hm.host _).trans (hin k hk), fun z hz => (hm.host z).trans (hout z hz), fun z => (hm.fabric z).trans (hfab z),
        fun z => (hm.guest z).trans (hguest z), fun w z => (hm.scratch w z).trans (hscr w z)⟩
    · obtain ⟨x, hx⟩ := hx
      obtain ⟨l1, hm⟩ := store _ hp rfl (by simp [leaves, hp])
      obtain ⟨hin, hout, hfab, hhost, hguest⟩ := bytes_writeHome_scratch (s := { s with l1 := l1 }) (j := j) (y := y) (l := a.data) hx
      exact ⟨fun k hk => (hm.scratch _ _).trans (hin k hk), fun v z hz => (hm.scratch v z).trans (hout v z hz),
        fun z => (hm.fabric z).trans (hfab z), fun z => (hm.host z).trans (hhost z), fun z => (hm.guest z).trans (hguest z)⟩
  · have hu := dieUp_of_canPerform hc hl hp hd
    obtain ⟨l1, hld⟩ := performLd_home (c := c) hp hord hmt hl hr he h1 h2 hd hu (regionOf_ne_tline hreg) hf hg
    have hperf : performAcc s o a c = _ := (by rw [performAcc, hk] : performAcc s o a c = performLd s o a c).trans hld
    obtain ⟨t, ht, hm, hgs⟩ := completeAccess_one ho (by simp [hk]) hlane ha hc (by simp [leaves, hp]) hperf
    refine ⟨t, ht, .trans (.trans (t := { s with l1 := l1 }) (sameMemory_of rfl rfl rfl rfl) (onlyExecutors_setDest ..).sameMemory) hm,
      fun r hdest hr3 => ?_⟩
    obtain ⟨g1, hg1, hv⟩ := setDest_vec (s := { s with l1 := l1 }) (bs := readFab s y o.bytes) hdest hwho hgrp (hal ▸ hlane)
    obtain ⟨g2, hg2, hpo⟩ := hgs gid g1 hg1
    rw [readFab_fst, hal] at hv
    refine ⟨g2, hg2, fun h4 => (hpo.rdV ..).trans (hv (by omega)).1, fun h8 => ?_⟩
    obtain ⟨hlo, hhi⟩ := hv (by omega)
    exact ⟨(hpo.rdV ..).trans hlo, (hpo.rdV ..).trans (hhi (by omega))⟩

end Sys2Proof.Machine
end

section
/-! Synchronisation and ring words (O30, O34): each word ends as its body does, once its place or its stage is found. -/
namespace Sys2Proof.Machine

/-! ### Fences (R200, R201, R227) -/

/-- The state of a fence that waits no more: released and acquired as its sets say. -/
def fenced (s : State) (x : Ex) (sc : Scope) (pred succ : BitVec 7) : State :=
  let r := if pred.getLsbD 1 then releaseBy s x.die sc else s
  advance (if succ.getLsbD 0 || (pred.getLsbD 0 && succ != 0) then acquireAt r x.die x.core sc else r) x

theorem fence_ready {i : Instr} {s : State} {x : Ex} {sc : Scope} {pred succ : BitVec 7} (hi : exec i s = fenceOp s sc pred succ)
    (hr : Ready s x syncRule {} none) : (predPending s x pred succ = true → exec i s = .next (stall s x)) ∧
    (predPending s x pred succ = false → exec i s = .next (fenced s x sc pred succ)) := by
  rw [hi, fenceOp, issue_ready hr]
  dsimp only
  exact ⟨fun h => by rw [if_pos h, bodyEnd_hold], fun h => by rw [if_neg (Bool.eq_false_iff.mp h), bodyEnd_ok]; rfl⟩

/-! ### Timelines (R186, R228) -/

/-- Outside the window a timeline word's place is that of its access. -/
theorem tlPlace_outside {s : State} {x : Ex} {m : MemArg} {write : Bool} (h : inWindow (rdS x.p m.base) = false) :
    tlPlace s x m write = onePlace s x { memKind s x m write false with tline := true } (rdS x.p m.base) := by
  rw [tlPlace, h]
  rfl

/-- A timeline word whose place is found goes on with it. -/
theorem timeline_ready {i : Instr} {s t : State} {x : Ex} {u : Use} {m : MemArg} {write : Bool} {pl : Place}
    (after : Ex → Place → State → Except Stop State) (hr : Ready s x syncRule u none)
    (hi : exec i s = issue s syncRule u none fun x => match tlPlace s x m write with
      | .error e => .error e
      | .ok (pl, s) => after x pl s)
    (hw : inWindow (rdS x.p m.base) = false)
    (hp : onePlace s x { memKind s x m write false with tline := true } (rdS x.p m.base) = .ok (pl, t)) :
    exec i s = .next (bodyEnd s x (after x pl t)) := by
  rw [exec_ready _ hi hr, tlPlace_outside hw, hp]

/-- What `twait` does at its place, once its value is read. -/
def twaitAt (sc : Scope) (sd sa sb : SReg) (x : Ex) (pl : Place) (s : State) : Except Stop State :=
  if !mayRead s x (tlArg sa sc .acq) pl then .error (.hold s)
  else
    let (bs, s) := readHome s pl 8
    let v := BitVec.ofNat 64 (ofBytes (bs.map fun b => b.1))
    let want := rdS x.p sb
    if want.toNat ≤ v.toNat then .ok (endWait s x [(sd.toNat, v, false)] (some sc))
    else match tlUnit pl with
      | some (d, t) => .error (.hold (parkAt s x (.twait d t want sd.toNat sc)))
      | none => .error (.hold s)

section Twait
variable {s : State} {x : Ex} {sc : Scope} {sd sa sb : SReg} {pl : Place} (hm : mayRead s x (tlArg sa sc .acq) pl = true)
include hm

theorem twaitAt_reached
    (hv : (rdS x.p sb).toNat ≤ (BitVec.ofNat 64 (ofBytes ((readHome s pl 8).1.map fun b => b.1))).toNat) :
    twaitAt sc sd sa sb x pl s =
      .ok (endWait (readHome s pl 8).2 x [(sd.toNat, BitVec.ofNat 64 (ofBytes ((readHome s pl 8).1.map fun b => b.1)), false)] (some sc)) := by
  rw [twaitAt, hm]
  exact if_pos hv

theorem twaitAt_parks {d n : Nat} (hu : tlUnit pl = some (d, n))
    (hv : (BitVec.ofNat 64 (ofBytes ((readHome s pl 8).1.map fun b => b.1))).toNat < (rdS x.p sb).toNat) :
    twaitAt sc sd sa sb x pl s = .error (.hold (parkAt (readHome s pl 8).2 x (.twait d n (rdS x.p sb) sd.toNat sc))) := by
  rw [twaitAt, hm, hu]
  exact if_neg (Nat.not_le.mpr hv)

end Twait

/-- Settles O30: each word ends as its body does, once its place is found. -/
theorem fencesAndTimelinesComplete : Obligations.FencesAndTimelinesComplete := by
  unfold Obligations.FencesAndTimelinesComplete
  intro s x sc pred succ la sd sa sb
  refine ⟨fun hr => ?_, fun hr pl t ⟨_, hw, hp⟩ => ?_, fun hr pl t ⟨_, hw, hp⟩ => ?_, fun hr pl t ⟨_, hw, hp⟩ => ?_⟩
  · obtain ⟨h1, h2⟩ := fence_ready (i := .fence sc pred succ) rfl hr
    obtain ⟨h3, h4⟩ := fence_ready (i := .fenceSc sc) rfl hr
    exact ⟨h1, h2, h3, h4⟩
  · exact timeline_ready (m := tlArg sa sc .rel) (fun x pl s => .ok (startOp s x .st (tlArg sa sc .rel) .nowhere
      (splitAcc 8 0 (rdS x.p sa) pl (toBytes 8 (rdS x.p sb).toNat) []) 0 [] [] false)) hr rfl hw hp
  · exact timeline_ready (m := tlArg sa .weak .plain) (fun x pl s => .ok (startOp s x .ld (tlArg sa .weak .plain) (.scal sd.toNat)
      (splitAcc 8 0 (rdS x.p sa) pl [] []) la.toNat [] [sd.toNat] false)) hr rfl hw hp
  · intro value u hread
    have he : exec (.twait sc sd sa sb) s = .next (bodyEnd s x (twaitAt sc sd sa sb x pl t)) :=
      timeline_ready (m := tlArg sa sc .acq) (twaitAt sc sd sa sb) hr rfl hw hp
    refine ⟨fun hv => by rw [he, twaitAt_reached hread hv]; rfl, fun hv => ⟨fun a mt ccl gr repl hpl => ?_, fun d a mt ccl hpl => ?_⟩⟩
    · rw [he, twaitAt_parks hread (by rw [hpl]; rfl) hv]
      rfl
    · rw [he, twaitAt_parks hread (by rw [hpl]; rfl) hv]
      rfl

/-! ### Ring words (R187, R188, R190, R250 to R254) -/

section Ring
variable {s : State} {x : Ex} {g : Group} {t : Team} {k : BitVec 3} {sa : SReg} (hx : x.g = some g) (ht : team? s g.team = some t)
include hx ht

/-- A ring word whose stage is found goes on with it. -/
theorem stage_ready {i : Instr} {u : Use} {r : Ring} {st : Stage} (after : Ex → Group → Team → Stage → Nat → Except Stop State)
    (hring : ring? t k.toNat = some r) (hst : r.stages[(rdS x.p sa).toNat]? = some st) (hr : Ready s x ringRule u none)
    (hi : exec i s = issue s ringRule u none (withGroup fun x g => match namedStage s g k.toNat (rdS x.p sa) with
      | .error e => .error e
      | .ok (t, st, j) => after x g t st j)) :
    exec i s = .next (bodyEnd s x (after x g t st (rdS x.p sa).toNat)) := by
  have hn : namedStage s g k.toNat (rdS x.p sa) = .ok (t, st, (rdS x.p sa).toNat) := by
    simp only [namedStage, ht, hring, hst]
  rw [exec_ready _ hi hr, withGroup_some hx, hn]

/-- Whether another path waits for a stage as an acquire would. -/
def racqAhead (s : State) (t : Team) (k j : Nat) (cons : Bool) : Bool :=
  s.waiters.any fun w => w.1 == t.tid && w.2.1 == k && w.2.2.1 == j && waitsIn s cons w

/-- What `racq` does at its stage. -/
def racqAt (s : State) (sd : SReg) (k : BitVec 3) (cons : Bool) (x : Ex) (g : Group) (t : Team) (st : Stage) (j : Nat) : Except Stop State :=
  if st.st = racqWants cons ∧ !racqAhead s t k.toNat j cons then .ok (takeStage s x t st k.toNat j sd.toNat cons)
  else
    let s := { s with waiters := s.waiters ++ [(t.tid, k.toNat, j, g.gid, x.p.pid, s.now)] }
    .error (.hold (modPath s x.who x.p.pid fun p => { p with wait := .racq t.tid k.toNat j sd.toNat cons g.gidx }))

/-- What `rrel` does at its stage. -/
def rrelAt (s : State) (k : BitVec 3) (x : Ex) (g : Group) (t : Team) (st : Stage) (j : Nat) : Except Stop State :=
  if rrelReady s x g st then giveStage s x t st k.toNat j
  else .error (.hold (modPath s x.who x.p.pid fun p => { p with wait := .rrel t.tid k.toNat j }))

theorem rinit_ready {n1 : BitVec 4} {sb : SReg} {c base : Nat} (hr : Ready s x ringRule { ss := [sa.toNat, sb.toNat] } none)
    (ha : (rdS x.p sa).toNat % 256 = 0) (hb : (rdS x.p sb).toNat % 256 = 0) (h0 : (rdS x.p sb).toNat ≠ 0)
    (hd : bulkDest t g.tcore (rdS x.p sa) ((rdS x.p sb).toNat * (n1.toNat + 1)) = some (c, base))
    (hover : ∀ r ∈ t.rings, r.k ≠ k.toNat → r.core = c →
      overlaps base ((rdS x.p sb).toNat * (n1.toNat + 1)) r.base (r.size * r.stages.length) = false)
    (hidle : ∀ r, ring? t k.toNat = some r → r.idle = true) :
    exec (.rinit k n1 sa sb) s = .next (advance (reissueRacq (modTeam s t.tid fun t =>
      { t with rings := freshRing k.toNat c base (rdS x.p sb).toNat (n1.toNat + 1) :: t.rings.filter fun r => r.k != k.toNat })
      t.tid k.toNat) x) := by
  have halign : ¬((rdS x.p sa).toNat % 256 ≠ 0 ∨ (rdS x.p sb).toNat % 256 ≠ 0 ∨ (rdS x.p sb).toNat = 0) := by omega
  have hfree : (t.rings.any fun r => r.k != k.toNat && r.core == c &&
      overlaps base ((rdS x.p sb).toNat * (n1.toNat + 1)) r.base (r.size * r.stages.length)) = false := by
    rw [List.any_eq_false]
    intro r hmem hall
    simp only [Bool.and_eq_true, bne_iff_ne, beq_iff_eq] at hall
    obtain ⟨⟨hk, hc⟩, ho⟩ := hall
    exact absurd ho (Bool.eq_false_iff.mp (hover r hmem hk hc))
  have hempty : ((ring? t k.toNat).any fun r => !r.idle) = false := by
    cases hring : ring? t k.toNat with
    | none => rfl
    | some r => simp [hidle r hring]
  rw [exec_ready _ (show exec (.rinit k n1 sa sb) s = issue s ringRule _ none _ from rfl) hr, withGroup_some hx]
  simp only [if_neg halign, ht, hd, hfree, hempty, Bool.false_eq_true, if_false]
  rfl

end Ring

/-- Settles O34: `rinit` by its own checks, the others by what each does at its stage. -/
theorem ringWordsComplete : Obligations.RingWordsComplete := by
  unfold Obligations.RingWordsComplete
  intro s x g t k n1 sd sa sb cons hx ht j
  refine ⟨fun hr ha hb h0 c base hd hover hidle => rinit_ready hx ht hr ha hb h0 hd hover hidle,
    fun r st hring hst => ⟨fun hr => ⟨?_, ?_⟩, fun hr => ?_⟩⟩
  · exact stage_ready hx ht (fun x _ _ st _ => .ok (advance (setS s x sd (stageWord st)) x)) hring hst hr rfl
  · intro ahead new
    have he : exec (.racq sd k sa cons) s = .next (bodyEnd s x (racqAt s sd k cons x g t st j)) :=
      stage_ready hx ht (racqAt s sd k cons) hring hst hr rfl
    have hnew : new = { st with st := racqWants cons + 1 } := by cases cons <;> rfl
    rw [he]
    refine ⟨fun hs ha => ?_, fun hw => ?_⟩
    · have hfree : racqAhead s t k.toNat j cons = false := ha
      rw [racqAt, hfree, if_pos ⟨hs, rfl⟩, hnew]
      rfl
    · have hwait : ¬(st.st = racqWants cons ∧ (!racqAhead s t k.toNat j cons) = true) := fun ⟨hs, hfree⟩ =>
        hw.elim (fun h => h hs) fun h => Bool.false_ne_true (((Bool.not_eq_true' _).mp hfree).symm.trans h)
      rw [racqAt, if_neg hwait]
      rfl
  · intro given
    have he : exec (.rrel k sa) s = .next (bodyEnd s x (rrelAt s k x g t st j)) := stage_ready hx ht (rrelAt s k) hring hst hr rfl
    rw [he]
    refine ⟨fun hn => by rw [rrelAt, hn]; rfl, fun hy => ?_⟩
    rw [rrelAt, hy, if_pos rfl]
    refine ⟨fun h1 => by rw [giveStage, if_pos h1]; rfl, fun h3 => by rw [giveStage, if_neg (by omega), if_pos h3]; rfl,
      fun h1 h3 => by rw [giveStage, if_neg h1, if_neg h3]; rfl⟩

end Sys2Proof.Machine
end

section
/-! Events of the host (O48). -/
namespace Sys2Proof.Machine

/-! ### The host's answers (R288, R289, R294) -/

/-- The state in which a page request is answered: the paths that wait for it issue again. -/
def priAnswered (s : State) (id : Nat) (r : PriReq) : State :=
  modGrp { s with pris := s.pris.filter fun p => p.id != id } r.gid fun g => g.allPaths.foldl (fun (g : Group) p =>
    if p.wait = .pri id then g.modPid p.pid fun p => { p with wait := .run } else g) g

section Pri
variable {s : State} {id : Nat} {r : PriReq} (h : s.pris.find? (fun p => p.id == id) = some r)
include h

theorem answerPri_ok : answerPri s id true = priAnswered s id r := by
  rw [answerPri, h]
  rfl

theorem answerPri_fails {g : Group} {p : Path} (hg : grp? (priAnswered s id r) r.gid = some g) (hp : g.path? r.pid = some p) :
    answerPri s id false = raiseGroup (priAnswered s id r) g p { cause := .pageFault, va := r.va, aux := 5 } p.pc := by
  have hg' := hg
  unfold priAnswered at hg'
  simp only [answerPri, h, Bool.false_eq_true, if_false, hg', hp]
  rfl

theorem answerPri_alone (hn : (grp? (priAnswered s id r) r.gid).bind (fun g => g.path? r.pid) = none) :
    answerPri s id false = priAnswered s id r := by
  have hn' := hn
  unfold priAnswered at hn'
  simp only [answerPri, h, Bool.false_eq_true, if_false]
  split
  · rfl
  · next g hg =>
    rw [hg, Option.bind_some] at hn'
    rw [hn']
    rfl

end Pri

theorem answerAts_instr {s : State} {id status k sd : Nat} {leaf : W64} {a : AtsReq} {o : MemOp}
    (ha : s.ats.find? (fun a => a.id == id) = some a) (hu : a.use = .instr k sd) (ho : s.ops.find? (fun o => o.id == k) = some o) :
    answerAts s id status leaf = finishAlu { s with ats := s.ats.filter fun a => a.id != id } o []
      [(sd, atsLeaf status leaf), (sd + 1, BitVec.ofNat 64 status)] 0 := by
  simp only [answerAts, ha, hu, ho]

/-! ### Accesses of a host (R300, R333, R337, R344) -/

theorem homePlace_addr {s : State} {a : Nat} {p : Place} (h : homePlace s a = some p) : placeAddr p = a % 2 ^ 43 := by
  simp only [homePlace] at h
  repeat' split at h
  all_goals cases h
  all_goals rfl

theorem isKick_of_isHbm {p : Place} (h : isHbm p = true) : isKick p = false := by
  cases p with
  | fab a mt ccl gr repl =>
    simp only [isHbm, Bool.and_eq_true, beq_iff_eq] at h
    obtain ⟨⟨rfl, -⟩, -⟩ := h
    rfl
  | _ => cases h

section HostAccess
variable {s : State} {fn d pasid : Nat} {req : LinkReq} {xlat : Bool} (hd : fnDie s fn = some d) (hu : dieUp s d = true)

/-- The port of the module at a die's host port. -/
def portOf (d : Nat) : Nat := if d = 0 then 0 else 1

theorem hostHome_hbm {port : Nat} {p : Place} (hp : homePlace s req.addr = some p) (hh : isHbm p = true) (hl : lent s (placeAddr p) = false) :
    hostHome s port req = performReq s port p req := by
  simp only [hostHome, hp, isKick_of_isHbm hh, hh, hl, Bool.false_eq_true, if_false, Bool.not_false, Bool.and_self, if_true]

include hd hu

theorem hostCxlAccess_none : exec (.hostCxlAccess fn none { req, xlat }) s = .next (hostHome s (portOf d) req) := by
  have hf : (fnDie s fn).filter (dieUp s) = some d := by rw [hd, Option.filter_some, if_pos hu]
  show execHostCxlAccess fn none { req, xlat } s = _
  simp only [execHostCxlAccess, hf]
  rfl

theorem hostCxlAccess_quarantined (hq : (s.quarantine.any fun q => q.1 == pasid) = true) :
    exec (.hostCxlAccess fn (some pasid) { req, xlat }) s =
      .next (if req.write then lateDrop s fn pasid xlat (BitVec.ofNat 64 req.addr) else poisonedData s req.len) := by
  have hf : (fnDie s fn).filter (dieUp s) = some d := by rw [hd, Option.filter_some, if_pos hu]
  show execHostCxlAccess fn (some pasid) { req, xlat } s = _
  simp only [execHostCxlAccess, hf, hq, if_true]

theorem hostCxlAccess_xlat (hq : (s.quarantine.any fun q => q.1 == pasid) = false) :
    exec (.hostCxlAccess fn (some pasid) { req, xlat := true }) s = .next (hostXlat s d (portOf d) pasid req) := by
  have hf : (fnDie s fn).filter (dieUp s) = some d := by rw [hd, Option.filter_some, if_pos hu]
  show execHostCxlAccess fn (some pasid) { req, xlat := true } s = _
  simp only [execHostCxlAccess, hf, hq, Bool.false_eq_true, if_false, if_true]
  rfl

end HostAccess

theorem any_quarantine_false {l : List (Nat × Nat)} {pasid : Nat} (h : ∀ q ∈ l, q.1 ≠ pasid) : (l.any fun q => q.1 == pasid) = false := by
  rw [List.any_eq_false]
  exact fun q hq he => h q hq (beq_iff_eq.mp he)

theorem any_quarantine_true {l : List (Nat × Nat)} {pasid : Nat} (h : ∃ q ∈ l, q.1 = pasid) : (l.any fun q => q.1 == pasid) = true := by
  obtain ⟨q, hq, he⟩ := h
  exact List.any_eq_true.mpr ⟨q, hq, beq_iff_eq.mpr he⟩

/-! ### Snoops (R176) -/

/-- What the host's own access does to its memory. -/
def snooped (s : State) (line : Nat) : Snoop → State
  | .write data => { s with hostMem := ssetN 0 s.hostMem (line * 64) (data.take 64) }
  | .read | .invalidate => s

theorem hostSnoop_held {s : State} {line : Nat} (h : s.hostCache.contains line = true) (act : Snoop) :
    exec (.hostSnoop line act) s = .next (snooped
      (emit (if act = .read then s else { s with hostCache := s.hostCache.filter fun l => l != line }) (.snoopData line)) line act) := by
  show execHostSnoop line act s = _
  rw [execHostSnoop, if_pos h]
  cases act <;> rfl

theorem hostSnoop_free {s : State} {line : Nat} (h : s.hostCache.contains line = false) (act : Snoop) :
    exec (.hostSnoop line act) s = .next (snooped s line act) := by
  show execHostSnoop line act s = _
  rw [execHostSnoop, if_neg (Bool.eq_false_iff.mp h)]
  cases act <;> rfl

/-- Settles O48: each event is its own function on the state, taken case by case. -/
theorem hostEventsComplete : Obligations.HostEventsComplete := by
  unfold Obligations.HostEventsComplete
  intro s id status fn die core line pasid ok xlat va len leaf req data op
  refine ⟨fun r h => congrArg _ (answerPri_ok h),
    fun r h => ⟨fun g p hg hp => congrArg _ (answerPri_fails h hg hp), fun hn => congrArg _ (answerPri_alone h hn)⟩,
    fun h => ?_, fun a o k sd ha hu ho => ⟨fun hs => ?_, fun ht => ?_, fun ht => ?_⟩, fun n u h => ?_, fun h => ?_, fun d hd hu => ?_, ?_, ?_, ?_⟩
  · show execPriResponse id ok s = _
    rw [execPriResponse, answerPri, h]
  · show execAtsCompletion id status leaf s = _
    rw [execAtsCompletion, if_pos hs, answerAts_instr ha hu ho]
    rfl
  · show execAtsTimeout id s = _
    rw [execAtsTimeout, ha]
    dsimp only
    rw [if_neg (Nat.not_lt.mpr ht), answerAts_instr ha hu ho]
    rfl
  · show execAtsTimeout id s = _
    rw [execAtsTimeout, ha]
    exact congrArg _ (if_pos ht)
  · show execAtsInvalidationRequest pasid va len s = _
    simp only [execAtsInvalidationRequest, h]
  · show execAtsInvalidationRequest pasid va len s = _
    simp only [execAtsInvalidationRequest, h]
  · intro mapped mine
    refine ⟨fun p hp hh hl who hwho => ?_, fun hx hq hm => ⟨fun q hlow => ?_, fun hlow => ?_⟩, fun hq hw => ?_⟩
    · have he : exec (.hostCxlAccess fn who { req, xlat }) s = .next (performReq s (portOf d) p req) := by
        rw [← hostHome_hbm hp hh hl]
        obtain rfl | ⟨rfl, rfl, hq, hm⟩ := hwho
        · exact hostCxlAccess_none hd hu
        · rw [hostCxlAccess_xlat hd hu (any_quarantine_false hq), hostXlat]
          exact congrArg _ (if_pos hm)
      rw [he, performReq, homePlace_addr hp]
      exact ⟨fun hw => by rw [hw]; rfl, fun hw => by rw [hw]; rfl⟩
    · subst hx
      rw [hostCxlAccess_xlat hd hu (any_quarantine_false hq), hostXlat, if_neg (Bool.eq_false_iff.mp hm), hlow]
      rfl
    · subst hx
      rw [hostCxlAccess_xlat hd hu (any_quarantine_false hq), hostXlat, if_neg (Bool.eq_false_iff.mp hm), hlow]
    · rw [hostCxlAccess_quarantined hd hu (any_quarantine_true hq), hw]
      rfl
  · exact ⟨fun h => have hc := List.contains_iff_mem.mpr h
        ⟨hostSnoop_held hc .read, hostSnoop_held hc .invalidate, hostSnoop_held hc (.write data)⟩,
      fun h => have hc := Bool.eq_false_iff.mpr fun hc => h (List.contains_iff_mem.mp hc)
        ⟨hostSnoop_free hc .read, hostSnoop_free hc .invalidate, hostSnoop_free hc (.write data)⟩⟩
  · intro hu hc
    show execSupervisorCoreAccess die core op s = _
    simp only [execSupervisorCoreAccess, hu, hc, decide_true, Bool.and_self, if_true]
  · exact ⟨rfl, fun p v => ⟨rfl, rfl, rfl⟩⟩

end Sys2Proof.Machine
end

section
/-! Events of links and of guests (O50). -/
namespace Sys2Proof.Machine

/-! ### Transactions at their home (R177, R325) -/

section Transaction
variable {s : State} {die src tag : Nat} {req : LinkReq} {p : Place}

theorem linkTransaction_good (hu : dieUp s die = true) :
    exec (.linkTransaction src die tag req true) s = .next (goodTransaction s src die tag req) := by
  show execLinkTransaction src die tag req true s = _
  simp only [execLinkTransaction, hu, Bool.not_true, Bool.false_eq_true, if_false, if_true]

theorem linkTransaction_bad (hu : dieUp s die = true) :
    exec (.linkTransaction src die tag req false) s = .next (badCrc s (arrivesBy s src die req.via) src die tag) := by
  show execLinkTransaction src die tag req false s = _
  simp only [execLinkTransaction, hu, Bool.not_true, Bool.false_eq_true, if_false]

theorem transact_write (hw : req.write = true) :
    transact s die p req = ([], writePlace s die 64 p (cleanBytes (req.data.take req.len)) .sys 0 plainChoice) := by
  rw [transact, if_pos hw]

theorem transact_read (hw : req.write = false) (hr : req.rmw = none) :
    transact s die p req = readPlace s die 64 p req.len .sys 0 plainChoice := by
  rw [transact, if_neg (Bool.eq_false_iff.mp hw)]
  simp only [rmwNew, hr, ite_self]

theorem transact_rmw {v : Nat} (hw : req.write = false) (hc : ∀ e ∈ (readPlace s die 64 p req.len .sys 0 plainChoice).1, e.2 = false)
    (hv : rmwNew req (ofBytes ((readPlace s die 64 p req.len .sys 0 plainChoice).1.map fun e => e.1)) = some v) :
    transact s die p req = ((readPlace s die 64 p req.len .sys 0 plainChoice).1,
      writePlace (readPlace s die 64 p req.len .sys 0 plainChoice).2 die 64 p (cleanBytes (toBytes req.len v)) .sys 0 plainChoice) := by
  have hb : ((readPlace s die 64 p req.len .sys 0 plainChoice).1.any fun e => e.2) = false :=
    List.any_eq_false.mpr fun e he => Bool.eq_false_iff.mp (hc e he)
  rw [transact, if_neg (Bool.eq_false_iff.mp hw)]
  simp only [hb, Bool.false_eq_true, if_false, hv]

/-- The answer to a transaction that has been performed. -/
def acknowledged (who tag : Nat) (req : LinkReq) (r : List PByte × State) : State :=
  let bad := r.1.any fun e => e.2
  let data := r.1.map fun e => e.1
  emit (if req.write || req.rmw.isSome then { r.2 with linkDone := (who, tag, data, bad) :: r.2.linkDone } else r.2) (.linkAck tag data bad)

section Home
variable {u : State} (hu : goodCrc s (arrivesBy s src die req.via) = u)
include hu

theorem goodTransaction_repeat {e : Nat × Nat × List Byte × Bool}
    (he : u.linkDone.find? (fun e => e.1 == linkSource src req && e.2.1 == tag) = some e) :
    goodTransaction s src die tag req = emit u (.linkAck tag e.2.2.1 e.2.2.2) := by
  simp only [goodTransaction, hu, he]

variable (hb : u.linkDone.find? (fun e => e.1 == linkSource src req && e.2.1 == tag) = none)
include hb

theorem goodTransaction_unplaced (hp : linkPlace u req.addr = none) :
    goodTransaction s src die tag req = emit u (.linkRefuse tag 1) := by
  simp only [goodTransaction, hu, hb, hp]

variable (hp : linkPlace u req.addr = some p)
include hp

theorem goodTransaction_refused (hd : devRefuses p req = true) : goodTransaction s src die tag req = emit u (.linkRefuse tag 0) := by
  simp only [goodTransaction, hu, hb, hp, hd, if_true]

variable (hd : devRefuses p req = false)
include hd

theorem goodTransaction_elsewhere (hs : servingDie p ≠ die ∨ lent u (placeAddr p) = true) : goodTransaction s src die tag req = u := by
  simp only [goodTransaction, hu, hb, hp, hd, Bool.false_eq_true, if_false, if_pos hs]

theorem goodTransaction_performed (hs : servingDie p = die) (hl : lent u (placeAddr p) = false) :
    goodTransaction s src die tag req = acknowledged (linkSource src req) tag req (transact u die p req) := by
  have hn : ¬(servingDie p ≠ die ∨ lent u (placeAddr p) = true) := by simp [hs, hl]
  simp only [goodTransaction, hu, hb, hp, hd, Bool.false_eq_true, if_false, if_neg hn]
  rfl

end Home
end Transaction

/-! ### Failures of circuits (R326, R332) -/

theorem countFailure_below {s : State} {die c key limit : Nat} (log : State → State) (h : sget 0 s.circuits key + 1 < limit) :
    countFailure s die c key limit log = { s with circuits := sset 0 s.circuits key (sget 0 s.circuits key + 1) } := if_pos h

theorem countFailure_limit {s : State} {die c key limit : Nat} (log : State → State) (h : limit ≤ sget 0 s.circuits key + 1) :
    countFailure s die c key limit log = tearCircuit (log { s with circuits := sset 0 s.circuits key 0 }) die c := if_neg (Nat.not_lt.mpr h)

theorem flitReplay_counts {s : State} {die circuit flit : Nat} {d : Die} (hu : dieUp s die = true) (hd : die? s die = some d)
    (hv : connV (sget 0 d.conn circuit) = true) : exec (.flitReplay die { circuit, flit }) s =
      .next (countFailure (flitSeen s die circuit flit) die circuit (linkKey 0 die circuit) 9 fun s =>
        logFlight s die 0x20 4 circuit circuit 0) := by
  show execFlitReplay die { circuit, flit } s = _
  simp only [execFlitReplay, hu, hd, Option.any_some, hv, Bool.and_self, if_true]

theorem flitSeen_same {s : State} {die circuit flit : Nat} (h : sget 0 s.circuits (linkKey 3 die circuit) = flit + 1) :
    flitSeen s die circuit flit = s := if_pos h

theorem flitSeen_other {s : State} {die circuit flit : Nat} (h : sget 0 s.circuits (linkKey 3 die circuit) ≠ flit + 1) :
    sget 0 (flitSeen s die circuit flit).circuits (linkKey 0 die circuit) = 0 := by
  rw [flitSeen, if_neg h]
  simp only [sget_sset_self]

/-- A transaction whose CRC does not match, over a circuit: the failure is logged, the sender is told, and the circuit counts it. -/
theorem badCrc_some_below {s : State} {c src die tag : Nat} (h : sget 0 s.circuits (linkKey 1 0 c) < 7) :
    badCrc s (some c) src die tag =
      { emit (logFlight s die 0x21 4 c src tag) (.linkAgain tag) with
        circuits := sset 0 s.circuits (linkKey 1 0 c) (sget 0 s.circuits (linkKey 1 0 c) + 1) } :=
  countFailure_below (s := emit (logFlight s die 0x21 4 c src tag) (.linkAgain tag)) id (Nat.succ_lt_succ h)

theorem badCrc_some_limit {s : State} {c src die tag : Nat} (h : 7 ≤ sget 0 s.circuits (linkKey 1 0 c)) :
    badCrc s (some c) src die tag =
      tearCircuit { emit (logFlight s die 0x21 4 c src tag) (.linkAgain tag) with circuits := sset 0 s.circuits (linkKey 1 0 c) 0 } die c :=
  countFailure_limit (s := emit (logFlight s die 0x21 4 c src tag) (.linkAgain tag)) id (Nat.succ_le_succ h)

/-! ### Answers of other modules (R177, R325, R326) -/

section Answer
variable {s : State} {tag : Nat} {t : LinkTx} {ans : Reply} (ht : s.links.find? (fun t => t.tag == tag) = some t)
include ht

theorem transactionAck_torn (h : t.torn s = true) : exec (.transactionAck tag ans) s = .next s := by
  show execTransactionAck tag ans s = _
  simp only [execTransactionAck, ht, h, if_true]

theorem transactionAck_bad (h : t.torn s = false) (hc : ans.crcOk = false) :
    exec (.transactionAck tag ans) s = .next (badCrc s t.circuit t.dst t.die tag) := by
  show execTransactionAck tag ans s = _
  simp only [execTransactionAck, ht, h, hc, Bool.false_eq_true, if_false, Bool.not_false, if_true]

theorem transactionAck_good (h : t.torn s = false) (hc : ans.crcOk = true) :
    exec (.transactionAck tag ans) s = .next (workDone (endTx (goodCrc s t.circuit) t ans.data ans.bad) t.work) := by
  show execTransactionAck tag ans s = _
  simp only [execTransactionAck, ht, h, hc, Bool.false_eq_true, if_false, Bool.not_true]

theorem tag_of_find : t.tag = tag := by
  simpa using List.find?_some ht

end Answer

theorem goodCrc_ops (s : State) (c : Option Nat) : (goodCrc s c).ops = s.ops := by
  cases c <;> rfl

theorem endTx_none {s : State} {t : LinkTx} {data : List Byte} {bad : Bool} (h : t.acc = none) :
    endTx s t data bad = { s with links := s.links.filter fun x => x.tag != t.tag } := by
  simp only [endTx, h, Option.bind_none]

theorem endTx_some {s : State} {t : LinkTx} {data : List Byte} {bad : Bool} {c : Nat × Nat × W64} {o : MemOp} {a : Acc} (h : t.acc = some c)
    (ho : s.ops.find? (fun o => o.id == c.1) = some o) (ha : o.todo.find? (fun a => a.lane == c.2.1 && a.va == c.2.2) = some a) :
    endTx s t data bad = farDone { s with links := s.links.filter fun x => x.tag != t.tag } o a data bad := by
  simp only [endTx, h, Option.bind_some, ho, ha, Option.map_some]

theorem farDone_poison {s : State} {o : MemOp} {a : Acc} {data : List Byte} (hr : o.kind.reads = true) (hw : o.kind.writes = true) :
    farDone s o a data true = raiseOp (accDone s o a) o { cause := .poison, va := a.va } := by
  simp only [farDone, hr, hw, Bool.and_self, if_true]

theorem farDone_done {s : State} {o : MemOp} {a : Acc} {data : List Byte} {bad : Bool} (h : o.kind.writes = false ∨ bad = false)
    (ho : ordAcq o.ord = false) : farDone s o a data bad =
      finishOps (if o.kind.reads then setDest (accDone s o a) o a (data.map fun b => (b, bad)) else accDone s o a) := by
  have hn : (o.kind.reads && o.kind.writes && bad) = false := by
    rcases h with h | h <;> simp [h]
  simp only [farDone, hn, ho, Bool.false_eq_true, if_false]

/-! ### Reads over a circuit that is gone (R326) -/

section Reroute
variable {s : State} {die circuit : Nat} {d : Die}

theorem connTable_of_die (hd : die? s die = some d) : connTable s die = d.conn := by
  rw [connTable, hd]
  rfl

theorem rerouteReadTimeout_whole (h : sget 0 s.circuits (linkKey 2 0 circuit) = 0) : exec (.rerouteReadTimeout die circuit) s = .next s := by
  show execRerouteReadTimeout die circuit s = _
  simp only [execRerouteReadTimeout, h, if_true]

variable (hd : die? s die = some d) (h : sget 0 s.circuits (linkKey 2 0 circuit) ≠ 0)
include hd h

theorem rerouteReadTimeout_optical (ho : connOpt (sget 0 d.conn circuit) = true) : exec (.rerouteReadTimeout die circuit) s =
    .next ((s.links.filter fun x => x.die == die && x.circuit == some circuit && x.torn s).foldl poisonTx s) := by
  show execRerouteReadTimeout die circuit s = _
  rw [execRerouteReadTimeout, connTable_of_die hd]
  exact congrArg _ ((if_neg h).trans (if_pos ho))

theorem rerouteReadTimeout_electric (ho : connOpt (sget 0 d.conn circuit) = false) : exec (.rerouteReadTimeout die circuit) s =
    .next ((farDies d.conn die (sget 0 d.conn circuit)).foldl
      (fun u far => poisonReads u die far (sget 0 s.circuits (linkKey 2 0 circuit))) s) := by
  show execRerouteReadTimeout die circuit s = _
  rw [execRerouteReadTimeout, connTable_of_die hd]
  exact congrArg _ ((if_neg h).trans (if_neg (Bool.eq_false_iff.mp ho)))

end Reroute

/-! ### Guests (R355 to R357) -/

theorem guestLinkUp_silent {s : State} {k vendor engines atc : Nat} {g : Guest} (hg : guest? s k = some g) (hh : g.heard = false)
    (hu : dieUp s (socketDie k) = true) : exec (.guestLinkUp k vendor engines atc 1) s = .next (linkUp s k vendor engines atc 1) := by
  show execGuestLinkUp k vendor engines atc 1 s = _
  simp only [execGuestLinkUp, hg, hh, hu, Bool.not_false, Bool.and_self, if_true]

/-- Both time limits of a guest ask whether one of its duties has stood too long. -/
theorem any_overdue {l : List (Nat × Nat)} {d now : Nat} : (∃ n ∈ l, n.2 + d ≤ now) ↔ (l.any fun n => decide (n.2 + d ≤ now)) = true := by
  simp only [List.any_eq_true, decide_eq_true_eq]

theorem any_overdue_neg {l : List (Nat × Nat)} {d now : Nat} (h : ∀ n ∈ l, now < n.2 + d) : ¬(l.any fun n => decide (n.2 + d ≤ now)) = true :=
  fun ha => have ⟨n, hn, hd⟩ := any_overdue.mpr ha
    absurd hd (Nat.not_le.mpr (h n hn))

section Guest
variable {s : State} {k : Nat} {g : Guest} (hg : guest? s k = some g) (hh : g.heard = true)
include hg hh

/-- A message of a guest that the device listens to is heard. -/
theorem fromGuest_heard (f : Guest → State) : fromGuest s k f = f g := by
  rw [fromGuest, hg]
  exact if_pos hh

variable {pasid : Nat} {va : W64} {req : LinkReq}

theorem guestAccess_quarantined (hq : (s.quarantine.any fun q => q.1 == pasid) = true) (hw : req.write = true) :
    exec (.guestAccess k pasid va true req) s = .next (lateDrop s (fnOf s pasid) pasid true (BitVec.ofNat 64 req.addr)) := by
  show execGuestAccess k pasid va true req s = _
  rw [execGuestAccess, fromGuest_heard hg hh, if_pos hq, if_pos hw]
  rfl

theorem guestAccess_breach {translated : Bool} (hq : (s.quarantine.any fun q => q.1 == pasid) = false)
    (hb : translated = false ∨ g.bound.contains pasid = false) :
    exec (.guestAccess k pasid va translated req) s = .next (fenceGuest s k 1) := by
  have hc : (!translated || !g.bound.contains pasid) = true := by
    rcases hb with hb | hb <;> simp only [hb, Bool.not_false, Bool.true_or, Bool.or_true]
  show execGuestAccess k pasid va translated req s = _
  rw [execGuestAccess, fromGuest_heard hg hh, if_neg (Bool.eq_false_iff.mp hq), if_pos hc]

theorem guestAccess_unplaced (hq : (s.quarantine.any fun q => q.1 == pasid) = false) (hb : g.bound.contains pasid = true)
    (hp : guestPlace s k pasid va req = none) : exec (.guestAccess k pasid va true req) s = .next (fenceGuest s k 1) := by
  show execGuestAccess k pasid va true req s = _
  rw [execGuestAccess, fromGuest_heard hg hh, if_neg (Bool.eq_false_iff.mp hq), if_neg (by simp only [hb]; decide), hp]

theorem guestAccess_performed {p : Place} {t : State} (hq : (s.quarantine.any fun q => q.1 == pasid) = false)
    (hb : g.bound.contains pasid = true) (hp : guestPlace s k pasid va req = some (p, t)) (hl : lent s (placeAddr p) = false)
    (hs : homeSilent s (socketDie k) p = false) : exec (.guestAccess k pasid va true req) s = .next (guestPerform t k p req) := by
  show execGuestAccess k pasid va true req s = _
  rw [execGuestAccess, fromGuest_heard hg hh, if_neg (Bool.eq_false_iff.mp hq), if_neg (by simp only [hb]; decide), hp]
  simp only [hl, hs, Bool.or_self, Bool.false_eq_true, if_false]

theorem guestContextBind_new {c : Context} (hc : ctx? s pasid = some c) (ha : goingAway s pasid = false) (hb : g.bound.contains pasid = false) :
    exec (.guestContextBind k pasid) s = .next (modGuest s k fun g => { g with bound := g.bound ++ [pasid] }) := by
  show execGuestContextBind k pasid s = _
  rw [execGuestContextBind, fromGuest_heard hg hh]
  simp only [hc, ha, hb, Option.isNone_some, Bool.or_self, Bool.false_eq_true, if_false]

theorem guestAtsRequest_bound {w : Bool} (hb : g.bound.contains pasid = true) (ha : goingAway s pasid = false) :
    exec (.guestAtsRequest k pasid va w) s = .next (emit (guestTranslation s k pasid va w).2.2
      (.atsAnswer k (guestTranslation s k pasid va w).1 (guestTranslation s k pasid va w).2.1)) := by
  show execGuestAtsRequest k pasid va w s = _
  rw [execGuestAtsRequest, fromGuest_heard hg hh]
  simp only [ha, hb, Bool.not_true, Bool.or_self, Bool.false_eq_true, if_false]

theorem gdone_sent {seq : Nat} {p : Nat × Nat × Nat} (hp : g.packets.find? (fun p => p.2.2 == seq) = some p) :
    exec (.gdone k seq) s = .next (guestDone s k p.1 p.2.1 seq) := by
  show execGdone k seq s = _
  rw [execGdone, fromGuest_heard hg hh, hp]

theorem gdone_unsent {seq : Nat} (hp : g.packets.find? (fun p => p.2.2 == seq) = none) : exec (.gdone k seq) s = .next (fenceGuest s k 5) := by
  show execGdone k seq s = _
  rw [execGdone, fromGuest_heard hg hh, hp]

theorem guestFaultReport_ok {rec : List W64} {e : Nat × Nat} (hr : reportOk rec = true) (he : reportQueue s g rec = some e) :
    exec (.guestFaultReport k rec) s = .next (writeRecord s e.1 e.2 (reportOf rec)) := by
  show execGuestFaultReport k rec s = _
  rw [execGuestFaultReport, fromGuest_heard hg hh, if_pos hr, he]

theorem guestFaultReport_bad {rec : List W64} (hr : reportOk rec = false) : exec (.guestFaultReport k rec) s = .next (fenceGuest s k 3) := by
  show execGuestFaultReport k rec s = _
  rw [execGuestFaultReport, fromGuest_heard hg hh, if_neg (Bool.eq_false_iff.mp hr)]

theorem guestAtcAck_waited {id : Nat} (hw : ∃ n ∈ g.waits, n.1 = id) : exec (.guestAtcAck k id) s =
    .next (shootCheck (modShoot (modGuest s k fun g => { g with waits := g.waits.filter fun w => w.1 != id }) id fun h =>
      { h with gacks := (k :: h.gacks).dedup }) id) := by
  have ha : (g.waits.any fun w => w.1 == id) = true := by
    simpa using hw
  show execGuestAtcAck k id s = _
  rw [execGuestAtcAck, fromGuest_heard hg hh]
  simp only [ha, Bool.not_true, Bool.false_eq_true, if_false]

theorem guestAtcTimeout_late (hw : ∃ n ∈ g.waits, n.2 + 10 * Config.usCycles ≤ s.now) :
    exec (.guestAtcTimeout k) s = .next (fenceGuest s k 2) := by
  show execGuestAtcTimeout k s = _
  rw [execGuestAtcTimeout, fromGuest_heard hg hh, if_pos (any_overdue.mp hw)]

theorem guestAtcTimeout_early (hw : ∀ n ∈ g.waits, s.now < n.2 + 10 * Config.usCycles) : exec (.guestAtcTimeout k) s = .next s := by
  show execGuestAtcTimeout k s = _
  rw [execGuestAtcTimeout, fromGuest_heard hg hh, if_neg (any_overdue_neg hw)]

theorem guestQuiesceReport_heard {saved : Bool} :
    exec (.guestQuiesceReport k saved) s = .next (modGuest s k fun g => { g with quiesce := g.quiesce.drop 1 }) :=
  congrArg Host.Outcome.next (fromGuest_heard hg hh _)

theorem guestQuiesceTimeout_late (hw : ∃ n ∈ g.quiesce, n.2 + 100 * Config.usCycles ≤ s.now) :
    exec (.guestQuiesceTimeout k) s = .next (fenceGuest s k 4) := by
  show execGuestQuiesceTimeout k s = _
  rw [execGuestQuiesceTimeout, fromGuest_heard hg hh, if_pos (any_overdue.mp hw)]

theorem guestQuiesceTimeout_early (hw : ∀ n ∈ g.quiesce, s.now < n.2 + 100 * Config.usCycles) : exec (.guestQuiesceTimeout k) s = .next s := by
  show execGuestQuiesceTimeout k s = _
  rw [execGuestQuiesceTimeout, fromGuest_heard hg hh, if_neg (any_overdue_neg hw)]

end Guest

/-- Settles O50: each event goes through the lemma of its case, from the transactions at their home to the duties of the guests. -/
theorem linkAndGuestEventsComplete : Obligations.LinkAndGuestEventsComplete := by
  unfold Obligations.LinkAndGuestEventsComplete
  intro s src die tag circuit k pasid seq id vendor engines atc va saved w req ans rec
  refine ⟨fun hu => ?_, ⟨?_, fun t ht => transactionAck_torn ht, fun t ht => transactionAck_bad ht, fun t ht hn hc => ?_⟩,
    fun d hd => ⟨rerouteReadTimeout_whole, rerouteReadTimeout_optical hd, rerouteReadTimeout_electric hd⟩,
    fun g hg hh hu => guestLinkUp_silent hg hh hu, rfl, fun g hg hh => ?_⟩
  · intro by' u who before
    have hgc : goodCrc s by' = u := rfl
    refine ⟨fun e he => ?_, fun hb hp => ?_, fun p hb hp hd => ?_, fun p hb hp hd => ⟨fun hs => ?_, fun hs hl => ?_⟩, fun hby => ?_,
      fun c hby => ?_, fun d flit hd hv => ?_⟩
    · rw [linkTransaction_good hu, goodTransaction_repeat hgc he]
    · rw [linkTransaction_good hu, goodTransaction_unplaced hgc hb hp]
    · rw [linkTransaction_good hu, goodTransaction_refused hgc hb hp hd]
    · rw [linkTransaction_good hu, goodTransaction_elsewhere hgc hb hp hd hs]
    · rw [linkTransaction_good hu, goodTransaction_performed hgc hb hp hd hs hl]
      refine ⟨fun hw => ?_, fun hw hr => ?_, fun v hw hr hc hv => ?_⟩
      · rw [transact_write hw, acknowledged, hw]
        rfl
      · rw [transact_read hw hr, acknowledged, hw, hr]
        rfl
      · rw [transact_rmw hw hc hv, acknowledged, hw, hr,
          List.any_eq_false.mpr fun e he => Bool.eq_false_iff.mp (hc e he)]
        rfl
    · rw [linkTransaction_bad hu, show arrivesBy s src die req.via = none from hby]
      rfl
    · rw [linkTransaction_bad hu, show arrivesBy s src die req.via = some c from hby]
      exact ⟨fun hn => by rw [badCrc_some_below hn]; rfl, fun hn => by rw [badCrc_some_limit hn]; rfl⟩
    · intro v n i
      have he : exec i s = _ := flitReplay_counts hu hd hv
      rw [he]
      exact ⟨fun hn => by rw [countFailure_below _ (Nat.succ_lt_succ hn)], fun hn => by rw [countFailure_limit _ (Nat.succ_le_succ hn)],
        flitSeen_same, flitSeen_other⟩
  · intro ht
    show execTransactionAck tag ans s = _
    simp only [execTransactionAck, ht]
  · intro u kept
    rw [transactionAck_good ht hn hc]
    have hk : { u with links := u.links.filter fun x => x.tag != t.tag } = kept := by rw [tag_of_find ht]
    refine ⟨fun ha => by rw [endTx_none ha, hk], fun c o a ha ho hl => ?_⟩
    rw [endTx_some ha (by rwa [goodCrc_ops]) hl, hk]
    exact ⟨fun hr hw hb => by rw [hb, farDone_poison hr hw], fun hw hq => by rw [farDone_done hw hq]⟩
  · intro fenced
    exact ⟨fun c => guestContextBind_new hg hh,
      fun hq => ⟨fun hb => guestAccess_breach hg hh hq (.inr hb), guestAccess_breach hg hh hq (.inl rfl), guestAccess_unplaced hg hh hq,
        fun p t => guestAccess_performed hg hh hq⟩,
      guestAccess_quarantined hg hh, guestAtsRequest_bound hg hh, fun p => gdone_sent hg hh, gdone_unsent hg hh,
      fun e => guestFaultReport_ok hg hh, guestFaultReport_bad hg hh, guestAtcAck_waited hg hh, guestAtcTimeout_late hg hh,
      guestAtcTimeout_early hg hh, guestQuiesceReport_heard hg hh, guestQuiesceTimeout_late hg hh, guestQuiesceTimeout_early hg hh⟩

end Sys2Proof.Machine
end

section
/-! What accesses of memory and what follows from them leave alone: the cores and the set of secure blocks (R358). -/
namespace Sys2Proof.Machine

/-- The cores, their tiles and streams among them, and the blocks in the secure world: no access of memory, no timeline and no completion
of a queue changes them. -/
def coresAndWorlds (s : State) : List Core × List Block := (s.cores, s.secure)

variable {s t : State}

theorem coresAndWorlds_congr (hc : t.cores = s.cores) (hw : t.secure = s.secure) : coresAndWorlds t = coresAndWorlds s :=
  congrArg₂ Prod.mk hc hw

theorem secure_of_coresAndWorlds (h : coresAndWorlds t = coresAndWorlds s) : t.secure = s.secure := congrArg Prod.snd h

theorem core?_of_coresAndWorlds (h : coresAndWorlds t = coresAndWorlds s) (d k : Nat) : core? t d k = core? s d k := by
  rw [core?, core?, show t.cores = s.cores from congrArg Prod.fst h]

/-! ### The homes -/

theorem coresAndWorlds_taint (s : State) (hit : Place × Nat → Bool) : coresAndWorlds (taint s hit) = coresAndWorlds s := by
  unfold taint
  split <;> rfl

theorem coresAndWorlds_taintFab (s : State) (a n : Nat) : coresAndWorlds (taintFab s a n) = coresAndWorlds s :=
  coresAndWorlds_taint s _

theorem coresAndWorlds_writeFab (s : State) (a : Nat) (bs : List PByte) : coresAndWorlds (writeFab s a bs) = coresAndWorlds s := by
  show coresAndWorlds (if bs.any fun b => b.2 then taintFab s a bs.length else s) = _
  split
  · exact coresAndWorlds_taintFab ..
  · rfl

theorem coresAndWorlds_tlWrite (s : State) (d t : Nat) (v : W64) : coresAndWorlds (tlWrite s d t v) = coresAndWorlds s := by
  unfold tlWrite
  split <;> rfl

theorem coresAndWorlds_backInvalidate (s : State) (a n : Nat) : coresAndWorlds (backInvalidate s a n) = coresAndWorlds s := by
  unfold backInvalidate
  refine foldl_keeps _ coresAndWorlds ?_ _ s
  exact fun _ _ => rfl

theorem coresAndWorlds_returnLines (s : State) (a n : Nat) : coresAndWorlds (returnLines s a n) = coresAndWorlds s := by
  unfold returnLines
  dsimp only
  split <;> rfl

theorem coresAndWorlds_returnPlace (s : State) (p : Place) (n : Nat) : coresAndWorlds (returnPlace s p n) = coresAndWorlds s := by
  cases p with
  | fab | vaultWin => exact coresAndWorlds_returnLines ..
  | _ => rfl

theorem coresAndWorlds_spoilUnit (s : State) (a : Nat) : coresAndWorlds (spoilUnit s a) = coresAndWorlds s :=
  coresAndWorlds_writeFab (freeBytes s Config.poisonByte true (unitBytes s a)).2 _ _

theorem coresAndWorlds_spoilFailed (s : State) (a n : Nat) : coresAndWorlds (spoilFailed s a n) = coresAndWorlds s := by
  unfold spoilFailed
  split
  · rfl
  · refine foldl_keeps _ coresAndWorlds (fun s b => ?_) _ s
    split
    · exact coresAndWorlds_spoilUnit ..
    · rfl

theorem coresAndWorlds_sendTx (s : State) (die : Nat) (req : LinkReq) (acc : Option (Nat × Nat × W64)) :
    coresAndWorlds (sendTx s die req acc) = coresAndWorlds s := by
  unfold sendTx
  dsimp only
  split <;> rfl

theorem coresAndWorlds_ownTx (n : Nat) (w : TxWork) (pasid : Nat) (va : W64) (len : Nat) (s : State) :
    coresAndWorlds (ownTx n w pasid va len s) = coresAndWorlds s := by
  unfold ownTx
  split <;> rfl

theorem coresAndWorlds_writeScratch (s : State) (team core off : Nat) (bs : List PByte) :
    coresAndWorlds (writeScratch s team core off bs) = coresAndWorlds s := by
  show coresAndWorlds (if bs.any fun b => b.2 then taintScratch s team core off bs.length else s) = _
  split
  · exact coresAndWorlds_taint s _
  · rfl

theorem coresAndWorlds_readHome (s : State) (p : Place) (n : Nat) : coresAndWorlds (readHome s p n).2 = coresAndWorlds s := by
  cases p with
  | fab a mt ccl g r =>
    simp only [readHome]
    split
    · split <;> rfl
    · split
      · rfl
      · split
        · rfl
        · exact coresAndWorlds_spoilFailed ..
  | ringCtl t k j =>
    simp only [readHome]
    repeat' split
    all_goals rfl
  | far => exact coresAndWorlds_sendTx ..
  | _ => rfl

theorem coresAndWorlds_writeMirror (s : State) (repl : Bool) (a : Nat) (bs : List PByte) :
    coresAndWorlds (if repl && dieUp s (fabDie (mirrorOf a)) then writeFab s (mirrorOf a) bs else s) = coresAndWorlds s := by
  split
  · exact coresAndWorlds_writeFab ..
  · rfl

theorem coresAndWorlds_writeHome (s : State) (p : Place) (bs : List PByte) : coresAndWorlds (writeHome s p bs) = coresAndWorlds s := by
  cases p with
  | fab a mt ccl g repl =>
    simp only [writeHome]
    split
    · split <;> rfl
    · split
      · exact coresAndWorlds_writeMirror ..
      · split
        · exact coresAndWorlds_tlWrite ..
        · rw [coresAndWorlds_writeMirror, coresAndWorlds_writeFab]
          split
          · exact coresAndWorlds_backInvalidate ..
          · rfl
  | scratch => exact coresAndWorlds_writeScratch ..
  | vaultWin => exact coresAndWorlds_writeFab ..
  | far => exact coresAndWorlds_sendTx ..
  | _ => rfl

/-! ### Cached copies -/

theorem coresAndWorlds_writeBackLine (s : State) (l : Line) : coresAndWorlds (writeBackLine s l) = coresAndWorlds s :=
  foldl_keeps _ coresAndWorlds (fun _ _ => (coresAndWorlds_writeHome ..).trans (coresAndWorlds_returnLines ..)) _ s

theorem coresAndWorlds_flushRemote (s : State) (die a : Nat) : coresAndWorlds (flushRemote s die a) = coresAndWorlds s := by
  unfold flushRemote
  split
  · exact coresAndWorlds_writeBackLine ..
  · rfl

theorem coresAndWorlds_fillL2 (s : State) (die a : Nat) (p : Place) : coresAndWorlds (fillL2 s die a p) = coresAndWorlds s :=
  (foldl_keeps _ coresAndWorlds (fun _ _ => coresAndWorlds_flushRemote ..) _ _).trans (coresAndWorlds_spoilFailed ..)

theorem coresAndWorlds_trimL1 (s : State) (die core : Nat) : coresAndWorlds (trimL1 s die core) = coresAndWorlds s := by
  unfold trimL1
  split <;> rfl

theorem coresAndWorlds_fillL1 (s : State) (die core a : Nat) (p : Place) : coresAndWorlds (fillL1 s die core a p) = coresAndWorlds s :=
  (coresAndWorlds_trimL1 ..).trans (coresAndWorlds_spoilFailed s a 1)

theorem coresAndWorlds_hostFill (s : State) (p : Place) (c : MemChoice) : coresAndWorlds (hostFill s p c) = coresAndWorlds s := by
  unfold hostFill
  split
  · split <;> rfl
  · rfl

theorem coresAndWorlds_releasePkg (s : State) (die : Nat) : coresAndWorlds (releasePkg s die) = coresAndWorlds s :=
  foldl_keeps _ coresAndWorlds coresAndWorlds_writeBackLine _ s

theorem coresAndWorlds_releaseAll (s : State) : coresAndWorlds (releaseAll s) = coresAndWorlds s :=
  foldl_keeps _ coresAndWorlds coresAndWorlds_releasePkg _ s

theorem coresAndWorlds_releaseBy (s : State) (die : Nat) (sc : Scope) : coresAndWorlds (releaseBy s die sc) = coresAndWorlds s := by
  cases sc with
  | pkg | sys => exact coresAndWorlds_releasePkg ..
  | _ => rfl

theorem coresAndWorlds_readThrough (s : State) (ls : List Line) (p : Place) (n : Nat) :
    coresAndWorlds (readThrough s ls p n).2 = coresAndWorlds s := by
  unfold readThrough
  dsimp only
  split
  · rfl
  · exact coresAndWorlds_readHome ..

theorem coresAndWorlds_readVia (s : State) (die core : Nat) (p : Place) (n : Nat) (sc : Scope) (ch : BitVec 2) (c : MemChoice) :
    coresAndWorlds (readVia s die core p n sc ch c).2 = coresAndWorlds s := by
  simp only [readVia]
  split
  · split
    · split
      · exact coresAndWorlds_readThrough ..
      · split
        · exact (coresAndWorlds_readThrough ..).trans (coresAndWorlds_fillL2 ..)
        · exact coresAndWorlds_readThrough ..
    · exact (coresAndWorlds_readHome ..).trans (coresAndWorlds_flushRemote ..)
  · split
    · split
      · exact coresAndWorlds_readThrough ..
      · refine (coresAndWorlds_readHome ..).trans ?_
        split
        · refine (coresAndWorlds_fillL1 ..).trans ?_
          split <;> rfl
        · split <;> rfl
    · exact (coresAndWorlds_readHome ..).trans (coresAndWorlds_hostFill ..)

theorem coresAndWorlds_writeThrough (s : State) (die : Nat) (p : Place) (bs : List PByte) :
    coresAndWorlds (writeThrough s die p bs) = coresAndWorlds s := by
  unfold writeThrough
  dsimp only
  split
  · exact coresAndWorlds_writeHome ..
  · exact foldl_keeps _ coresAndWorlds (fun _ _ => coresAndWorlds_writeHome ..) _ _

theorem coresAndWorlds_writeVia (s : State) (die core : Nat) (p : Place) (bs : List PByte) (sc : Scope) (ch : BitVec 2) (c : MemChoice) :
    coresAndWorlds (writeVia s die core p bs sc ch c) = coresAndWorlds s := by
  simp only [writeVia]
  split
  · split
    · refine (coresAndWorlds_writeThrough ..).trans ?_
      split
      · exact coresAndWorlds_fillL2 ..
      · rfl
    · exact (coresAndWorlds_writeHome ..).trans (coresAndWorlds_flushRemote ..)
  · refine (coresAndWorlds_writeHome ..).trans ?_
    split
    · split <;> rfl
    · rfl

theorem coresAndWorlds_eccApply (s : State) (p : Place) (e : Ecc) : coresAndWorlds (eccApply s p e).1 = coresAndWorlds s := by
  simp only [eccApply]
  split
  · rfl
  · split
    · rfl
    · split
      · rfl
      · rfl
      · dsimp only
        split
        · rfl
        · exact coresAndWorlds_spoilUnit ..
      · split
        · rfl
        · exact coresAndWorlds_writeFab (freeBytes s _ _ _).2 _ _

end Sys2Proof.Machine
end

section
/-! What the completion of a queue and the device registers leave alone, and so every access of memory (R256, R258, R336). -/
namespace Sys2Proof.Machine

variable {s t : State}

theorem coresAndWorlds_modQueue (s : State) (d q : Nat) (f : Queue → Queue) : coresAndWorlds (modQueue s d q f) = coresAndWorlds s := rfl

theorem coresAndWorlds_modDie (s : State) (d : Nat) (f : Die → Die) : coresAndWorlds (modDie s d f) = coresAndWorlds s := rfl

theorem coresAndWorlds_emit (s : State) (o : Out) : coresAndWorlds (emit s o) = coresAndWorlds s := rfl

/-! ### Accesses of agents that belong to no core -/

theorem coresAndWorlds_agentPlace {die pasid : Nat} {va : W64} {k : AccKind} {p : Place} (h : agentPlace s die pasid va k = .ok (p, t)) :
    coresAndWorlds t = coresAndWorlds s := by
  simp only [agentPlace] at h
  split at h
  · cases h
  · split at h
    · split at h <;> cases h
      rfl
    · split at h
      · cases h
      · split at h <;> cases h
        rfl

/-- A fold that answers a state or fails keeps what its steps keep. -/
theorem coresAndWorlds_foldlExcept {α β ε : Type} {f : Except ε (α × State) → β → Except ε (α × State)} {l : List β}
    {r : Except ε (α × State)} {q : α} (hf : ∀ r b, (∀ q u, r = .ok (q, u) → coresAndWorlds u = coresAndWorlds s) →
      ∀ q u, f r b = .ok (q, u) → coresAndWorlds u = coresAndWorlds s)
    (h : ∀ q u, r = .ok (q, u) → coresAndWorlds u = coresAndWorlds s) (hr : l.foldl f r = .ok (q, t)) :
    coresAndWorlds t = coresAndWorlds s := by
  induction l generalizing r with
  | nil => exact h _ _ hr
  | cons b l ih => exact ih (hf r b h) hr

theorem coresAndWorlds_agentRead {die pasid n : Nat} {va : W64} {k : AccKind} {bs : List PByte} (h : agentRead s die pasid va n k = .ok (bs, t)) :
    coresAndWorlds t = coresAndWorlds s := by
  refine coresAndWorlds_foldlExcept (fun r b hb q u hu => ?_) (fun q u hu => by cases hu; rfl) h
  split at hu
  · cases hu
  next bs1 s1 =>
  have h1 : coresAndWorlds s1 = coresAndWorlds s := hb _ _ rfl
  split at hu
  · cases hu
  next p s2 hp =>
  split at hu
  · cases hu
  cases hu
  exact (coresAndWorlds_ownTx ..).trans ((coresAndWorlds_readHome ..).trans ((coresAndWorlds_returnPlace ..).trans
    ((coresAndWorlds_agentPlace hp).trans h1)))

theorem coresAndWorlds_agentWrite {die pasid : Nat} {va : W64} {bs : List PByte} {k : AccKind} (h : agentWrite s die pasid va bs k = .ok t) :
    coresAndWorlds t = coresAndWorlds s := by
  simp only [agentWrite] at h
  split at h
  · cases h
  next l u hu =>
  cases h
  refine (foldl_keeps _ coresAndWorlds (fun s x => ?_) l u).trans (coresAndWorlds_foldlExcept (fun r b hb q v hv => ?_) (fun q v hv => ?_) hu)
  · exact (coresAndWorlds_ownTx ..).trans ((coresAndWorlds_writeHome ..).trans (coresAndWorlds_returnPlace ..))
  · split at hv
    · cases hv
    next l1 s1 =>
    have h1 : coresAndWorlds s1 = coresAndWorlds s := hb _ _ rfl
    split at hv
    · cases hv
    next p s2 hp =>
    split at hv
    · cases hv
    cases hv
    exact (coresAndWorlds_agentPlace hp).trans h1
  · cases hv
    rfl

/-! ### Records and timelines of queues (R271, R341, R366) -/

theorem coresAndWorlds_tryWrite {q : Queue} {va : W64} {bs : List Byte} {sc : Scope} (h : tryWrite s q va bs sc = some t) :
    coresAndWorlds t = coresAndWorlds s := by
  unfold tryWrite at h
  split at h
  · next hw =>
    cases h
    exact coresAndWorlds_agentWrite hw
  · cases h

/-- What is written if it can be. -/
theorem coresAndWorlds_getD {r : Option State} {u : State} (hr : ∀ t, r = some t → coresAndWorlds t = coresAndWorlds s)
    (hu : coresAndWorlds u = coresAndWorlds s) : coresAndWorlds (r.getD u) = coresAndWorlds s := by
  cases r with
  | none => exact hu
  | some t => exact hr t rfl

theorem coresAndWorlds_writeRecord (s : State) (die qid : Nat) (r : Record) :
    coresAndWorlds (writeRecord s die qid r) = coresAndWorlds s := by
  simp only [writeRecord]
  split
  · rfl
  next q hq =>
  split
  · exact coresAndWorlds_emit ..
  next hb u hu =>
  have h1 : coresAndWorlds u = coresAndWorlds s := coresAndWorlds_agentRead hu
  have lost : ∀ hdr t, countLost u q hdr = some t → coresAndWorlds t = coresAndWorlds s := fun hdr t ht => (coresAndWorlds_tryWrite ht).trans h1
  split
  · split
    · exact (coresAndWorlds_emit ..).trans (coresAndWorlds_getD (lost _) h1)
    next v hv =>
    have h2 : coresAndWorlds v = coresAndWorlds s := (coresAndWorlds_tryWrite hv).trans h1
    split
    · exact (coresAndWorlds_emit ..).trans h2
    next w hw =>
    exact (coresAndWorlds_emit ..).trans ((coresAndWorlds_tryWrite hw).trans ((coresAndWorlds_releaseAll v).trans h2))
  · exact coresAndWorlds_getD (lost _) ((coresAndWorlds_emit ..).trans h1)

theorem coresAndWorlds_tlSignal {die pasid : Nat} {va v : W64} {sec : Bool} (h : tlSignal s die pasid va v sec = .ok t) :
    coresAndWorlds t = coresAndWorlds s := by
  unfold tlSignal at h
  split at h
  · cases h
  · split at h
    · next p u hu =>
      split at h
      · cases h
      · cases h
        exact (coresAndWorlds_ownTx ..).trans ((coresAndWorlds_writeHome ..).trans
          ((coresAndWorlds_releaseAll u).trans (coresAndWorlds_agentPlace hu)))
    · cases h
    · cases h

theorem coresAndWorlds_irqQueue (s : State) (die qid : Nat) (v : W64) : coresAndWorlds (irqQueue s die qid v) = coresAndWorlds s := by
  unfold irqQueue
  split
  · rfl
  · exact (coresAndWorlds_emit ..).trans
      (coresAndWorlds_getD (fun t ht => (coresAndWorlds_tryWrite ht).trans (coresAndWorlds_releaseAll s)) rfl)

/-! ### Packets (R258, R321) -/

theorem coresAndWorlds_irqAfter (s : State) (irq : Bool) (die qid : Nat) (v : W64) :
    coresAndWorlds (if irq then irqQueue s die qid v else s) = coresAndWorlds s := by
  split
  · exact coresAndWorlds_irqQueue ..
  · rfl

theorem coresAndWorlds_finishPacket (s : State) (die qid : Nat) (p : Packet) :
    coresAndWorlds (finishPacket s die qid p) = coresAndWorlds s := by
  simp only [finishPacket]
  split
  · next q va v irq _ _ =>
    split
    · exact (coresAndWorlds_irqAfter ..).trans (coresAndWorlds_modQueue ..)
    · split
      · next u hu =>
        have h1 := (coresAndWorlds_ownTx s.freshId (.packet die qid p.seq) q.pasid va 8 u).trans (coresAndWorlds_tlSignal hu)
        split
        · exact (coresAndWorlds_modQueue ..).trans h1
        · exact (coresAndWorlds_irqAfter ..).trans ((coresAndWorlds_modQueue ..).trans h1)
      · exact (coresAndWorlds_modQueue ..).trans ((coresAndWorlds_writeRecord ..).trans (coresAndWorlds_modQueue ..))
  · exact coresAndWorlds_modQueue ..

theorem coresAndWorlds_queueTl (s : State) (q : Queue) (va : W64) (n : Nat) : coresAndWorlds (queueTl s q va n) = coresAndWorlds s := by
  unfold queueTl
  split
  · next h => exact coresAndWorlds_tlSignal h
  · rfl

/-- Writing a number that a queue has reached, if it is new. -/
theorem coresAndWorlds_queueTl_new (s : State) (q : Queue) (va : W64) (n old : Nat) :
    coresAndWorlds (if n = old then s else queueTl s q va n) = coresAndWorlds s := by
  split
  · rfl
  · exact coresAndWorlds_queueTl ..

theorem coresAndWorlds_threadEvent (s : State) (die qid bit : Nat) : coresAndWorlds (threadEvent s die qid bit) = coresAndWorlds s := rfl

theorem coresAndWorlds_threadEvent_if (s : State) (b : Bool) (die qid bit : Nat) :
    coresAndWorlds (if b then threadEvent s die qid bit else s) = coresAndWorlds s := by
  split
  · exact coresAndWorlds_threadEvent ..
  · rfl

theorem coresAndWorlds_settleQueue (s : State) (die qid : Nat) : coresAndWorlds (settleQueue s die qid) = coresAndWorlds s := by
  simp only [settleQueue]
  split
  · rfl
  next q0 _ =>
  have h1 : ∀ l : List Packet, coresAndWorlds (l.foldl (fun s p => finishPacket s die qid p) s) = coresAndWorlds s := fun l =>
    foldl_keeps _ coresAndWorlds (fun s p => coresAndWorlds_finishPacket s die qid p) l s
  have h2 : ∀ (u : State) (b : Bool) (f : Queue → Queue),
      coresAndWorlds (modQueue (if b then threadEvent u die qid 1 else u) die qid f) = coresAndWorlds u := fun u b f =>
    (coresAndWorlds_modQueue ..).trans (coresAndWorlds_threadEvent_if ..)
  split
  · exact (h2 ..).trans (h1 _)
  · exact (coresAndWorlds_modQueue ..).trans ((coresAndWorlds_queueTl_new ..).trans ((coresAndWorlds_queueTl_new ..).trans ((h2 ..).trans (h1 _))))

/-! ### Device registers (R336, R340) -/

theorem coresAndWorlds_kickQueue (s : State) (die qid v : Nat) : coresAndWorlds (kickQueue s die qid v) = coresAndWorlds s := by
  simp only [kickQueue]
  split
  · rfl
  · split
    · rfl
    · split
      · split
        · exact (coresAndWorlds_threadEvent ..).trans (coresAndWorlds_modQueue ..)
        · exact (coresAndWorlds_emit ..).trans (coresAndWorlds_modQueue ..)
      · exact (coresAndWorlds_modQueue ..).trans (coresAndWorlds_writeRecord ..)

theorem coresAndWorlds_suspack (s : State) (die qid v : Nat) : coresAndWorlds (suspack s die qid v) = coresAndWorlds s := by
  simp only [suspack]
  split
  · rfl
  · exact (coresAndWorlds_settleQueue ..).trans ((coresAndWorlds_threadEvent_if ..).trans (coresAndWorlds_modQueue ..))

theorem coresAndWorlds_clearMinimalBit (s : State) : coresAndWorlds (clearMinimalBit s) = coresAndWorlds s := by
  unfold clearMinimalBit
  split <;> rfl

theorem coresAndWorlds_devRead (s : State) (die off : Nat) : coresAndWorlds (devRead s die off).2 = coresAndWorlds s := by
  simp only [devRead]
  repeat' split
  all_goals rfl

theorem coresAndWorlds_devWrite (s : State) (die off : Nat) (wide : Bool) (v : W64) :
    coresAndWorlds (devWrite s die off wide v) = coresAndWorlds s := by
  simp only [devWrite]
  repeat' split
  exacts [rfl, coresAndWorlds_clearMinimalBit s, rfl, coresAndWorlds_congr rfl rfl, rfl, coresAndWorlds_congr rfl rfl,
    coresAndWorlds_modDie .., coresAndWorlds_modDie .., coresAndWorlds_modDie .., coresAndWorlds_kickQueue ..,
    coresAndWorlds_suspack .., rfl, coresAndWorlds_modDie .., rfl]

/-! ### Every place -/

theorem coresAndWorlds_readPlace (s : State) (die core : Nat) (p : Place) (n : Nat) (sc : Scope) (ch : BitVec 2) (c : MemChoice) :
    coresAndWorlds (readPlace s die core p n sc ch c).2 = coresAndWorlds s := by
  unfold readPlace
  split
  · split
    · exact coresAndWorlds_devRead ..
    · exact coresAndWorlds_readVia ..
  · exact coresAndWorlds_readVia ..

theorem coresAndWorlds_writePlace (s : State) (die core : Nat) (p : Place) (bs : List PByte) (sc : Scope) (ch : BitVec 2) (c : MemChoice) :
    coresAndWorlds (writePlace s die core p bs sc ch c) = coresAndWorlds s := by
  unfold writePlace
  split
  · split
    · exact coresAndWorlds_devWrite ..
    · exact coresAndWorlds_writeVia ..
  · exact coresAndWorlds_writeVia ..

end Sys2Proof.Machine
end

section
/-! Events of the matrix streams (O43). -/
namespace Sys2Proof.Machine

/-! ### The head of a stream (R234, R242) -/

section Head
variable {s t : State} {die core k : Nat} {ecc : Ecc}

theorem engOf_head {c : Core} {o : MatOp} {rest : List MatOp} {g : Group} (hc : core? s die core = some c)
    (ho : sget [] c.strm k = o :: rest) (hg : grp? s o.gid = some g) (hs : o.stopped = false) :
    engOf s die core k ecc = some { die, core, k, o, g, ecc } := by
  simp only [engOf, hc, ho, hg, hs, Bool.false_eq_true, if_false]

/-- An operation at work stands at the head of its stream, and its group is the one that it names. -/
theorem engOf_some {e : Eng} (h : engOf s die core k ecc = some e) : ∃ c rest, core? s die core = some c ∧
    sget [] c.strm k = e.o :: rest ∧ grp? s e.o.gid = some e.g := by
  unfold engOf at h
  split at h
  · cases h
  next c hc =>
  split at h
  · cases h
  next o rest ho =>
  split at h
  · cases h
  next g hg =>
  split at h
  · cases h
  · cases h
    exact ⟨c, rest, hc, ho, hg⟩

theorem matOp_work_succ (o : MatOp) : o.work = (o.work - 1) + 1 := by
  have : 0 < o.work := Nat.mul_pos (by decide) (by omega)
  omega

theorem runHead_eq {e : Eng} (h : engOf s die core k ecc = some e) :
    runHead s die core k ecc = streamRun die core k e.o.num (fun _ => true) ecc e.o.work s := by
  rw [runHead, h]

theorem exec_matrixOpComplete (s : State) (die core k : Nat) (ecc : Ecc) :
    exec (.matrixOpComplete die core k ecc) s = .next (runHead s die core k ecc) := rfl

/-- A head whose next action waits leaves the state that it waits in. -/
theorem runHead_waits {e : Eng} (h : engOf s die core k ecc = some e) (ha : e.act s = .error (.wait t)) :
    runHead s die core k ecc = t := by
  rw [runHead_eq h, matOp_work_succ]
  simp only [streamRun, h, streamStep, ha, decide_true, Bool.and_self, if_true]

/-- A head whose next action is its last: another operation, or none, stands at the head after it. -/
theorem runHead_ends {e : Eng} (h : engOf s die core k ecc = some e) (ha : e.act s = .ok t)
    (hn : ∀ e', engOf t die core k .clean = some e' → e'.o.num ≠ e.o.num) : runHead s die core k ecc = t := by
  rw [runHead_eq h, matOp_work_succ]
  simp only [streamRun, h, streamStep, ha, decide_true, Bool.and_self, if_true]
  cases e.o.work - 1 with
  | zero => rfl
  | succ n =>
    rw [streamRun]
    split
    · rfl
    · next e' he =>
      rw [if_neg (by simp [hn e' he])]

end Head

/-! ### The end of an operation (R206, R325) -/

section Finish
variable {s : State} {e : Eng}

theorem act_rowsDone (h : e.o.rowsDone = true) : e.act s = e.finish s := if_pos h

theorem finish_waits (h : farOut s (.matrix e.die e.core e.k) = true) : e.finish s = .error (.wait s) := if_pos h

/-- The state in which an operation completes: `mzero` has cleared its tile. -/
def rowsEnd (s : State) (e : Eng) : State :=
  if e.o.kind = .mzero then modCore s e.die e.core fun c => { c with tiles := sclear (e.o.zd * 4096) 4096 c.tiles } else s

/-- An operation whose writes are performed completes, once a signal that it has is sent. -/
theorem finish_completes (hf : farOut s (.matrix e.die e.core e.k) = false)
    (hs : (∀ ty rm ov sc, e.o.kind ≠ .mst ty rm ov sc true) ∨ e.o.signalled = true) : e.finish s = .ok (e.complete (rowsEnd s e)) := by
  rw [Eng.finish, if_neg (Bool.eq_false_iff.mp hf), rowsEnd]
  cases hk : e.o.kind with
  | mzero => rfl
  | mld | mma | mloop => rfl
  | mst ty rm ov sc sig =>
    cases sig with
    | false => rfl
    | true =>
      have hsig : e.o.signalled = true := hs.resolve_left fun h => h _ _ _ _ hk
      exact if_pos hsig

theorem core?_rowsEnd {c : Core} (hc : core? s e.die e.core = some c) :
    ∃ c', core? (rowsEnd s e) e.die e.core = some c' ∧ c'.strm = c.strm := by
  unfold rowsEnd
  split
  · exact ⟨_, core?_modCore_self _ (fun _ => ⟨rfl, rfl⟩) hc, rfl⟩
  · exact ⟨c, hc, rfl⟩

/-- A stream from which the head goes: the operations behind it move up. -/
theorem strm_drop {die core k : Nat} {c : Core} {o : MatOp} {rest : List MatOp} (n : Nat) (hc : core? s die core = some c)
    (ho : sget [] c.strm k = o :: rest) : ∃ c', core? (modCore s die core fun c =>
        { c with strm := sset [] c.strm k (((sget [] c.strm k).drop 1).modifyHead fun o => { o with since := n }) }) die core = some c' ∧
      sget [] c'.strm k = rest.modifyHead fun o => { o with since := n } :=
  ⟨_, core?_modCore_self _ (fun _ => ⟨rfl, rfl⟩) hc, by rw [sget_sset_self, ho, List.drop_one, List.tail_cons]⟩

theorem complete_strm {c : Core} {rest : List MatOp} (hc : core? s e.die e.core = some c) (ho : sget [] c.strm e.k = e.o :: rest) :
    ∃ c' n, core? (e.complete s) e.die e.core = some c' ∧ sget [] c'.strm e.k = rest.modifyHead fun o => { o with since := n } := by
  have hw : coresAndWorlds (tlWrite (releaseBy s e.die .pkg) e.die (strmTl e.core e.k) (BitVec.ofNat 64 e.o.num)) = coresAndWorlds s :=
    (coresAndWorlds_tlWrite ..).trans (coresAndWorlds_releaseBy ..)
  obtain ⟨c', hc', ho'⟩ := strm_drop (s := (fresh (tlWrite (releaseBy s e.die .pkg) e.die (strmTl e.core e.k) (BitVec.ofNat 64 e.o.num))).2)
    _ ((core?_of_coresAndWorlds hw e.die e.core).trans hc) ho
  exact ⟨c', _, hc', ho'⟩

/-- After an operation has completed its number is at the head no more, if no other bears it. -/
theorem num_after_complete {c : Core} {rest : List MatOp} {ecc : Ecc} {e' : Eng} (hc : core? s e.die e.core = some c)
    (ho : sget [] c.strm e.k = e.o :: rest) (hn : ∀ q ∈ rest, q.num ≠ e.o.num)
    (he : engOf (e.complete s) e.die e.core e.k ecc = some e') : e'.o.num ≠ e.o.num := by
  obtain ⟨c1, n, hc1, ho1⟩ := complete_strm hc ho
  obtain ⟨c2, rest2, hc2, ho2, -⟩ := engOf_some he
  cases hc1.symm.trans hc2
  rw [ho1] at ho2
  cases rest with
  | nil => cases ho2
  | cons q l =>
    obtain ⟨hq, -⟩ := List.cons.inj (show { q with since := n } :: l = e'.o :: rest2 from ho2)
    rw [← hq]
    exact hn q List.mem_cons_self

end Finish

/-! ### A stream that stops (R244, R245) -/

section Stop
variable {s : State} {die core k : Nat}

theorem exec_matrixStreamStop_routine {d : Die} (hd : die? s die = some d) (hw : d.walker.isSome = true) :
    exec (.matrixStreamStop die core k) s = .next s := by
  show execMatrixStreamStop die core k s = _
  rw [execMatrixStreamStop, hd, Option.bind_some, if_pos hw]

theorem exec_matrixStreamStop_vendor {d : Die} (hd : die? s die = some d) (hw : d.walker = none) :
    exec (.matrixStreamStop die core k) s = .next (stopAtOperand s die core k) := by
  show execMatrixStreamStop die core k s = _
  rw [execMatrixStreamStop, hd, Option.bind_some, hw]
  rfl

theorem stopAtOperand_idle (h : engOf (runHead s die core k .clean) die core k .clean = none) : stopAtOperand s die core k = s := by
  simp only [stopAtOperand, h]

theorem stopAtOperand_unawaited {e : Eng} (h : engOf (runHead s die core k .clean) die core k .clean = some e) (ha : e.o.await = none) :
    stopAtOperand s die core k = s := by
  simp only [stopAtOperand, h, ha]

theorem stopAtOperand_absent {e : Eng} {va : W64} {src : Nat} {t : Trap}
    (h : engOf (runHead s die core k .clean) die core k .clean = some e) (ha : e.o.await = some (va, src))
    (hw : walkLeaf (runHead s die core k .clean) die (groupPasid (runHead s die core k .clean) e.g) va = .error (.trap t))
    (ht : t.cause = .pageFault ∨ t.cause = .firstTouch) : stopAtOperand s die core k =
      stopStream (modCore (runHead s die core k .clean) die core fun c =>
        { c with missQ := c.missQ.filter fun m => !(m.mat && m.gid == e.o.gid && m.va == va) }) die core k e.o t.cause va src := by
  simp only [stopAtOperand, h, ha, hw, if_pos ht]

theorem stopStream_live {o : MatOp} {g : Group} {cause : Cause} {va : W64} {src : Nat} (hg : grp? s o.gid = some g) (he : g.ended = false) :
    stopStream s die core k o cause va src =
      modGrp (modHead s die core k fun o => { o with stopped := true, await := none, halt := some (va, BitVec.ofNat 64 cause.code) }) g.gid
        fun g => { g with mrp := sset 0 g.mrp k (mrpWord o src), mfault := insertFault k va (BitVec.ofNat 64 cause.code) g.mfault } := by
  simp only [stopStream, hg, he, Bool.false_eq_true, if_false]

end Stop

/-! ### MATRIX_FAULT (R247) -/

section Fault
variable {s : State} {gid pid : Nat} {g : Group} {p : Path}

/-- The paths that may take MATRIX_FAULT stand in the stack of their group. -/
theorem mem_paths_of_live {q : Path} (h : q ∈ g.stack.a.toList ++ g.stack.b.toList ++ g.stack.paths.filter inTwait) : q ∈ g.stack.paths := by
  rcases List.mem_append.mp h with h | h
  · exact List.mem_append_left _ h
  · exact List.mem_of_mem_filter h

theorem any_pid_modPid (g : Group) (p : Path) (f : Path → Path) (hf : ∀ q, (f q).pid = q.pid) (h : p ∈ g.stack.paths) (l) :
    (({ g.modPid p.pid f with mfault := l } : Group).stack.paths.any fun q => q.pid == p.pid) = true := by
  rw [show ({ g.modPid p.pid f with mfault := l } : Group).stack.paths = _ from modPid_paths g p.pid f, List.any_map, List.any_eq_true]
  exact ⟨p, h, by simp [hf]⟩

theorem exec_matrixFault_at (hg : grp? s gid = some g) (hf : g.frames = [])
    (hp : (g.stack.a.toList ++ g.stack.b.toList ++ g.stack.paths.filter inTwait).find? (fun p => p.pid == pid) = some p) :
    exec (.matrixFault gid pid) s = .next (if matrixBoundary p then deliverMatrix s g p else s) := by
  show execMatrixFault gid pid s = _
  simp only [execMatrixFault, hg, hf, List.isEmpty_nil, Bool.not_true, Bool.false_eq_true, if_false, hp]

theorem modGrp_congr {s : State} {n : Nat} {f f' : Group → Group} (h : ∀ g, g.gid = n → f g = f' g) : modGrp s n f = modGrp s n f' := by
  simp only [modGrp, modWhere]
  congr 1
  refine List.map_congr_left fun g _ => ?_
  split
  · next hg => exact h g (eq_of_beq hg)
  · rfl

theorem Stack.modPid_congr (k : Stack) {n : Nat} {f f' : Path → Path} (h : ∀ q, q.pid = n → f q = f' q) : k.modPid n f = k.modPid n f' := by
  have hq : ∀ q : Path, (if q.pid = n then f q else q) = if q.pid = n then f' q else q := fun q => by
    split
    · next hn => exact h q hn
    · rfl
  simp only [Stack.modPid, hq]

theorem Group.modPid_congr (g : Group) {n : Nat} {f f' : Path → Path} (h : ∀ q, q.pid = n → f q = f' q) : g.modPid n f = g.modPid n f' := by
  simp only [Group.modPid, Stack.modPid_congr _ h]

/-- A recoverable cause of no secure page, of a group that is no walker: the path takes it, or waits for its handler. -/
theorem raiseGroup_recoverable {t : Trap} {pc : W64} (hw : g.isWalker = false) (hs : t.sec = false) (hr : t.cause.recoverable = true)
    (hm : (g.stack.paths.any fun q => q.pid == p.pid) = true) :
    (∀ u, tryEnter s g p t pc (resumeOf t pc) = some u → raiseGroup s g p t pc = u) ∧
    (tryEnter s g p t pc (resumeOf t pc) = none → raiseGroup s g p t pc = modGrp (askHandler s g p t) g.gid fun g' => g'.modPid p.pid fun q =>
      { q with wait := .trapping, pend := some { trap := t, pc, resume := resumeOf t pc, gid := g.gid, pid := p.pid },
               denied := [], full := false }) := by
  have he : raiseGroup s g p t pc = raiseRecoverable s g p t pc (resumeOf t pc) := by
    simp only [raiseGroup, raiseTeam, logSecure, hw, hs, hr, Bool.false_eq_true, if_false, if_true]
  simp only [he, raiseRecoverable, hm, if_true]
  refine ⟨fun u h => by rw [h], fun h => ?_⟩
  rw [h]
  exact modGrp_congr fun g' hg' => Group.modPid_congr g' fun q hq => by rw [hg', hq]

end Fault

/-- Settles O43: the head's next action is its last one or waits, a stopped head is `stopStream`, and the fault is a recoverable cause. -/
theorem matrixEventsComplete : Obligations.MatrixEventsComplete := by
  unfold Obligations.MatrixEventsComplete
  intro s die core k gid pid ecc
  refine ⟨fun e he => (exec_matrixOpComplete ..).trans (congrArg _ (runHead_eq he)), fun c o rest g hc ho hg hs hn hr => ?_,
    fun d hd => ⟨exec_matrixStreamStop_routine hd, ?_⟩, fun g p kk va c l hg hw hf hm hp => ?_⟩
  · have he := engOf_head (ecc := ecc) hc ho hg hs
    refine ⟨fun hf => ?_, fun hf hsig => ?_⟩
    · exact (exec_matrixOpComplete ..).trans (congrArg _ (runHead_waits he ((act_rowsDone hr).trans (finish_waits hf))))
    obtain ⟨c', hc', hstrm⟩ := core?_rowsEnd (e := { die, core, k, o, g, ecc }) hc
    have hend := runHead_ends he ((act_rowsDone hr).trans (finish_completes hf hsig)) fun e' =>
      num_after_complete hc' ((congrArg (fun m => sget [] m k) hstrm).trans ho) hn
    exact (exec_matrixOpComplete ..).trans (congrArg _ hend)
  · intro hw u v
    rw [exec_matrixStreamStop_vendor hd hw]
    refine ⟨fun e va src t he ha hl ht hlive => congrArg _ ?_, fun e he ha => congrArg _ (stopAtOperand_unawaited he ha),
      fun he => congrArg _ (stopAtOperand_idle he)⟩
    obtain ⟨-, -, -, -, hg⟩ := engOf_some he
    rw [stopAtOperand_absent he ha hl ht]
    exact stopStream_live hg hlive
  · intro u f
    obtain rfl := grp?_gid hg
    rw [exec_matrixFault_at hg hf hp]
    refine ⟨fun hb => by rw [if_neg (Bool.eq_false_iff.mp hb)], fun hb g' hg' => ?_⟩
    have hpid : g' = { g.modPid p.pid (fun p => { p with wait := .run }) with mfault := l } :=
      Option.some.inj (hg'.symm.trans (grp?_modGrp_self _ (fun _ => rfl) hg))
    have hd : deliverMatrix s g p = raiseGroup u g' { p with wait := .run } f p.pc := by
      simp only [deliverMatrix, hm]
      rw [show grp? _ g.gid = some g' from hg']
    rw [if_pos hb, hd]
    have hmem : (g'.stack.paths.any fun q => q.pid == p.pid) = true := by
      rw [hpid]
      exact any_pid_modPid g p (fun q => { q with wait := .run }) (fun _ => rfl) (mem_paths_of_live (List.mem_of_find?_eq_some hp)) l
    obtain ⟨henter, hwait⟩ := raiseGroup_recoverable (s := u) (g := g') (p := { p with wait := .run }) (t := f) (pc := p.pc)
      (by rw [hpid]; exact hw) rfl rfl hmem
    exact ⟨fun t ht => congrArg _ (henter t ht), fun ht => congrArg _ (hwait ht)⟩

end Sys2Proof.Machine
end

section
/-! Events of the copy engines (O44). -/
namespace Sys2Proof.Machine

/-! ### No action of an operation changes a world (R281, R358) -/

section Actions
variable {s t : State} {c : Cop} {o : CopyOp}

theorem coresAndWorlds_modCopy (s : State) (c : Cop) (f : CopyOp → CopyOp) : coresAndWorlds (modCopy s c f) = coresAndWorlds s := rfl

theorem coresAndWorlds_copyRead {l : List (Nat × Nat × W64)} {bs : List PByte} (h : copyRead c l s = .ok (bs, t)) :
    coresAndWorlds t = coresAndWorlds s := by
  induction l generalizing s bs with
  | nil =>
    cases h
    rfl
  | cons pc rest ih =>
    simp only [copyRead] at h
    split at h
    · cases h
    next p u hu =>
    have h1 : coresAndWorlds (eccApply u p c.ecc).1 = coresAndWorlds s := (coresAndWorlds_eccApply ..).trans (coresAndWorlds_agentPlace hu)
    split at h
    · cases h
    split at h
    · cases h
    split at h
    · cases h
    next bs2 v hv =>
    cases h
    refine (ih hv).trans ?_
    split
    · exact h1
    · exact (coresAndWorlds_ownTx ..).trans ((coresAndWorlds_readPlace ..).trans ((coresAndWorlds_returnPlace ..).trans h1))

theorem coresAndWorlds_copyIndex {e n : Nat} (h : copyIndex c o e s = .ok (n, t)) : coresAndWorlds t = coresAndWorlds s := by
  unfold copyIndex at h
  split at h
  · split at h
    · cases h
    next hu =>
    cases h
    exact coresAndWorlds_copyRead hu
  · split at h
    · cases h
    next hu =>
    cases h
    exact coresAndWorlds_copyRead hu
  · cases h
    rfl

theorem coresAndWorlds_copyTake (h : copyTake s c o = .ok t) : coresAndWorlds t = coresAndWorlds s := by
  simp only [copyTake] at h
  split at h
  · cases h
  next n u hu =>
  split at h
  · cases h
  next bs v hv =>
  cases h
  exact (coresAndWorlds_modCopy ..).trans ((coresAndWorlds_copyRead hv).trans (coresAndWorlds_copyIndex hu))

theorem coresAndWorlds_copyPut {bytes : Nat → Nat → List PByte} (h : copyPut s c o bytes = .ok t) : coresAndWorlds t = coresAndWorlds s := by
  simp only [copyPut] at h
  split at h
  · cases h
  next p u hu =>
  have h1 : coresAndWorlds (eccApply u p c.ecc).1 = coresAndWorlds s := (coresAndWorlds_eccApply ..).trans (coresAndWorlds_agentPlace hu)
  split at h
  · cases h
  split at h
  · cases h
  cases h
  refine (coresAndWorlds_modCopy ..).trans ((coresAndWorlds_ownTx ..).trans ((coresAndWorlds_writePlace ..).trans
    ((coresAndWorlds_returnPlace ..).trans ?_)))
  split
  · exact (coresAndWorlds_taintFab ..).trans h1
  · exact h1

theorem coresAndWorlds_copyAct (h : copyAct s c o = .ok t) : coresAndWorlds t = coresAndWorlds s := by
  simp only [copyAct] at h
  split at h
  · split at h
    · cases h
    · split at h
      · cases h
      · cases h
        exact (coresAndWorlds_modCopy ..).trans ((coresAndWorlds_eccApply ..).trans (coresAndWorlds_spoilFailed ..))
  · exact coresAndWorlds_copyPut h
  · cases h
    rfl
  · split at h
    · exact coresAndWorlds_copyTake h
    · exact coresAndWorlds_copyPut h

theorem coresAndWorlds_copyRun {n : Nat} (h : copyRun c n s = .all t) : coresAndWorlds t = coresAndWorlds s := by
  induction n generalizing s c with
  | zero => cases h
  | succ n ih =>
    simp only [copyRun] at h
    split at h
    · cases h
    · split at h
      · cases h
        rfl
      · split at h
        · next u hu => exact (ih h).trans (coresAndWorlds_copyAct hu)
        · cases h
        · cases h

/-- A context works in the same world after a run of its actions. -/
theorem copOf_copyRun {n : Nat} {x : CopyCtx} {ecc : Ecc} (h : copyRun c n s = .all t) : copOf t x ecc = copOf s x ecc := by
  simp only [copOf, secure_of_coresAndWorlds (coresAndWorlds_copyRun h)]

end Actions

/-! ### The operation that an engine serves (R260, R280, R281) -/

section Served
variable {s : State} {die k : Nat} {ecc : Ecc}

theorem exec_copyOpComplete_waits (h : copyTurn s die k = false) : exec (.copyOpComplete die k ecc) s = .next s := by
  show execCopyOpComplete die k ecc s = _
  rw [execCopyOpComplete, if_neg (Bool.eq_false_iff.mp h)]

theorem exec_copyFaultStop_waits (h : copyTurn s die k = false) : exec (.copyFaultStop die k) s = .next s := by
  show execCopyFaultStop die k s = _
  rw [execCopyFaultStop, if_neg (Bool.eq_false_iff.mp h)]

theorem exec_copyOpComplete_served (h : copyTurn s die k = true) :
    exec (.copyOpComplete die k ecc) s = .next (completeCopy (serveTurn s die k) die k ecc) := by
  show execCopyOpComplete die k ecc s = _
  rw [execCopyOpComplete, if_pos h]

theorem exec_copyFaultStop_served (h : copyTurn s die k = true) :
    exec (.copyFaultStop die k) s = .next (faultCopy (serveTurn s die k) die k) := by
  show execCopyFaultStop die k s = _
  rw [execCopyFaultStop, if_pos h]

variable {x : CopyCtx} {o : CopyOp} (hx : cc? s die k = some x) (ho : copyOf s die k = some o)
include hx ho

theorem completeCopy_all {t : State} (hk : o.kind ≠ .prog) (h : copyRun (copOf s x ecc) o.work s = .all t) :
    completeCopy s die k ecc = copyDone t (copOf s x ecc) x o := by
  simp only [completeCopy, hx, ho, if_neg hk, h, copOf_copyRun h]

theorem faultCopy_stop {u t : State} {c : Trap} (h : copyRun (copOf s x .clean) o.work s = .stop u (.trap t c)) :
    faultCopy s die k = stopCopy t x c (copyPc x) := by
  simp only [faultCopy, hx, ho, h]

theorem completeCopy_starts (hk : o.kind = .prog) (hp : x.prog = none) (h0 : o.pos = 0) :
    completeCopy s die k ecc = startProgram s x o := by
  simp only [completeCopy, hx, ho, if_pos hk, hp, Option.isSome_none, Bool.false_eq_true, if_false, if_pos h0]

theorem completeCopy_ended (hk : o.kind = .prog) (hp : x.prog = none) (h0 : o.pos ≠ 0) :
    completeCopy s die k ecc = copyDone s (copOf s x ecc) x o := by
  simp only [completeCopy, hx, ho, if_pos hk, hp, Option.isSome_none, Bool.false_eq_true, if_false, if_neg h0]

end Served

theorem copyDone_far {s : State} {c : Cop} {x : CopyCtx} (o : CopyOp) (h : farOut s (.copy x.die x.k) = true) : copyDone s c x o = s :=
  if_pos h

/-- The copy context of a state after a change of that context. -/
theorem cc?_modCc_self {s : State} {d k : Nat} {x : CopyCtx} (f : CopyCtx → CopyCtx) (hf : ∀ c, (f c).die = c.die ∧ (f c).k = c.k)
    (h : cc? s d k = some x) : cc? (modCc s d k f) d k = some (f x) := by
  rw [cc?_modCc s d k f hf, h, Option.map_some, if_pos (cc?_key h)]

/-- The path of a started program. -/
def programPath (s : State) (x : CopyCtx) (o : CopyOp) : Path :=
  { newPath s.freshId (o.arg 2) 1 (clk s x.die) with start := o.sys, sys := o.sys, view := sset 0 [] 0 (o.arg 3) }

theorem cc?_startProgram {s : State} {die k : Nat} {x : CopyCtx} (hx : cc? s die k = some x) (o : CopyOp) :
    cc? (startProgram s x o) die k = some { x with prog := some (programPath s x o) } := by
  obtain ⟨hd, hk⟩ := cc?_key hx
  subst hd hk
  exact cc?_modCc_self (s := (fresh s).2) _ (fun _ => ⟨rfl, rfl⟩) hx

/-! ### What the die kernel does to a stopped context (R281, R343) -/

/-- A context as the die kernel resumes it, where it may. -/
def resumed (n : Nat) (c : CopyCtx) : CopyCtx :=
  if canResume c then { c with ops := c.ops.modifyHead fun o => { o with stop := none, since := n } } else c

/-- A context whose stopped operation has been abandoned. -/
def abandoned (n : Nat) (c : CopyCtx) : CopyCtx :=
  { c with ops := c.ops.drop 1, prog := none, inner := none, ret := none, deadOp := some (c.deadOp.getD n) }

theorem exec_copyContextResume (s : State) (die k : Nat) :
    exec (.copyContextResume die k) s = .next (modCc (fresh s).2 die k (resumed s.freshId)) := rfl

theorem resumed_key (n : Nat) (c : CopyCtx) : (resumed n c).die = c.die ∧ (resumed n c).k = c.k := by
  unfold resumed
  split <;> exact ⟨rfl, rfl⟩

section Kernel
variable {s : State} {die k : Nat} {x : CopyCtx} {o : CopyOp} (hx : cc? s die k = some x)
include hx

theorem cc?_resumed : cc? (modCc (fresh s).2 die k (resumed s.freshId)) die k = some (resumed s.freshId x) :=
  cc?_modCc_self (s := (fresh s).2) _ (resumed_key _) hx

theorem exec_copyContextAbort_runs (ho : x.ops.head? = some o) (hs : o.stop = none) : exec (.copyContextAbort die k) s = .next s := by
  show execCopyContextAbort die k s = _
  simp only [execCopyContextAbort, hx, ho, hs, Option.isNone_none, if_true]

theorem exec_copyContextAbort_stopped (ho : x.ops.head? = some o) (hs : o.stop ≠ none) : exec (.copyContextAbort die k) s =
    .next (modCc (modPacket s die o.qid o.seq fun p => { p with never := true }) die k (abandoned o.num)) := by
  show execCopyContextAbort die k s = _
  have hn : ¬ o.stop.isNone = true := fun h => hs (Option.isNone_iff_eq_none.mp h)
  simp only [execCopyContextAbort, hx, ho, if_neg hn]
  rfl

end Kernel

/-- Settles O44: an engine's turn gives the run of its context's operation, and the die kernel's events change that context alone. -/
theorem copyEventsComplete : Obligations.CopyEventsComplete := by
  unfold Obligations.CopyEventsComplete
  intro s die k ecc x o hx v
  have hv : cc? v die k = some x := hx
  refine ⟨fun ht => ⟨exec_copyOpComplete_waits ht, exec_copyFaultStop_waits ht⟩, fun ho hk => ⟨fun ht t hr => ?_, fun ht u t c hr => ?_⟩,
    fun ho hk hp ht => ?_, fun ho => ⟨fun hc => ?_, fun hc => ?_, exec_copyContextAbort_runs hx ho, fun hs => ?_⟩⟩
  · have he : exec (.copyOpComplete die k ecc) s = .next (copyDone t (copOf v x ecc) x o) :=
      (exec_copyOpComplete_served ht).trans (congrArg _ (completeCopy_all (s := v) hv ho hk hr))
    exact ⟨he, fun hf => he.trans (congrArg _ (copyDone_far o hf))⟩
  · exact (exec_copyFaultStop_served ht).trans (congrArg _ (faultCopy_stop (s := v) hv ho hr))
  · rw [exec_copyOpComplete_served ht]
    refine ⟨fun h0 => ?_, fun h0 => congrArg _ (completeCopy_ended (s := v) hv ho hk hp h0)⟩
    exact ⟨_, _, programPath v x o, congrArg _ (completeCopy_starts (s := v) hv ho hk hp h0), cc?_startProgram hv o, rfl, rfl, rfl, rfl, rfl,
      sget_sset_self .., rfl⟩
  · exact ⟨_, _, exec_copyContextResume s die k, cc?_resumed hx, by rw [resumed, if_pos hc], rfl, rfl⟩
  · refine ⟨_, exec_copyContextResume s die k, ?_⟩
    rw [cc?_resumed hx, resumed, if_neg (Bool.eq_false_iff.mp hc)]
  · exact ⟨_, _, exec_copyContextAbort_stopped hx ho hs,
      cc?_modCc_self (s := modPacket s die o.qid o.seq fun p => { p with never := true }) _ (fun _ => ⟨rfl, rfl⟩) hx,
      rfl, rfl, rfl, rfl, rfl, rfl⟩

end Sys2Proof.Machine
end

section
/-! System words of handler mode (O38). -/
namespace Sys2Proof.Machine

/-! ### `pgrab` (R287, R296, R297) -/

section Pgrab
variable {s s1 : State} {x : Ex} {sd : SReg} {gran size : BitVec 3} {p : Place}

/-- The words of a pool's record as `pgrab` reads them, HEAD, TAIL, RING, SIZE and LOW, and the state after them; what it reads from TAIL on
follows an acquire. -/
structure PoolRecord where
  head  : Nat
  tail  : Nat
  ring  : Nat
  size  : Nat
  low   : Nat
  after : State

/-- Reading a pool's record. -/
def poolRecord (s : State) (x : Ex) (p : Place) : PoolRecord :=
  let head := readWord s x p 8
  let tail := readWord (acquireNear head.2 x.die x.core) x (p.add 8) 8
  let ring := readWord tail.2 x (p.add 16) 8
  let size := readWord ring.2 x (p.add 24) 4
  let low := readWord size.2 x (p.add 28) 4
  { head := head.1, tail := tail.1, ring := ring.1, size := size.1, low := low.1, after := low.2 }

/-- The frames that a pool holds. -/
def PoolRecord.left (r : PoolRecord) : Nat := (r.tail + 2 ^ 64 - r.head) % 2 ^ 64

/-- The ring entry at a pool's head. -/
def PoolRecord.entry (r : PoolRecord) : W64 := BitVec.ofNat 64 (r.ring + 8 * (r.head % r.size))

/-- Taking the frame at a pool's head, whose ring entry is at a place. -/
def takeFrame (sd : SReg) (cls : Nat) (x : Ex) (p q : Place) (r : PoolRecord) (s : State) : Except Stop State :=
  if !mayAct s x .ld 8 .die .plain q then .error (.hold s)
  else if wordBad s x q 8 then .error (.trap { cause := .poison, va := r.entry })
  else
    let f := readWord s x q 8
    let u := writePlace f.2 x.die x.core p (cleanBytes (toBytes 8 (r.head + 1))) .die 0 plainChoice
    .ok (advance (setS (if r.left - 1 = r.low then emit u (.poolInterrupt x.die cls false) else u) x sd (BitVec.ofNat 64 f.1)) x)

/-- What `pgrab` does once its record is read: 0 from an empty pool, else its head's frame. -/
def grabFrom (sd : SReg) (cls : Nat) (x : Ex) (p : Place) (r : PoolRecord) : Except Stop State :=
  if r.left = 0 then .ok (advance (setS (emit r.after (.poolInterrupt x.die cls true)) x sd 0) x)
  else match onePlace r.after x (sysKind r.after x false false 8) r.entry with
    | .error e => .error e
    | .ok (q, s) => takeFrame sd cls x p q r s

/-- What `pgrab` does once its record has a place. -/
def grabAt (sd : SReg) (cls : Nat) (base : W64) (x : Ex) (p : Place) (s : State) : Except Stop State :=
  if !poolFree s x p then .error (.hold s)
  else match recordBad s x p with
    | some k => .error (.trap { cause := .poison, va := base + BitVec.ofNat 64 k })
    | none => grabFrom sd cls x p (poolRecord s x p)

theorem pgrab_ready (hr : Ready s x ruleHandler { sd := [sd.toNat] } none)
    (hp : onePlace s x (sysKind s x true false 8)
      (dieReg s x.die (fun d => d.poolbase) + BitVec.ofNat 64 (64 * (5 * size.toNat + gran.toNat))) = .ok (p, s1)) :
    exec (.pgrab sd gran size) s = .next (bodyEnd s x (grabAt sd (5 * size.toNat + gran.toNat)
      (dieReg s x.die (fun d => d.poolbase) + BitVec.ofNat 64 (64 * (5 * size.toNat + gran.toNat))) x p s1)) := by
  rw [exec_ready _ (show exec (.pgrab sd gran size) s = issue s ruleHandler _ none _ from rfl) hr]
  dsimp only
  rw [hp]
  rfl

variable {cls : Nat} {base : W64} {r : PoolRecord} {q : Place}

theorem grabAt_waits (hf : poolFree s x p = false) : grabAt sd cls base x p s = .error (.hold s) := by
  simp only [grabAt, hf, Bool.not_false, if_true]

theorem grabAt_poison {k : Nat} (hf : poolFree s x p = true) (hb : recordBad s x p = some k) :
    grabAt sd cls base x p s = .error (.trap { cause := .poison, va := base + BitVec.ofNat 64 k }) := by
  simp only [grabAt, hf, hb, Bool.not_true, Bool.false_eq_true, if_false]

theorem grabAt_reads (hf : poolFree s x p = true) (hb : recordBad s x p = none) :
    grabAt sd cls base x p s = grabFrom sd cls x p (poolRecord s x p) := by
  simp only [grabAt, hf, hb, Bool.not_true, Bool.false_eq_true, if_false]

theorem grabFrom_empty (h : r.left = 0) :
    grabFrom sd cls x p r = .ok (advance (setS (emit r.after (.poolInterrupt x.die cls true)) x sd 0) x) := if_pos h

theorem grabFrom_full (h : r.left ≠ 0) (hq : onePlace r.after x (sysKind r.after x false false 8) r.entry = .ok (q, s)) :
    grabFrom sd cls x p r = takeFrame sd cls x p q r s := by
  rw [grabFrom, if_neg h, hq]

theorem takeFrame_waits (h : mayAct s x .ld 8 .die .plain q = false) : takeFrame sd cls x p q r s = .error (.hold s) := by
  simp only [takeFrame, h, Bool.not_false, if_true]

theorem takeFrame_poison (h : mayAct s x .ld 8 .die .plain q = true) (hb : wordBad s x q 8 = true) :
    takeFrame sd cls x p q r s = .error (.trap { cause := .poison, va := r.entry }) := by
  simp only [takeFrame, h, hb, Bool.not_true, Bool.false_eq_true, if_false, if_true]

theorem takeFrame_takes (h : mayAct s x .ld 8 .die .plain q = true) (hb : wordBad s x q 8 = false) :
    takeFrame sd cls x p q r s =
      let f := readWord s x q 8
      let u := writePlace f.2 x.die x.core p (cleanBytes (toBytes 8 (r.head + 1))) .die 0 plainChoice
      .ok (advance (setS (if r.left - 1 = r.low then emit u (.poolInterrupt x.die cls false) else u) x sd (BitVec.ofNat 64 f.1)) x) := by
  simp only [takeFrame, h, hb, Bool.not_true, Bool.false_eq_true, if_false]

end Pgrab

/-! ### The host IOMMU (R288, R289) -/

section Iommu
variable {s : State} {x : Ex} {sa : SReg} {w : Bool}

/-- The translation that `ats` asks the host for. -/
def atsAsk (s : State) (x : Ex) (sd sa : SReg) (w : Bool) : AtsReq :=
  { id := s.freshId, fn := fnOf s ((rdSk x.p sa 1).toNat % 2 ^ 20), pasid := (rdSk x.p sa 1).toNat % 2 ^ 20, va := rdS x.p sa, write := w,
    die := x.die, who := x.who, pid := x.p.pid, use := .instr (s.freshId + 1) sd.toNat, since := s.now }

/-- The operation of an `ats` that waits for its answer. -/
def atsOp (s : State) (x : Ex) : MemOp :=
  { id := s.freshId + 1, who := x.who, pid := x.p.pid, anc := x.p.anc, pc := x.p.pc, kind := .alu [] [] 0, size := 0, scope := .weak,
    ord := .plain, ch := 0, dest := .nowhere, todo := [], begun := false, since := s.now, counted := false, leased := [] }

/-- The state in which an `ats` has asked. -/
def atsAsked (s : State) (x : Ex) (sd sa : SReg) (w : Bool) : State :=
  let r := atsAsk s x sd sa w
  emit { s with freshId := s.freshId + 2, ops := s.ops ++ [atsOp s x], ats := s.ats ++ [r] } (.atsRequest r.id r.fn r.pasid r.va r.write)

theorem ats_asks {sd : SReg} {la : BitVec 4}
    (hr : Ready s x ruleHandler { ss := [sa.toNat, sa.toNat + 1], sd := [sd.toNat, sd.toNat + 1] } none) :
    exec (.ats la sd sa w) s =
      .next (advance (openWindow (atsAsked s x sd sa w) x (s.freshId + 1) false la.toNat [] [sd.toNat, sd.toNat + 1]) x) := by
  show execAts la sd sa w s = _
  rw [execAts, issue_ready hr]
  rfl

/-- The group that `pri` names by its entry number. -/
def namedEntry (s : State) (x : Ex) (sa : SReg) : Option Group :=
  s.groups.find? fun g => g.die == x.die && g.core == x.core && g.entry == (rdSk x.p sa 2).toNat % 1024 && !g.isWalker && !g.ended

variable (hr : Ready s x ruleHandler { ss := [sa.toNat, sa.toNat + 1, sa.toNat + 2] } none)
include hr

theorem pri_unnamed (h : namedEntry s x sa = none) : exec (.pri sa w) s = .next (raiseOn s x.who { cause := .illegal } x.p.pc) := by
  rw [exec_ready _ (show exec (.pri sa w) s = issue s ruleHandler _ none _ from rfl) hr]
  unfold namedEntry at h
  simp only [h]
  rfl

theorem pri_sent {g : Group} {u : State} (h : namedEntry s x sa = some g)
    (hu : sendPri (advance s x) ((rdSk x.p sa 1).toNat % 2 ^ 20) (rdS x.p sa) w g.gid (priPath s x g) = some u) :
    exec (.pri sa w) s = .next u := by
  rw [exec_ready _ (show exec (.pri sa w) s = issue s ruleHandler _ none _ from rfl) hr]
  unfold namedEntry at h
  simp only [h, hu]
  rfl

end Iommu

/-! ### Quadrille and halts (R290, R291) -/

section Dmsg
variable {s : State} {x : Ex} {sd sa : SReg}
  (hr : Ready s x ruleHandler { ss := (List.range 8).map (fun k => sa.toNat + k), sd := [sd.toNat] } none)
include hr

theorem dmsg_waits (h : writesPending s x = true ∨ predPending s x 0b0101000#7 0 = true) : exec (.dmsg sd sa) s = .next s := by
  rw [exec_ready _ (show exec (.dmsg sd sa) s = issue s ruleHandler _ none _ from rfl) hr, if_pos (Bool.or_eq_true_iff.mpr h)]
  rfl

theorem dmsg_sends {u : State} (hw : writesPending s x = false) (hp : predPending s x 0b0101000#7 0 = false)
    (hu : quadSend (releaseBy s x.die .pkg) x.die ((List.range 8).map fun k => rdSk x.p sa k) = some u) :
    exec (.dmsg sd sa) s = .next (advance (setS u x sd (BitVec.ofNat 64 s.quad.length)) x) := by
  rw [exec_ready _ (show exec (.dmsg sd sa) s = issue s ruleHandler _ none _ from rfl) hr,
    if_neg (Bool.eq_false_iff.mp (Bool.or_eq_false_iff.mpr ⟨hw, hp⟩))]
  dsimp only
  rw [hu]
  rfl

end Dmsg

section Hlt
variable {s : State} {x : Ex} {sa : SReg}
  (hr : Ready s x { g := true, q := true, c := true, cls := .handler, priv := true } { ss := [sa.toNat] } none)
include hr

theorem hlt_thread {d t : Nat} {q : QThread} (hw : x.who = .qthr d t) (hq : qt? s d t = some q) :
    exec (.hlt sa) s = .next (stopThread s q 0x33 x.p.pc 0 (rdS x.p sa)) := by
  rw [exec_ready _ (show exec (.hlt sa) s = issue s _ _ none _ from rfl) hr]
  simp only [hw, hq]
  rfl

theorem hlt_copy {d k : Nat} (hw : x.who = .copyc d k) : exec (.hlt sa) s = .next (haltCopy s x d k (rdS x.p sa)) := by
  rw [exec_ready _ (show exec (.hlt sa) s = issue s _ _ none _ from rfl) hr]
  simp only [hw]
  rfl

/-- A ready word whose executor has a group is a group's. -/
theorem who_of_group {g : Group} (hx : x.g = some g) : ∃ gid slot, x.who = .grp gid slot := by
  have hh := hr.here
  cases hw : x.who with
  | grp gid slot => exact ⟨gid, slot, rfl⟩
  | qthr d t =>
    rw [hw] at hh
    simp only [exOf] at hh
    split at hh
    · cases hh
    · split at hh <;> cases hh
      cases hx
  | copyc d k =>
    rw [hw] at hh
    simp only [exOf] at hh
    split at hh
    · cases hh
    · split at hh <;> cases hh
      cases hx

theorem hlt_team {g : Group} (hx : x.g = some g) (hg : g.isWalker = false) : exec (.hlt sa) s = .next (haltTeam s g.team
    [{ gid := g.gid, code := g.regs.trapc.toNat % 256, pc := g.regs.trappc, va := g.regs.trapva, aux := rdS x.p sa }]) := by
  obtain ⟨gid, slot, hw⟩ := who_of_group hr hx
  rw [exec_ready _ (show exec (.hlt sa) s = issue s _ _ none _ from rfl) hr]
  simp only [hw, hx, hg, Bool.false_eq_true, if_false]
  rfl

theorem hlt_walker {g : Group} (hx : x.g = some g) (hg : g.isWalker = true) :
    exec (.hlt sa) s = .next (raiseOn s x.who { cause := .illegal } x.p.pc) := by
  obtain ⟨gid, slot, hw⟩ := who_of_group hr hx
  rw [exec_ready _ (show exec (.hlt sa) s = issue s _ _ none _ from rfl) hr]
  simp only [hw, hx, hg, if_true]
  rw [bad, bodyEnd_trap, hw]

end Hlt

/-- Settles O38: `pgrab` by its record and the ring's entry, each other word by its own equation. -/
theorem systemWordsComplete : Obligations.SystemWordsComplete := by
  unfold Obligations.SystemWordsComplete
  intro s x sd sa gran size la w v
  refine ⟨fun hr => ?_, fun hr => ?_, fun hr => ?_, fun hr => ?_, fun hr => ?_⟩
  · intro cls base p s1 hp
    have he : exec (.pgrab sd gran size) s = .next (bodyEnd s x (grabAt sd cls base x p s1)) := pgrab_ready hr hp
    refine ⟨fun hf => by rw [he, grabAt_waits hf]; rfl, fun hf k hb => by rw [he, grabAt_poison hf hb]; rfl, fun hf hb => ?_⟩
    intro head tail ring n low left
    have hread := he.trans (by rw [grabAt_reads hf hb])
    refine ⟨fun h0 => ?_, fun h0 q s2 hq => ?_⟩
    · rw [hread, grabFrom_empty (r := poolRecord s1 x p) h0]
      rfl
    · have htake := hread.trans (by rw [grabFrom_full (r := poolRecord s1 x p) h0 hq])
      refine ⟨fun hm => ?_, fun hm hb => ?_, fun hm hb => ?_⟩
      · rw [htake, takeFrame_waits hm]
        rfl
      · rw [htake, takeFrame_poison hm hb]
        rfl
      · rw [htake, takeFrame_takes hm hb]
        rfl
  · exact ⟨atsAsked s x sd sa w, atsOp s x, ats_asks hr, rfl, rfl, rfl, rfl, atsAsk s x sd sa w, rfl, rfl, rfl, rfl, rfl, rfl⟩
  · exact ⟨pri_unnamed hr, fun g hg u hu => pri_sent hr hg hu⟩
  · exact ⟨dmsg_waits hr, fun hw hp u hu => dmsg_sends hr hw hp hu⟩
  · exact ⟨fun d t q hw hq => hlt_thread hr hw hq, fun d k hw => hlt_copy hr hw, fun g hx hg => hlt_team hr hx hg,
      fun g hx hg => hlt_walker hr hx hg⟩

end Sys2Proof.Machine
end

section
/-! Words of the memory family (O24, O26, O28, O32): addresses, the values of atomics, the barrier words and `wchg`, and the load of the walker
routine, which walks the tables itself. -/
namespace Sys2Proof.Machine

/-! ### Addresses (R212) -/

/-- An address to which signed amounts are added is their sum modulo 2^64. -/
theorem add_ofInt_ofInt (a : W64) (i j : Int) : a + BitVec.ofInt 64 i + BitVec.ofInt 64 j = BitVec.ofInt 64 (a.toInt + i + j) := by
  rw [BitVec.ofInt_add, BitVec.ofInt_add, BitVec.ofInt_toInt]

theorem add_ofInt (a : W64) (i : Int) : a + BitVec.ofInt 64 i = BitVec.ofInt 64 (a.toInt + i) := by
  rw [BitVec.ofInt_add, BitVec.ofInt_toInt]

/-- Settles O24: each address is a sum of signed amounts modulo 2^64. -/
theorem effectiveAddressRule : Obligations.EffectiveAddressRule := by
  unfold Obligations.EffectiveAddressRule
  intro g p m lane base sz index off
  refine ⟨add_ofInt_ofInt _ index off, add_ofInt_ofInt _ (index * sz) off, ?_, add_ofInt _ off, ?_⟩
  · exact (BitVec.add_zero _).trans (add_ofInt _ index)
  · exact (BitVec.add_zero _).trans (BitVec.ofInt_toInt).symm

/-! ### Atomic operations (R220) -/

section Atomics
variable {n old x : Nat}

/-- The signed reading of n bits, as the signed atomics make it. -/
theorem toInt_ofNat_cond {v : Nat} (hn : 0 < n) (hv : v < 2 ^ n) :
    (BitVec.ofNat n v).toInt = if v < 2 ^ (n - 1) then (v : Int) else (v : Int) - (2 ^ n : Nat) := by
  have hhalf : 2 * v < 2 ^ n ↔ v < 2 ^ (n - 1) := by
    obtain ⟨k, rfl⟩ : ∃ k, n = k + 1 := ⟨n - 1, by omega⟩
    rw [Nat.add_sub_cancel, pow_succ]
    omega
  rw [BitVec.toInt_eq_toNat_cond, BitVec.toNat_ofNat, Nat.mod_eq_of_lt hv]
  exact if_congr hhalf rfl rfl

theorem atomNew_smin (hn : 0 < n) (ho : old < 2 ^ n) (hx : x < 2 ^ n) :
    atomNew .smin n old x = if (BitVec.ofNat n old).toInt ≤ (BitVec.ofNat n x).toInt then old else x := by
  rw [toInt_ofNat_cond hn ho, toInt_ofNat_cond hn hx]
  rfl

theorem atomNew_smax (hn : 0 < n) (ho : old < 2 ^ n) (hx : x < 2 ^ n) :
    atomNew .smax n old x = if (BitVec.ofNat n x).toInt ≤ (BitVec.ofNat n old).toInt then old else x := by
  rw [toInt_ofNat_cond hn ho, toInt_ofNat_cond hn hx]
  rfl

/-- The new value of an atomic fits its operands' width. -/
theorem atomNew_lt (hn : 0 < n) (ho : old < 2 ^ n) (hx : x < 2 ^ n) (op : AtomOp) : atomNew op n old x < 2 ^ n := by
  cases op with
  | exch => exact hx
  | add => exact Nat.mod_lt _ (Nat.two_pow_pos n)
  | and => exact Nat.and_lt_two_pow old hx
  | or => exact Nat.or_lt_two_pow ho hx
  | xor => exact Nat.xor_lt_two_pow ho hx
  | smin =>
    rw [atomNew_smin hn ho hx]
    split
    · exact ho
    · exact hx
  | smax =>
    rw [atomNew_smax hn ho hx]
    split
    · exact ho
    · exact hx
  | umin => exact Nat.lt_of_le_of_lt (Nat.min_le_left old x) ho
  | umax => exact Nat.max_lt.mpr ⟨ho, hx⟩

end Atomics

/-- Settles O28: the bit operations bit by bit, the signed ones through the signed reading. -/
theorem atomicOperations : Obligations.AtomicOperations := by
  unfold Obligations.AtomicOperations
  intro n old x hw ho hx sg
  have hn : 0 < n := by omega
  refine ⟨rfl, rfl, fun k => Nat.testBit_and old x k, fun k => Nat.testBit_or old x k, fun k => Nat.testBit_xor old x k, ?_, ?_, rfl, rfl,
    atomNew_lt hn ho hx⟩
  · rw [atomNew_smin hn ho hx, min_def]
    exact apply_ite sg _ old x
  · rw [atomNew_smax hn ho hx, max_comm, max_def]
    exact apply_ite sg _ old x

/-! ### The load of the walker routine (R159, R294) -/

/-- The walker group at a load made once for its path. -/
theorem routineEx_ready_lds : Ready routineWorld routineEx memRuleAll { ss := [1], sd := [0] } none := ready_of rfl rfl (by decide +kernel)

/-- The walk that its address takes ends in a place. -/
theorem onePlace_routine :
    isOk (onePlace routineWorld routineEx (memKind routineWorld routineEx routineArg false false) (pathEa routineEx.p routineArg true)) = true := by
  decide +kernel

/-- The issue of that load sets A in the leaf's entry, the byte at 0x1000 (R159). -/
theorem exec_lds_routine : (match exec (.lds 0 routineArg) routineWorld with
    | .next t => byteAt t 0x1000
    | _ => 0) = 0x43 := by
  decide +kernel

/-- Refutes O26: `lds` of the walker group, whose address misses every level, walks the tables when it is issued and sets A in the entry that it
uses, so that a byte of memory changes before the load is performed. -/
theorem not_memoryIssueFrame : ¬ Obligations.MemoryIssueFrame := by
  unfold Obligations.MemoryIssueFrame
  intro h
  obtain ⟨pl, u, hp⟩ := ok_of onePlace_routine
  obtain ⟨hissue, -⟩ := accessWordsComplete.2 routineWorld routineEx 0 routineArg .exch
  obtain ⟨-, hroom⟩ := hissue routineEx_ready_lds
  have ht := (hroom (by decide +kernel)).1 pl u hp
  obtain ⟨-, -, -, -, -, -, hlds, -⟩ := h routineWorld _ routineEx routineGroup routineHead routineArg .exch 0 rfl rfl
  obtain ⟨hsame, -⟩ := hlds routineEx_ready_lds ⟨(pl, u), hp⟩ ht
  have hbyte := exec_lds_routine
  rw [ht] at hbyte
  exact absurd ((hsame.fabric 0x1000).symm.trans hbyte) (by decide +kernel)

/-! ### Barrier words (R230) -/

/-- Whether an access of the path or of one that it descends from is outstanding. -/
def earlierOut (s : State) (x : Ex) : Bool := s.ops.any fun o => sameAgent o.who x.who && x.p.anc.contains o.pid && !(match o.kind with
  | .alu _ _ _ => true
  | _ => false)

/-- What `bar` and `barr` do once they may act: they park when the path is recorded, and otherwise record it and go on as `k` says. -/
def recordAt (s : State) (b : Nat) (roles : BitVec 4) (k : Ex → State → State) (x : Ex) (g : Group) : Except Stop State :=
  if alreadyIn s x g b then parkAtBar s x b else record s x g b roles (k x)

section Barrier
variable {i : Instr} {s t : State} {x : Ex} {g : Group} {b : Nat} {roles : BitVec 4} {f : Ex → Group → Except Stop State}
  {k : Ex → State → State}

theorem barBody_unnamed (hx : x.g = some g) (hn : ¬(namesRole roles g = true ∧ g.spawned = none)) : barBody s roles f x = bad .illegal := by
  have hbad : (!namesRole roles g || g.spawned.isSome) = true := by
    simpa [imp_iff_not_or, Option.isSome_iff_ne_none] using hn
  rw [barBody, withGroup_some hx, if_pos hbad]

theorem barBody_named (hx : x.g = some g) (hn : namesRole roles g = true ∧ g.spawned = none) :
    barBody s roles f x = if earlierOut s x then .error (.hold (stall s x)) else f x g := by
  obtain ⟨hrole, hspawn⟩ := hn
  have hgood : ¬(!namesRole roles g || g.spawned.isSome) = true := by simp [hrole, hspawn]
  rw [barBody, withGroup_some hx, if_neg hgood]
  rfl

variable (hx : x.g = some g) (hr : Ready s x (barRule s) {} none)
include hx hr

theorem bar_unnamed (hi : exec i s = issue s (barRule s) {} none (barBody s roles f))
    (hn : ¬(namesRole roles g = true ∧ g.spawned = none)) : exec i s = .next (raiseOn s x.who { cause := .illegal } x.p.pc) := by
  rw [exec_ready _ hi hr, barBody_unnamed hx hn]
  rfl

theorem bar_waits (hi : exec i s = issue s (barRule s) {} none (barBody s roles f))
    (hn : namesRole roles g = true ∧ g.spawned = none) (ho : earlierOut s x = true) : exec i s = .next (stall s x) := by
  rw [exec_ready _ hi hr, barBody_named hx hn, if_pos ho, bodyEnd_hold]

/-- A barrier word that is named and waits for nothing acts. -/
theorem bar_acts (hi : exec i s = issue s (barRule s) {} none (barBody s roles f))
    (hn : namesRole roles g = true ∧ g.spawned = none) (ho : earlierOut s x = false) : exec i s = .next (bodyEnd s x (f x g)) := by
  rw [exec_ready _ hi hr, barBody_named hx hn, if_neg (Bool.eq_false_iff.mp ho)]

variable (hi : exec i s = issue s (barRule s) {} none (barBody s roles (recordAt s b roles k)))
  (hn : namesRole roles g = true ∧ g.spawned = none) (ho : earlierOut s x = false)
include hi hn ho

theorem record_parks (ha : alreadyIn s x g b = true) : exec i s = .next (parkAt s x (.barrier b)) := by
  rw [bar_acts hx hr hi hn ho, recordAt, if_pos ha]
  rfl

theorem record_records (ha : alreadyIn s x g b = false) (ht : recordLanes s x g b roles = some t) : exec i s = .next (k x t) := by
  rw [bar_acts hx hr hi hn ho, recordAt, if_neg (Bool.eq_false_iff.mp ha), record, ht]
  rfl

theorem record_refused (ha : alreadyIn s x g b = false) (ht : recordLanes s x g b roles = none) :
    exec i s = .next (raiseOn s x.who { cause := .illegal } x.p.pc) := by
  rw [bar_acts hx hr hi hn ho, recordAt, if_neg (Bool.eq_false_iff.mp ha), record, ht]
  rfl

end Barrier

section BarrierWords
variable (b : BitVec 3) (roles : BitVec 4) (s : State)

theorem exec_bar : exec (.bar b roles) s =
    issue s (barRule s) {} none (barBody s roles (recordAt s b.toNat roles fun x t => parkAfterBar t x b.toNat)) := rfl

theorem exec_barr : exec (.barr b roles) s =
    issue s (barRule s) {} none (barBody s roles (recordAt s b.toNat roles fun x t => advance t x)) := rfl

theorem exec_barw : exec (.barw b roles) s = issue s (barRule s) {} none (barBody s roles fun x g =>
    if alreadyIn s x g b.toNat then .ok (parkAfterBar s x b.toNat) else .ok (advance (acquireNear s x.die x.core) x)) := rfl

end BarrierWords

/-! ### `wchg` (R186, R189, R229) -/

/-- What `wchg` does once it reads its line: interrupted by a pre-emption it ends with status 2, and otherwise it parks while the line holds the
value, and ends with status 0 when it does not. -/
def wchgRead (m : MemArg) (x : Ex) (pl : Place) (s : State) : Except Stop State :=
  let d := (dataS m).toNat
  let n := m.size.bytes
  let r := waitRead s x pl n m.scope m.ch
  let want := BitVec.ofNat 64 ((rdS x.p (dataS m)).toNat % 2 ^ (8 * n))
  let acq := if ordAcq m.ord then some m.scope else none
  if x.p.cut then
    .ok (endWait (modPath r.2 x.who x.p.pid fun p => { p with cut := false }) x [(d, r.1.1, r.1.2), (d + 1, 2, false)] acq)
  else if r.1.1 = want then .error (.hold (parkAt r.2 x (.wchg pl n want d (clk r.2 x.die) (ordAcq m.ord) m.scope m.ch)))
  else .ok (endWait r.2 x [(d, r.1.1, r.1.2), (d + 1, 0, false)] acq)

/-- What `wchg` does at its place. -/
def wchgAt (m : MemArg) (x : Ex) (pl : Place) (s : State) : Except Stop State :=
  if placeLost s x.die pl then .error (.trap { cause := .homeLost, va := pathEa x.p m true })
  else if placeAbsent s pl then .error (.hold (parkAt s x (.absent pl)))
  else if 64 ≤ watches s x.die x.core || !mayRead s x m pl || homeSilent s x.die pl then .error (.hold s)
  else wchgRead m x pl s

section Wchg
variable {s t : State} {x : Ex} {m : MemArg} {pl : Place}

/-- A word whose access is made once goes on with its place, once that is found. -/
theorem place_ready {i : Instr} {r : Rule} {u : Use} (k : Ex → AccKind) (va : Ex → W64) (after : Ex → Place → State → Except Stop State)
    (hr : Ready s x r u none)
    (hi : exec i s = issue s r u none fun x => match onePlace s x (k x) (va x) with
      | .error e => .error e
      | .ok (pl, s) => after x pl s)
    (hp : onePlace s x (k x) (va x) = .ok (pl, t)) : exec i s = .next (bodyEnd s x (after x pl t)) := by
  rw [exec_ready _ hi hr, hp]

theorem wchg_ready (hr : Ready s x syncGrp { ss := [m.base.toNat, (dataS m).toNat], sd := [(dataS m).toNat, (dataS m).toNat + 1] } none)
    (hp : onePlace s x { memKind s x m false false with watch := true } (pathEa x.p m true) = .ok (pl, t)) :
    exec (.wchg m) s = .next (bodyEnd s x (wchgAt m x pl t)) :=
  place_ready (fun x => { memKind s x m false false with watch := true }) (fun x => pathEa x.p m true) (wchgAt m) hr rfl hp

variable (hl : placeLost t x.die pl = false)
include hl

theorem wchgAt_absent (ha : placeAbsent t pl = true) : wchgAt m x pl t = .error (.hold (parkAt t x (.absent pl))) := by
  rw [wchgAt, hl, ha]
  rfl

theorem wchgAt_waits (ha : placeAbsent t pl = false)
    (hw : 64 ≤ watches t x.die x.core ∨ mayRead t x m pl = false ∨ homeSilent t x.die pl = true) : wchgAt m x pl t = .error (.hold t) := by
  have hwait : (64 ≤ watches t x.die x.core || !mayRead t x m pl || homeSilent t x.die pl) = true := by
    simpa [or_assoc] using hw
  rw [wchgAt, hl, ha, hwait]
  rfl

/-- A `wchg` that waits for nothing reads its line. -/
theorem wchgAt_reads (ha : placeAbsent t pl = false) (hw : watches t x.die x.core < 64) (hm : mayRead t x m pl = true)
    (hh : homeSilent t x.die pl = false) : wchgAt m x pl t = wchgRead m x pl t := by
  have hgo : (64 ≤ watches t x.die x.core || !mayRead t x m pl || homeSilent t x.die pl) = false := by simp [hm, hh, hw]
  rw [wchgAt, hl, ha, hgo]
  rfl

end Wchg

/-- Settles O32: each barrier word is a `barBody`, and `wchg` ends as it does at its place. -/
theorem waitingWordsComplete : Obligations.WaitingWordsComplete := by
  unfold Obligations.WaitingWordsComplete
  refine ⟨fun s x g b roles hx hr => ?_, fun s x m => ?_⟩
  · intro n named out
    have hbar := exec_bar b roles s
    have hbarr := exec_barr b roles s
    have hbarw := exec_barw b roles s
    refine ⟨fun hn => ?_, fun hn ho => ?_, fun hn ho ha => ⟨?_, ?_, ?_⟩, fun hn ho ha => ⟨?_, fun t ht => ⟨?_, ?_⟩, fun ht => ?_⟩⟩
    · exact List.forall_mem_cons.mpr ⟨bar_unnamed hx hr hbar hn, List.forall_mem_cons.mpr ⟨bar_unnamed hx hr hbarr hn,
        List.forall_mem_singleton.mpr (bar_unnamed hx hr hbarw hn)⟩⟩
    · exact List.forall_mem_cons.mpr ⟨bar_waits hx hr hbar hn ho, List.forall_mem_cons.mpr ⟨bar_waits hx hr hbarr hn ho,
        List.forall_mem_singleton.mpr (bar_waits hx hr hbarw hn ho)⟩⟩
    · exact record_parks hx hr hbar hn ho ha
    · exact record_parks hx hr hbarr hn ho ha
    · rw [bar_acts hx hr hbarw hn ho, if_pos ha, bodyEnd_ok]
    · rw [bar_acts hx hr hbarw hn ho, if_neg (Bool.eq_false_iff.mp ha), bodyEnd_ok]
    · exact record_records hx hr hbarr hn ho ha ht
    · exact record_records hx hr hbar hn ho ha ht
    · exact List.forall_mem_cons.mpr ⟨record_refused hx hr hbar hn ho ha ht,
        List.forall_mem_singleton.mpr (record_refused hx hr hbarr hn ho ha ht)⟩
  · intro d n hr pl t hp hl
    rw [wchg_ready hr hp]
    refine ⟨fun ha => by rw [wchgAt_absent hl ha, bodyEnd_hold], fun ha hw => by rw [wchgAt_waits hl ha hw, bodyEnd_hold],
      fun ha hw hm hh => ?_⟩
    intro r want
    rw [wchgAt_reads hl ha hw hm hh, wchgRead]
    refine ⟨fun hc => ?_, fun hc hv => ?_, fun hc hv => ?_⟩
    · rw [if_pos hc, bodyEnd_ok]
    · rw [if_neg (Bool.eq_false_iff.mp hc), if_pos hv, bodyEnd_hold]
    · rw [if_neg (Bool.eq_false_iff.mp hc), if_neg hv, bodyEnd_ok]

end Sys2Proof.Machine
end

section
/-! Matrix words (O33): each is one `matBody` under the matrix rule, whose operands the statement's alignments admit. -/
namespace Sys2Proof.Machine

section MatrixWords
variable {s b : State} {x : Ex} {g : Group} {u : Use}

/-- Values that share an alignment, as the pairs that `misaligned` reads (R238). -/
theorem aligned_pairs {l : List W64} {n : Nat} (h : ∀ v ∈ l, v.toNat % n = 0) :
    ∀ e ∈ l.map (fun v => (v, n)), e.1.toNat % e.2 = 0 := List.forall_mem_map.mpr h

/-- A count below 2^24 raises no ILLEGAL (R236). -/
theorem loopIll_none {sk : SReg} (hr : Ready s x matRule u none) (hk : (rdS x.p sk).toNat < 2 ^ 24) : loopIll s sk = none := by
  rw [loopIll, curEx_ready hr]
  exact if_neg (Nat.not_le.mpr hk)

/-- An `mloop` whose count is admitted is issued under the matrix rule as it stands. -/
theorem exec_mloop {zd : BitVec 5} {sa sb sk : SReg} {strm : BitVec 2} {ta tb : MatTy} {mx : Bool} (hl : loopIll s sk = none) :
    exec (.mloop zd sa sb sk strm ta tb mx) s = issue s matRule
      { ss := triple sa ++ triple sb ++ (if mx then triple sk else [sk.toNat]) } none
      (matBody s strm zd (.mloop ta tb mx) anyTile
        (fun p => (tripleWords p sa).map (fun v => (v, segAlign ta)) ++ (tripleWords p sb).map fun v => (v, segAlign tb))
        (fun p => tripleWords p sa) (fun p => tripleWords p sb) (fun p => if mx then tripleWords p sk else [rdS p sk])) := by
  show execMloop zd sa sb sk strm ta tb mx s = _
  rw [execMloop, hl]
  rfl

variable (hx : x.g = some g) (hb : binding s g = some b)
include hx hb

/-- A ready word whose body is a `matBody` of aligned values and an admitted tile queues its operation with its words, or waits. -/
theorem matWord_queues {i : Instr} {zd : BitVec 5} {strm : BitVec 2} {kind : MatKind} {bad : Ex → Group → Bool}
    {vals : Path → List (W64 × Nat)} {a c k : Path → List W64} {as cs ks : List W64} (hr : Ready s x matRule u none)
    (hi : exec i s = issue s matRule u none (matBody s strm zd kind bad vals a c k))
    (hv : ∀ e ∈ vals x.p, e.1.toNat % e.2 = 0) (ht : bad x g = false) (ha : a x.p = as) (hc : c x.p = cs) (hk : k x.p = ks) :
    (streamLen b g strm.toNat < 8 → exec i s = .next (advance (pushOp b x g strm.toNat kind zd as cs ks) x)) ∧
    (8 ≤ streamLen b g strm.toNat → exec i s = .next b) := by
  subst ha hc hk
  rw [hi]
  exact matrix_word hx hb hr hv ht

end MatrixWords

/-- Settles O33: a data operation by `matWord_queues`, an `mloop` once its count is admitted; `mresume` has its own body. -/
theorem matrixWordsComplete : Obligations.MatrixWordsComplete := by
  unfold Obligations.MatrixWordsComplete
  intro s b x g zd sa sb sk strm ty ta tb rm mx ovf scale sig discard hx hb p three regs at' sound
  refine ⟨fun hr => ?mzero, fun ha hr => ?mld, fun ha hc hr => ?mma, fun ha hc hk hr => ?mloop, fun ha hv ht hr => ?mst,
    fun hr => ?mresume⟩
  case mzero => exact matWord_queues hx hb hr rfl (List.forall_mem_nil _) rfl rfl rfl rfl
  case mld => exact matWord_queues hx hb hr rfl (aligned_pairs ha) rfl rfl rfl rfl
  case mma =>
    exact matWord_queues hx hb hr rfl (List.forall_mem_append.mpr ⟨aligned_pairs ha, aligned_pairs hc⟩) rfl rfl rfl rfl
  case mloop =>
    exact matWord_queues hx hb hr (exec_mloop (loopIll_none hr hk))
      (List.forall_mem_append.mpr ⟨aligned_pairs ha, aligned_pairs hc⟩) rfl rfl rfl rfl
  case mst =>
    have hsig : ∀ e ∈ if sig then [(rdS p sb, 8)] else [], e.1.toNat % e.2 = 0 := by
      cases sig with
      | false => exact List.forall_mem_nil _
      | true => exact List.forall_mem_singleton.mpr (hv rfl)
    exact matWord_queues hx hb hr rfl (List.forall_mem_append.mpr ⟨aligned_pairs ha, hsig⟩) ht rfl rfl rfl
  case mresume =>
    rw [exec_ready _ (show exec (.mresume strm discard) s = issue s matRule {} none _ from rfl) hr, withGroup_some hx, hb, bodyEnd_ok]

end Sys2Proof.Machine
end

section
/-! Queue words (O35): a run of `qpop` by what it meets at its queue's head, the other words by their cases. -/
namespace Sys2Proof.Machine

/-! ### One turn of `qpop` (R274) -/

section Turn
variable {x : Ex} {die n : Nat} {bound : Option Nat} {next : State → Pop} {q : Queue} {raw : List Byte} {s u : State}

/-- The words of a packet that `qpop` delivers. -/
def deliveredWords (raw : List Byte) : List W64 := (List.range 16).map fun k => BitVec.ofNat 64 (le raw (8 * k) 8)

/-- What a turn does once its packet is consumed: it performs it where it can, and goes on or delivers it. -/
def popConsumed (next : State → Pop) (x : Ex) (q : Queue) (raw : List Byte) (c : State) : Pop :=
  let t := le raw 0 1
  match (if t = 0 ∨ t = 2 ∨ t = 4 ∨ t = 5 then performSimple c q raw else .ok c) with
  | .error (s, f) => .trap (concern s x (q.r + 1)) f
  | .ok s => if t = 0 ∨ t = 4 ∨ t = 5 then next s else .done s (BitVec.ofNat 64 (q.r + 1)) (some (deliveredWords raw))

/-- What a turn does with a packet that the kicks cover. -/
def popPacket (next : State → Pop) (x : Ex) (die : Nat) (q : Queue) (raw : List Byte) (s : State) : Pop :=
  match packetErr raw with
  | some off =>
    .done (haltQueue (queueRecord s die q.qid 0x30 (q.r + 1) 0 (BitVec.ofNat 64 (1 + 256 * off))) die q.qid) (BitVec.allOnes 64) none
  | none =>
    if !mayStart q (le raw 1 1) then .done s 0 none
    else if le raw 0 1 = 4 ∧ (stillOut s x ∨ tlWaits s die q.pasid (BitVec.ofNat 64 (le raw 24 8)) (queueSecure s q)) then .hold s
    else popConsumed next x q raw (consume s q raw)

/-- What a turn does at its queue. -/
def popQueue (next : State → Pop) (x : Ex) (die : Nat) (q : Queue) (s : State) : Pop :=
  if q.r = q.w then .done s 0 none
  else if q.halted then .done s (BitVec.allOnes 64) none
  else match packetAt s q with
    | .error (.ats, va) => .hold (askAts s x va false)
    | .error (.silent, _) => .hold s
    | .error (.trap t, _) => .trap (concern s x (q.r + 1)) t
    | .ok (none, s) => .done s 0 none
    | .ok (some raw, s) => popPacket next x die q raw s

theorem popLoop_unbound (s : State) : popLoop x die none (n + 1) s = .done s 0 none := rfl

/-- A turn at a bound queue, found again once its WAITGE has been tested. -/
theorem popLoop_bound (h : (bound.bind fun b => queue? (((bound.bind fun b => queue? s die b).map (waitgeTest s)).getD s) die b) = some q) :
    popLoop x die bound (n + 1) s = popQueue (popLoop x die bound n) x die q
      (modQueue (((bound.bind fun b => queue? s die b).map (waitgeTest s)).getD s) die q.qid fun q => { q with kicked := false }) := by
  rw [popLoop]
  simp only [h]
  rfl

theorem popQueue_empty (h : q.r = q.w) : popQueue next x die q s = .done s 0 none := if_pos h

theorem popQueue_halted (h : q.r ≠ q.w) (hh : q.halted = true) : popQueue next x die q s = .done s (BitVec.allOnes 64) none := by
  rw [popQueue, if_neg h, if_pos hh]

section Live
variable (h : q.r ≠ q.w) (hh : q.halted = false)
include h hh

theorem popQueue_trap {f : Trap} {va : W64} (hp : packetAt s q = .error (.trap f, va)) :
    popQueue next x die q s = .trap (concern s x (q.r + 1)) f := by
  rw [popQueue, if_neg h, if_neg (Bool.eq_false_iff.mp hh), hp]

theorem popQueue_uncovered (hp : packetAt s q = .ok (none, u)) : popQueue next x die q s = .done u 0 none := by
  rw [popQueue, if_neg h, if_neg (Bool.eq_false_iff.mp hh), hp]

theorem popQueue_packet (hp : packetAt s q = .ok (some raw, u)) : popQueue next x die q s = popPacket next x die q raw u := by
  rw [popQueue, if_neg h, if_neg (Bool.eq_false_iff.mp hh), hp]

end Live

theorem popPacket_malformed {off : Nat} (h : packetErr raw = some off) : popPacket next x die q raw s =
    .done (haltQueue (queueRecord s die q.qid 0x30 (q.r + 1) 0 (BitVec.ofNat 64 (1 + 256 * off))) die q.qid) (BitVec.allOnes 64) none := by
  rw [popPacket, h]

theorem popPacket_early (h : packetErr raw = none) (hm : mayStart q (le raw 1 1) = false) :
    popPacket next x die q raw s = .done s 0 none := by
  simp only [popPacket, h, hm, Bool.not_false, if_true]

section Started
variable (h : packetErr raw = none) (hm : mayStart q (le raw 1 1) = true)
include h hm

theorem popPacket_waits (ht : le raw 0 1 = 4)
    (hw : stillOut s x = true ∨ tlWaits s die q.pasid (BitVec.ofNat 64 (le raw 24 8)) (queueSecure s q) = true) :
    popPacket next x die q raw s = .hold s := by
  simp only [popPacket, h, hm, Bool.not_true, Bool.false_eq_true, if_false]
  exact if_pos ⟨ht, hw⟩

theorem popPacket_consumes (hw : le raw 0 1 = 4 → stillOut s x = false ∧
      tlWaits s die q.pasid (BitVec.ofNat 64 (le raw 24 8)) (queueSecure s q) = false) :
    popPacket next x die q raw s = popConsumed next x q raw (consume s q raw) := by
  simp only [popPacket, h, hm, Bool.not_true, Bool.false_eq_true, if_false]
  refine if_neg fun ⟨ht, ho⟩ => ?_
  simp [hw ht] at ho

end Started

/-! ### What becomes of a consumed packet (R258, R271, R274) -/

/-- A packet that `qpop` performs itself is followed by the next one. -/
theorem popConsumed_next (ht : le raw 0 1 = 0 ∨ le raw 0 1 = 4 ∨ le raw 0 1 = 5) (hp : performSimple s q raw = .ok u) :
    popConsumed next x q raw s = next u := by
  have hs : le raw 0 1 = 0 ∨ le raw 0 1 = 2 ∨ le raw 0 1 = 4 ∨ le raw 0 1 = 5 := ht.imp_right .inr
  simp only [popConsumed, if_pos hs, hp, if_pos ht]

/-- A packet whose checks fail traps. -/
theorem popConsumed_trap {f : Trap} (ht : le raw 0 1 = 2 ∨ le raw 0 1 = 4 ∨ le raw 0 1 = 5)
    (hp : performSimple s q raw = .error (u, f)) :
    popConsumed next x q raw s = .trap (concern u x (q.r + 1)) f := by
  simp only [popConsumed, if_pos (Or.inr ht), hp]

/-- A packet for the thread is delivered. -/
theorem popConsumed_delivers (h0 : le raw 0 1 ≠ 0) (h4 : le raw 0 1 ≠ 4) (h5 : le raw 0 1 ≠ 5)
    (hp : le raw 0 1 = 2 → performSimple s q raw = .ok s) :
    popConsumed next x q raw s = .done s (BitVec.ofNat 64 (q.r + 1)) (some (deliveredWords raw)) := by
  have hn : ¬ (le raw 0 1 = 0 ∨ le raw 0 1 = 4 ∨ le raw 0 1 = 5) := by simp [h0, h4, h5]
  by_cases h2 : le raw 0 1 = 2
  · simp only [popConsumed, if_pos (Or.inr (Or.inl h2) : le raw 0 1 = 0 ∨ _), hp h2, if_neg hn]
  · have hs : ¬ (le raw 0 1 = 0 ∨ le raw 0 1 = 2 ∨ le raw 0 1 = 4 ∨ le raw 0 1 = 5) := by simp [h0, h2, h4, h5]
    simp only [popConsumed, if_neg hs, if_neg hn]

theorem performSimple_nop (ht : le raw 0 1 = 0) : performSimple s q raw = .ok (settleQueue s q.die q.qid) := by
  simp only [performSimple, ht]

theorem performSimple_signal (ht : le raw 0 1 = 4)
    (hs : tlSignal s q.die q.pasid (BitVec.ofNat 64 (le raw 24 8)) (BitVec.ofNat 64 (le raw 32 8)) (queueSecure s q) = .ok u) :
    performSimple s q raw = .ok (settleQueue u q.die q.qid) := by
  simp only [performSimple, ht, hs]

theorem performSimple_signal_fails {f : Trap} (ht : le raw 0 1 = 4)
    (hs : tlSignal s q.die q.pasid (BitVec.ofNat 64 (le raw 24 8)) (BitVec.ofNat 64 (le raw 32 8)) (queueSecure s q) = .error f) :
    performSimple s q raw = .error (s, f) := by
  simp only [performSimple, ht, hs]

theorem performSimple_waitge (ht : le raw 0 1 = 5) (hw : waitgeCheck s q (BitVec.ofNat 64 (le raw 24 8)) = none) :
    performSimple s q raw = .ok (((queue? s q.die q.qid).map (waitgeTest s)).getD s) := by
  simp only [performSimple, ht, hw]

theorem performSimple_waitge_fails {f : Trap} (ht : le raw 0 1 = 5) (hw : waitgeCheck s q (BitVec.ofNat 64 (le raw 24 8)) = some f) :
    performSimple s q raw = .error (s, f) := by
  simp only [performSimple, ht, hw]

/-- The check of a packet for the thread when it is consumed: a COPY's timeline (log entry 27). -/
def deliveryCheck (s : State) (q : Queue) (raw : List Byte) : Option Trap :=
  if le raw 0 1 = 2 ∧ le raw 8 8 ≠ 0 then waitgeCheck s q (BitVec.ofNat 64 (le raw 8 8)) true else none

/-- The timeline that a COPY packet checks. -/
theorem deliveryCheck_copy (ht : le raw 0 1 = 2) :
    (if le raw 8 8 = 0 then none else waitgeCheck s q (BitVec.ofNat 64 (le raw 8 8)) true) = deliveryCheck s q raw := by
  by_cases h : le raw 8 8 = 0 <;> simp [deliveryCheck, ht, h]

theorem performSimple_copy (ht : le raw 0 1 = 2) (hc : deliveryCheck s q raw = none) : performSimple s q raw = .ok s := by
  simp only [performSimple, ht, deliveryCheck_copy ht, hc]

theorem performSimple_copy_fails {f : Trap} (ht : le raw 0 1 = 2) (hc : deliveryCheck s q raw = some f) :
    performSimple s q raw = .error (s, f) := by
  simp only [performSimple, ht, deliveryCheck_copy ht, hc]

/-- Only a COPY packet's check can fail. -/
theorem copy_of_deliveryCheck {f : Trap} (hc : deliveryCheck s q raw = some f) : le raw 0 1 = 2 := by
  by_contra h
  rw [deliveryCheck, if_neg fun hn => h hn.1] at hc
  cases hc

end Turn

/-! ### The word `qpop` -/

section Qpop
variable {s : State} {x : Ex} {t : QThread} {sd sb : SReg}

/-- How `qpop` ends after its run. -/
def popEnd (x : Ex) (t : QThread) (sd sb : SReg) : Pop → State
  | .hold u => u
  | .trap u f => raiseOn u x.who f x.p.pc
  | .done u v none => advance (setS u x sb v) x
  | .done u v (some l) =>
    let m := modPath u x.who x.p.pid fun p => l.zipIdx.foldl (fun p e => wrS p (sd.toNat + e.2) e.1) p
    advance (setS (modQt m t.die t.t fun q => { q with popped := some v.toNat }) x sb v) x

theorem withThread_some (ht : thread s x = some t) (f : Ex → QThread → Except Stop State) : withThread s f x = f x t := by
  rw [withThread, ht]

/-- The turns that a run of `qpop` may take. -/
theorem popFuel (o : Option Queue) : (o.map fun q => q.w - q.r + 1).getD 1 = (o.map fun q => q.w - q.r).getD 0 + 1 := by
  cases o <;> rfl

/-- `qpop` makes its run and ends as the run does. -/
theorem qpop_ready (ht : thread s x = some t)
    (hr : Ready s x (ruleQ true) { sd := sb.toNat :: (List.range 16).map fun k => sd.toNat + k } none) :
    exec (.qpop sd sb) s =
      .next (popEnd x t sd sb (popLoop x t.die t.bound (((boundQueue s t).map fun q => q.w - q.r + 1).getD 1) s)) := by
  rw [exec_ready _ (show exec (.qpop sd sb) s = issue s (ruleQ true) _ none _ from rfl) hr, withThread_some ht]
  cases boundQueue s t with
  | none =>
    dsimp only [Option.map_none, Option.getD_none]
    rcases popLoop x t.die t.bound 1 s with ⟨u, v, _ | l⟩ | ⟨u, f⟩ | u <;> rfl
  | some q =>
    dsimp only [Option.map_some, Option.getD_some]
    rcases popLoop x t.die t.bound (q.w - q.r + 1) s with ⟨u, v, _ | l⟩ | ⟨u, f⟩ | u <;> rfl

end Qpop

/-! ### Packets closed and grids launched (R275, R276) -/

section Close
variable {s : State} {x : Ex} {t : QThread} {sa sb : SReg} {cause : BitVec 8} {irq : Bool} (ht : thread s x = some t)
  (hr : Ready s x (ruleQ true) { ss := [sa.toNat, sb.toNat, sb.toNat + 1] } none)
include ht hr

theorem qack_unopened (h : openPacket s t (rdS x.p sa) = none) :
    exec (.qack sa sb cause irq) s = .next (raiseOn s x.who { cause := .illegal } x.p.pc) := by
  rw [exec_ready _ (show exec (.qack sa sb cause irq) s = issue s (ruleQ true) _ none _ from rfl) hr, withThread_some ht, h]
  rfl

variable {q : Queue} {p : Packet} (hp : openPacket s t (rdS x.p sa) = some (q, p))
include hp

theorem qack_waits (hc : cause = 0) (ho : stillOut s x = true) : exec (.qack sa sb cause irq) s = .next s := by
  rw [exec_ready _ (show exec (.qack sa sb cause irq) s = issue s (ruleQ true) _ none _ from rfl) hr, withThread_some ht, hp]
  dsimp only
  rw [if_pos hc, if_pos ho]
  rfl

theorem qack_completes (hc : cause = 0) (ho : stillOut s x = false) : exec (.qack sa sb cause irq) s =
    .next (advance (settleQueue (leavePacket (modPacket s q.die q.qid p.seq fun p =>
      { p with closed := true, acked := some (rdS x.p sb, rdSk x.p sb 1, irq) }) t p.seq) q.die q.qid) x) := by
  rw [exec_ready _ (show exec (.qack sa sb cause irq) s = issue s (ruleQ true) _ none _ from rfl) hr, withThread_some ht, hp]
  dsimp only
  rw [if_pos hc, if_neg (Bool.eq_false_iff.mp ho)]
  rfl

theorem qack_halts (hc : cause ≠ 0) : exec (.qack sa sb cause irq) s =
    .next (advance (haltQueue (queueRecord (leavePacket (modPacket s q.die q.qid p.seq fun p =>
      { p with closed := true, never := true }) t p.seq) q.die q.qid cause.toNat p.seq 0 (if cause = 0x31#8 then p.status else 0)) q.die q.qid)
      x) := by
  rw [exec_ready _ (show exec (.qack sa sb cause irq) s = issue s (ruleQ true) _ none _ from rfl) hr, withThread_some ht, hp]
  dsimp only
  rw [if_neg hc]
  rfl

end Close

section Launch
variable {s : State} {x : Ex} {t : QThread} {sd sa sb : SReg} (ht : thread s x = some t)
  (hr : Ready s x { ruleQ false with q := !(curUser s && sb != 0) }
    { ss := sbNamed s sb ++ (List.range 16).map (fun k => sa.toNat + k), sd := [sd.toNat] } none)
include ht hr

theorem launch_unattributed (h : attributed s x t sb = none) :
    exec (.launch sd sa sb) s = .next (raiseOn s x.who { cause := .illegal } x.p.pc) := by
  rw [exec_ready _ (show exec (.launch sd sa sb) s = issue s _ _ none _ from rfl) hr, withThread_some ht, h]
  rfl

variable {q : Queue} {pk : Packet} (hp : attributed s x t sb = some (q, pk))
include hp

theorem launch_waits (ho : stillOut s x = true) : exec (.launch sd sa sb) s = .next s := by
  rw [exec_ready _ (show exec (.launch sd sa sb) s = issue s _ _ none _ from rfl) hr, withThread_some ht, hp]
  dsimp only
  rw [if_pos ho]
  rfl

/-- A launch that waits for nothing answers a failing check's status, or hands its grid over. -/
theorem launch_checked (ho : stillOut s x = false) {e : Nat ⊕ (Packet46 × Desc)} {u : State}
    (hc : launchCheck (releaseBy s x.die .sys) x (((List.range 16).map fun k => toBytes 8 (rdSk x.p sa k).toNat).flatten) = .ok (e, u)) :
    exec (.launch sd sa sb) s = .next (advance (e.elim
      (fun st => setS (modPacket u q.die q.qid pk.seq fun p => { p with status := BitVec.ofNat 64 st }) x sd (BitVec.ofNat 64 st))
      fun g => setS (startGrid u q pk.seq g.1 g.2) x sd 0) x) := by
  rw [exec_ready _ (show exec (.launch sd sa sb) s = issue s _ _ none _ from rfl) hr, withThread_some ht, hp]
  dsimp only
  rw [if_neg (Bool.eq_false_iff.mp ho), hc]
  cases e <;> rfl

end Launch

/-! ### Interrupts and sleep (R277, R278) -/

section Interrupts
variable {s : State} {x : Ex} {t : QThread} (ht : thread s x = some t)
include ht

theorem irqBody_waits (f : State → Ex → QThread → Except Stop State) (ho : stillOut s x = true) :
    irqBody s f x = .error (.hold s) := by
  rw [irqBody, withThread_some ht, if_pos ho]

theorem irqBody_acts (f : State → Ex → QThread → Except Stop State) (ho : stillOut s x = false) :
    irqBody s f x = f (releaseBy s x.die .sys) x t := by
  rw [irqBody, withThread_some ht, if_neg (Bool.eq_false_iff.mp ho)]

end Interrupts

theorem toMailbox_room {s u : State} {x : Ex} {t : QThread} {v : W64} (h : mailboxPush s t.die v (t.bound.getD 0) t.t = some u) :
    toMailbox s x t v = .ok (advance u x) := by rw [toMailbox, h]

theorem toMailbox_full {s : State} {x : Ex} {t : QThread} {v : W64} (h : mailboxPush s t.die v (t.bound.getD 0) t.t = none) :
    toMailbox s x t v = .error (.hold s) := by rw [toMailbox, h]

section Sleep
variable {s : State} {x : Ex} {t : QThread} {sd : SReg} (ht : thread s x = some t) (hr : Ready s x (ruleQ true) { sd := [sd.toNat] } none)
include ht hr

theorem qsleep_sleeps (h : t.arrived = 0) :
    exec (.qsleep sd) s = .next (modQt s t.die t.t fun q => { q with asleep := some sd.toNat }) := by
  rw [exec_ready _ (show exec (.qsleep sd) s = issue s (ruleQ true) _ none _ from rfl) hr, withThread_some ht, if_pos h]
  rfl

theorem qsleep_returns (h : t.arrived ≠ 0) : exec (.qsleep sd) s = .next (wakeThread s x t sd.toNat) := by
  rw [exec_ready _ (show exec (.qsleep sd) s = issue s (ruleQ true) _ none _ from rfl) hr, withThread_some ht, if_neg h]
  rfl

end Sleep

/-- Settles O35: each word by its cases, and `qpop` by the turns of its run. -/
theorem queueWordsComplete : Obligations.QueueWordsComplete := by
  unfold Obligations.QueueWordsComplete
  refine ⟨fun s x t sd sa sb cause irq ht => ?words, fun s x t sd sb ht hr => ?qpop, fun s s2 x die b n q raw => ?turn⟩
  case words =>
    intro v r
    refine ⟨fun hr => ?qack, fun hr => ?launch, fun hr => ?irqHost, fun hr => ?irqKern, fun hr => ?qsleep⟩
    case qack =>
      exact ⟨qack_unopened ht hr, fun q p hp => ⟨qack_waits ht hr hp, qack_completes ht hr hp, qack_halts ht hr hp⟩⟩
    case launch =>
      intro raw
      refine ⟨launch_unattributed ht hr, fun q pk hp => ⟨launch_waits ht hr hp, fun ho e u hc => ?_⟩⟩
      rw [launch_checked ht hr hp ho hc]
      cases e <;> rfl
    case irqHost =>
      rw [exec_ready _ (show exec (.irqHost sa) s = issue s (ruleQ false) _ none _ from rfl) hr]
      refine ⟨fun ho => by rw [irqBody_waits ht _ ho, bodyEnd_hold], fun ho => ?_⟩
      rw [irqBody_acts ht _ ho]
      refine ⟨fun b hb => by rw [hb, bodyEnd_ok], fun hb u hu => ?_⟩
      have hroom : toMailbox r x t v = .ok (advance u x) := toMailbox_room (by rw [hb]; exact hu)
      rw [hb]
      exact congrArg (fun e => Host.Outcome.next (bodyEnd s x e)) hroom
    case irqKern =>
      rw [exec_ready _ (show exec (.irqKern sa) s = issue s (ruleQ true) _ none _ from rfl) hr]
      refine ⟨fun ho => by rw [irqBody_waits ht _ ho, bodyEnd_hold], fun ho => ?_⟩
      rw [irqBody_acts ht _ ho]
      exact ⟨fun u hu => by rw [toMailbox_room hu, bodyEnd_ok], fun hu => by rw [toMailbox_full hu, bodyEnd_hold]⟩
    case qsleep => exact ⟨qsleep_sleeps ht hr, qsleep_returns ht hr⟩
  case qpop =>
    intro i loop
    have hend : ∀ {p : Pop}, loop = p → exec i s = .next (popEnd x t sd sb p) := fun h =>
      (qpop_ready ht hr).trans (congrArg (fun p => Host.Outcome.next (popEnd x t sd sb p)) h)
    refine ⟨fun u v h => hend h, fun u h => hend h, fun u f h => hend h, fun u v l h => hend h, ?_⟩
    have hloop : loop = popLoop x t.die t.bound (((boundQueue s t).map fun q => q.w - q.r).getD 0 + 1) s :=
      congrArg (fun n => popLoop x t.die t.bound n s) (popFuel _)
    intro w
    refine ⟨fun hb => hend (p := .done s 0 none) (hloop.trans (by rw [hb, popLoop_unbound])), fun q hq => ?_⟩
    intro s1
    have hturn := hloop.trans (popLoop_bound (s := s) hq)
    refine ⟨fun h => hend (hturn.trans (popQueue_empty h)), fun h hh => hend (hturn.trans (popQueue_halted h hh)),
      fun h hh f va hp => hend (hturn.trans (popQueue_trap h hh hp)), fun h hh s2 hp => hend (hturn.trans (popQueue_uncovered h hh hp)),
      fun h hh raw s2 hp => ?_⟩
    have hpacket := hturn.trans (popQueue_packet h hh hp)
    refine ⟨fun off he => hend (hpacket.trans (popPacket_malformed he)), fun he hm => hend (hpacket.trans (popPacket_early he hm)),
      fun he hm h0 h4 h5 => ?_⟩
    have hconsumed := hpacket.trans (popPacket_consumes he hm fun hs => absurd hs h4)
    refine ⟨fun f hf => ?_, fun hf => ?_⟩
    · have ht2 := copy_of_deliveryCheck hf
      exact hend (hconsumed.trans (popConsumed_trap (.inl ht2) (performSimple_copy_fails ht2 hf)))
    · exact hend (hconsumed.trans (popConsumed_delivers h0 h4 h5 fun ht2 => performSimple_copy ht2 hf))
  case turn =>
    intro w hq h hh hp he hm c va here on
    have hturn : here = popPacket on x die q raw s2 :=
      (popLoop_bound (bound := some b) (s := s) hq).trans (popQueue_packet h hh hp)
    refine ⟨fun h0 => ?nop, fun h4 hw => hturn.trans (popPacket_waits he hm h4 hw), fun h4 ho hw => ?signal, fun h5 => ?waitge⟩
    case nop =>
      rw [hturn, popPacket_consumes he hm fun h4 => by omega, popConsumed_next (.inl h0) (performSimple_nop h0)]
    case signal =>
      rw [popPacket_consumes he hm fun _ => ⟨ho, hw⟩] at hturn
      exact ⟨fun u hu => hturn.trans (popConsumed_next (.inr (.inl h4)) (performSimple_signal h4 hu)),
        fun f hf => hturn.trans (popConsumed_trap (.inr (.inl h4)) (performSimple_signal_fails h4 hf))⟩
    case waitge =>
      rw [popPacket_consumes he hm fun h4 => by omega] at hturn
      exact ⟨fun f hf => hturn.trans (popConsumed_trap (.inr (.inr h5)) (performSimple_waitge_fails h5 hf)),
        fun hf => hturn.trans (popConsumed_next (.inr (.inr h5)) (performSimple_waitge h5 hf))⟩

end Sys2Proof.Machine
end

section
/-! Kicks, device registers and the life of a queue (O45): an equation for each event, and what a binding leaves of its queue and
thread. -/
namespace Sys2Proof.Machine

/-! ### Kicks and the mailbox (R255, R257, R337) -/

section Kick
variable {s : State} {die qid : Nat} {q : Queue} {v : W64} (hq : queue? s die qid = some q)
include hq

theorem exec_kick_same (h : v.toNat = q.w) : exec (.kick die qid v) s = .next s := by
  show execKick die qid v s = _
  simp only [execKick, kickQueue, hq, if_pos h]

theorem exec_kick_inRange (hw : q.w < v.toNat) (hs : v.toNat ≤ q.r + q.size) :
    let kicked := modQueue s die qid fun q => { q with w := v.toNat, kicked := true }
    exec (.kick die qid v) s = .next (if q.bound.isSome then threadEvent kicked die qid 0 else emit kicked (.supervisorInterrupt die)) := by
  show execKick die qid v s = _
  simp only [execKick, kickQueue, hq, if_neg hw.ne', if_pos (And.intro hw hs)]

theorem exec_kick_outOfRange (h : v.toNat < q.w ∨ q.w < v.toNat ∧ q.r + q.size < v.toNat) :
    exec (.kick die qid v) s = .next (haltQueue (queueRecord s die qid 0x32 0 0 0) die qid) := by
  show execKick die qid v s = _
  have hne : ¬ v.toNat = q.w := by omega
  have hout : ¬ (q.w < v.toNat ∧ v.toNat ≤ q.r + q.size) := by omega
  simp only [execKick, kickQueue, hq, if_neg hne, if_neg hout]

end Kick

/-- What a device register gives its reader is not poisoned. -/
theorem answerRead_clean (s : State) (l : List Byte) : answerRead s (cleanBytes l) = emit s (.readData l false) := by
  have hc : (cleanBytes l).any (fun e => e.2) = false := by simp [cleanBytes]
  rw [answerRead, cleanBytes_fst, hc]

/-! ### Creation, binding and unbinding (R257, R269 to R273, R338) -/

theorem exec_queueCreate_free {s : State} {die qid pasid : Nat} {desc : List W64} {c : Context} (hd : dieUp s die = true) (hn : qid < 65536)
    (hq : queue? s die qid = none) (hc : ctx? s pasid = some c) (hg : goingAway s pasid = false) (hl : desc.length = 8)
    (ho : descriptorOk s die pasid desc = true) :
    exec (.queueCreate die qid pasid desc) s = .next { s with queues := s.queues ++ [newQueue die qid pasid desc] } := by
  show execQueueCreate die qid pasid desc s = _
  rw [execQueueCreate, hd, decide_eq_false (Nat.not_le.mpr hn), hq, hc, hg, hl, ho]
  rfl

theorem queue?_key {s : State} {d k : Nat} {q : Queue} (h : queue? s d k = some q) : q.die = d ∧ q.qid = k := by
  simpa [queue?] using List.find?_some h

/-- A queue after a change of that queue. -/
theorem queue?_modQueue_self {s : State} {d k : Nat} {q : Queue} (f : Queue → Queue) (hf : ∀ q, (f q).die = q.die ∧ (f q).qid = q.qid)
    (h : queue? s d k = some q) : queue? (modQueue s d k f) d k = some (f q) := by
  rw [queue?, modQueue_queues, find?_modWhere _ _ _ _ (by simp [hf])]
  have key : (q.die == d && q.qid == k) = true := List.find?_some (p := fun x : Queue => x.die == d && x.qid == k) h
  rw [show s.queues.find? (fun x => x.die == d && x.qid == k) = some q from h, Option.map_some, if_pos key]

/-- A Q thread after a change of that thread. -/
theorem qt?_modQt_self {s : State} {d k : Nat} {t : QThread} (f : QThread → QThread) (hf : ∀ t, (f t).die = t.die ∧ (f t).t = t.t)
    (h : qt? s d k = some t) : qt? (modQt s d k f) d k = some (f t) := by
  rw [qt?_modQt s d k f hf, h, Option.map_some, if_pos (qt?_key h)]

section Bind
variable {s : State} {die t qid cap ccx : Nat} {header : W64} {q : Queue} {th : QThread}

theorem boundThread_starts (q : Queue) (cap ccx : Nat) (p : Path) (h : th.path = none) : (boundThread q th cap ccx p).path = some p := by
  simp only [boundThread, h]

theorem boundThread_goesOn (q : Queue) (cap ccx : Nat) (p : Path) {r : Path} (h : th.path = some r) :
    (boundThread q th cap ccx p).path = some r ∧ (boundThread q th cap ccx p).events.getLsbD 7 = true := by
  simp only [boundThread, h]
  exact ⟨trivial, by simp⟩

/-- What a binding sets whether or not the thread runs a program. -/
theorem boundThread_sets (q : Queue) (th : QThread) (cap ccx : Nat) (p : Path) :
    let u := boundThread q th cap ccx p
    (u.die = th.die ∧ u.t = th.t) ∧ u.bound = some q.qid ∧ u.cap = cap ∧ u.ccx = ccx ∧ u.pasid = q.pasid := by
  unfold boundThread
  cases th.path <;> exact ⟨⟨rfl, rfl⟩, rfl, rfl, rfl, rfl⟩

/-- The path on which a thread's dispatch program begins (R270). -/
def dispatchPath (s : State) (die : Nat) (header : W64) : Path := { newPath s.freshId header 1 (clk s die) with sys := true }

/-- The state in which a thread has been bound. -/
def boundState (s : State) (die t qid cap ccx : Nat) (q : Queue) (header : W64) : State :=
  modQt (modQueue (assignCcx (fresh s).2 die ccx q.pasid) die qid fun q => { q with bound := some t, cap }) die t
    fun th => boundThread q th cap ccx (dispatchPath s die header)

variable (hq : queue? s die qid = some q) (ht : qt? s die t = some th)
include hq ht

theorem exec_queueBind_idle (hd : dieUp s die = true) (hb : q.bound = none) (hi : th.idle = true) (hp : cap ≤ q.prio)
    (hc : ccxFree s die ccx q.pasid = true) (hg : goingAway s q.pasid = false) :
    exec (.queueBind die t qid cap ccx header) s = .next (boundState s die t qid cap ccx q header) := by
  show execQueueBind die t qid cap ccx header s = _
  simp only [execQueueBind, hq, ht, hd, hb, hi, hc, hg, decide_eq_false (Nat.not_lt.mpr hp)]
  rfl

omit ht in
theorem queue?_boundState : queue? (boundState s die t qid cap ccx q header) die qid = some { q with bound := some t, cap } :=
  queue?_modQueue_self (s := assignCcx (fresh s).2 die ccx q.pasid) (fun q => { q with bound := some t, cap }) (fun _ => ⟨rfl, rfl⟩) hq

omit hq in
theorem qt?_boundState : qt? (boundState s die t qid cap ccx q header) die t = some (boundThread q th cap ccx (dispatchPath s die header)) :=
  qt?_modQt_self (s := modQueue (assignCcx (fresh s).2 die ccx q.pasid) die qid fun q => { q with bound := some t, cap }) _
    (fun th => (boundThread_sets q th cap ccx _).1) ht

end Bind

theorem exec_queueUnbind_bound {s : State} {die t b : Nat} {th : QThread} (ht : qt? s die t = some th) (hb : th.bound = some b) :
    exec (.queueUnbind die t) s = .next (modQt (modQueue s die b fun q => { q with bound := none }) die t
      fun th => { th with bound := none, popped := none, events := th.events ||| 0x80 }) := by
  show execQueueUnbind die t s = _
  simp only [execQueueUnbind, unbind, ht, Option.bind_some, hb]
  rfl

/-! ### Restarts and packets for a guest (R339, R343, R356) -/

theorem exec_queueRestart_halted {s : State} {die qid ridx : Nat} {q : Queue} (hq : queue? s die qid = some q) (hh : q.halted = true)
    (hr : q.r ≤ ridx) (hw : ridx ≤ q.w) (hg : goingAway s q.pasid = false) :
    let u := modQueue s die qid fun x =>
      { x with halted := false, r := ridx, packets := x.packets ++ (if q.r < ridx then [skipped (q.r + 1)] else []) }
    let w := if q.r < ridx then (tryWrite u q q.ridxva (toBytes 8 ridx)).getD u else u
    exec (.queueRestart die qid ridx) s =
      .next (if ridx = q.w then w else if q.bound.isSome then threadEvent w die qid 0 else emit w (.supervisorInterrupt die)) := by
  show execQueueRestart die qid ridx s = _
  simp only [execQueueRestart, hq, hh, hg, decide_eq_false (Nat.not_lt.mpr hr), decide_eq_false (Nat.not_lt.mpr hw)]
  rfl

theorem exec_guestPacket_up {s : State} {die qid seq : Nat} {q : Queue} {p : Packet} {g : Guest} (ho : openOf s die qid seq 6 = some (q, p))
    (hk : guest? s (word p.data 0).toNat = some g) (hu : g.up = true) (hf : g.fenced = false) (hn : p.guest = none) :
    let k := (word p.data 0).toNat
    exec (.guestPacket die qid seq) s =
      .next (emit (modGuest (modPacket s die qid seq fun p => { p with guest := some k }) k fun g => { g with packets := g.packets ++ [(die, qid, seq)] })
        (.guest k ([BitVec.ofNat 64 q.pasid, BitVec.ofNat 64 seq] ++ payload p))) := by
  show execGuestPacket die qid seq s = _
  simp only [execGuestPacket, ho, hk, hu, hf, hn]
  rfl

/-- Settles O45: each event by its own equation; a binding by its queue and thread in the state that it leaves. -/
theorem queueEventsComplete : Obligations.QueueEventsComplete := by
  unfold Obligations.QueueEventsComplete
  intro s die qid t seq ridx cap ccx pasid off v header desc wide
  refine ⟨fun q hq => ⟨exec_kick_same hq, exec_kick_inRange hq, exec_kick_outOfRange hq⟩, rfl, fun h => ?_, fun h => ?_, ?_,
    fun c hd hn hq hc hg hl ho => ?create, fun q th hq ht hd hb hi hp hc hg => ?bind, fun th b => exec_queueUnbind_bound,
    fun q => exec_queueRestart_halted, fun q p g => exec_guestPacket_up⟩
  · exact congrArg Host.Outcome.next (if_pos h)
  · exact congrArg Host.Outcome.next (if_neg (Bool.eq_false_iff.mp h))
  · exact congrArg Host.Outcome.next (answerRead_clean _ _)
  case create =>
    exact ⟨_, newQueue die qid pasid desc, exec_queueCreate_free hd hn hq hc hg hl ho, rfl, rfl, rfl, rfl, rfl, rfl, rfl, rfl, rfl, rfl,
      rfl, rfl, rfl, rfl, rfl, rfl, rfl⟩
  case bind =>
    obtain ⟨-, hbound, hcap, hccx, hpasid⟩ := boundThread_sets q th cap ccx (dispatchPath s die header)
    rw [(queue?_key hq).2] at hbound
    exact ⟨_, _, _, exec_queueBind_idle hq ht hd hb hi hp hc hg, queue?_boundState hq, qt?_boundState ht, rfl, hbound, hcap, hccx, hpasid,
      fun h => ⟨_, boundThread_starts q cap ccx _ h, rfl, rfl, rfl⟩, fun p h => boundThread_goesOn q cap ccx _ h⟩

end Sys2Proof.Machine
end

section
/-! The return from a handler level (O19) and the copy words (O36). -/
namespace Sys2Proof.Machine

/-! ### Return from a handler (R283, R305, R308) -/

/-- The interrupted path goes on with the handler's scalar registers. -/
theorem resumePath_view (now : Nat) (ok : Bool) (f : Frame) (h q : Path) : (resumePath now ok f h q).view = h.view := by
  unfold resumePath
  dsimp only
  split
  · rfl
  · split
    · exact stepPath_view ..
    · rfl

/-- The interrupted path stands at the resume point; behind its trapping word only if it stood at that word, or at a header. -/
theorem resumePath_pc (now : Nat) (ok : Bool) {f : Frame} (h : Path) {q : Path}
    (hq : f.resume = q.pc ∨ f.resume ≠ f.pc + 8 ∨ q.atHdr = true ∨ q.pc = f.pc) : (resumePath now ok f h q).pc = f.resume := by
  unfold resumePath
  dsimp only
  split
  case isTrue hpc => exact hpc.symm
  case isFalse hpc =>
    split
    case isTrue hstep =>
      obtain ⟨hnext, hblock⟩ := hstep
      have hat : q.pc = f.pc := by
        rcases hq with hq | hq | hq | hq
        · exact absurd hq hpc
        · exact absurd hnext hq
        · simp [hq] at hblock
        · exact hq
      rw [stepPath_pc, hnext]
      exact congrArg (· + 8) hat
    case isFalse => rfl

/-- A group after its handler's path has left the level (R305): the stack and the trap registers that the frame kept, and the frames below. -/
def leaveFrame (s : State) (p : Path) (f : Frame) (fs : List Frame) (g : Group) : Group :=
  { g with stack := f.saved.modPid f.pid (resumePath (clk s g.die) (headerAt s g (f.pc + 8)) f p), frames := fs, regs := f.old }

section Leave
variable {s : State} {g : Group} {p : Path} {f : Frame} {fs : List Frame} (hf : g.frames = f :: fs)
include hf

/-- A return with a lane missing, with another path or join, or to no word is ILLEGAL (R283, R308). -/
theorem leaveHandler_illegal
    (h : ¬((p.mask &&& f.lanes = f.lanes ∧ g.stack.paths.length = 1 ∧ g.stack.rest = []) ∧ f.resume.toNat % 8 = 0)) :
    leaveHandler s g p = .error { cause := .illegal } := by
  simp only [leaveHandler, hf]
  split
  · rfl
  · rename_i hwhole
    simp only [not_or, not_not] at hwhole
    exact if_pos fun halign => h ⟨hwhole, halign⟩

/-- A whole return to a word takes the frame off and settles the group (R305). -/
theorem leaveHandler_whole (h : p.mask &&& f.lanes = f.lanes ∧ g.stack.paths.length = 1 ∧ g.stack.rest = [])
    (halign : f.resume.toNat % 8 = 0) :
    leaveHandler s g p = .ok (settle (modGrp s g.gid (leaveFrame s p f fs)) g.gid) := by
  obtain ⟨hlanes, hpaths, hrest⟩ := h
  simp only [leaveHandler, hf, hlanes, hpaths, hrest, halign, ne_eq, not_true_eq_false, or_self, if_false]
  rfl

end Leave

/-- Settles O19: by the checks of `leaveHandler`, and the branches of `resumePath`. -/
theorem handlerReturnRule : Obligations.HandlerReturnRule := by
  unfold Obligations.HandlerReturnRule
  intro s g p f fs gid hg hf whole
  refine ⟨fun h => ⟨_, leaveHandler_illegal hf h, rfl⟩, fun h halign => ?_⟩
  obtain rfl := grp?_gid hg
  obtain ⟨k, w, hs⟩ := grp?_settle (grp?_modGrp_self (leaveFrame s p f fs) (fun _ => rfl) hg)
  exact ⟨_, _, leaveHandler_whole hf h halign, hs, rfl, rfl, rfl, rfl, rfl, (onlyExecutors_modGrp ..).trans (onlyExecutors_settle ..),
    fun now ok q => ⟨resumePath_view .., resumePath_pc now ok p⟩⟩

/-! ### Copy words (R276, R279, R280, R282) -/

/-- Only a Q thread has a thread's state. -/
theorem who_of_thread {s : State} {x : Ex} {t : QThread} (h : thread s x = some t) : ∃ d n, x.who = .qthr d n := by
  unfold thread at h
  split at h
  · next d n hw => exact ⟨d, n, hw⟩
  · cases h

/-- The operation that a copy program runs as its own, for the operation at its context's head (R280). -/
def programCopy (s : State) (x : Ex) (kind : CopyKind) (sa : SReg) (o : CopyOp) : CopyOp :=
  newCopy s.freshId o.num kind (blockOf x.p sa (copyWords kind)) o.qid o.seq none (!x.user)

section CopyBody
variable {s : State} {x : Ex} {kind : CopyKind} {sd sa sb : SReg}

/-- The body on a Q thread whose packet is open waits for the thread's earlier writes, then hands the operation over (R280). -/
theorem copyBody_thread {t : QThread} {q : Queue} {p : Packet} (ht : thread s x = some t) (hp : attributed s x t sb = some (q, p)) :
    copyBody s kind sd sa sb x = if writesPending s x then .error (.hold s)
      else .ok (handCopy s x t q p kind sd (blockOf x.p sa (copyWords kind))) := by
  obtain ⟨d, n, hw⟩ := who_of_thread ht
  simp only [copyBody, hw]
  rw [withThread_some ht, hp]

/-- The body in a copy program makes the operation the program's own, and waits (R280). -/
theorem copyBody_program {d n : Nat} {c : CopyCtx} {o : CopyOp} (hw : x.who = .copyc d n) (hc : cc? s d n = some c)
    (ho : c.ops.head? = some o) :
    copyBody s kind sd sa sb x = .error (.hold (modCc s d n fun c => { c with inner := some (programCopy s x kind sa o) })) := by
  simp only [copyBody, hw, hc, Option.bind_some, ho]
  rfl

variable {i : Instr} {r : Rule} {u : Use} (hi : exec i s = issue s r u none (copyBody s kind sd sa sb)) (hr : Ready s x r u none)
include hi hr

/-- A copy word of a Q thread: it waits at the word, or its operation joins the copy context's queue. -/
theorem copyWord_thread {t : QThread} {q : Queue} {p : Packet} (ht : thread s x = some t) (hp : attributed s x t sb = some (q, p)) :
    (writesPending s x = true → exec i s = .next s) ∧
    (writesPending s x = false → exec i s = .next (handCopy s x t q p kind sd (blockOf x.p sa (copyWords kind)))) := by
  rw [exec_ready _ hi hr, copyBody_thread ht hp]
  exact ⟨fun h => by rw [if_pos h, bodyEnd_hold], fun h => by rw [if_neg (Bool.eq_false_iff.mp h), bodyEnd_ok]⟩

/-- A copy word of a copy program: its operation becomes the program's own. -/
theorem copyWord_program {d n : Nat} {c : CopyCtx} {o : CopyOp} (hw : x.who = .copyc d n) (hc : cc? s d n = some c)
    (ho : c.ops.head? = some o) :
    exec i s = .next (modCc s d n fun c => { c with inner := some (programCopy s x kind sa o) }) := by
  rw [exec_ready _ hi hr, copyBody_program hw hc ho, bodyEnd_hold]

end CopyBody

/-- Settles O36: every copy word runs `copyBody`, by its thread's packet or its program's operation. -/
theorem copyWordsComplete : Obligations.CopyWordsComplete := by
  unfold Obligations.CopyWordsComplete
  intro s x sd sa sb gran frame args use onQ inner onCopy
  have hthread : ∀ {i : Instr} {k : CopyKind} {c : Bool}, exec i s = copyOp s k c sd sa sb → onQ i k c :=
    fun hi hr t q p ht hp => copyWord_thread hi hr ht hp
  have hprogram : ∀ {i : Instr} {k : CopyKind}, exec i s = copyOp s k true sd sa sb → onCopy i k := by
    rintro i k hi hr rfl rfl d n c o hw hc ho
    exact copyWord_program hi hr hw hc ho
  exact ⟨⟨hthread rfl, hthread rfl, hthread rfl, hthread rfl, hthread rfl, hthread rfl⟩,
    ⟨hprogram rfl, hprogram rfl, hprogram rfl, hprogram rfl, hprogram rfl⟩,
    fun hr d n c o hw hc ho => copyWord_program (sb := 0) (sd := 0) rfl hr hw hc ho⟩

end Sys2Proof.Machine
end

section
/-! The entry of a handler level (O18). -/
namespace Sys2Proof.Machine

/-- The entries at the keys below a bound are read as before. -/
theorem sget_filter_lt {α : Type} (d : α) (m : SMap α) {n k : Nat} (h : k < n) :
    sget d (m.filter fun e => decide (e.1 < n)) k = sget d m k := by
  induction m with
  | nil => rfl
  | cons e m ih =>
    obtain ⟨a, v⟩ := e
    rw [List.filter_cons]
    split
    · simp only [sget, ih]
    · next ha =>
      have hne : a ≠ k := fun hak => ha (decide_eq_true (hak ▸ h))
      simp only [sget, if_neg hne, ih]

/-- Settles O18: `enterAt` changes one group, whose frame, trap registers and path are written out in it; the path's registers are those
of the interrupted path below the group's budget. -/
theorem handlerEntryRule : Obligations.HandlerEntryRule := by
  unfold Obligations.HandlerEntryRule
  intro s g p t pc resume h num gid hg
  obtain rfl := grp?_gid hg
  exact ⟨_, _, _, grp?_modGrp_self (s := (fresh s).2) _ (fun _ => rfl) hg, rfl, rfl, rfl, rfl, rfl, rfl, rfl, rfl, rfl, rfl, rfl, rfl, rfl,
    rfl, fun r hr => sget_filter_lt 0 p.view hr, rfl, rfl, rfl, rfl, rfl, rfl⟩

end Sys2Proof.Machine
end

section
/-! No step stops (O57): a word that an executor issues, and every event, answers a next state. -/
namespace Sys2Proof.Machine

/-! ### The issues that several words share -/

section Issued
variable {s : State} {e : Issuer} (hc : s.cur = some e)
include hc

theorem scalarOp_next (ss : List SReg) (sd : SReg) (f : Path → W64) : ∃ t, scalarOp s ss sd f = .next t := issue_next hc _ _ _ _

theorem scalarArith_next (ty : IntTy) (sd sa sb : SReg) (sat : Bool) (f : Int → Int → Int) : ∃ t, scalarArith s ty sd sa sb sat f = .next t :=
  scalarOp_next hc _ _ _

theorem scalarBits_next (ty : IntTy) (sd sa sb : SReg) (f : Nat → Nat → Nat) : ∃ t, scalarBits s ty sd sa sb f = .next t :=
  scalarOp_next hc _ _ _

theorem scalarShift_next (ty : IntTy) (sd sa sb : SReg) (f : Nat → Nat → Nat → Nat) : ∃ t, scalarShift s ty sd sa sb f = .next t :=
  scalarOp_next hc _ _ _

theorem scalarImm_next (sd sa : SReg) (imm : BitVec 33) (f : W64 → W64 → W64) : ∃ t, scalarImm s sd sa imm f = .next t :=
  scalarOp_next hc _ _ _

theorem scalarDiv_next (la : BitVec 4) (ty : IntTy) (sd sa sb : SReg) (f : Int × Int → Int) : ∃ t, scalarDiv s la ty sd sa sb f = .next t :=
  issue_next hc _ _ _ _

/-- A cache word, with an index that its executor may name or not (R211). -/
theorem cacheIssue_next (m : MemArg) (kind : OpKind) : ∃ t, cacheIssue s m kind = .next t := by
  unfold cacheIssue
  split <;> exact issue_next hc _ _ _ _

/-- A trapped encoding, which counts before its issue or does not (R73). -/
theorem trapped_next (r : Rule) (u : Use) (h : Option Head) (opc : W64) : ∃ t, trapped s r u h opc = .next t := by
  unfold trapped
  refine issue_next (e := e) ?_ _ _ _ _
  split
  · split <;> exact hc
  · exact hc

theorem noInstruction_next : ∃ t, noInstruction s = .next t := issue_next hc _ _ _ _

end Issued

/-- An abort of a copy context finds a stopped operation, or changes nothing (R343). -/
theorem execCopyContextAbort_next (die k : Nat) (s : State) : ∃ t, execCopyContextAbort die k s = .next t := by
  unfold execCopyContextAbort
  split
  · exact ⟨_, rfl⟩
  · split
    · split <;> exact ⟨_, rfl⟩
    · exact ⟨_, rfl⟩

/-! ### Every operation and event -/

/-- An event has a next state, and so has a word while an executor issues. -/
theorem exec_next {i : Instr} {s : State} (h : encode i = none ∨ s.cur ≠ none) : ∃ t, exec i s = .next t := by
  have issuer : encode i ≠ none → ∃ e, s.cur = some e := fun hi => Option.ne_none_iff_exists'.mp (h.resolve_left hi)
  cases i with
  | sadd | ssub | smul | smulh | smin | smax =>
    obtain ⟨e, hc⟩ := issuer nofun
    unfold exec
    exact scalarArith_next hc _ _ _ _ _ _
  | sand | sor | sxor | sandn =>
    obtain ⟨e, hc⟩ := issuer nofun
    unfold exec
    exact scalarBits_next hc _ _ _ _ _
  | sshl | sshr | ssra | srot =>
    obtain ⟨e, hc⟩ := issuer nofun
    unfold exec
    exact scalarShift_next hc _ _ _ _ _
  | sclz | spopc | sbfe | sbfi | ssel | scmp | smov | sli | sliHi =>
    obtain ⟨e, hc⟩ := issuer nofun
    unfold exec
    exact scalarOp_next hc _ _ _
  | saddImm | smulImm | sandImm | sorImm | sxorImm | sshlImm | sshrImm | ssraImm =>
    obtain ⟨e, hc⟩ := issuer nofun
    unfold exec
    exact scalarImm_next hc _ _ _ _
  | sdiv | srem =>
    obtain ⟨e, hc⟩ := issuer nofun
    unfold exec
    exact scalarDiv_next hc _ _ _ _ _ _
  | cwb | cinv =>
    obtain ⟨e, hc⟩ := issuer nofun
    exact cacheIssue_next hc _ _
  | barAll | ldcst =>
    obtain ⟨e, hc⟩ := issuer nofun
    exact trapped_next hc _ _ _ _
  | txfetch | mmaT8 | unassignedOpcode =>
    obtain ⟨e, hc⟩ := issuer nofun
    exact noInstruction_next hc
  | vfcvt h dst src =>
    obtain ⟨e, hc⟩ := issuer (by cases src <;> nofun)
    exact issue_next hc _ _ _ _
  | br | brm | jmpi | call | calli | ret | exit | spawn | yield | nop | trap | brk | mfs | mts | vadd | vsub | vmul | vmulh | vmad | vand
  | vor | vxor | vandn | vnot | vshl | vshr | vsra | vmin | vmax | vabs | vneg | vclz | vpopc | vbrev | vbfe | vbfi | vaddc | vsubb | vclmul
  | vmov | vli | vsel | vbcast | vlane | vaddImm | vsubImm | vmulImm | vandImm | vorImm | vxorImm | vshlImm | vshrImm | vsraImm | vminImm
  | vmaxImm | vfadd | vfsub | vfmul | vffma | vfmin | vfmax | vfabs | vfneg | vfsgn | vfrcp | vfrsq | vfsqrt | vfexp2 | vflog2 | vfsin
  | vfcos | vffract | vfround | vfclass | vfcmp | vicvt | vfscale | vpack | vunpack | vpackDense | vunpackDense | vdot | vcmp | mand | mor
  | mxor | mandn | mnot | mmov | mpopc | mffs | mfls | mfroms | mtos | voteAny | voteAll | voteBallot | voteUni | shflIdx | shflUp
  | shflDown | shflXor | vscan | vred | vappend | vreadl | vwritel | ld | ldx | st | stx | lds | sts | ldm | bcp | pf | atom | cas | satom
  | wchg | fence | fenceSc | tsig | twait | tread | bar | barr | barw | mzero | mld | mma | mloop | mst | mresume | rinit | racq | rrel
  | rstat | qpop | qack | launch | irqHost | irqKern | qsleep | cpy | cpyProg | cpy2d | cpyg | cpys | cfill | reform | tret | tlbw | tlbinv
  | lprinv | ovld | pgrab | ats | pri | dmsg | hlt | vdp4E4m3 | vfdivF32Fast =>
    obtain ⟨e, hc⟩ := issuer nofun
    unfold exec
    exact issue_next hc _ _ _ _
  | copyContextAbort die k => exact execCopyContextAbort_next die k s
  | _ => exact ⟨_, rfl⟩

theorem exec_next_of_cur {i : Instr} {s : State} {e : Issuer} (hc : s.cur = some e) : ∃ t, exec i s = .next t :=
  exec_next (.inr (Option.ne_none_iff_exists'.mpr ⟨e, hc⟩))

theorem exec_next_of_isEvent {i : Instr} (s : State) (hi : isEvent i = true) : ∃ t, exec i s = .next t :=
  exec_next (.inl (Option.isNone_iff_eq_none.mp hi))

/-! ### One step of the module -/

theorem issueWord_next (s : State) (x : Ex) : ∃ t, issueWord s x = .next t := by
  unfold issueWord
  split
  · exact ⟨_, rfl⟩
  · exact ⟨_, rfl⟩
  · split
    · exact ⟨_, rfl⟩
    · exact exec_next_of_cur rfl

theorem runExecutor_next (s : State) (e : Issuer) : ∃ t, runExecutor s e = .next t := by
  unfold runExecutor
  split
  · exact ⟨_, rfl⟩
  split
  · exact ⟨_, rfl⟩
  split
  · exact ⟨_, rfl⟩
  split
  · exact ⟨_, rfl⟩
  split
  · exact ⟨_, rfl⟩
  · exact issueWord_next s _

theorem actOnMessage_next (s : State) (die : Nat) : ∃ t, actOnMessage s die = .next t := by
  unfold actOnMessage
  split
  · exact ⟨_, rfl⟩
  · split <;> exact ⟨_, rfl⟩

theorem step_next (s : State) : SafeStep s := by
  unfold SafeStep step
  split
  · exact ⟨_, rfl⟩
  · exact runExecutor_next _ _
  · split
    · exact ⟨_, rfl⟩
    · exact runExecutor_next _ _
  · split
    · next h => exact exec_next_of_isEvent _ (Bool.and_elim_left h)
    · exact ⟨_, rfl⟩
  · split
    · exact ⟨_, rfl⟩
    · exact actOnMessage_next _ _
  · exact ⟨_, rfl⟩
  · exact ⟨_, rfl⟩
  · exact ⟨_, rfl⟩

/-- Settles O57: only an issue without an issuer stops; a step names one before it runs a word, and an event needs none. -/
theorem noStepStops : Obligations.NoStepStops := by
  unfold Obligations.NoStepStops
  exact ⟨fun _ _ _ hc => exec_next_of_cur hc, step_next⟩

end Sys2Proof.Machine
end

section
/-! The messages of Quadrille (O49): a die acts on the next message of the one order, and announces heartbeats and losses. -/
namespace Sys2Proof.Machine

/-! ### The next message of a die (R346, R347) -/

section Next
variable {s : State} {die : Nat} {d : Die} (hd : die? s die = some d)
include hd

/-- A die at the end of the order has no message to take. -/
theorem nextMsg_end (h : s.quad[d.qpos]? = none) : nextMsg s die = none := by
  simp only [nextMsg, hd, h, Option.map_none, ite_self]

variable (hl : d.lost = false)
include hl

/-- A die that its own DIE_DOWN precedes takes no message. -/
theorem nextMsg_down (h : (s.quad.take (d.qpos + 1)).any (fun m => msgKind m.2 == 6 && msgDie m.2 == die) = true) :
    nextMsg s die = none := by
  simp only [nextMsg, hd, hl, h, Bool.or_true, if_true]

/-- A die in service takes the message at its place in the order. -/
theorem nextMsg_up (h : (s.quad.take (d.qpos + 1)).any (fun m => msgKind m.2 == 6 && msgDie m.2 == die) = false) :
    nextMsg s die = (s.quad[d.qpos]?).map fun m => (d.qpos, m.1, m.2) := by
  simp only [nextMsg, hd, hl, h, Bool.or_self, Bool.false_eq_true, if_false]

end Next

/-- A DIE_DOWN that a die takes names another die. -/
theorem msgDie_ne {quad : List (Nat × List W64)} {q die sender : Nat} {m : List W64} (hq : quad[q]? = some (sender, m))
    (h : (quad.take (q + 1)).any (fun m => msgKind m.2 == 6 && msgDie m.2 == die) = false) (hk : msgKind m = 6) : msgDie m ≠ die := by
  intro hm
  have hin : (sender, m) ∈ quad.take (q + 1) := by
    refine List.mem_of_getElem? (i := q) ?_
    rw [List.getElem?_take_of_lt (Nat.lt_succ_self q), hq]
  have := List.any_eq_false.mp h _ hin
  simp [hk, hm] at this

/-- The state in which a die acts on the message at a place: the place is passed, and the sender's release acquired. -/
def messageTaken (s : State) (die i : Nat) : State := acquirePkg (modDie s die fun d => { d with qpos := i + 1 }) die

section Take
variable {s : State} {die : Nat} {ok : Nat → Bool} {f : State → Nat → Nat → List W64 → State}

theorem takeMsg_none (hn : nextMsg s die = none) : takeMsg s die ok f = s := by simp only [takeMsg, hn]

variable {i sender : Nat} {m : List W64} (hn : nextMsg s die = some (i, sender, m)) (hk : ok (msgKind m) = true)
include hn hk

/-- A message that follows its sender's DIE_DOWN is passed over. -/
theorem takeMsg_discarded (hs : discarded s i sender = true) : takeMsg s die ok f = messageTaken s die i := by
  simp only [takeMsg, hn, hk, hs, Bool.not_true, Bool.false_eq_true, if_false, if_true]
  rfl

/-- A message of a sender in service is acted on. -/
theorem takeMsg_act (hs : discarded s i sender = false) : takeMsg s die ok f = f (messageTaken s die i) i sender m := by
  simp only [takeMsg, hn, hk, hs, Bool.not_true, Bool.false_eq_true, if_false]
  rfl

omit hk in
/-- A message of the kind that its event takes is acted on. -/
theorem takeMsg_kind {k : Nat} (hk : msgKind m = k) (hs : discarded s i sender = false) :
    takeMsg s die (fun j => j == k) f = f (messageTaken s die i) i sender m :=
  takeMsg_act hn (beq_iff_eq.mpr hk) hs

end Take

/-- A message that the rings take is sent. -/
theorem sendOr_some {s v : State} {r : Option State} (h : r = some v) : sendOr s r = v := by rw [sendOr, h, Option.getD_some]

/-- With no room in the rings the event changes nothing (R346; log entry 28). -/
theorem sendOr_none {s : State} {r : Option State} (h : r = none) : sendOr s r = s := by rw [sendOr, h, Option.getD_none]

/-! ### What a die does with a message (R295, R298, R299, R327, R328, R347, R348, R352, R353) -/

section Act
variable {s : State} {die i sender : Nat} {m : List W64} (hn : nextMsg s die = some (i, sender, m)) (hs : discarded s i sender = false)
include hn hs

theorem exec_map_now (hk : msgKind m = 1) (hid : (word m 3).toNat = 0) : exec (.map die) s =
    .next (modDie (writeReplica (messageTaken s die i) die (msgPasid m) (msgByte m) (word m 1) (word m 2)) die fun d =>
      { d with given := d.given.filter fun p => p != (msgPasid m, (word m 1).toNat / levelBytes (msgByte m)) }) :=
  congrArg Host.Outcome.next ((takeMsg_kind hn hk hs).trans (if_pos hid))

theorem exec_map_held (hk : msgKind m = 1) (hid : (word m 3).toNat ≠ 0) : exec (.map die) s =
    .next (modDie (messageTaken s die i) die fun d =>
      { d with held := d.held ++ [((word m 3).toNat, msgPasid m, msgByte m, word m 1, word m 2)] }) :=
  congrArg Host.Outcome.next ((takeMsg_kind hn hk hs).trans (if_neg hid))

theorem exec_prepare (hk : msgKind m = 2) : exec (.prepare die) s =
    .next (sendOr s (quadSend (prepareAt (messageTaken s die i) die sender m) die (ackMsg die 2 (word m 3).toNat))) :=
  congrArg Host.Outcome.next (takeMsg_kind hn hk hs)

/-- A COMMIT waits while an access uses what it removes (log entry 42). -/
theorem exec_commit_inUse (hk : msgKind m = 3)
    (hu : entryInUse (messageTaken s die i) die none (fun t => t.marks.contains (word m 3).toNat) (allTlbs (messageTaken s die i) die) = true) :
    exec (.commit die) s = .next s :=
  congrArg Host.Outcome.next ((takeMsg_kind hn hk hs).trans (if_pos hu))

theorem exec_commit_free (hk : msgKind m = 3)
    (hu : entryInUse (messageTaken s die i) die none (fun t => t.marks.contains (word m 3).toNat) (allTlbs (messageTaken s die i) die) = false) :
    exec (.commit die) s =
      .next (sendOr s (quadSend (commitAt (messageTaken s die i) die (word m 3).toNat) die (ackMsg die 3 (word m 3).toNat))) :=
  congrArg Host.Outcome.next ((takeMsg_kind hn hk hs).trans (if_neg (Bool.eq_false_iff.mp hu)))

theorem exec_ack (hk : msgKind m = 4) : exec (.ack die) s =
    .next (shootCheck (modShoot (messageTaken s die i) (word m 3).toNat fun h =>
      if h.sender = die ∧ h.phase = msgByte m then { h with acks := (msgDie m :: h.acks).dedup } else h) (word m 3).toNat) :=
  congrArg Host.Outcome.next (takeMsg_kind hn hk hs)

theorem exec_alloc (hk : msgKind m = 5) : exec (.alloc die) s = .next (allocAt (messageTaken s die i) die (msgPasid m) (word m 1)) :=
  congrArg Host.Outcome.next (takeMsg_kind hn hk hs)

theorem exec_dieDown (hk : msgKind m = 6) (hm : msgDie m ≠ die) : exec (.dieDown die) s =
    .next (dieDownAt (messageTaken s die i) die i (msgDie m)) :=
  congrArg Host.Outcome.next ((takeMsg_kind hn hk hs).trans (if_neg hm))

theorem exec_heartbeat (hk : msgKind m = 7) : exec (.heartbeat die) s =
    .next (modDie (messageTaken s die i) die fun d => { d with beats := sset 0 d.beats (msgDie m) (messageTaken s die i).now }) :=
  congrArg Host.Outcome.next (takeMsg_kind hn hk hs)

theorem exec_conn (hk : msgKind m = 8) {e : Die} (he : die? (messageTaken s die i) die = some e) :
    let t := sset 0 e.conn (msgByte m) (word m 1 &&& ~~~ 0xFF00000000#64)
    exec (.conn die) s = .next (if connOk (messageTaken s die i) die t then modDie (messageTaken s die i) die fun d => { d with conn := t }
      else messageTaken s die i) := by
  refine congrArg Host.Outcome.next ((takeMsg_kind hn hk hs).trans ?_)
  simp only [he]

theorem exec_route (hk : msgKind m = 9) : exec (.route die) s =
    .next (modDie (messageTaken s die i) die fun d => { d with routes := sset 0 d.routes ((word m 1).toNat % 8192) (word m 2) }) :=
  congrArg Host.Outcome.next (takeMsg_kind hn hk hs)

theorem exec_dieKernelMessage (hk : msgKind m = 0 ∨ 9 < msgKind m) : exec (.dieKernelMessage die) s = .next (messageTaken s die i) := by
  refine congrArg Host.Outcome.next (takeMsg_act hn ?_ hs)
  simpa only [Bool.or_eq_true, beq_iff_eq, decide_eq_true_eq] using hk

end Act

/-- A message event at a die with no message to take changes nothing. -/
theorem exec_message_none {s : State} {die : Nat} (hn : nextMsg s die = none) :
    ∀ i ∈ [Instr.map die, .prepare die, .commit die, .ack die, .alloc die, .dieDown die, .heartbeat die, .conn die, .route die,
      .dieKernelMessage die], exec i s = .next s := by
  simp only [List.forall_mem_cons, List.not_mem_nil, false_implies, implies_true, and_true]
  have hs : ∀ {ok f}, Host.Outcome.next (takeMsg s die ok f) = .next (φ := Fault) (ρ := Refusal) s := congrArg Host.Outcome.next (takeMsg_none hn)
  exact ⟨hs, hs, hs, hs, hs, hs, hs, hs, hs, hs⟩

/-! ### Heartbeats and losses (R327, R347) -/

section Beats
variable {s : State} {die : Nat} {d : Die} (hd : die? s die = some d)
include hd

theorem heartbeatSend_early (h : s.now < sget 0 d.beats (16 + die) + 1000 * Config.usCycles) : exec (.heartbeatSend die) s = .next s := by
  refine congrArg Host.Outcome.next ?_
  simp only [hd, h, decide_true, Bool.or_true, if_true]

theorem heartbeatTimeout_early {silent : Nat} (h : s.now < sget 0 d.beats silent + 10000 * Config.usCycles) :
    exec (.heartbeatTimeout die silent) s = .next s := by
  refine congrArg Host.Outcome.next ?_
  simp only [hd, h, decide_true, Bool.or_true, if_true]

variable (hl : d.lost = false)
include hl

theorem heartbeatSend_due (h : sget 0 d.beats (16 + die) + 1000 * Config.usCycles ≤ s.now) : exec (.heartbeatSend die) s =
    .next (sendOr s ((quadSend s die (msg8 (msgHead 7 0 0 die) 0 0 0)).map fun s =>
      modDie s die fun d => { d with beats := sset 0 d.beats (16 + die) s.now })) := by
  refine congrArg Host.Outcome.next ?_
  simp only [hd, hl, Nat.not_lt.mpr h, decide_false, Bool.or_self, Bool.false_eq_true, if_false]

theorem heartbeatTimeout_due {silent : Nat} (hne : die ≠ silent) (hu : dieUp s silent = true)
    (h : sget 0 d.beats silent + 10000 * Config.usCycles ≤ s.now) : exec (.heartbeatTimeout die silent) s = .next (declareLost s die silent) := by
  refine congrArg Host.Outcome.next ?_
  simp only [hd, hl, hu, beq_eq_false_iff_ne.mpr hne, Nat.not_lt.mpr h, decide_false, Bool.not_true, Bool.or_self, Bool.false_eq_true, if_false]

theorem dieFatalError_up : exec (.dieFatalError die) s = .next (declareLost s die die) := by
  have hu : dieUp s die = true := by simp only [dieUp, hd, hl, Bool.not_false]
  exact congrArg Host.Outcome.next (if_pos hu)

end Beats

/-- A die after one die has been changed. -/
theorem die?_modDie_self (s : State) (n : Nat) {f : Die → Die} (hf : ∀ d, (f d).die = d.die) : die? (modDie s n f) n = (die? s n).map f := by
  refine (find?_modWhere s.dies (fun x => x.die == n) (fun x => x.die == n) f fun d => by rw [hf]).trans (Option.map_congr fun d hd => ?_)
  exact if_pos (List.find?_some (p := fun x : Die => x.die == n) hd)

/-- A die that is lost is out of service. -/
theorem dieUp_lost (s : State) (n : Nat) : dieUp (modDie s n fun d => { d with lost := true }) n = false := by
  have h := die?_modDie_self s n (f := fun d => { d with lost := true }) fun _ => rfl
  rw [dieUp, h]
  cases die? s n <;> rfl

/-- A die that has stopped is out of service (R327). -/
theorem dieUp_stopDie (s : State) (n : Nat) : dieUp (stopDie s n) n = false :=
  dieUp_lost ((s.teams.filter fun t : Team => t.die == n && t.onCores).foldl (loseTeam n) s) n

section Declare
variable {s v : State} {sender d : Nat}

theorem declareLost_sent (h : quadSend (stopDie s d) sender (downMsg d) = some v) : declareLost s sender d = v := by
  simp only [declareLost, quadKeep, h, Option.getD_some]

theorem declareLost_kept (h : quadSend (stopDie s d) sender (downMsg d) = none) : declareLost s sender d =
    modDie (stopDie s d) sender fun e => { e with unsent := e.unsent ++ [downMsg d] } := by
  simp only [declareLost, quadKeep, h, Option.getD_none]

end Declare

/-- Settles O49: the message at the die's place is what `takeMsg` acts on, and a loss is what `declareLost` announces. -/
theorem messageEventsComplete : Obligations.MessageEventsComplete := by
  unfold Obligations.MessageEventsComplete
  intro s v die silent sender d m hd hl u id own
  have next : s.quad[d.qpos]? = some (sender, m) → own = false → nextMsg s die = some (d.qpos, sender, m) := fun hq ho => by
    rw [nextMsg_up hd hl ho, hq]
    rfl
  refine ⟨fun ho => exec_message_none (nextMsg_down hd hl ho), fun hq ho hs => ?_, fun hq ho hs hk => ?_, fun hq => ?_, fun hb hq => ?_,
    heartbeatSend_early hd, fun hne hu hb => ?_, heartbeatTimeout_early hd, ?_⟩
  · have hn := next hq ho
    refine ⟨exec_map_now hn hs, exec_map_held hn hs, fun hk hv => ?_, fun hk hv => ?_, fun hk hf => ⟨fun hv => ?_, fun hv => ?_⟩,
      exec_commit_inUse hn hs, exec_ack hn hs, exec_alloc hn hs, fun hk => exec_dieDown hn hs hk (msgDie_ne hq ho hk),
      exec_heartbeat hn hs, fun e hk he => exec_conn hn hs hk he, exec_route hn hs, exec_dieKernelMessage hn hs⟩
    · exact (exec_prepare hn hs hk).trans (congrArg Host.Outcome.next (sendOr_some hv))
    · exact (exec_prepare hn hs hk).trans (congrArg Host.Outcome.next (sendOr_none hv))
    · exact (exec_commit_free hn hs hk hf).trans (congrArg Host.Outcome.next (sendOr_some hv))
    · exact (exec_commit_free hn hs hk hf).trans (congrArg Host.Outcome.next (sendOr_none hv))
  · exact congrArg Host.Outcome.next (takeMsg_discarded (next hq ho) (beq_iff_eq.mpr hk) hs)
  · exact congrArg Host.Outcome.next (takeMsg_none (nextMsg_end hd hq))
  · rw [heartbeatSend_due hd hl hb, hq]
    rfl
  · rw [heartbeatTimeout_due hd hl hne hu hb]
    exact ⟨dieUp_stopDie s silent, fun h => congrArg Host.Outcome.next (declareLost_sent h),
      fun h => congrArg Host.Outcome.next (declareLost_kept h)⟩
  · rw [dieFatalError_up hd hl]
    exact ⟨dieUp_stopDie s die, fun h => congrArg Host.Outcome.next (declareLost_sent h),
      fun h => congrArg Host.Outcome.next (declareLost_kept h)⟩

end Sys2Proof.Machine
end
